-- ==== Sys2Proof/Word.lean ====
section
/-! DEFINITION. The words of the Kadan and their plainest arithmetic: bytes, 64-bit register words,
48-bit addresses, and the identifiers by which the manual numbers its parts (R6, R7, R11). -/

namespace Sys2Proof

/-- One byte of memory or of a packet. -/
abbrev Byte := BitVec 8

/-- A 64-bit register or instruction word. -/
abbrev Word := BitVec 64

/-- A 48-bit address, virtual or physical (R89, R103). -/
abbrev Addr := BitVec 48

/-- Physical core id 0-1151 (R6). -/
abbrev CoreId := Fin 1152

/-- Hardware thread of a core. -/
abbrev Thr := Fin 4

/-- Compute die CD0-CD3. -/
abbrev Die := Fin 4

/-- Cluster id 0-71 (R6). -/
abbrev Cluster := Fin 72

/-- PCI Express port. -/
abbrev Port := Fin 2

/-- Ring pair of a port. -/
abbrev Ring := Fin 8

/-- Image slot 0-15 (R458). -/
abbrev Slot := Fin 16

/-- Clock domain 0-13. -/
abbrev Dom := Fin 14

/-- DMA channel id, die x 32 + n (R376). -/
abbrev DmaCh := Fin 128

/-- Ceiling of a quotient of natural numbers. -/
def ceilDiv (a b : Nat) : Nat := (a + b - 1) / b

/-- The bytes of a number, least significant first (R13). -/
def toBytes : Nat → Nat → List Byte
  | 0, _ => []
  | n + 1, v => BitVec.ofNat 8 v :: toBytes n (v / 256)

/-- The number that bytes stand for, least significant first (R13). -/
def ofBytes : List Byte → Nat
  | [] => 0
  | b :: bs => b.toNat + 256 * ofBytes bs

/-- Sparse data by key, in one canonical form: keys strictly rising, and no entry equal to what an
unlisted key reads as. -/
abbrev Tab (α : Type) := List (Nat × α)

end Sys2Proof
end

