-- ==== Sys2Proof/Syntax.lean ====
section
/-! DEFINITION. The commands of the Kadan: one constructor for each row of the table of operations
and events, with the operands that the row needs. A core instruction carries the core, the thread
and its 64-bit instruction word. What the surroundings decide (a replica count, a temperature, the
bytes a host returns) is an operand. -/

namespace Sys2Proof

/-- One reading of a junction sensor (R525): die, sensor, reading in 0.125 degree units, failed. -/
structure SensorReading where
  die : Die
  n : Fin 80
  temp : BitVec 16
  failed : Bool
deriving DecidableEq, Repr

/-- Who writes or reads a control register. -/
inductive RegSource where
  | mgmt
  | host (p : Port)
  | core (c : CoreId) (t : Thr)
  | dma (ch : DmaCh)
  | debug
  /-- A host's configuration write of its port's function, the address being a number of `cfgWrite` (R440). -/
  | config (p : Port)
deriving DecidableEq, Repr

/-- An error that a read, a lookup or a write has found in the storage of a core or a slice (R311, R318, R332): a word of core memory or
pinned instruction memory, or of a slice, corrected or not; a line of a cache, with the bytes that an uncorrectable error hits; a
word of core memory or a slice (address / 8), or of pinned instruction memory, that can no longer be stored; a core whose memories
cannot be read at all. -/
inductive HwError where
  | coreWord (c : CoreId) (imem : Bool) (word : Nat) (corrected : Bool)
  | sliceWord (d : Die) (sl : Fin 32) (word : Nat) (corrected : Bool)
  | cacheLine (c : CoreId) (icache : Bool) (set : Fin 256) (way : Fin 4) (corrected : Bool) (bytes : BitVec 64)
  | storage (word : Nat)
  | imemStorage (c : CoreId) (word : Nat)
  | unreadable (c : CoreId)
deriving DecidableEq, Repr

/-- What a host's memory answers to a read by the module (R446). -/
inductive HostData where
  | data (bytes : List Byte)
  | unsupported
  | aborted
  | timeout
  | poisoned
deriving DecidableEq, Repr

/-- The completion of a module read or AtomicOp of the host window (R446). -/
inductive HostCompletion where
  | data (bytes : List Byte)
  | unsupported
  | aborted
  | poisoned
deriving DecidableEq, Repr

/-- The kind of a flit as an arbiter sees it (R79). -/
inductive FlitClass where
  | message
  | reserved
  | other
deriving DecidableEq, Repr

/-- One flit waiting at an input of an output port: its input, its class, the slot of its image
where the image is Guaranteed, and the message or the access it belongs to (R78, R79). -/
structure Flit where
  input : Nat
  cls : FlitClass
  slot : Option Slot
  msg : Option Nat
  txn : Option Nat
deriving DecidableEq, Repr

/-- A router output port or a crossbar port (R85). -/
inductive RPort where
  | router (k : Cluster) (port : Fin 32)
  | crossbar (d : Die) (port : Fin 64)
deriving DecidableEq, Repr

/-- Who waits: a thread, a DMA channel or a command ring (R369). -/
inductive Waiter where
  | thread (c : CoreId) (t : Thr)
  | dma (ch : DmaCh)
  | ring (p : Port) (r : Ring)
deriving DecidableEq, Repr

/-- The atomic operations of R119 and R162. -/
inductive AtomicOp where
  | add
  | fadd
  | min (signed : Bool)
  | max (signed : Bool)
  | fmin
  | fmax
  | swap
  | cas
deriving DecidableEq, Repr

/-- The two tile engines of a core (R258). -/
inductive Engine where
  | matrix
  | vector
deriving DecidableEq, Repr

/-- A tier controller: a near-tier channel 0-63 or spare NS0-NS3 (64-67), or a middle-tier package. -/
inductive TierCtl where
  | near (n : Fin 68)
  | middle (m : Fin 16)
deriving DecidableEq, Repr

/-- How a burst read back: clean, corrected or uncorrectable (R416, R429). -/
inductive BurstCheck where
  | clean
  | corrected
  | uncorrectable
deriving DecidableEq, Repr

/-- An SPDM endpoint: port 0, port 1 or SMBus (R495). -/
abbrev Endpoint := Fin 3

/-- An event code of the error log (R501). -/
abbrev ErrCode := BitVec 16

/-- The part an error-log entry names: source kind and source index (R501). -/
structure ErrSource where
  kind : Byte
  index : Nat
deriving DecidableEq, Repr

/-- The commands: one constructor for each row of the table. -/
inductive Instr where
  /-- GOV_WINDOW_END (R29). -/
  | govWindowEnd (counts : List Nat) (sensors : List SensorReading) (pin : Nat)
  /-- GUARANTEE_BREACH (R34). -/
  | guaranteeBreach (rail : Fin 76)
  /-- FMC_START (R24). -/
  | fmcStart (m : Fin 2)
  /-- FMC_DONE (R24). -/
  | fmcDone (m : Fin 2) (count : Nat)
  /-- FMC_TIMEOUT (R25). -/
  | fmcTimeout (m : Fin 2)
  /-- PWR_REQ_SUMMER (R41). -/
  | pwrReqSummer
  /-- PWR_REQ_AUTUMN (R38). -/
  | pwrReqAutumn
  /-- PWR_REQ_WINTER (R39). -/
  | pwrReqWinter
  /-- POWER_STATE_REACHED (R41). -/
  | powerStateReached
  /-- CLKD_OPP_WRITE (R44). -/
  | clkdOppWrite (n : Dom) (opp : Fin 8)
  /-- CLKD_SEQ_STEP_DONE (R43). -/
  | clkdSeqStepDone (n : Dom)
  /-- CLKD_SRC_WRITE (R47). -/
  | clkdSrcWrite (n : Dom) (src : Bool)
  /-- CLKD_SWITCH_DONE (R47). -/
  | clkdSwitchDone (n : Dom)
  /-- CLKD_LOOP_LOCK (R46). -/
  | clkdLoopLock (n : Dom)
  /-- CLOCK_SOURCE_LOST (R46). -/
  | clockSourceLost (n : Dom)
  /-- DOMAIN_WATCHDOG_EXPIRY (R49). -/
  | domainWatchdogExpiry (n : Dom)
  /-- CRYSTAL_STOPPED (R50). -/
  | crystalStopped
  /-- SUPPLY_WARNING (R52). -/
  | supplyWarning (vin : Nat)
  /-- SUPPLY_WARNING_CLEAR (R53). -/
  | supplyWarningClear (vin : Nat)
  /-- UNDERVOLTAGE_RESET (R54). -/
  | undervoltageReset (samples : List (BitVec 16))
  /-- OVERVOLTAGE_RESET (R54). -/
  | overvoltageReset (samples : List (BitVec 16))
  /-- RESTART_QUALIFIED (R56). -/
  | restartQualified
  /-- REGISTER_WRITE (R15). -/
  | registerWrite (src : RegSource) (addr : Nat) (data : Word) (four : Bool)
  /-- LOAD_IMAGE (R58). -/
  | loadImage (k : Nat) (bytes : HostData)
  /-- ADMISSION (R72). -/
  | admission
  /-- START (R86). -/
  | start (k : Nat)
  /-- INVOCATION_BEGIN (R86). -/
  | invocationBegin (slot : Slot)
  /-- START_FLOOR_TIMEOUT (R86). -/
  | startFloorTimeout (slot : Slot)
  /-- INVOCATION_END (R468). -/
  | invocationEnd (slot : Slot)
  /-- STOP (R469). -/
  | stop (k : Nat)
  /-- UNLOAD (R467). -/
  | unload (k : Nat)
  /-- PORT_GRANT (R79). -/
  | portGrant (port : RPort) (waiting : List Flit)
  /-- QUOTA_FRAME_END (R79). -/
  | quotaFrameEnd (port : RPort)
  /-- ATTACHMENT_FRAME_END (R76). -/
  | attachmentFrameEnd (port : RPort)
  /-- BAR2_READ (R443). -/
  | bar2Read (p : Port) (off : Nat) (len : Nat)
  /-- BAR2_WRITE (R443). -/
  | bar2Write (p : Port) (off : Nat) (data : List Byte) (poisoned : Bool)
  /-- BAR2_ATOMICOP (R443). -/
  | bar2Atomicop (p : Port) (off : Nat) (op : AtomicOp) (size : Fin 3) (v : Word) (cmp : Word)
  /-- HOME_READ (R122). -/
  | homeRead (id : Nat)
  /-- HOME_WRITE (R122). -/
  | homeWrite (id : Nat)
  /-- HOME_ATOMIC (R120). -/
  | homeAtomic (id : Nat)
  /-- ACCESS_RESPONSE (R125). -/
  | accessResponse (id : Nat)
  /-- REQUEST_TIMEOUT (R415). -/
  | requestTimeout (id : Nat)
  /-- PAGE_WALK (R108). -/
  | pageWalk (id : Nat)
  /-- PAGE_WALK_READ_DONE (R109). -/
  | pageWalkReadDone (id : Nat)
  /-- PAGE_IN_REPORT (R111). -/
  | pageInReport (who : Waiter)
  /-- PAGE_IN_DONE (R433). -/
  | pageInDone (slot : Slot) (vpn : Nat)
  /-- PAGE_OUT (R112). -/
  | pageOut (slot : Slot) (vpn : Nat)
  /-- TR_INV_ALL (R327). -/
  | trInvAll (c : CoreId)
  /-- TR_INV_ONE (R327). -/
  | trInvOne (c : CoreId) (vpn : Nat)
  /-- TR_INV_COMPLETE (R112). -/
  | trInvComplete (c : CoreId)
  /-- ADD (R155). -/
  | add (c : CoreId) (t : Thr) (w : Word)
  /-- SUB (R155). -/
  | sub (c : CoreId) (t : Thr) (w : Word)
  /-- MUL (R155). -/
  | mul (c : CoreId) (t : Thr) (w : Word)
  /-- MULH (R155). -/
  | mulh (c : CoreId) (t : Thr) (w : Word)
  /-- MULHU (R155). -/
  | mulhu (c : CoreId) (t : Thr) (w : Word)
  /-- DIV (R155). -/
  | div (c : CoreId) (t : Thr) (w : Word)
  /-- DIVU (R155). -/
  | divu (c : CoreId) (t : Thr) (w : Word)
  /-- REM (R155). -/
  | rem (c : CoreId) (t : Thr) (w : Word)
  /-- REMU (R155). -/
  | remu (c : CoreId) (t : Thr) (w : Word)
  /-- AND (R155). -/
  | and (c : CoreId) (t : Thr) (w : Word)
  /-- OR (R155). -/
  | or (c : CoreId) (t : Thr) (w : Word)
  /-- XOR (R155). -/
  | xor (c : CoreId) (t : Thr) (w : Word)
  /-- SHL (R155). -/
  | shl (c : CoreId) (t : Thr) (w : Word)
  /-- SHR (R155). -/
  | shr (c : CoreId) (t : Thr) (w : Word)
  /-- SAR (R155). -/
  | sar (c : CoreId) (t : Thr) (w : Word)
  /-- MIN (R155). -/
  | min (c : CoreId) (t : Thr) (w : Word)
  /-- MAX (R155). -/
  | max (c : CoreId) (t : Thr) (w : Word)
  /-- MINU (R155). -/
  | minu (c : CoreId) (t : Thr) (w : Word)
  /-- MAXU (R155). -/
  | maxu (c : CoreId) (t : Thr) (w : Word)
  /-- SLT (R155). -/
  | slt (c : CoreId) (t : Thr) (w : Word)
  /-- SLTU (R155). -/
  | sltu (c : CoreId) (t : Thr) (w : Word)
  /-- SEQ (R155). -/
  | seq (c : CoreId) (t : Thr) (w : Word)
  /-- SEL (R155). -/
  | sel (c : CoreId) (t : Thr) (w : Word)
  /-- POPC (R155). -/
  | popc (c : CoreId) (t : Thr) (w : Word)
  /-- CLZ (R155). -/
  | clz (c : CoreId) (t : Thr) (w : Word)
  /-- MOV (R155). -/
  | mov (c : CoreId) (t : Thr) (w : Word)
  /-- FADD (R156). -/
  | fadd (c : CoreId) (t : Thr) (w : Word)
  /-- FSUB (R156). -/
  | fsub (c : CoreId) (t : Thr) (w : Word)
  /-- FMUL (R156). -/
  | fmul (c : CoreId) (t : Thr) (w : Word)
  /-- FFMA (R156). -/
  | ffma (c : CoreId) (t : Thr) (w : Word)
  /-- FMIN (R304). -/
  | fmin (c : CoreId) (t : Thr) (w : Word)
  /-- FMAX (R304). -/
  | fmax (c : CoreId) (t : Thr) (w : Word)
  /-- FEQ (R303). -/
  | feq (c : CoreId) (t : Thr) (w : Word)
  /-- FLT (R303). -/
  | flt (c : CoreId) (t : Thr) (w : Word)
  /-- FLE (R303). -/
  | fle (c : CoreId) (t : Thr) (w : Word)
  /-- FCVT_S_W (R302). -/
  | fcvtSW (c : CoreId) (t : Thr) (w : Word)
  /-- FCVT_W_S (R301). -/
  | fcvtWS (c : CoreId) (t : Thr) (w : Word)
  /-- FABS (R156). -/
  | fabs (c : CoreId) (t : Thr) (w : Word)
  /-- FNEG (R291). -/
  | fneg (c : CoreId) (t : Thr) (w : Word)
  /-- ADDI (R157). -/
  | addi (c : CoreId) (t : Thr) (w : Word)
  /-- ANDI (R157). -/
  | andi (c : CoreId) (t : Thr) (w : Word)
  /-- ORI (R157). -/
  | ori (c : CoreId) (t : Thr) (w : Word)
  /-- XORI (R157). -/
  | xori (c : CoreId) (t : Thr) (w : Word)
  /-- SHLI (R157). -/
  | shli (c : CoreId) (t : Thr) (w : Word)
  /-- SHRI (R157). -/
  | shri (c : CoreId) (t : Thr) (w : Word)
  /-- SARI (R157). -/
  | sari (c : CoreId) (t : Thr) (w : Word)
  /-- LI (R157). -/
  | li (c : CoreId) (t : Thr) (w : Word)
  /-- LIH (R157). -/
  | lih (c : CoreId) (t : Thr) (w : Word)
  /-- SLTI (R157). -/
  | slti (c : CoreId) (t : Thr) (w : Word)
  /-- HADDR (R157). -/
  | haddr (c : CoreId) (t : Thr) (w : Word)
  /-- LD (R159). -/
  | ld (c : CoreId) (t : Thr) (w : Word)
  /-- ST (R159). -/
  | st (c : CoreId) (t : Thr) (w : Word)
  /-- LDU (R161). -/
  | ldu (c : CoreId) (t : Thr) (w : Word)
  /-- STU (R161). -/
  | stu (c : CoreId) (t : Thr) (w : Word)
  /-- PREF (R163). -/
  | pref (c : CoreId) (t : Thr) (w : Word)
  /-- CLEAN (R325). -/
  | clean (c : CoreId) (t : Thr) (w : Word)
  /-- INV (R325). -/
  | inv (c : CoreId) (t : Thr) (w : Word)
  /-- CLINV (R325). -/
  | clinv (c : CoreId) (t : Thr) (w : Word)
  /-- ICINV (R325). -/
  | icinv (c : CoreId) (t : Thr) (w : Word)
  /-- ATOMR (R162). -/
  | atomr (c : CoreId) (t : Thr) (w : Word)
  /-- ATOMP (R162). -/
  | atomp (c : CoreId) (t : Thr) (w : Word)
  /-- BR (R136). -/
  | br (c : CoreId) (t : Thr) (w : Word)
  /-- BEQ (R136). -/
  | beq (c : CoreId) (t : Thr) (w : Word)
  /-- BNE (R136). -/
  | bne (c : CoreId) (t : Thr) (w : Word)
  /-- BLT (R136). -/
  | blt (c : CoreId) (t : Thr) (w : Word)
  /-- BGE (R136). -/
  | bge (c : CoreId) (t : Thr) (w : Word)
  /-- BLTU (R136). -/
  | bltu (c : CoreId) (t : Thr) (w : Word)
  /-- BGEU (R136). -/
  | bgeu (c : CoreId) (t : Thr) (w : Word)
  /-- CALL (R178). -/
  | call (c : CoreId) (t : Thr) (w : Word)
  /-- JR (R164). -/
  | jr (c : CoreId) (t : Thr) (w : Word)
  /-- CALLR (R164). -/
  | callr (c : CoreId) (t : Thr) (w : Word)
  /-- RET (R178). -/
  | ret (c : CoreId) (t : Thr) (w : Word)
  /-- LOOPI (R169). -/
  | loopi (c : CoreId) (t : Thr) (w : Word)
  /-- LOOPR (R169). -/
  | loopr (c : CoreId) (t : Thr) (w : Word)
  /-- LEXIT (R171). -/
  | lexit (c : CoreId) (t : Thr) (w : Word)
  /-- REPI (R165). -/
  | repi (c : CoreId) (t : Thr) (w : Word)
  /-- REPR (R165). -/
  | repr (c : CoreId) (t : Thr) (w : Word)
  /-- REC (R174). -/
  | recWords (c : CoreId) (t : Thr) (w : Word)
  /-- REPLAY (R176). -/
  | replay (c : CoreId) (t : Thr) (w : Word)
  /-- PMOV (R142). -/
  | pmov (c : CoreId) (t : Thr) (w : Word)
  /-- PADDI (R142). -/
  | paddi (c : CoreId) (t : Thr) (w : Word)
  /-- PGET (R142). -/
  | pget (c : CoreId) (t : Thr) (w : Word)
  /-- NOP (R150). -/
  | nop (c : CoreId) (t : Thr) (w : Word)
  /-- MFENCE (R124). -/
  | mfence (c : CoreId) (t : Thr) (w : Word)
  /-- MFS (R183). -/
  | mfs (c : CoreId) (t : Thr) (w : Word)
  /-- MTS (R183). -/
  | mts (c : CoreId) (t : Thr) (w : Word)
  /-- IRL_CLEAR (R188). -/
  | irlClear (c : CoreId)
  /-- TRAP (R203). -/
  | trap (c : CoreId) (t : Thr) (w : Word)
  /-- BRK (R203). -/
  | brk (c : CoreId) (t : Thr) (w : Word)
  /-- RTE (R210). -/
  | rte (c : CoreId) (t : Thr) (w : Word)
  /-- TSTART (R198). -/
  | tstart (c : CoreId) (t : Thr) (w : Word)
  /-- TEXIT (R199). -/
  | texit (c : CoreId) (t : Thr) (w : Word)
  /-- RSPUSH (R178). -/
  | rspush (c : CoreId) (t : Thr) (w : Word)
  /-- RSPOP (R178). -/
  | rspop (c : CoreId) (t : Thr) (w : Word)
  /-- DCSW (R181). -/
  | dcsw (c : CoreId) (t : Thr) (w : Word)
  /-- INSTRUCTION_COMPLETE (R147). -/
  | instructionComplete (c : CoreId) (t : Thr) (k : Nat)
  /-- THREAD_SWITCH (R190). -/
  | threadSwitch (c : CoreId)
  /-- HSCD_EXPIRY (R194). -/
  | hscdExpiry (c : CoreId) (t : Thr)
  /-- EXCEPTION_ENTRY (R209). -/
  | exceptionEntry (c : CoreId) (t : Thr)
  /-- LOCKUP_SERVICE (R509). -/
  | lockupService (c : CoreId)
  /-- TCFG (R227). -/
  | tcfg (c : CoreId) (t : Thr) (w : Word)
  /-- TREL (R228). -/
  | trel (c : CoreId) (t : Thr) (w : Word)
  /-- TRELA (R228). -/
  | trela (c : CoreId) (t : Thr) (w : Word)
  /-- TSTAT (R229). -/
  | tstat (c : CoreId) (t : Thr) (w : Word)
  /-- TLD (R240). -/
  | tld (c : CoreId) (t : Thr) (w : Word)
  /-- TILE_ROW_ARRIVAL (R244). -/
  | tileRowArrival (id : Nat)
  /-- TST (R251). -/
  | tst (c : CoreId) (t : Thr) (w : Word)
  /-- TCTXS (R253). -/
  | tctxs (c : CoreId) (t : Thr) (w : Word)
  /-- TCTXR (R254). -/
  | tctxr (c : CoreId) (t : Thr) (w : Word)
  /-- MMA (R264). -/
  | mma (c : CoreId) (t : Thr) (w : Word)
  /-- MMAZ (R264). -/
  | mmaz (c : CoreId) (t : Thr) (w : Word)
  /-- MMAP (R269). -/
  | mmap (c : CoreId) (t : Thr) (w : Word)
  /-- MMAPZ (R269). -/
  | mmapz (c : CoreId) (t : Thr) (w : Word)
  /-- UNIT_INSTRUCTION_BEGIN (R260). -/
  | unitInstructionBegin (c : CoreId) (u : Engine)
  /-- UNIT_INSTRUCTION_COMPLETE (R260). -/
  | unitInstructionComplete (c : CoreId) (u : Engine)
  /-- VADD (R274). -/
  | vadd (c : CoreId) (t : Thr) (w : Word)
  /-- VSUB (R274). -/
  | vsub (c : CoreId) (t : Thr) (w : Word)
  /-- VMUL (R274). -/
  | vmul (c : CoreId) (t : Thr) (w : Word)
  /-- VFMA (R274). -/
  | vfma (c : CoreId) (t : Thr) (w : Word)
  /-- VFNMA (R274). -/
  | vfnma (c : CoreId) (t : Thr) (w : Word)
  /-- VMIN (R274). -/
  | vmin (c : CoreId) (t : Thr) (w : Word)
  /-- VMAX (R274). -/
  | vmax (c : CoreId) (t : Thr) (w : Word)
  /-- VCEQ (R274). -/
  | vceq (c : CoreId) (t : Thr) (w : Word)
  /-- VCLT (R274). -/
  | vclt (c : CoreId) (t : Thr) (w : Word)
  /-- VCLE (R274). -/
  | vcle (c : CoreId) (t : Thr) (w : Word)
  /-- VSEL (R274). -/
  | vsel (c : CoreId) (t : Thr) (w : Word)
  /-- VMOV (R272). -/
  | vmov (c : CoreId) (t : Thr) (w : Word)
  /-- VBROW (R271). -/
  | vbrow (c : CoreId) (t : Thr) (w : Word)
  /-- VSPL (R273). -/
  | vspl (c : CoreId) (t : Thr) (w : Word)
  /-- VCVT (R275). -/
  | vcvt (c : CoreId) (t : Thr) (w : Word)
  /-- VAND (R274). -/
  | vand (c : CoreId) (t : Thr) (w : Word)
  /-- VOR (R274). -/
  | vor (c : CoreId) (t : Thr) (w : Word)
  /-- VXOR (R274). -/
  | vxor (c : CoreId) (t : Thr) (w : Word)
  /-- VSHL (R272). -/
  | vshl (c : CoreId) (t : Thr) (w : Word)
  /-- VSHR (R272). -/
  | vshr (c : CoreId) (t : Thr) (w : Word)
  /-- VSAR (R272). -/
  | vsar (c : CoreId) (t : Thr) (w : Word)
  /-- VPADD (R276). -/
  | vpadd (c : CoreId) (t : Thr) (w : Word)
  /-- VPNORM (R276). -/
  | vpnorm (c : CoreId) (t : Thr) (w : Word)
  /-- VPCVT (R276). -/
  | vpcvt (c : CoreId) (t : Thr) (w : Word)
  /-- IMEM_DATA_WRITE (R319). -/
  | imemDataWrite (c : CoreId) (src : RegSource) (size : Nat) (data : Word)
  /-- CCTL_WRITE (R328). -/
  | cctlWrite (c : CoreId) (src : RegSource) (data : Word)
  /-- CACHE_WAY_DISABLE (R333). -/
  | cacheWayDisable (c : CoreId) (icache : Bool) (way : Fin 4)
  /-- SLICE_REPAIR_GO (R523). -/
  | sliceRepairGo (d : Die) (sl : Fin 32) (row : Nat)
  /-- SLICE_ROW_COPY_DONE (R313). -/
  | sliceRowCopyDone (d : Die) (sl : Fin 32)
  /-- SLICE_SCRUB (R523). -/
  | sliceScrub (d : Die) (sl : Fin 32) (row : Nat) (corrected : Nat) (poisoned : List Nat)
  /-- MCW (R334). -/
  | mcw (c : CoreId) (t : Thr) (w : Word)
  /-- MCR (R334). -/
  | mcr (c : CoreId) (t : Thr) (w : Word)
  /-- SEND (R335). -/
  | send (c : CoreId) (t : Thr) (w : Word)
  /-- SENDR (R372). -/
  | sendr (c : CoreId) (t : Thr) (w : Word)
  /-- QPOP (R346). -/
  | qpop (c : CoreId) (t : Thr) (w : Word)
  /-- QSTAT (R351). -/
  | qstat (c : CoreId) (t : Thr) (w : Word)
  /-- QDISP (R348). -/
  | qdisp (c : CoreId) (t : Thr) (w : Word)
  /-- QDROP (R347). -/
  | qdrop (c : CoreId) (t : Thr) (w : Word)
  /-- QARM (R350). -/
  | qarm (c : CoreId) (t : Thr) (w : Word)
  /-- SCADD (R360). -/
  | scadd (c : CoreId) (t : Thr) (w : Word)
  /-- SCRD (R360). -/
  | scrd (c : CoreId) (t : Thr) (w : Word)
  /-- SNOTE (R370). -/
  | snote (c : CoreId) (t : Thr) (w : Word)
  /-- BCFG (R366). -/
  | bcfg (c : CoreId) (t : Thr) (w : Word)
  /-- BSTAT (R372). -/
  | bstat (c : CoreId) (t : Thr) (w : Word)
  /-- MESSAGE_ENTRY (R344). -/
  | messageEntry (id : Nat)
  /-- CONTRIBUTION_ARRIVAL (R352). -/
  | contributionArrival (id : Nat)
  /-- ENTRY_ACK (R342). -/
  | entryAck (id : Nat)
  /-- CREDIT_RETURN (R341). -/
  | creditReturn (id : Nat)
  /-- CLOSURE_NOTICE (R343). -/
  | closureNotice (id : Nat)
  /-- COUNTER_SIGNAL (R360). -/
  | counterSignal (id : Nat)
  /-- COUNTER_WAIT (R362). -/
  | counterWait (id : Nat)
  /-- PARKED_WAIT_ADMIT (R363). -/
  | parkedWaitAdmit (k : Cluster)
  /-- WAIT_WITHDRAWAL (R364). -/
  | waitWithdrawal (who : Waiter)
  /-- WAIT_RELEASE (R362). -/
  | waitRelease (id : Nat)
  /-- SYNC_ERROR_REPORT (R361). -/
  | syncErrorReport (id : Nat)
  /-- BARRIER_ARRIVAL (R367). -/
  | barrierArrival (id : Nat)
  /-- BARRIER_WAIT (R368). -/
  | barrierWait (id : Nat)
  /-- DMA_START (R400). -/
  | dmaStart (c : CoreId) (j : Nat) (t : Thr) (data : Word)
  /-- DMA_STOP (R401). -/
  | dmaStop (c : CoreId) (j : Nat) (t : Thr) (data : Word)
  /-- DMA_RESUME (R400). -/
  | dmaResume (c : CoreId) (j : Nat) (t : Thr) (data : Word)
  /-- DMA_CQBASE_WRITE (R398). -/
  | dmaCqbaseWrite (c : CoreId) (j : Nat) (t : Thr) (data : Word)
  /-- DMA_FETCH (R382). -/
  | dmaFetch (id : Nat)
  /-- MOVE (R384). -/
  | move (ch : DmaCh)
  /-- DMA_READ_RESPONSE (R386). -/
  | dmaReadResponse (id : Nat)
  /-- DMA_WRITE_ACK (R394). -/
  | dmaWriteAck (id : Nat)
  /-- DMA_LOOP (R391). -/
  | dmaLoop (ch : DmaCh)
  /-- ENDLOOP (R391). -/
  | endloop (ch : DmaCh)
  /-- DMA_WAIT (R392). -/
  | dmaWait (ch : DmaCh)
  /-- DMA_SIGNAL (R392). -/
  | dmaSignal (ch : DmaCh)
  /-- FENCE (R394). -/
  | fence (ch : DmaCh)
  /-- COMPLETE (R395). -/
  | complete (ch : DmaCh)
  /-- HALT (R396). -/
  | halt (ch : DmaCh)
  /-- DMA_CQ_HEAD_POLL (R398). -/
  | dmaCqHeadPoll (ch : DmaCh)
  /-- DMA_TIMEOUT (R390). -/
  | dmaTimeout (id : Nat)
  /-- DMA_TRINV_ALL (R407). -/
  | dmaTrinvAll (d : Die) (slot : Slot)
  /-- DMA_TRINV_ONE (R407). -/
  | dmaTrinvOne (d : Die) (slot : Slot) (vpn : Nat)
  /-- TIER_REQUEST (R412): what the devices report of the burst; a lane that its shadow sampler has measured, its eye centre and
  its margin (R416, R421). -/
  | tierRequest (id : Nat) (found : BurstCheck) (lane : Nat) (eye : Int) (margin : Byte)
  /-- TIER_ATTEMPT_FAIL (R414): which of the request's bytes the failing 32-byte burst of the middle tier holds (R429). -/
  | tierAttemptFail (id : Nat) (byte : Nat)
  /-- TIER_REFRESH (R413). -/
  | tierRefresh (n : TierCtl)
  /-- CALIBRATION_WINDOW (R422). -/
  | calibrationWindow (n : TierCtl)
  /-- CALIBRATION_BURST_END (R422). -/
  | calibrationBurstEnd (n : TierCtl)
  /-- NC_REQ_FULL (R423). -/
  | ncReqFull (n : TierCtl)
  /-- PATROL_SCRUB (R419). -/
  | patrolScrub (n : TierCtl) (found : BurstCheck)
  /-- NC_REPAIR_GO (R420). -/
  | ncRepairGo (n : TierCtl) (unit : Nat)
  /-- NC_PLIST_ADD (R437). -/
  | ncPlistAdd (n : TierCtl) (unit : Nat)
  /-- POISON_LIST_FULL (R418). -/
  | poisonListFull (n : TierCtl) (unit : Nat)
  /-- NS_SUBST_COPY (R425). -/
  | nsSubstCopy (d : Die) (ch : Fin 16) (rate : Nat)
  /-- SPARE_COPY_UNIT (R425). -/
  | spareCopyUnit (d : Die) (ok : Bool)
  /-- NS_SUBST_SWITCH (R425). -/
  | nsSubstSwitch (d : Die)
  /-- CHANNEL_FAILED (R427). -/
  | channelFailed (n : TierCtl)
  /-- MIDDLE_HOT (R430). -/
  | middleHot (m : Fin 16)
  /-- FLASH_OP_COMPLETE (R435): whether a program or erase succeeded; of a read, how many codewords needed read retry and which
  of the 16 stayed uncorrectable (R431, R437). -/
  | flashOpComplete (f : Fin 32) (ok : Bool) (retried : Nat) (bad : List (Fin 16))
  /-- FLASH_SPARES_LOW (R439). -/
  | flashSparesLow (f : Fin 32) (pct : Nat)
  /-- DB_CR (R447). -/
  | dbCr (p : Port) (r : Ring) (n : BitVec 16)
  /-- DB_CC (R448). -/
  | dbCc (p : Port) (r : Ring) (n : BitVec 32)
  /-- DB_EVT (R453). -/
  | dbEvt (p : Port) (n : BitVec 32)
  /-- CR_BASE_WRITE (R450). -/
  | crBaseWrite (p : Port) (r : Ring) (v : Word)
  /-- CC_BASE_WRITE (R450). -/
  | ccBaseWrite (p : Port) (r : Ring) (v : Word)
  /-- CR_CTRL_WRITE (R450). -/
  | crCtrlWrite (p : Port) (r : Ring) (v : Word)
  /-- CC_CTRL_WRITE (R450). -/
  | ccCtrlWrite (p : Port) (r : Ring) (v : Word)
  /-- PACKET_FETCH (R451). -/
  | packetFetch (p : Port) (r : Ring) (bytes : HostData)
  /-- FW_CLAIM (R451). -/
  | fwClaim (p : Port) (r : Ring)
  /-- FW_CLAIM_TIMEOUT (R452). -/
  | fwClaimTimeout (p : Port) (r : Ring)
  /-- IDENTIFY (R473). -/
  | identify (p : Port) (r : Ring)
  /-- QUERY_RESOURCES (R474). -/
  | queryResources (k : Nat)
  /-- PORT_RESET (R454). -/
  | portReset (p : Port) (pkt : Option Ring)
  /-- RELEASE (R466). -/
  | release (k : Nat)
  /-- ADOPT (R466). -/
  | adopt (k : Nat)
  /-- STATUS (R475). -/
  | status (k : Nat)
  /-- MEM_COPY (R471). -/
  | memCopy (k : Nat) (bytes : HostData)
  /-- MEM_FILL (R471). -/
  | memFill (k : Nat)
  /-- PERSIST_SAVE (R438). -/
  | persistSave (k : Nat)
  /-- PERSIST_RESTORE (R438). -/
  | persistRestore (k : Nat)
  /-- PERSIST_DELETE (R438). -/
  | persistDelete (k : Nat)
  /-- ATTEST (R495). -/
  | attest (k : Nat) (bytes : HostData)
  /-- FW_UPDATE (R487). -/
  | fwUpdate (k : Nat) (bytes : HostData) (ok : Bool)
  /-- DEBUG_HALT (R542). -/
  | debugHalt (k : Nat)
  /-- DEBUG_RESUME (R539). -/
  | debugResume (k : Nat)
  /-- DEBUG_READ (R543). -/
  | debugRead (k : Nat)
  /-- DEBUG_WRITE (R543). -/
  | debugWrite (k : Nat) (bytes : HostData)
  /-- DEBUG_SYNC_SET (R544). -/
  | debugSyncSet (k : Nat)
  /-- POWER_STATE (R37). -/
  | powerState (k : Nat)
  /-- STEWARD_HANDOFF (R466). -/
  | stewardHandoff (k : Nat)
  /-- SPARE_STATUS_REPORT (R524). -/
  | spareStatusReport (k : Nat)
  /-- SPARE_STATUS_SCAN (R517). -/
  | spareStatusScan (k : Nat)
  /-- DUMP_READ (R508). -/
  | dumpRead (k : Nat)
  /-- HOST_WINDOW_COMPLETION (R446). -/
  | hostWindowCompletion (id : Nat) (res : HostCompletion)
  /-- HOST_COMPLETION_TIMEOUT (R446). -/
  | hostCompletionTimeout (id : Nat)
  /-- LINK_DOWN (R456). -/
  | linkDown (p : Port)
  /-- LINK_UP (R456). -/
  | linkUp (p : Port) (lanes : Nat) (speed : Nat)
  /-- D3HOT_ENTRY (R441). -/
  | d3hotEntry (p : Port)
  /-- FUNCTION_LEVEL_RESET (R454). -/
  | functionLevelReset (p : Port)
  /-- PERST_ASSERT (R562). -/
  | perstAssert (p : Port)
  /-- PERST_DEASSERT (R482). -/
  | perstDeassert (p : Port)
  /-- PWR_GOOD_BOOT (R481). -/
  | pwrGoodBoot (unread : List Nat)
  /-- AHNAL_READY (R484). -/
  | ahnalReady
  /-- BOOT_CONFIRM (R484). -/
  | bootConfirm
  /-- BOOT_WATCHDOG_EXPIRY (R483). -/
  | bootWatchdogExpiry
  /-- STANDBY_BOOT (R485). -/
  | standbyBoot (ok : Bool)
  /-- RPT_LOCK_WRITE (R490). -/
  | rptLockWrite (data : Word)
  /-- SIGN_GO (R494). -/
  | signGo (data : Word)
  /-- SIGN_DONE (R494). -/
  | signDone
  /-- RB_CTR_GO (R493). -/
  | rbCtrGo (data : Word)
  /-- KEY_REVOKE (R493). -/
  | keyRevoke (mask : BitVec 3)
  /-- BF_READ (R476). -/
  | bfRead (addr : BitVec 26)
  /-- BF_PROGRAM (R489). -/
  | bfProgram (addr : BitVec 26)
  /-- BF_ERASE_4K (R489). -/
  | bfErase4k (addr : BitVec 26)
  /-- BF_ERASE_64K (R489). -/
  | bfErase64k (addr : BitVec 26)
  /-- BF_OP_DONE (R489). -/
  | bfOpDone (ok : Bool)
  /-- BF_PROT_WRITE (R481). -/
  | bfProtWrite (data : Word)
  /-- GET_VERSION (R496). -/
  | getVersion (e : Endpoint) (req : List Byte)
  /-- GET_CAPABILITIES (R496). -/
  | getCapabilities (e : Endpoint) (req : List Byte)
  /-- NEGOTIATE_ALGORITHMS (R496). -/
  | negotiateAlgorithms (e : Endpoint) (req : List Byte)
  /-- GET_DIGESTS (R496). -/
  | getDigests (e : Endpoint) (req : List Byte)
  /-- GET_CERTIFICATE (R494). -/
  | getCertificate (e : Endpoint) (req : List Byte)
  /-- CHALLENGE (R496). -/
  | challenge (e : Endpoint) (req : List Byte)
  /-- GET_MEASUREMENTS (R497). -/
  | getMeasurements (e : Endpoint) (req : List Byte)
  /-- SPDM_UNSUPPORTED_REQUEST (R496). -/
  | spdmUnsupportedRequest (e : Endpoint) (req : List Byte)
  /-- ERROR_COUNTER_POLL (R501); with the errors that storage has shown since the last one (R311, R332). -/
  | errorCounterPoll (found : List HwError)
  /-- FATAL_ERROR (R504). -/
  | fatalError (cause : ErrCode) (source : ErrSource)
  /-- HEARTBEAT_TIMEOUT (R510). -/
  | heartbeatTimeout
  /-- MANAGEMENT_TAKEOVER (R510). -/
  | managementTakeover
  /-- DRAIN_PROBE (R515). -/
  | drainProbe (slot : Slot)
  /-- DRAIN_MARKERS_RETURNED (R515). -/
  | drainMarkersReturned (slot : Slot)
  /-- WEAR_SCAN_TIMER (R517). -/
  | wearScanTimer
  /-- WEAR_SCAN (R517). -/
  | wearScan (results : List (Nat × Nat))
  /-- FLIT_RESEND (R522). -/
  | flitResend (k : Cluster) (rp : Fin 4) (wire sends : Nat)
  /-- THERMAL_WARNING (R526). -/
  | thermalWarning (d : Die) (n : Fin 80) (temp : BitVec 16)
  /-- THERMAL_TRIP (R527). -/
  | thermalTrip (d : Die) (n : Fin 80) (temp : BitVec 16)
  /-- SMBUS_ALERT_RESPONSE (R503). -/
  | smbusAlertResponse
  /-- SET_ENDPOINT_ID (R530). -/
  | setEndpointId (eid : Byte)
  /-- SET_EVENT_RECEIVER (R531). -/
  | setEventReceiver (receiver : Byte)
  /-- POLL_FOR_PLATFORM_EVENT_MESSAGE (R531). -/
  | pollForPlatformEventMessage
  /-- SET_STATE_EFFECTER_STATES (R532). -/
  | setStateEffecterStates (states : List (Option Byte))
  /-- GET_STATE_EFFECTER_STATES (R532). -/
  | getStateEffecterStates
  /-- DBG_CTRL_HALT (R536). -/
  | dbgCtrlHalt (c : CoreId) (mask : BitVec 4)
  /-- DBG_CTRL_RESUME (R539). -/
  | dbgCtrlResume (c : CoreId) (mask : BitVec 4)
  /-- DBG_CTRL_STEP (R539). -/
  | dbgCtrlStep (c : CoreId) (mask : BitVec 4)
  /-- DEBUG_HALT_TAKEN (R536). -/
  | debugHaltTaken (c : CoreId) (t : Thr)
  /-- JTAG_DBG_ACCESS (R546). -/
  | jtagDbgAccess (addr : BitVec 48) (write : Bool) (data : Word)
  /-- JTAG_ACCESS_DONE (R546). -/
  | jtagAccessDone
  /-- EXTEST (R545). -/
  | extest (d : Die)
  /-- IDCODE (R545). -/
  | idcode (d : Die)
  /-- SAMPLE_PRELOAD (R545). -/
  | samplePreload (d : Die)
  /-- BYPASS (R545). -/
  | bypass (d : Die)
  /-- JTAG_TRST (R545). -/
  | jtagTrst
  /-- PWR_EN_RISE (R554). -/
  | pwrEnRise
  /-- PWR_EN_FALL (R555). -/
  | pwrEnFall
  /-- AUX_POWER_START (R553). -/
  | auxPowerStart
  /-- AUX_POWER_LOSS (R556). -/
  | auxPowerLoss
  /-- LINE_FILL_ARRIVAL (R324). -/
  | lineFillArrival (id : Nat)
  /-- WRITE_PERFORMED_ACK (R124). -/
  | writePerformedAck (id : Nat)
  /-- DEVICE_TEMPERATURE_CHANGE (R423). -/
  | deviceTemperatureChange (n : TierCtl) (temp : Nat)
  /-- RETURN_TO_D0 (R567). -/
  | returnToD0 (p : Port)
  /-- FUSE_BLOW_DONE (R493). -/
  | fuseBlowDone (ok : Bool)
  /-- TRIP_COOLDOWN (R554). -/
  | tripCooldown
deriving DecidableEq, Repr

end Sys2Proof
end

