-- ==== Sys2Proof/Config.lean ====
section
/-! DEFINITION. What the manual leaves open as a value, and the published algorithms it names without
giving them: constants with no body, so that no proof can see a value of them. -/

namespace Sys2Proof.Config

/-- A value the manual leaves open, by the count of such values drawn so far (log 7). -/
opaque freeValue : Nat → BitVec 64

/-- SHA-512 of a byte string, 64 bytes (R478, R497; log 8). -/
opaque sha512 : List Byte → List Byte

/-- Whether a signature of 64 bytes is valid over a message under an Ed25519 public key of 32 bytes, with
the strict checks of R478 (RFC 8032; log 8). -/
opaque ed25519Valid : (key msg sig : List Byte) → Bool

/-- The Ed25519 signature of a message under the module's identity key, which no register shows (R494;
log 8). -/
opaque identitySign : List Byte → List Byte

/-- The vendor's JEP106 code in the JTAG device code (R545; log 4). -/
opaque jep106 : BitVec 11

/-- The row of a tier controller's devices that holds a unit (R419; log 99). -/
opaque tierRow : (controller unit : Nat) → Nat

end Sys2Proof.Config
end

