-- ==== Sys2Proof/Machine/State.lean ====
section
/-! DEFINITION. The state of the Kadan as plain data: the control-space registers as words by address,
the memories by byte, the cores with their threads, tiles, caches and queues, everything in flight
between them, the images Ahnal holds, and what the ports, the tiers, the boot chain and the sideband
hold. -/

namespace Sys2Proof.Machine

/-- The states of a hardware thread (R189). -/
inductive TState where
  | notStarted | running | ready | stalled | faulted | exited | halted | locked
deriving DecidableEq, Repr

/-- Why a thread is STALLED (R191). `operand keys`: the loads it waits for; `pageIn va`: the address it is parked
on; `flagZero n`: its wait names flag n; `flagLow n`: its signal would
raise flag n above 15. -/
inductive Stall where
  | none
  | fetch
  | operand (keys : List Nat)
  | walk
  | pageIn (va : Nat)
  | flagZero (n : Nat)
  | flagLow (n : Nat)
  | parked
  | credit
  | emptyQueue (q : Fin 8)
  | fence
  | header
deriving DecidableEq, Repr

/-- An object of synchronisation: a counter of a cluster or a barrier unit. -/
inductive SyncObj where
  | counter (k : Nat) (i : Nat)
  | barrier (u : Nat)
deriving DecidableEq, Repr

/-- A thread's armed notification (R370): its object and the value or phase at which it fires. -/
structure Notif where
  obj : SyncObj
  amount : Nat
deriving DecidableEq, Repr

/-- An imprecise exception waiting for its acceptance point (R203). -/
structure PendExc where
  vector : Nat
  pc : Addr
  /-- The privilege in effect when the instruction issued (R201). -/
  priv : Nat
deriving DecidableEq, Repr

/-- A trap or routed fault that the thread's next entry takes (R203, R205). -/
structure PendEntry where
  vector : Nat
  cause : Nat
  savedPc : Addr
  excPc : Addr
  imprecise : Bool
  priv : Nat
deriving DecidableEq, Repr

/-- A request phase under way in a thread's tile sequencer (R240): its kind as TLPROG codes it, the flight's key, the next row (for a context
instruction its slot too), whether the header of TCTXR has been asked for and applied, the address of the block whose
palette the latch holds with the row that read it, and the instruction's word (R235, R241, R254). -/
structure TilePhase where
  kind : Nat
  key : Nat
  slot : Nat
  row : Nat
  asked : Bool
  hdr : Bool
  latch : Option (Nat × Nat)
  word : Word
deriving DecidableEq, Repr

/-- A requested row not yet written (R244): its place (tile x 32 + row), the LFSR before its first conversion,
and the addresses of the blocks whose palettes it uses, each with the row that reads that palette (R232, R234, R235). -/
structure TileRow where
  place : Nat
  lfsr : BitVec 32
  pals : List (Nat × Nat)
deriving DecidableEq, Repr

/-- A palette a row has read: address of its block, row, and the converted entries, or the vector with which it ended under R245. -/
structure TilePal where
  block : Nat
  place : Nat
  entries : Except Nat (List Nat)
deriving DecidableEq, Repr

/-- A tile load whose rows are not all written: its flight's key, source format (0x10: copied as it is), TR, tile
format and row bytes at issue, base, stride and scale address, rounding mode and address (R230-R246). -/
structure TileOp where
  key : Nat
  sfmt : Nat
  tr : Bool
  fmt : Nat
  rowBytes : Nat
  base : Nat
  stride : Nat
  scale : Nat
  rmode : Nat
  pc : Addr
  priv : Nat
  rows : List TileRow
  pals : List TilePal
deriving DecidableEq, Repr

/-- An instruction that has issued and not completed: its key, its signal field with the SC value read at
issue, and its address (R147, R150, R154). `due`: nothing is outstanding but the completion itself.
`more`: it is repeated and repetitions are to come; `grp`: the repeated instruction it belongs to. -/
structure Flight where
  key : Nat
  signal : Nat
  sc : Word
  pc : Addr
  tile : Option Nat
  due : Bool
  more : Bool
  grp : Option Nat
  /-- The privilege at issue (R201). -/
  priv : Nat
deriving DecidableEq, Repr

/-- Why a thread halted (DBG_STAT.REASONt, R535). -/
inductive HaltReason where
  | none | request | breakpoint | step
deriving DecidableEq, Repr

/-- One hardware thread: the registers of R133-R180 and R214, and what is under way in it. -/
structure Thread where
  st : TState
  stall : Stall
  pc : Addr
  d : Vector Word 32
  a : Vector Addr 16
  m : Vector Word 16
  p : Vector Word 8
  flags : Word
  sc : Vector Word 4
  lc : Vector (BitVec 32) 3
  ls : Vector Addr 3
  le : Vector Addr 3
  lstat : Word
  repcnt : Word
  rplstat : Word
  replay : Vector Word 32
  rstack : List Addr
  rsctl : Word
  compose : Vector Word 8
  tstatus : Word
  tsbp : Word
  tsblim : Word
  ipend : Word
  ien : Word
  arith : Word
  fpctl : Word
  excInfo : Word
  hscd : Word
  lfsr : BitVec 32
  tlprog : Word
  trFault : Word
  /-- The cluster has satisfied the wait of the instruction at PC, which has not been tried since (R364). -/
  waitPassed : Bool
  /-- By TSB depth: the instruction whose wait is passed and which has not completed (R165, R248, R364),
  and for a repeated one the key of its flight where it signals. -/
  gate : Tab (Addr × Option Nat)
  /-- The lines a fetch missed, come from their home: line address and bytes (R321, R330). -/
  fetched : List (Nat × List Byte)
  flights : List Flight
  /-- Registers with an outstanding writer: specifier and flight key (R144). -/
  owed : List (Nat × Nat)
  /-- Address registers that an outstanding load steps when it completes: flight key, register and new value (R159). -/
  steps : List (Nat × Nat × Addr)
  phase : Option TilePhase
  tileOps : List TileOp
  imprecise : List PendExc
  entry : Option PendEntry
  notif : Option Notif
  halt : HaltReason
  haltReq : Bool
  stepping : Bool
  bpPassed : Bool
  /-- The vector whose handler's first instruction the entry has still to fetch (R209 step 7). -/
  entering : Option Nat
  /-- A single-step trap that waits for its acceptance point: the instruction that raised it and its privilege (R203, R205). -/
  stepTrap : Option (Addr × Nat)
  /-- The privilege of the instruction that ARITH.SRC_PC names (R201, R206). -/
  pendPriv : Nat
deriving DecidableEq, Repr

/-- A line of a cache or of the side buffer: line address (PA / 64), which bytes are valid, dirty and
poisoned, and the bytes (R322, R323). -/
structure Line where
  tag : Nat
  valid : BitVec 64
  dirty : BitVec 64
  bad : BitVec 64
  data : List Byte
deriving DecidableEq, Repr

/-- A cache: lines by set x 4 + way, and the replacement tree of each set (R322). -/
structure Cache where
  lines : Tab (Option Line)
  plru : Tab (BitVec 3)
deriving DecidableEq, Repr

/-- A T tile (R217): TDESC fields and the bytes written, by row x 64 + byte (R221). -/
structure TTile where
  rows : Nat
  rowBytes : Nat
  fmt : Fin 8
  held : Bool
  lastt : Thr
  data : Tab Byte
deriving DecidableEq, Repr

/-- A Z tile: ZFMT and its 32-bit elements, by row x 16 + column (R217, R229). -/
structure ZTile where
  zfmt : Fin 4
  held : Bool
  lastt : Thr
  data : Tab (BitVec 32)
deriving DecidableEq, Repr

/-- A matrix or vector instruction held by its unit: issuing thread, word, address, flight key, and
the LFSR, rounding mode and splat value taken at issue (R258, R262, R273). -/
structure UnitOp where
  thr : Thr
  word : Word
  pc : Addr
  priv : Nat
  key : Nat
  lfsr : BitVec 32
  rmode : Nat
  splat : Word
deriving DecidableEq, Repr

/-- One of the two engines: the instruction in its busy time, the one queued, and the one past its busy time whose destination is not
written yet, with the tiles it read its sources from (R258-R260). -/
structure Eng where
  running : Option UnitOp
  queued : Option UnitOp
  ending : Option (UnitOp × List (Nat × TTile) × List (Nat × ZTile))
deriving DecidableEq, Repr

/-- A message as it lies in a queue or in the network: header, payload, its channel's entry in the
directory, `none` for a delivered combining round, and the SEND it is a copy of (R336, R352, R357). -/
structure Message where
  header : Word
  payload : List Word
  dir : Option Nat
  mid : Nat
deriving DecidableEq, Repr

/-- An open combining round (R352): handler, elements, and the channels that contributed. -/
structure Round where
  handler : Nat
  elems : List (BitVec 32)
  chans : List Nat
deriving DecidableEq, Repr

/-- A receive queue (R344-R354), oldest message first; `owedRounds` are channels whose contribution
credit waits for a free slot (R354). -/
structure Queue where
  msgs : List Message
  pos : Nat
  closed : Bool
  armed : Bool
  thresh : Nat
  round : Option Round
  owedRounds : List Nat
  seq : Nat
deriving DecidableEq, Repr

/-- One core: its four threads, core-wide registers, tiles, units, caches, pinned instruction memory
and queues. -/
structure Core where
  thr : Vector Thread 4
  dtbase : Word
  threadFault : Word
  tspc : Vector Word 4
  tssp : Vector Word 4
  tsarg : Vector Word 4
  tstsb : Vector Word 4
  tspriv : Word
  lock : Word
  lastIssue : Thr
  /-- The thread to which the free issue stage goes: the first READY one as the running thread left it, else the first to become READY
  since (R190). -/
  next : Option Thr
  tlb : Tab (Option Word)
  dcache : Cache
  icache : Cache
  side : List Line
  imem : Tab Word
  imemPoison : List Nat
  irlog : Tab (Word × Word)
  tt : Tab TTile
  zt : Tab ZTile
  reuse : Tab (Option (Nat × Nat))
  mx : Eng
  vx : Eng
  queues : Vector Queue 8
  /-- Phase in which the core last arrived, by barrier unit: phase + 1, 0 none (R368). -/
  lastArr : Tab Nat
  /-- The end of the core's part has been recorded: none, normal, or the first fault (R199). -/
  partEnd : Option (Option (Thr × Nat))
  nextKey : Nat
deriving DecidableEq, Repr

/-- A source of memory accesses (R122). -/
inductive Source where
  | thread (c : CoreId) (t : Thr)
  | cache (c : CoreId)
  | walker (c : CoreId) (t : Thr)
  | dma (ch : DmaCh)
  | dmaWalker (ch : DmaCh)
  | debug
deriving DecidableEq, Repr

/-- The home of a physical address (R89). -/
inductive Home where
  | near (n : Nat)
  | middle (m : Nat)
  | slice (d : Nat) (s : Nat)
  | coreMem (c : Nat)
  | host (p : Port)
  | control
  | absent
deriving DecidableEq, Repr

/-- What an access does at its home: a gather of byte addresses, a write of bytes (with a poison mark
each), or an atomic. -/
inductive MemOp where
  | read (addrs : List Nat)
  | write (bytes : List (Nat × Byte × Bool))
  | atomic (op : AtomicOp) (size : Nat) (v : Nat) (cmp : Nat) (returning : Bool)
deriving DecidableEq, Repr

/-- What the requester does with the answer of its access. `load`: an uncached load into `rt`;
`fillLoad`: the same through a data-cache line; `fillInstr`: a fetch of thread `t` at an address;
`fetchOnce`: the same without the instruction cache (R330); `oldValue`: a returning atomic;
`stored`: a store or posted atomic, of an instruction at an address and privilege; `writeBack`: a write-back, of thread `t` where a maintenance
instruction of it started it; `walk`: level 1 or 2 of a walk for an access to `va` (`soft`: 0 an ordinary
access, 1 a maintenance instruction, 2 PREF); `tileRow`: bytes of one row, `at_` the virtual and physical
address of each, `fill` where a line comes whole and is installed; `unit`: bytes of one DMA unit. -/
inductive Purpose where
  | load (t : Thr) (key : Nat) (rt : Nat) (kind : Nat)
  | fillLoad (t : Thr) (key : Nat) (rt : Nat) (kind : Nat) (pa : Nat)
  | fillSide
  | fillInstr (t : Thr)
  | fetchOnce (t : Thr)
  | oldValue (t : Thr) (key : Nat) (rt : Nat) (size : Nat) (signed : Bool)
  | stored (t : Thr) (by_ : Option (Addr × Nat))
  | writeBack (t : Option Thr)
  | walk (level : Nat) (va : Nat) (write fetch : Bool) (soft : Nat)
  | tileRow (t : Thr) (key : Nat) (place : Nat) (at_ : List (Nat × Nat)) (fill : Bool)
  | program
  | unit (i va pc : Nat)
  | cqHead
  | record (irq : Bool) (pc : Nat)
  | jtag
deriving DecidableEq, Repr

/-- How far an access has come; `denied`: the region protection table kept it from its home (R492). -/
inductive Stage where
  | denied
  | sent
  | taken (attempts : Nat)
  | performed
  | lost
deriving DecidableEq, Repr

/-- One memory access in flight. -/
structure Txn where
  id : Nat
  src : Source
  home : Home
  addr : Nat
  op : MemOp
  purpose : Purpose
  stage : Stage
  result : List Byte
  poisoned : List Nat
  /-- The response is not used: the fill's line or the walk's page was invalidated (R112, R326, R407), or the request of a channel
  timed out or belongs to what its channel no longer executes (R390, R402). -/
  cancelled : Bool
  /-- Bytes dirty in the requester's cache when it asked, by address (R161, R323). -/
  overlay : List (Nat × Byte)
  /-- Translated through the TLB entry of this page, for TR_INV.BUSY (R112). -/
  vpn : Option Nat
deriving DecidableEq, Repr

/-- An operation travelling to a counter or barrier (R360, R367), or its answer travelling back: the release of
a satisfied wait, the report of an error (with the key of the flight it ends), the value read. -/
inductive SyncKind where
  | add (v : Int)
  | addReturn (t : Thr) (key : Nat) (rt : Nat) (v : Int)
  | read (t : Thr) (key : Nat) (rt : Nat)
  | wait (amount : Nat) (consume : Bool)
  | release (consume : Bool)
  | error (key : Option Nat)
  | reply (t : Thr) (key : Nat) (rt : Nat) (v : Nat)
  | arrive
  | barrierWait
  | barrierRead (t : Thr) (key : Nat) (rt : Nat)
  | config (first last stride : Nat)
deriving DecidableEq, Repr

/-- One such operation: who issued it, from which core, on which object, for which image slot, and the
address and privilege of the instruction that sent it, which an error report names (R201, R361). -/
structure SyncOp where
  id : Nat
  who : Waiter
  core : Nat
  obj : SyncObj
  kind : SyncKind
  slot : Nat
  pc : Addr
  priv : Nat
deriving DecidableEq, Repr

/-- A wait parked at its object (R362) or held at its cluster's input (R363), in order of arrival. -/
structure Parked where
  who : Waiter
  obj : SyncObj
  amount : Nat
  consume : Bool
deriving DecidableEq, Repr

/-- A message on its way: destination core and queue and its image's slot (R345). -/
structure NetMsg where
  id : Nat
  msg : Message
  dst : Nat
  queue : Fin 8
  slot : Nat
  /-- A multicast message whose copies are still to be made: the router of the tree it stands at (R355). -/
  router : Option Nat
  /-- Place in the group's common order, given at the root; 0 before (R356). -/
  order : Nat
deriving DecidableEq, Repr

/-- Return tokens (R342): entry acknowledgement, credit return, closure notice. -/
inductive TokenKind where
  | entryAck | credit | closure
deriving DecidableEq, Repr

/-- One return token on its way, with the directory entry of its channel. -/
structure Token where
  id : Nat
  kind : TokenKind
  dir : Nat
deriving DecidableEq, Repr

/-- A MOVE in progress: unit size, fixed sides, first addresses, how many units, the next to read and how many are
written (R384-R387). -/
structure Move where
  size : Nat
  sfix : Bool
  dfix : Bool
  src : Nat
  dst : Nat
  units : Nat
  nextRead : Nat
  written : Nat
deriving DecidableEq, Repr

/-- What a DMA channel has under way beside its registers (R382, R387, R397): the instruction at DMA_PC as fetched,
whether it has begun, its MOVE, the address it is held on for a page-in, and poison since the last record. -/
structure Dma where
  fetched : Option (List Word)
  begun : Bool
  move : Option Move
  page : Option Nat
  poison : Bool
deriving DecidableEq, Repr

/-- A declared region as admitted (R67, R73, R116): tier, attributes, home die, declared base and size,
region id, the physical pages (2 MiB) or the die-memory offset it was given, and its permissions. -/
structure Region where
  index : Nat
  tier : Nat
  attrs : Nat
  die : Nat
  base : Nat
  size : Nat
  rid : Nat
  pages : List Nat
  perm : Nat
deriving DecidableEq, Repr

/-- States of a loaded image (R467). -/
inductive ImgState where
  | loaded | starting | running | stopping
deriving DecidableEq, Repr

/-- How an invocation is to end (R468): set by STOP, stall detection, a fault or a fatal event. -/
inductive Ending where
  | none | stopped | stalled | faulted
deriving DecidableEq, Repr

/-- A loaded image: what its header and records declared, what admission granted it, and how its
invocations stand. -/
structure Image where
  handle : Nat
  owner : Option Port
  state : ImgState
  elastic : Bool
  static : Bool
  floor : Nat
  k : Nat
  bytes : List Byte
  bind : List Nat
  bindPhys : List Nat
  regions : List Region
  ptBlocks : List Nat
  ptUsed : Tab Nat
  barriers : Nat × Nat
  quotas : Tab Nat
  attach : Tab Nat
  weights : Tab Nat
  rates : Tab Nat
  limits : List Nat
  startCmd : Option Nat
  stopCmds : List Nat
  windows : Nat
  invocations : Nat
  ending : Ending
  firstFault : Option (Nat × Nat)
  breach : Bool
  lastStatus : Nat
  lastDetail : Nat
  lastResult : List Byte
  probe : Option (List Nat)
deriving DecidableEq, Repr

/-- A command packet accepted for Ahnal and not yet answered (R451, R467). -/
structure Claimed where
  id : Nat
  port : Port
  ring : Ring
  index : Nat
  packet : List Byte
  /-- The image state machine has begun the command. -/
  begun : Bool
  /-- Its ring pair has been disabled since it was accepted: its replies are discarded (R450, R455). -/
  orphan : Bool
deriving DecidableEq, Repr

/-- What a ring pair holds beside its registers: packets read, how the head stands, replies reserved,
and the image that LAST names (R447-R451, R460). -/
structure RingSt where
  ahead : List (Nat × List Byte)
  waitPassed : Bool
  parked : Bool
  reserved : Nat
  last : Option Nat
  toClaim : Bool
  /-- The host has rung anew since the head packet was read: it is read again before it goes on (R447). -/
  again : Bool
deriving DecidableEq, Repr

/-- What a port has put on its link: a write to host memory (poisoned or not), a read request or an AtomicOp of a kind and size with
its operands (R121), for an access in flight, an MSI-X message, or the completion of a host's BAR2 access: data, Completer Abort or Unsupported
Request (R91, R440, R444, R463). -/
inductive Tlp where
  | write (addr : Nat) (bytes : List Byte) (poisoned : Bool)
  | read (id : Nat) (addr len : Nat)
  | atomicOp (id : Nat) (addr : Nat) (op : AtomicOp) (size v cmp : Nat)
  | msix (vec : Nat)
  | completion (bytes : List Byte) (poisoned : Bool)
  | abort
  | unsupported
deriving DecidableEq, Repr

/-- A port: link, D-state, rings, and what it has put on the link, newest first. -/
structure PortSt where
  up : Bool
  /-- Down for more than 100 ms, by the management complex's timing (R456). -/
  downLong : Bool
  d3 : Bool
  perst : Bool
  wake : Bool
  /-- The size of BAR2 is 2^bar2Log2 bytes; the host's configuration writes set it (R440). -/
  bar2Log2 : Nat
  /-- Configuration of the function (R440): codes of the largest payload, the largest read request and the completion timeout; whether
  the timeout is disabled; AER's uncorrectable status, mask and severity. -/
  mps : Nat
  mrrs : Nat
  ctoCode : Nat
  ctoOff : Bool
  aer : Nat
  aerMask : Nat
  aerSev : Nat
  rings : Vector RingSt 8
  out : List Tlp
deriving DecidableEq, Repr

/-- A BAR2 access that waits for its home (R412, R422, R523). -/
inductive Bar2Op where
  | read (off len : Nat)
  | write (off : Nat) (data : List Byte) (poisoned : Bool)
  | atomic (off : Nat) (op : AtomicOp) (size : Fin 3) (v cmp : Word)
deriving DecidableEq, Repr

/-- What calls a calibration burst (R422). -/
inductive BurstCall where
  | margin | crc | recovery (txn : Nat) | repair (unit : Nat) | retrain | spareSwitch
deriving DecidableEq, Repr

/-- What a tier controller holds beside its registers (R413-R423). -/
structure Tier where
  plist : List Nat
  midBad : List Nat
  burstTaken : Bool
  burst : Option BurstCall
  calls : List BurstCall
  crcWindow : Nat
  retrainLeft : Nat
  lastTemp : Nat
  postponed : Nat
  /-- By lane: the measured eye centre, the data sampler's step and the margin (R421). -/
  lanes : Tab (Int × Int × Nat)
  softRepairs : List Nat
  /-- Corrected units that this scrub pass found, by row, and a unit of each row reported (R419). -/
  rowSeen : Tab Nat
  reports : List Nat
  /-- Repairs that found none left, and EXH at the last wear scan, toward sparing (R420, R519). -/
  repairFails : Nat
  exhMark : Nat
  /-- Of a spare channel: its training or copy has failed (R427). -/
  spareBad : Bool
deriving DecidableEq, Repr

/-- A flash operation in progress (R435, R438). -/
inductive FlashOp where
  | pageIn (slot : Slot) (vpn : Nat)
  | pageOut (slot : Slot) (vpn : Nat)
  | save (obj : Nat)
deriving DecidableEq, Repr

/-- A persistent object (R438): id, its current content, and the version being written. -/
structure Persist where
  obj : Nat
  current : Option (List Byte)
  writing : Option (List Byte × List Nat)
deriving DecidableEq, Repr

/-- A page-in reported to Ahnal (R111, R436). -/
structure PageIn where
  slot : Slot
  vpn : Nat
  waiters : List Waiter
deriving DecidableEq, Repr

/-- The deep tier and the paging state (R431-R439). `pages`: content of written deep pages by slot x 2^27 + page;
`ops`: by flash channel, the operations in progress, the one that runs first; `frames`: slot, page and physical page of the
deep pages held in frames, longest held first; `mirror`: the dump mirror (R504). -/
structure Deep where
  pages : Tab (List (Nat × Byte))
  ops : Tab (List FlashOp)
  mirror : Option (List Host.Cell)
  objects : List Persist
  pageIns : List PageIn
  pageOuts : List (Nat × Nat)
  frames : List (Nat × Nat × Nat)
  readOnly : Bool
  /-- By page being read: its 4 KiB ranges that stayed uncorrectable (R437). -/
  unread : Tab (List Nat)
  /-- Flash channels whose domain has been reset and has not relocked (R49). -/
  closed : List Nat
deriving DecidableEq, Repr

/-- Position in the power-up and boot sequences (R553-R556, R481). -/
inductive Power where
  | off | aux | qualified | cooling | on | lastGasp | tripped
deriving DecidableEq, Repr

/-- Clock-domain sequencer (R43, R44): target entry, whether the supply step is done, a held write. -/
structure ClkSeq where
  target : Option Nat
  rising : Bool
  second : Bool
  held : Option Nat
  supply : Nat
deriving DecidableEq, Repr

/-- What a port arbiter holds (R79): quota left by slot, grants of the frame, round-robin positions by
class, and the attachment frame. -/
structure Arb where
  quota : Tab Nat
  grants : Nat
  last : Nat × Nat × Nat
  granted : Option Nat
deriving DecidableEq, Repr

/-- SPDM connection of an endpoint (R495): version agreed, capabilities exchanged, algorithms agreed; the messages of these
three, of digests and certificates, and of measurements since the last signature; and the last response. -/
structure Spdm where
  version : Bool
  caps : Bool
  algs : Bool
  vca : List Byte
  certs : List Byte
  meas : List Byte
  sent : List Byte
deriving DecidableEq, Repr

/-- A JTAG TAP (R545, R546): instruction register and what its data register captures. -/
structure Tap where
  ir : Byte
  dr : Nat
deriving DecidableEq, Repr

/-- An entry of the error log (R501). -/
structure LogEntry where
  seq : Nat
  code : Nat
  kind : Nat
  index : Nat
  count : Nat
  handle : Nat
  data1 : Nat
  data0 : Nat
deriving DecidableEq, Repr

/-- What the management complexes, the boot flash and the sideband hold beside registers. The error log
stands newest entry first. -/
structure Mgmt where
  flash : List Host.Cell
  bfBuf : List Byte
  bfPending : Option (Nat × Nat)
  wdogArmed : Bool
  booted : Option Nat
  trial : Bool
  fuseTarget : Option Nat
  fuseRevoke : Nat
  idPub : List Byte
  keyDigests : List (List Byte)
  signOut : List Byte
  spdm : Vector Spdm 3
  romVersion : List Byte
  fwImage : List Byte
  errlog : List LogEntry
  lastPoll : Tab Nat
  lastScan : Tab Nat
  pacemax : Tab Nat
  scanned : Tab Nat
  scans : Nat
  retired : Nat
  coreState : Tab Nat
  coreMap : List Nat
  pendingSub : List Nat
  wearTimer : Bool
  steward : Port
  bootSel : Bool
  moduleId : Nat
  eid : Byte
  receiver : Option Byte
  held : List LogEntry
  smbOut : List LogEntry
  /-- The last answer given on SMBus (R503, R530-R532). -/
  smbReply : List Byte
  taps : Vector Tap 4
  /-- The access of DBG_ACCESS in flight, and whether it writes; data of the last completed read, and ERR (R546). -/
  jtag : Option (Nat × Bool)
  jtagData : Word
  jtagErr : Bool
  powerTarget : Option Nat
  powerCmd : Option Nat
  lgConsumed : List Nat
  dumps : Nat
  /-- Service records that wait for the end of a supply warning: type, slots and content (R52). -/
  svcWait : List (Nat × Nat × List Byte)
  /-- Rows repaired for good, by controller and unit (R420). -/
  hardRepairs : List (Nat × Nat)
deriving DecidableEq, Repr

/-- Output pins of the sideband connector (R563, R564): true where the signal is asserted. -/
structure Pins where
  alert : Bool
  fatal : Bool
  lockup : Bool
  thermtrip : Bool
  pwrGood : Bool
  pwrEn : Bool
deriving DecidableEq, Repr

/-- The state of the module. -/
structure State where
  pending : List Instr
  /-- Grade of R1, coded as FEAT1.GRADE. Which grade a module has is its own; at reset the model's choice (log 1). -/
  grade : Fin 6
  /-- Control-space registers, by physical address. -/
  regs : Tab Word
  /-- Memory bytes, by physical address. -/
  mem : List Host.Cell
  /-- Poisoned 8-byte words of core and die memory, by physical address / 8 (R311). -/
  poison : List Nat
  /-- 8-byte words of core and die memory whose storage has failed (R311). -/
  failed : List Nat
  /-- Words of pinned instruction memories, by core, whose storage has failed (R311). -/
  imemFailed : List (Nat × Nat)
  /-- Cores whose memories cannot be read at all (R318). -/
  unreadable : List Nat
  /-- Interleave map: near-tier pages (PA / 2 MiB) that are device-wide (R97). -/
  ilv : List Nat
  /-- Page owner map: near and middle pages by PA / 2 MiB, die units by PA / 64 KiB (R92). -/
  owner : Tab Nat
  cores : Tab Core
  txns : List Txn
  sync : List SyncOp
  parked : List Parked
  inputs : List Parked
  msgs : List NetMsg
  tokens : List Token
  dmas : Tab Dma
  /-- The translation cache of each die's channels, by image slot x 2^27 + page (R407). -/
  dmaTlb : Tab (Tab (Option Word))
  arbs : Tab Arb
  images : Vector (Option Image) 16
  gens : Tab Nat
  loading : Option (Nat × List Byte)
  lastLoadPort : Port
  claimed : List Claimed
  ports : Vector PortSt 2
  /-- BAR2 accesses that wait, in order of arrival. -/
  bar2 : List (Port × Bar2Op)
  tiers : Tab Tier
  /-- By die: the channel its spare stands in for, or is being made to (R425). -/
  spareOf : Tab Nat
  /-- Rows of slices reported to Ahnal: die x 32 + slice, and row (R523). -/
  sliceReports : List (Nat × Nat)
  /-- Pages withdrawn until a channel has been spared, with that channel (R418). -/
  withdrawn : List (Nat × Nat)
  deep : Deep
  clk : Vector ClkSeq 14
  power : Power
  /-- By rail: consecutive windows blocked with the count below the armed floor's need (R32). -/
  breachWin : Tab Nat
  /-- Failures of each link wire since it came into use, by (cluster x 4 + port) x 1024 + wire (R522). -/
  wires : Tab Nat
  pins : Pins
  mgmt : Mgmt
  nextId : Nat
  /-- The model's own counter of free values drawn (not the spec's). -/
  free : Nat
deriving DecidableEq, Repr

/-- Why the block stops with a fault. There is no such reason: a command that the block's state does not
enable changes nothing (log 3), and every other command has a next state. -/
inductive Fault where
deriving DecidableEq, Repr

/-- Why the block refuses a command. -/
inductive Refusal where
  /-- Raised by an arm of `exec` that has no meaning yet; safe, since nothing is claimed of it. -/
  | notModelled (mnemonic : String)
deriving DecidableEq, Repr

/-- A thread before anything starts it (R137, R189, R214): NOT_STARTED, registers 0, LFSR 1. -/
def Thread.reset : Thread where
  st := .notStarted
  stall := .none
  pc := 0
  d := .replicate 32 0
  a := .replicate 16 0
  m := .replicate 16 0
  p := .replicate 8 0
  flags := 0
  sc := .replicate 4 0
  lc := .replicate 3 0
  ls := .replicate 3 0
  le := .replicate 3 0
  lstat := 0
  repcnt := 0
  rplstat := 0
  replay := .replicate 32 0
  rstack := []
  rsctl := 0
  compose := .replicate 8 0
  tstatus := 0
  tsbp := 0
  tsblim := 0
  ipend := 0
  ien := 0
  arith := 0
  fpctl := 0
  excInfo := 0
  hscd := 0
  lfsr := 1
  tlprog := 0
  trFault := 0
  waitPassed := false
  gate := []
  fetched := []
  flights := []
  owed := []
  steps := []
  phase := none
  tileOps := []
  imprecise := []
  entry := none
  notif := none
  halt := .none
  haltReq := false
  stepping := false
  bpPassed := false
  entering := none
  stepTrap := none
  pendPriv := 0

/-- A queue before any message (R344, R350): empty, open, THRESH 1. -/
def Queue.reset : Queue where
  msgs := []
  pos := 0
  closed := false
  armed := false
  thresh := 1
  round := none
  owedRounds := []
  seq := 0

/-- A T tile at reset (R217): EMPTY, 32 rows of 64 bytes, format 0b000. -/
def TTile.reset : TTile where
  rows := 32
  rowBytes := 64
  fmt := 0
  held := false
  lastt := 0
  data := []

/-- A Z tile at reset (R217): EMPTY, FP32. -/
def ZTile.reset : ZTile where
  zfmt := 0
  held := false
  lastt := 0
  data := []

/-- A core at reset: caches invalid, tiles EMPTY, queues empty. -/
def Core.reset : Core where
  thr := .replicate 4 Thread.reset
  dtbase := 0
  threadFault := 0
  tspc := .replicate 4 0
  tssp := .replicate 4 0
  tsarg := .replicate 4 0
  tstsb := .replicate 4 0
  tspriv := 0
  lock := 0
  lastIssue := 0
  next := none
  tlb := []
  dcache := { lines := [], plru := [] }
  icache := { lines := [], plru := [] }
  side := []
  imem := []
  imemPoison := []
  irlog := []
  tt := []
  zt := []
  reuse := []
  mx := { running := none, queued := none, ending := none }
  vx := { running := none, queued := none, ending := none }
  queues := .replicate 8 Queue.reset
  lastArr := []
  partEnd := none
  nextKey := 0

/-- A DMA channel's hidden state at reset (R379): nothing fetched, no MOVE. -/
def Dma.reset : Dma where
  fetched := none
  begun := false
  move := none
  page := none
  poison := false

/-- A ring's hidden state at reset (R450). -/
def RingSt.reset : RingSt where
  ahead := []
  waitPassed := false
  parked := false
  reserved := 0
  last := none
  toClaim := false
  again := false

/-- A port after PWR_GOOD rises: link down, in D0, its PERST signal still asserted (R482, R562). -/
def PortSt.reset : PortSt where
  up := false
  downLong := false
  d3 := false
  perst := true
  wake := false
  bar2Log2 := 30
  mps := 0
  mrrs := 2
  ctoCode := 0
  ctoOff := false
  aer := 0
  aerMask := 0
  aerSev := 0x46_2030
  rings := .replicate 8 RingSt.reset
  out := []

/-- A tier controller at reset: empty poison list, no burst. -/
def Tier.reset : Tier where
  plist := []
  midBad := []
  burstTaken := false
  burst := none
  calls := []
  crcWindow := 0
  retrainLeft := 0
  lastTemp := 0
  postponed := 0
  lanes := []
  softRepairs := []
  rowSeen := []
  reports := []
  repairFails := 0
  exhMark := 0
  spareBad := false

/-- A clock-domain sequencer at reset (R42): idle. -/
def ClkSeq.reset : ClkSeq where
  target := none
  rising := false
  second := false
  held := none
  supply := 0

/-- A port arbiter at reset: every quota counter 0 (R79). -/
def Arb.reset : Arb where
  quota := []
  grants := 0
  last := (0, 0, 0)
  granted := none

/-- An SPDM connection before GET_VERSION (R496). -/
def Spdm.reset : Spdm where
  version := false
  caps := false
  algs := false
  vca := []
  certs := []
  meas := []
  sent := []

/-- The deep tier at reset: nothing written. -/
def Deep.reset : Deep where
  pages := []
  ops := []
  mirror := none
  objects := []
  pageIns := []
  pageOuts := []
  frames := []
  readOnly := false
  unread := []
  closed := []

/-- The management complexes, boot flash and sideband after PWR_GOOD rises. Fused and manufactured values
that the spec leaves to the module are the model's choice (log 1, log 4). -/
def Mgmt.reset : Mgmt where
  flash := []
  bfBuf := List.replicate 256 0
  bfPending := none
  wdogArmed := false
  booted := none
  trial := false
  fuseTarget := none
  fuseRevoke := 0
  idPub := List.replicate 32 0
  keyDigests := List.replicate 3 (List.replicate 64 0)
  signOut := List.replicate 64 0
  spdm := .replicate 3 Spdm.reset
  romVersion := List.replicate 16 0
  fwImage := []
  errlog := []
  lastPoll := []
  lastScan := []
  pacemax := []
  scanned := []
  scans := 0
  retired := 0
  coreState := []
  coreMap := List.range 1024
  pendingSub := []
  wearTimer := false
  steward := 0
  bootSel := false
  moduleId := 0
  eid := 0
  receiver := none
  held := []
  smbOut := []
  smbReply := []
  taps := .replicate 4 { ir := 1, dr := 0 }
  jtag := none
  jtagData := 0
  jtagErr := false
  powerTarget := none
  powerCmd := none
  lgConsumed := []
  dumps := 0
  svcWait := []
  hardRepairs := []

/-- The module right after reset: PWR_GOOD has risen and step 1 of the boot has not begun (log 5); DESIGN CHOICE: its grade is
HK-1024F, code 0, where the spec leaves the grade to the module (log 1); no
register differs from its reset value, no memory byte is listed, the command queue is empty. -/
def State.reset : State where
  pending := []
  grade := 0
  regs := []
  mem := []
  poison := []
  failed := []
  imemFailed := []
  unreadable := []
  ilv := []
  owner := []
  cores := []
  txns := []
  sync := []
  parked := []
  inputs := []
  msgs := []
  tokens := []
  dmas := []
  dmaTlb := []
  arbs := []
  images := .replicate 16 none
  gens := []
  loading := none
  lastLoadPort := 1
  claimed := []
  ports := .replicate 2 PortSt.reset
  tiers := []
  bar2 := []
  spareOf := []
  sliceReports := []
  withdrawn := []
  deep := Deep.reset
  clk := .replicate 14 ClkSeq.reset
  power := .on
  breachWin := []
  wires := []
  pins := { alert := false, fatal := false, lockup := false, thermtrip := false, pwrGood := true, pwrEn := true }
  mgmt := Mgmt.reset
  nextId := 0
  free := 0

end Sys2Proof.Machine
end

