-- ==== Sys2Proof/Machine/Regs.lean ====
section
/-! DEFINITION. Control space (R100): the fields of every register map, with bit range, access, reset value
and listed encodings as the maps give them, the address of every register, and the reading and writing
of a register word by its map (R14, R15). A register whose value another part of the state holds is
computed in Control.lean. -/

namespace Sys2Proof.Machine

/-- The access codes of the register maps. -/
inductive Acc where
  | rw | ro | wo | w1c
deriving DecidableEq, Repr

/-- A field of a register map: bits `[hi:lo]`, access, reset value, and the ranges of listed encodings
(none given: all are listed). -/
structure Field where
  hi : Nat
  lo : Nat
  acc : Acc
  reset : Nat
  listed : List (Nat × Nat)
deriving DecidableEq, Repr

/-- Number of encodings of a field. -/
def Field.size (f : Field) : Nat := 2 ^ (f.hi + 1 - f.lo)

/-- The field's value in a register word. -/
def Field.get (f : Field) (w : Word) : Nat := w.toNat / 2 ^ f.lo % f.size

/-- The register word with the field set to a value (taken modulo the field's size). -/
def Field.put (f : Field) (w : Word) (v : Nat) : Word :=
  BitVec.ofNat 64 (w.toNat - f.get w * 2 ^ f.lo + v % f.size * 2 ^ f.lo)

/-- Whether an encoding is listed in the field's map (R15). -/
def Field.isListed (f : Field) (v : Nat) : Bool :=
  f.listed.isEmpty || f.listed.any fun r => decide (r.1 ≤ v ∧ v ≤ r.2)

/-- The word a map gives at reset. -/
def fieldsReset (fs : List Field) : Word := fs.foldl (fun w f => f.put w f.reset) 0

/-- What a read of a register returns: WO fields and RSV bits read as 0 (R14). -/
def fieldsRead (fs : List Field) (w : Word) : Word :=
  fs.foldl (fun r f => match f.acc with
    | .wo => r
    | _ => f.put r (f.get w)) 0

/-- The effect of a write on one field: RW takes a listed encoding (R15), W1C clears where 1 is written,
RO and WO keep nothing. -/
def Field.write (f : Field) (old new : Word) : Word :=
  match f.acc with
  | .rw => if f.isListed (f.get new) then f.put old (f.get new) else old
  | .w1c => f.put old (f.get (old &&& ~~~ new))
  | .ro | .wo => old

/-- The register word after a write (R14, R15). -/
def fieldsWrite (fs : List Field) (old new : Word) : Word :=
  fs.foldl (fun w f => f.write w new) old

/-- A register whose whole word is one field. -/
def wordField (acc : Acc) : List Field := [⟨63, 0, acc, 0, []⟩]

/-! FMC_CTRL (R22-R57). -/
def FMC_CTRL.SRC_A : Field := ⟨7, 0, .rw, 0, [(0, 3), (16, 29), (64, 65)]⟩
def FMC_CTRL.SRC_B : Field := ⟨15, 8, .rw, 0, [(0, 3), (16, 29), (64, 65)]⟩
def FMC_CTRL.SEL_A : Field := ⟨28, 16, .rw, 0, []⟩
def FMC_CTRL.SEL_B : Field := ⟨44, 32, .rw, 0, []⟩
def FMC_CTRL.GATE_N : Field := ⟨63, 48, .rw, 256, [(1, 65535)]⟩
def FMC_CTRL : List Field := [FMC_CTRL.SRC_A, FMC_CTRL.SRC_B, FMC_CTRL.SEL_A, FMC_CTRL.SEL_B, FMC_CTRL.GATE_N]

/-! FMC_RESULT (R22-R57). -/
def FMC_RESULT.COUNT : Field := ⟨31, 0, .ro, 0, []⟩
def FMC_RESULT.DONE : Field := ⟨32, 32, .ro, 0, []⟩
def FMC_RESULT.TIMEOUT : Field := ⟨33, 33, .ro, 0, []⟩
def FMC_RESULT.BUSY : Field := ⟨34, 34, .ro, 0, []⟩
def FMC_RESULT.START : Field := ⟨48, 48, .wo, 0, []⟩
def FMC_RESULT : List Field := [FMC_RESULT.COUNT, FMC_RESULT.DONE, FMC_RESULT.TIMEOUT, FMC_RESULT.BUSY, FMC_RESULT.START]

/-! GOV_CTRL (R22-R57). -/
def GOV_CTRL.EN : Field := ⟨0, 0, .rw, 0, []⟩
def GOV_CTRL : List Field := [GOV_CTRL.EN]

/-! GOV_LIMITS (R22-R57). -/
def GOV_LIMITS.TLIMIT : Field := ⟨7, 0, .rw, 103, [(60, 105)]⟩
def GOV_LIMITS.PLIMIT : Field := ⟨27, 16, .rw, 1650, [(1000, 1650)]⟩
def GOV_LIMITS : List Field := [GOV_LIMITS.TLIMIT, GOV_LIMITS.PLIMIT]

/-! GOV_SET (R22-R57). -/
def GOV_SET.FLOOR : Field := ⟨10, 0, .rw, 0, [(0, 0), (900, 1900)]⟩
def GOV_SET.CEIL : Field := ⟨26, 16, .rw, 0, [(0, 0), (900, 2000)]⟩
def GOV_SET.GATE : Field := ⟨32, 32, .rw, 0, []⟩
def GOV_SET.BFLOOR : Field := ⟨43, 33, .rw, 0, [(0, 0), (900, 1900)]⟩
def GOV_SET : List Field := [GOV_SET.FLOOR, GOV_SET.CEIL, GOV_SET.GATE, GOV_SET.BFLOOR]
/-- GOV_SET of a die: GATE belongs to clusters only. -/
def GOV_SET.die : List Field := GOV_SET.filter (· ≠ GOV_SET.GATE)

/-! GOV_STAT (R22-R57). -/
def GOV_STAT.RAIL : Field := ⟨5, 0, .ro, 30, []⟩
def GOV_STAT.PACE : Field := ⟨23, 8, .ro, 0, []⟩
def GOV_STAT.TEMP : Field := ⟨39, 24, .ro, 0, []⟩
def GOV_STAT.HOT : Field := ⟨40, 40, .ro, 0, []⟩
def GOV_STAT.BLOCKED : Field := ⟨41, 41, .ro, 0, []⟩
def GOV_STAT.BREACH : Field := ⟨42, 42, .w1c, 0, []⟩
def GOV_STAT.FORCED : Field := ⟨43, 43, .ro, 0, []⟩
def GOV_STAT.BLOCKED_WIN : Field := ⟨55, 48, .ro, 0, []⟩
def GOV_STAT : List Field := [GOV_STAT.RAIL, GOV_STAT.PACE, GOV_STAT.TEMP, GOV_STAT.HOT, GOV_STAT.BLOCKED, GOV_STAT.BREACH, GOV_STAT.FORCED, GOV_STAT.BLOCKED_WIN]

/-! PWR_STATE (R22-R57). -/
def PWR_STATE.STATE : Field := ⟨1, 0, .ro, 0, []⟩
def PWR_STATE.REQ : Field := ⟨9, 8, .wo, 0, []⟩
def PWR_STATE : List Field := [PWR_STATE.STATE, PWR_STATE.REQ]

/-! CLKD_CTRL (R22-R57). -/
def CLKD_CTRL.OPP : Field := ⟨2, 0, .rw, 0, []⟩
def CLKD_CTRL.SRC : Field := ⟨4, 4, .rw, 1, []⟩
def CLKD_CTRL.LOOP_EN : Field := ⟨5, 5, .rw, 0, []⟩
def CLKD_CTRL : List Field := [CLKD_CTRL.OPP, CLKD_CTRL.SRC, CLKD_CTRL.LOOP_EN]

/-! CLKD_STAT (R22-R57). -/
def CLKD_STAT.LOCK : Field := ⟨0, 0, .ro, 0, []⟩
def CLKD_STAT.COAST : Field := ⟨1, 1, .ro, 0, []⟩
def CLKD_STAT.COAST_SEEN : Field := ⟨2, 2, .w1c, 0, []⟩
def CLKD_STAT.SEL : Field := ⟨3, 3, .ro, 1, []⟩
def CLKD_STAT.SWITCHING : Field := ⟨4, 4, .ro, 0, []⟩
def CLKD_STAT.WDOG_RESET : Field := ⟨5, 5, .w1c, 0, []⟩
def CLKD_STAT.CUR_OPP : Field := ⟨8, 6, .ro, 0, []⟩
def CLKD_STAT.SEQ_BUSY : Field := ⟨9, 9, .ro, 0, []⟩
def CLKD_STAT : List Field := [CLKD_STAT.LOCK, CLKD_STAT.COAST, CLKD_STAT.COAST_SEEN, CLKD_STAT.SEL, CLKD_STAT.SWITCHING, CLKD_STAT.WDOG_RESET, CLKD_STAT.CUR_OPP, CLKD_STAT.SEQ_BUSY]

/-! CLKD_OPP0-CLKD_OPP7 (R22-R57). -/
def CLKD_OPP.FREQ : Field := ⟨11, 0, .rw, 0, []⟩
def CLKD_OPP.VOLT : Field := ⟨23, 16, .rw, 0, [(0, 140)]⟩
def CLKD_OPP.VALID : Field := ⟨31, 31, .rw, 0, []⟩
def CLKD_OPP : List Field := [CLKD_OPP.FREQ, CLKD_OPP.VOLT, CLKD_OPP.VALID]
/-- The output range of a domain's loop, in MHz (the table of clocked edges). -/
def loopRange (n : Nat) : Nat × Nat :=
  if n < 4 then (400, 2000) else if n < 8 then (400, 1600) else if n < 10 then (200, 800) else if n < 12 then (500, 1000) else (250, 1000)
/-- CLKD_OPP of a domain: FREQ lists the frequencies of its loop's range (R15, R50). -/
def CLKD_OPP.within (n : Nat) : List Field :=
  CLKD_OPP.map fun f => if f = CLKD_OPP.FREQ then { f with listed := [loopRange n] } else f

/-! SUPPLY_STAT (R22-R57). -/
def SUPPLY_STAT.VIN : Field := ⟨12, 0, .ro, 0, []⟩
def SUPPLY_STAT.WARN : Field := ⟨16, 16, .ro, 0, []⟩
def SUPPLY_STAT.ELASTIC_FORCED : Field := ⟨17, 17, .ro, 0, []⟩
def SUPPLY_STAT.PIN : Field := ⟨31, 20, .ro, 0, []⟩
def SUPPLY_STAT.LG_FREE : Field := ⟨43, 32, .ro, 0, []⟩
def SUPPLY_STAT : List Field := [SUPPLY_STAT.VIN, SUPPLY_STAT.WARN, SUPPLY_STAT.ELASTIC_FORCED, SUPPLY_STAT.PIN, SUPPLY_STAT.LG_FREE]

/-! SUPPLY_EVT (R22-R57). -/
def SUPPLY_EVT.WARN_SEEN : Field := ⟨0, 0, .w1c, 0, []⟩
def SUPPLY_EVT.LG_WRITTEN : Field := ⟨1, 1, .w1c, 0, []⟩
def SUPPLY_EVT.LG_MISSED : Field := ⟨2, 2, .w1c, 0, []⟩
def SUPPLY_EVT.UV_RESET : Field := ⟨3, 3, .w1c, 0, []⟩
def SUPPLY_EVT.OV_RESET : Field := ⟨4, 4, .w1c, 0, []⟩
def SUPPLY_EVT.WARN_COUNT : Field := ⟨31, 16, .ro, 0, []⟩
def SUPPLY_EVT : List Field := [SUPPLY_EVT.WARN_SEEN, SUPPLY_EVT.LG_WRITTEN, SUPPLY_EVT.LG_MISSED, SUPPLY_EVT.UV_RESET, SUPPLY_EVT.OV_RESET, SUPPLY_EVT.WARN_COUNT]

/-! Level-1 entry (R89-R131). -/
def PTE1.V : Field := ⟨0, 0, .rw, 0, []⟩
def PTE1.L2 : Field := ⟨47, 15, .rw, 0, []⟩
def PTE1 : List Field := [PTE1.V, PTE1.L2]

/-! Level-2 entry (R89-R131). -/
def PTE2.V : Field := ⟨0, 0, .rw, 0, []⟩
def PTE2.W : Field := ⟨1, 1, .rw, 0, []⟩
def PTE2.X : Field := ⟨2, 2, .rw, 0, []⟩
def PTE2.C : Field := ⟨3, 3, .rw, 0, []⟩
def PTE2.PIN : Field := ⟨4, 4, .rw, 0, []⟩
def PTE2.ILV : Field := ⟨5, 5, .rw, 0, []⟩
def PTE2.RES : Field := ⟨6, 6, .rw, 0, []⟩
def PTE2.DEEP : Field := ⟨7, 7, .rw, 0, []⟩
def PTE2.PPA : Field := ⟨47, 21, .rw, 0, []⟩
def PTE2.SW : Field := ⟨63, 56, .rw, 0, []⟩
def PTE2 : List Field := [PTE2.V, PTE2.W, PTE2.X, PTE2.C, PTE2.PIN, PTE2.ILV, PTE2.RES, PTE2.DEEP, PTE2.PPA, PTE2.SW]

/-! TR_ROOT (R89-R131). -/
def TR_ROOT.EN : Field := ⟨0, 0, .rw, 0, []⟩
def TR_ROOT.ROOT : Field := ⟨47, 15, .rw, 0, []⟩
def TR_ROOT : List Field := [TR_ROOT.EN, TR_ROOT.ROOT]

/-! TR_INV (R89-R131). -/
def TR_INV.ALL : Field := ⟨0, 0, .wo, 0, []⟩
def TR_INV.ONE : Field := ⟨1, 1, .wo, 0, []⟩
def TR_INV.BUSY : Field := ⟨2, 2, .ro, 0, []⟩
def TR_INV.VPN : Field := ⟨58, 32, .rw, 0, []⟩
def TR_INV : List Field := [TR_INV.ALL, TR_INV.ONE, TR_INV.BUSY, TR_INV.VPN]

/-! TR_STAT (R89-R131). -/
def TR_STAT.WALKS : Field := ⟨31, 0, .ro, 0, []⟩
def TR_STAT.PAGE_INS : Field := ⟨47, 32, .ro, 0, []⟩
def TR_STAT : List Field := [TR_STAT.WALKS, TR_STAT.PAGE_INS]

/-! TR_FAULT0-TR_FAULT3 (R89-R131). -/
def TR_FAULT.VA : Field := ⟨47, 0, .ro, 0, []⟩
def TR_FAULT.CAUSE : Field := ⟨51, 48, .ro, 0, []⟩
def TR_FAULT.WRITE : Field := ⟨52, 52, .ro, 0, []⟩
def TR_FAULT.FETCH : Field := ⟨53, 53, .ro, 0, []⟩
def TR_FAULT : List Field := [TR_FAULT.VA, TR_FAULT.CAUSE, TR_FAULT.WRITE, TR_FAULT.FETCH]

/-! Handle entry, word 0 (R89-R131). -/
def HANDLE0.BASE : Field := ⟨47, 0, .ro, 0, []⟩
def HANDLE0.KIND : Field := ⟨50, 48, .ro, 0, []⟩
def HANDLE0.R : Field := ⟨51, 51, .ro, 0, []⟩
def HANDLE0.W : Field := ⟨52, 52, .ro, 0, []⟩
def HANDLE0.C : Field := ⟨53, 53, .ro, 0, []⟩
def HANDLE0 : List Field := [HANDLE0.BASE, HANDLE0.KIND, HANDLE0.R, HANDLE0.W, HANDLE0.C]

/-! Handle entry, word 1 (R89-R131). -/
def HANDLE1.LIMIT : Field := ⟨37, 0, .ro, 0, []⟩
def HANDLE1 : List Field := [HANDLE1.LIMIT]

/-! SC0-SC3 (R133-R188). -/
def SC.CORE : Field := ⟨9, 0, .rw, 0, []⟩
def SC.INDEX : Field := ⟨23, 16, .rw, 0, []⟩
def SC.KIND : Field := ⟨24, 24, .rw, 0, []⟩
def SC.MODE : Field := ⟨25, 25, .rw, 0, []⟩
def SC.WAIT_N : Field := ⟨47, 32, .rw, 0, []⟩
def SC.SIG_N : Field := ⟨63, 48, .rw, 0, []⟩
def SC : List Field := [SC.CORE, SC.INDEX, SC.KIND, SC.MODE, SC.WAIT_N, SC.SIG_N]

/-! FLAGS (R133-R188). -/
def FLAGS.F1 : Field := ⟨7, 4, .ro, 0, []⟩
def FLAGS.F2 : Field := ⟨11, 8, .ro, 0, []⟩
def FLAGS.F3 : Field := ⟨15, 12, .ro, 0, []⟩
def FLAGS.F4 : Field := ⟨19, 16, .ro, 0, []⟩
def FLAGS.F5 : Field := ⟨23, 20, .ro, 0, []⟩
def FLAGS.F6 : Field := ⟨27, 24, .ro, 0, []⟩
def FLAGS.F7 : Field := ⟨31, 28, .ro, 0, []⟩
def FLAGS.F8 : Field := ⟨35, 32, .ro, 0, []⟩
def FLAGS.F9 : Field := ⟨39, 36, .ro, 0, []⟩
def FLAGS.F10 : Field := ⟨43, 40, .ro, 0, []⟩
def FLAGS.F11 : Field := ⟨47, 44, .ro, 0, []⟩
def FLAGS : List Field := [FLAGS.F1, FLAGS.F2, FLAGS.F3, FLAGS.F4, FLAGS.F5, FLAGS.F6, FLAGS.F7, FLAGS.F8, FLAGS.F9, FLAGS.F10, FLAGS.F11]

/-! REPCNT (R133-R188). -/
def REPCNT.COUNT : Field := ⟨15, 0, .rw, 0, []⟩
def REPCNT.ACTIVE : Field := ⟨16, 16, .rw, 0, []⟩
def REPCNT : List Field := [REPCNT.COUNT, REPCNT.ACTIVE]

/-! LSTAT (R133-R188). -/
def LSTAT.DEPTH : Field := ⟨1, 0, .rw, 0, []⟩
def LSTAT : List Field := [LSTAT.DEPTH]

/-! RPLSTAT (R133-R188). -/
def RPLSTAT.LEN : Field := ⟨5, 0, .ro, 0, []⟩
def RPLSTAT.IDX : Field := ⟨13, 8, .rw, 0, [(0, 31)]⟩
def RPLSTAT.ACTIVE : Field := ⟨16, 16, .rw, 0, []⟩
def RPLSTAT : List Field := [RPLSTAT.LEN, RPLSTAT.IDX, RPLSTAT.ACTIVE]

/-! RSCTL (R133-R188). -/
def RSCTL.MODE : Field := ⟨0, 0, .rw, 0, []⟩
def RSCTL.LOST : Field := ⟨1, 1, .w1c, 0, []⟩
def RSCTL.UNDER : Field := ⟨2, 2, .ro, 0, []⟩
def RSCTL.DEPTH : Field := ⟨12, 8, .ro, 0, []⟩
def RSCTL : List Field := [RSCTL.MODE, RSCTL.LOST, RSCTL.UNDER, RSCTL.DEPTH]

/-! FEAT0, core features (R133-R188). -/
def FEAT0.PIMEM : Field := ⟨0, 0, .ro, 1, []⟩
def FEAT0.REPLAY : Field := ⟨1, 1, .ro, 1, []⟩
def FEAT0.LOOP3 : Field := ⟨2, 2, .ro, 1, []⟩
def FEAT0.RSTRAP : Field := ⟨3, 3, .ro, 1, []⟩
def FEAT0.SFP32 : Field := ⟨4, 4, .ro, 1, []⟩
def FEAT0.PRECISE : Field := ⟨5, 5, .ro, 1, []⟩
def FEAT0.STOCH : Field := ⟨6, 6, .ro, 1, []⟩
def FEAT0.ATOMHOME : Field := ⟨7, 7, .ro, 1, []⟩
def FEAT0.COMBINE : Field := ⟨8, 8, .ro, 1, []⟩
def FEAT0.MCAST : Field := ⟨9, 9, .ro, 1, []⟩
def FEAT0 : List Field := [FEAT0.PIMEM, FEAT0.REPLAY, FEAT0.LOOP3, FEAT0.RSTRAP, FEAT0.SFP32, FEAT0.PRECISE, FEAT0.STOCH, FEAT0.ATOMHOME, FEAT0.COMBINE, FEAT0.MCAST]

/-! FEAT1, identification (R133-R188). -/
def FEAT1.ISA : Field := ⟨7, 0, .ro, 1, []⟩
def FEAT1.STEP : Field := ⟨15, 8, .ro, 176, []⟩
def FEAT1.GRADE : Field := ⟨18, 16, .ro, 0, []⟩
def FEAT1.DEEP : Field := ⟨19, 19, .ro, 0, []⟩
def FEAT1.ACTIVE : Field := ⟨30, 20, .ro, 0, []⟩
def FEAT1 : List Field := [FEAT1.ISA, FEAT1.STEP, FEAT1.GRADE, FEAT1.DEEP, FEAT1.ACTIVE]

/-! FEAT2, number formats (R133-R188). -/
def FEAT2.BF16 : Field := ⟨0, 0, .ro, 1, []⟩
def FEAT2.FP16 : Field := ⟨1, 1, .ro, 1, []⟩
def FEAT2.E4M3 : Field := ⟨2, 2, .ro, 1, []⟩
def FEAT2.E5M2 : Field := ⟨3, 3, .ro, 1, []⟩
def FEAT2.MXFP8 : Field := ⟨4, 4, .ro, 1, []⟩
def FEAT2.MXFP6 : Field := ⟨5, 5, .ro, 1, []⟩
def FEAT2.MXFP4 : Field := ⟨6, 6, .ro, 1, []⟩
def FEAT2.MXINT8 : Field := ⟨7, 7, .ro, 1, []⟩
def FEAT2.INT8 : Field := ⟨8, 8, .ro, 1, []⟩
def FEAT2.INT4 : Field := ⟨9, 9, .ro, 1, []⟩
def FEAT2.PAL4 : Field := ⟨10, 10, .ro, 1, []⟩
def FEAT2.PAL2 : Field := ⟨11, 11, .ro, 1, []⟩
def FEAT2.FP32P : Field := ⟨12, 12, .ro, 1, []⟩
def FEAT2 : List Field := [FEAT2.BF16, FEAT2.FP16, FEAT2.E4M3, FEAT2.E5M2, FEAT2.MXFP8, FEAT2.MXFP6, FEAT2.MXFP4, FEAT2.MXINT8, FEAT2.INT8, FEAT2.INT4, FEAT2.PAL4, FEAT2.PAL2, FEAT2.FP32P]

/-! FEAT3, sizes (R133-R188). -/
def FEAT3.ICACHE : Field := ⟨7, 0, .ro, 64, []⟩
def FEAT3.IMEM : Field := ⟨15, 8, .ro, 64, []⟩
def FEAT3.DCACHE : Field := ⟨23, 16, .ro, 64, []⟩
def FEAT3.CMEM : Field := ⟨35, 24, .ro, 512, []⟩
def FEAT3.HANDLES : Field := ⟨43, 36, .ro, 64, []⟩
def FEAT3.TLB : Field := ⟨52, 44, .ro, 256, []⟩
def FEAT3.QUEUES : Field := ⟨56, 53, .ro, 8, []⟩
def FEAT3.RSDEPTH : Field := ⟨61, 57, .ro, 16, []⟩
def FEAT3 : List Field := [FEAT3.ICACHE, FEAT3.IMEM, FEAT3.DCACHE, FEAT3.CMEM, FEAT3.HANDLES, FEAT3.TLB, FEAT3.QUEUES, FEAT3.RSDEPTH]

/-! IRL_CTRL (R133-R188). -/
def IRL_CTRL.COUNT : Field := ⟨31, 0, .ro, 0, []⟩
def IRL_CTRL.THRESH : Field := ⟨47, 32, .rw, 0, []⟩
def IRL_CTRL.CLR : Field := ⟨48, 48, .wo, 0, []⟩
def IRL_CTRL.HIT : Field := ⟨49, 49, .ro, 0, []⟩
def IRL_CTRL.NEXT : Field := ⟨59, 56, .ro, 0, []⟩
def IRL_CTRL : List Field := [IRL_CTRL.COUNT, IRL_CTRL.THRESH, IRL_CTRL.CLR, IRL_CTRL.HIT, IRL_CTRL.NEXT]

/-! Descriptor entry, word 0 (R189-R215). -/
def DESC0.HANDLER : Field := ⟨47, 3, .rw, 0, []⟩
def DESC0.V : Field := ⟨48, 48, .rw, 0, []⟩
def DESC0.PRIV : Field := ⟨49, 49, .rw, 0, []⟩
def DESC0.MASK : Field := ⟨50, 50, .rw, 0, []⟩
def DESC0.SELF : Field := ⟨51, 51, .rw, 0, []⟩
def DESC0.KEEPSP : Field := ⟨52, 52, .rw, 0, []⟩
def DESC0 : List Field := [DESC0.HANDLER, DESC0.V, DESC0.PRIV, DESC0.MASK, DESC0.SELF, DESC0.KEEPSP]

/-! Descriptor entry, word 1 (R189-R215). -/
def DESC1.SP : Field := ⟨47, 0, .rw, 0, []⟩
def DESC1 : List Field := [DESC1.SP]

/-! LOCKUP_STAT (R189-R215). -/
def LOCKUP_STAT.CORE : Field := ⟨10, 0, .ro, 0, []⟩
def LOCKUP_STAT.THREAD : Field := ⟨12, 11, .ro, 0, []⟩
def LOCKUP_STAT.VECTOR : Field := ⟨21, 16, .ro, 0, []⟩
def LOCKUP_STAT.REASON : Field := ⟨27, 24, .ro, 0, []⟩
def LOCKUP_STAT.VALID : Field := ⟨31, 31, .w1c, 0, []⟩
def LOCKUP_STAT.COUNT : Field := ⟨47, 32, .ro, 0, []⟩
def LOCKUP_STAT : List Field := [LOCKUP_STAT.CORE, LOCKUP_STAT.THREAD, LOCKUP_STAT.VECTOR, LOCKUP_STAT.REASON, LOCKUP_STAT.VALID, LOCKUP_STAT.COUNT]

/-! TSTATUS (R189-R215). -/
def TSTATUS.PRIV : Field := ⟨0, 0, .ro, 0, []⟩
def TSTATUS.IE : Field := ⟨1, 1, .rw, 0, []⟩
def TSTATUS.SS : Field := ⟨2, 2, .rw, 0, []⟩
def TSTATUS.URGENT : Field := ⟨3, 3, .rw, 0, []⟩
def TSTATUS.DEPTH : Field := ⟨15, 8, .ro, 0, []⟩
def TSTATUS : List Field := [TSTATUS.PRIV, TSTATUS.IE, TSTATUS.SS, TSTATUS.URGENT, TSTATUS.DEPTH]

/-! TSBP (R189-R215). -/
def TSBP.OFFSET : Field := ⟨19, 8, .rw, 0, [(0, 2048)]⟩
def TSBP : List Field := [TSBP.OFFSET]

/-! DTBASE (R189-R215). -/
def DTBASE.OFFSET : Field := ⟨18, 10, .rw, 0, []⟩
def DTBASE : List Field := [DTBASE.OFFSET]

/-! IPEND (R189-R215). -/
def IPEND.VEC : Field := ⟨5, 0, .ro, 0, []⟩
def IPEND : List Field := [IPEND.VEC]

/-! ARITH (R189-R215). -/
def ARITH.NV : Field := ⟨0, 0, .w1c, 0, []⟩
def ARITH.OF : Field := ⟨1, 1, .w1c, 0, []⟩
def ARITH.UF : Field := ⟨2, 2, .w1c, 0, []⟩
def ARITH.NX : Field := ⟨3, 3, .w1c, 0, []⟩
def ARITH.EN : Field := ⟨11, 8, .rw, 0, []⟩
def ARITH.PEND : Field := ⟨12, 12, .ro, 0, []⟩
def ARITH.SRC_PC : Field := ⟨63, 16, .ro, 0, []⟩
def ARITH : List Field := [ARITH.NV, ARITH.OF, ARITH.UF, ARITH.NX, ARITH.EN, ARITH.PEND, ARITH.SRC_PC]

/-! FPCTL (R189-R215). -/
def FPCTL.RMODE : Field := ⟨1, 0, .rw, 0, [(0, 2)]⟩
def FPCTL.PRECISE : Field := ⟨2, 2, .rw, 0, []⟩
def FPCTL : List Field := [FPCTL.RMODE, FPCTL.PRECISE]

/-! EXC_INFO (R189-R215). -/
def EXC_INFO.VECTOR : Field := ⟨5, 0, .ro, 0, []⟩
def EXC_INFO.CAUSE : Field := ⟨11, 8, .ro, 0, []⟩
def EXC_INFO.IMPRECISE : Field := ⟨12, 12, .ro, 0, []⟩
def EXC_INFO.PRIV : Field := ⟨13, 13, .ro, 0, []⟩
def EXC_INFO.EXC_PC : Field := ⟨63, 16, .ro, 0, []⟩
def EXC_INFO : List Field := [EXC_INFO.VECTOR, EXC_INFO.CAUSE, EXC_INFO.IMPRECISE, EXC_INFO.PRIV, EXC_INFO.EXC_PC]

/-! THREAD_FAULT (R189-R215). -/
def THREAD_FAULT.NEW : Field := ⟨3, 1, .w1c, 0, []⟩
def THREAD_FAULT.VECTOR1 : Field := ⟨13, 8, .ro, 0, []⟩
def THREAD_FAULT.VECTOR2 : Field := ⟨21, 16, .ro, 0, []⟩
def THREAD_FAULT.VECTOR3 : Field := ⟨29, 24, .ro, 0, []⟩
def THREAD_FAULT : List Field := [THREAD_FAULT.NEW, THREAD_FAULT.VECTOR1, THREAD_FAULT.VECTOR2, THREAD_FAULT.VECTOR3]

/-! HSCD (R189-R215). -/
def HSCD.COUNT : Field := ⟨31, 0, .rw, 0, []⟩
def HSCD.EN : Field := ⟨32, 32, .rw, 0, []⟩
def HSCD : List Field := [HSCD.COUNT, HSCD.EN]

/-! TDESC, the descriptor of a T tile (R217-R256). -/
def TDESC.ROWS : Field := ⟨4, 0, .ro, 31, []⟩
def TDESC.ROWB : Field := ⟨8, 5, .ro, 15, []⟩
def TDESC.FMT : Field := ⟨11, 9, .ro, 0, []⟩
def TDESC.HELD : Field := ⟨16, 16, .ro, 0, []⟩
def TDESC.BUSY : Field := ⟨17, 17, .ro, 0, []⟩
def TDESC.LASTT : Field := ⟨19, 18, .ro, 0, []⟩
def TDESC.ELEMS : Field := ⟨31, 24, .ro, 16, []⟩
def TDESC.SIZE : Field := ⟨43, 32, .ro, 2048, []⟩
def TDESC : List Field := [TDESC.ROWS, TDESC.ROWB, TDESC.FMT, TDESC.HELD, TDESC.BUSY, TDESC.LASTT, TDESC.ELEMS, TDESC.SIZE]

/-! ZSTATE, the state word of a Z tile (R217-R256). -/
def ZSTATE.ZFMT : Field := ⟨1, 0, .ro, 0, []⟩
def ZSTATE.HELD : Field := ⟨16, 16, .ro, 0, []⟩
def ZSTATE.BUSY : Field := ⟨17, 17, .ro, 0, []⟩
def ZSTATE.LASTT : Field := ⟨19, 18, .ro, 0, []⟩
def ZSTATE : List Field := [ZSTATE.ZFMT, ZSTATE.HELD, ZSTATE.BUSY, ZSTATE.LASTT]

/-! TLPROG, per thread (R217-R256). -/
def TLPROG.ROW : Field := ⟨4, 0, .ro, 0, []⟩
def TLPROG.SLOT : Field := ⟨9, 5, .ro, 0, []⟩
def TLPROG.ACTIVE : Field := ⟨10, 10, .ro, 0, []⟩
def TLPROG.KIND : Field := ⟨12, 11, .ro, 0, []⟩
def TLPROG.HDR : Field := ⟨13, 13, .ro, 0, []⟩
def TLPROG : List Field := [TLPROG.ROW, TLPROG.SLOT, TLPROG.ACTIVE, TLPROG.KIND, TLPROG.HDR]

/-! MX_STAT (R278). -/
def MX_STAT.BUSY : Field := ⟨0, 0, .ro, 0, []⟩
def MX_STAT.QUEUED : Field := ⟨1, 1, .ro, 0, []⟩
def MX_STAT.THREAD : Field := ⟨3, 2, .ro, 0, []⟩
def MX_STAT.DONE : Field := ⟨63, 32, .ro, 0, []⟩
def MX_STAT : List Field := [MX_STAT.BUSY, MX_STAT.QUEUED, MX_STAT.THREAD, MX_STAT.DONE]

/-! MX_BUSYHS (R278). -/
def MX_BUSYHS.HS : Field := ⟨47, 0, .ro, 0, []⟩
def MX_BUSYHS : List Field := [MX_BUSYHS.HS]

/-! LFSR (R305). -/
def LFSR.STATE : Field := ⟨31, 0, .rw, 1, [(1, 4294967295)]⟩
def LFSR : List Field := [LFSR.STATE]

/-! SLICE_STAT (R309-R333). -/
def SLICE_STAT.CE : Field := ⟨15, 0, .ro, 0, []⟩
def SLICE_STAT.UE : Field := ⟨31, 16, .ro, 0, []⟩
def SLICE_STAT.SPARE_USED : Field := ⟨37, 32, .ro, 0, []⟩
def SLICE_STAT.SWAP : Field := ⟨40, 40, .ro, 0, []⟩
def SLICE_STAT : List Field := [SLICE_STAT.CE, SLICE_STAT.UE, SLICE_STAT.SPARE_USED, SLICE_STAT.SWAP]

/-! IMEM_PTR (R309-R333). -/
def IMEM_PTR.WORD : Field := ⟨15, 3, .rw, 0, []⟩
def IMEM_PTR : List Field := [IMEM_PTR.WORD]

/-! IMEM_DATA (R309-R333). -/
def IMEM_DATA.DATA : Field := ⟨63, 0, .wo, 0, []⟩
def IMEM_DATA : List Field := [IMEM_DATA.DATA]

/-! IMEM_STAT (R309-R333). -/
def IMEM_STAT.WORDS : Field := ⟨15, 0, .ro, 0, []⟩
def IMEM_STAT.ERR : Field := ⟨16, 16, .w1c, 0, []⟩
def IMEM_STAT : List Field := [IMEM_STAT.WORDS, IMEM_STAT.ERR]

/-! CCTL (R309-R333). -/
def CCTL.DC_EN : Field := ⟨0, 0, .rw, 1, []⟩
def CCTL.IC_EN : Field := ⟨1, 1, .rw, 1, []⟩
def CCTL.PF_EN : Field := ⟨2, 2, .rw, 0, []⟩
def CCTL : List Field := [CCTL.DC_EN, CCTL.IC_EN, CCTL.PF_EN]

/-! CWAY (R309-R333). -/
def CWAY.DC_WAYDIS : Field := ⟨3, 0, .ro, 0, []⟩
def CWAY.IC_WAYDIS : Field := ⟨7, 4, .ro, 0, []⟩
def CWAY.RETIRE_REQ : Field := ⟨8, 8, .ro, 0, []⟩
def CWAY.WAYLIM : Field := ⟨23, 16, .ro, 8, [(1, 255)]⟩
def CWAY : List Field := [CWAY.DC_WAYDIS, CWAY.IC_WAYDIS, CWAY.RETIRE_REQ, CWAY.WAYLIM]

/-! CWAYCNT (R309-R333). -/
def CWAYCNT.DC0 : Field := ⟨7, 0, .ro, 0, []⟩
def CWAYCNT.DC1 : Field := ⟨15, 8, .ro, 0, []⟩
def CWAYCNT.DC2 : Field := ⟨23, 16, .ro, 0, []⟩
def CWAYCNT.DC3 : Field := ⟨31, 24, .ro, 0, []⟩
def CWAYCNT.IC0 : Field := ⟨39, 32, .ro, 0, []⟩
def CWAYCNT.IC1 : Field := ⟨47, 40, .ro, 0, []⟩
def CWAYCNT.IC2 : Field := ⟨55, 48, .ro, 0, []⟩
def CWAYCNT.IC3 : Field := ⟨63, 56, .ro, 0, []⟩
def CWAYCNT : List Field := [CWAYCNT.DC0, CWAYCNT.DC1, CWAYCNT.DC2, CWAYCNT.DC3, CWAYCNT.IC0, CWAYCNT.IC1, CWAYCNT.IC2, CWAYCNT.IC3]

/-! CSTAT (R309-R333). -/
def CSTAT.DC_MISS : Field := ⟨31, 0, .ro, 0, []⟩
def CSTAT.PF_USED : Field := ⟨47, 32, .ro, 0, []⟩
def CSTAT : List Field := [CSTAT.DC_MISS, CSTAT.PF_USED]

/-! QSTAT (R334-R375). -/
def QSTAT.MSGS : Field := ⟨5, 0, .ro, 0, []⟩
def QSTAT.POS : Field := ⟨10, 8, .ro, 0, []⟩
def QSTAT.CLOSED : Field := ⟨11, 11, .ro, 0, []⟩
def QSTAT.ARMED : Field := ⟨12, 12, .ro, 0, []⟩
def QSTAT.THRESH : Field := ⟨18, 13, .ro, 1, []⟩
def QSTAT.OPEN : Field := ⟨47, 32, .ro, 0, []⟩
def QSTAT : List Field := [QSTAT.MSGS, QSTAT.POS, QSTAT.CLOSED, QSTAT.ARMED, QSTAT.THRESH, QSTAT.OPEN]

/-! QCFG (R334-R375). -/
def QCFG.DECL : Field := ⟨0, 0, .ro, 0, []⟩
def QCFG.READER : Field := ⟨2, 1, .ro, 0, []⟩
def QCFG.COMB : Field := ⟨4, 3, .ro, 0, []⟩
def QCFG.ELEMS : Field := ⟨8, 5, .ro, 0, []⟩
def QCFG.NPER : Field := ⟨31, 16, .ro, 0, []⟩
def QCFG.INBOUND : Field := ⟨37, 32, .ro, 0, []⟩
def QCFG : List Field := [QCFG.DECL, QCFG.READER, QCFG.COMB, QCFG.ELEMS, QCFG.NPER, QCFG.INBOUND]

/-! QCNT (R334-R375). -/
def QCNT.ENTERED : Field := ⟨31, 0, .ro, 0, []⟩
def QCNT.DISCARDED : Field := ⟨47, 32, .ro, 0, []⟩
def QCNT : List Field := [QCNT.ENTERED, QCNT.DISCARDED]

/-! BAR_MAP (R334-R375). -/
def BAR_MAP.BASE : Field := ⟨5, 0, .ro, 0, []⟩
def BAR_MAP.COUNT : Field := ⟨12, 6, .ro, 0, []⟩
def BAR_MAP : List Field := [BAR_MAP.BASE, BAR_MAP.COUNT]

/-! Handler table entry h (R334-R375). -/
def HENT.HANDLER : Field := ⟨47, 3, .rw, 0, []⟩
def HENT.V : Field := ⟨48, 48, .rw, 0, []⟩
def HENT : List Field := [HENT.HANDLER, HENT.V]

/-! Channel directory entry e (R334-R375). -/
def DIR0.V : Field := ⟨0, 0, .rw, 0, []⟩
def DIR0.KIND : Field := ⟨2, 1, .rw, 0, [(0, 2)]⟩
def DIR0.SLOT : Field := ⟨6, 3, .rw, 0, []⟩
def DIR0.THREAD : Field := ⟨8, 7, .rw, 0, []⟩
def DIR0.GUAR : Field := ⟨9, 9, .rw, 0, []⟩
def DIR0.SRC : Field := ⟨20, 10, .rw, 0, []⟩
def DIR0.QUEUE : Field := ⟨23, 21, .rw, 0, []⟩
def DIR0.DST : Field := ⟨34, 24, .rw, 0, []⟩
def DIR0.DST_W : Field := ⟨44, 35, .rw, 0, []⟩
def DIR0.INFL : Field := ⟨47, 45, .rw, 0, [(0, 4)]⟩
def DIR0.CRED : Field := ⟨53, 48, .rw, 0, [(0, 32)]⟩
def DIR0 : List Field := [DIR0.V, DIR0.KIND, DIR0.SLOT, DIR0.THREAD, DIR0.GUAR, DIR0.SRC, DIR0.QUEUE, DIR0.DST, DIR0.DST_W, DIR0.INFL, DIR0.CRED]

/-! Channel directory entry, word 1 (R334-R375). -/
def DIR1.SENT : Field := ⟨31, 0, .ro, 0, []⟩
def DIR1.CLOSED_N : Field := ⟨47, 32, .ro, 0, []⟩
def DIR1.AVAIL : Field := ⟨53, 48, .ro, 0, []⟩
def DIR1.OUT : Field := ⟨56, 54, .ro, 0, []⟩
def DIR1.SHUT : Field := ⟨57, 57, .ro, 0, []⟩
def DIR1 : List Field := [DIR1.SENT, DIR1.CLOSED_N, DIR1.AVAIL, DIR1.OUT, DIR1.SHUT]

/-! Group table entry g (R334-R375). -/
def GENT.V : Field := ⟨0, 0, .rw, 0, []⟩
def GENT.SLOT : Field := ⟨4, 1, .rw, 0, []⟩
def GENT.GROUP : Field := ⟨10, 5, .rw, 0, []⟩
def GENT.DOWN : Field := ⟨14, 11, .rw, 0, []⟩
def GENT.ROOT : Field := ⟨15, 15, .rw, 0, []⟩
def GENT.CORES : Field := ⟨31, 16, .rw, 0, []⟩
def GENT.UP : Field := ⟨34, 32, .rw, 7, [(0, 3), (7, 7)]⟩
def GENT : List Field := [GENT.V, GENT.SLOT, GENT.GROUP, GENT.DOWN, GENT.ROOT, GENT.CORES, GENT.UP]

/-! SCNT (R334-R375). -/
def SCNT.VALUE : Field := ⟨31, 0, .rw, 0, []⟩
def SCNT.SLOT : Field := ⟨35, 32, .rw, 0, []⟩
def SCNT.ALLOC : Field := ⟨36, 36, .rw, 0, []⟩
def SCNT.PARKED : Field := ⟨37, 37, .ro, 0, []⟩
def SCNT : List Field := [SCNT.VALUE, SCNT.SLOT, SCNT.ALLOC, SCNT.PARKED]

/-! SALLOC (R334-R375). -/
def SALLOC.BASE : Field := ⟨7, 0, .rw, 0, []⟩
def SALLOC.COUNT : Field := ⟨16, 8, .rw, 0, [(0, 256)]⟩
def SALLOC : List Field := [SALLOC.BASE, SALLOC.COUNT]

/-! SERR_CTL (R334-R375). -/
def SERR_CTL.NEXT : Field := ⟨3, 0, .ro, 0, []⟩
def SERR_CTL.COUNT : Field := ⟨31, 16, .ro, 0, []⟩
def SERR_CTL.CLR : Field := ⟨32, 32, .wo, 0, []⟩
def SERR_CTL : List Field := [SERR_CTL.NEXT, SERR_CTL.COUNT, SERR_CTL.CLR]

/-! DMA_CTRL (R376-R407). -/
def DMA_CTRL.START : Field := ⟨0, 0, .wo, 0, []⟩
def DMA_CTRL.STOP : Field := ⟨1, 1, .wo, 0, []⟩
def DMA_CTRL.RESUME : Field := ⟨2, 2, .wo, 0, []⟩
def DMA_CTRL.NTHREAD : Field := ⟨5, 4, .rw, 0, []⟩
def DMA_CTRL.NOERRIRQ : Field := ⟨8, 8, .rw, 0, []⟩
def DMA_CTRL : List Field := [DMA_CTRL.START, DMA_CTRL.STOP, DMA_CTRL.RESUME, DMA_CTRL.NTHREAD, DMA_CTRL.NOERRIRQ]

/-! DMA_STAT (R376-R407). -/
def DMA_STAT.STATE : Field := ⟨2, 0, .ro, 0, []⟩
def DMA_STAT.REJ : Field := ⟨3, 3, .w1c, 0, []⟩
def DMA_STAT.POISON : Field := ⟨4, 4, .w1c, 0, []⟩
def DMA_STAT.DEPTH : Field := ⟨7, 5, .ro, 0, []⟩
def DMA_STAT.WHY : Field := ⟨10, 8, .ro, 0, []⟩
def DMA_STAT.STARTER : Field := ⟨25, 16, .ro, 0, []⟩
def DMA_STAT : List Field := [DMA_STAT.STATE, DMA_STAT.REJ, DMA_STAT.POISON, DMA_STAT.DEPTH, DMA_STAT.WHY, DMA_STAT.STARTER]

/-! DMA_PROG (R376-R407). -/
def DMA_PROG.ADDR : Field := ⟨47, 5, .rw, 0, []⟩
def DMA_PROG : List Field := [DMA_PROG.ADDR]

/-! DMA_SA (R376-R407). -/
def DMA_SA.ADDR : Field := ⟨47, 0, .ro, 0, []⟩
def DMA_SA : List Field := [DMA_SA.ADDR]

/-! DMA_LC0-DMA_LC3 (R376-R407). -/
def DMA_LC.COUNT : Field := ⟨31, 0, .ro, 0, []⟩
def DMA_LC.SIDX : Field := ⟨63, 32, .ro, 0, []⟩
def DMA_LC : List Field := [DMA_LC.COUNT, DMA_LC.SIDX]

/-! DMA_CQBASE (R376-R407). -/
def DMA_CQBASE.LOG2N : Field := ⟨3, 0, .rw, 0, [(0, 12)]⟩
def DMA_CQBASE.BASE : Field := ⟨47, 5, .rw, 0, []⟩
def DMA_CQBASE : List Field := [DMA_CQBASE.LOG2N, DMA_CQBASE.BASE]

/-! DMA_CQSEQ (R376-R407). -/
def DMA_CQSEQ.SEQ : Field := ⟨31, 0, .ro, 0, []⟩
def DMA_CQSEQ.HEAD : Field := ⟨63, 32, .ro, 0, []⟩
def DMA_CQSEQ : List Field := [DMA_CQSEQ.SEQ, DMA_CQSEQ.HEAD]

/-! DMA_ERR (R376-R407). -/
def DMA_ERR.CODE : Field := ⟨7, 0, .ro, 0, []⟩
def DMA_ERR.CAUSE : Field := ⟨11, 8, .ro, 0, []⟩
def DMA_ERR.PC : Field := ⟨63, 16, .ro, 0, []⟩
def DMA_ERR : List Field := [DMA_ERR.CODE, DMA_ERR.CAUSE, DMA_ERR.PC]

/-! DMA_ERRADDR (R376-R407). -/
def DMA_CNT.VALUE : Field := ⟨47, 0, .ro, 0, []⟩
def DMA_CNT : List Field := [DMA_CNT.VALUE]

/-! DMA_OWN (R376-R407). -/
def DMA_OWN.V : Field := ⟨0, 0, .rw, 0, []⟩
def DMA_OWN.SLOT : Field := ⟨4, 1, .rw, 0, []⟩
def DMA_OWN.INDEX : Field := ⟨9, 5, .rw, 0, []⟩
def DMA_OWN : List Field := [DMA_OWN.V, DMA_OWN.SLOT, DMA_OWN.INDEX]

/-! DMA_TRINV (R376-R407). -/
def DMA_TRINV.ALL : Field := ⟨0, 0, .wo, 0, []⟩
def DMA_TRINV.ONE : Field := ⟨1, 1, .wo, 0, []⟩
def DMA_TRINV.BUSY : Field := ⟨2, 2, .ro, 0, []⟩
def DMA_TRINV.SLOT : Field := ⟨6, 3, .rw, 0, []⟩
def DMA_TRINV.VPN : Field := ⟨58, 32, .rw, 0, []⟩
def DMA_TRINV : List Field := [DMA_TRINV.ALL, DMA_TRINV.ONE, DMA_TRINV.BUSY, DMA_TRINV.SLOT, DMA_TRINV.VPN]

/-! DMA_MAP (R376-R407). -/
def DMA_MAP.BASE : Field := ⟨4, 0, .ro, 0, []⟩
def DMA_MAP.COUNT : Field := ⟨11, 6, .ro, 0, []⟩
def DMA_MAP : List Field := [DMA_MAP.BASE, DMA_MAP.COUNT]

/-! NC_CTRL (R412-R439). -/
def NC_CTRL.EN : Field := ⟨0, 0, .rw, 0, []⟩
def NC_CTRL.SCRUB_EN : Field := ⟨1, 1, .rw, 0, []⟩
def NC_CTRL.TRACK_EN : Field := ⟨2, 2, .rw, 0, []⟩
def NC_CTRL.BURST_EN : Field := ⟨3, 3, .rw, 0, []⟩
def NC_CTRL.MODE : Field := ⟨5, 4, .rw, 0, [(0, 2)]⟩
def NC_CTRL.MARGIN_LIM : Field := ⟨15, 8, .rw, 16, []⟩
def NC_CTRL.CRC_LIM : Field := ⟨23, 16, .rw, 4, [(1, 255)]⟩
def NC_CTRL : List Field := [NC_CTRL.EN, NC_CTRL.SCRUB_EN, NC_CTRL.TRACK_EN, NC_CTRL.BURST_EN, NC_CTRL.MODE, NC_CTRL.MARGIN_LIM, NC_CTRL.CRC_LIM]

/-! NC_STAT (R412-R439). -/
def NC_STAT.READY : Field := ⟨0, 0, .ro, 0, []⟩
def NC_STAT.HOT : Field := ⟨1, 1, .ro, 0, []⟩
def NC_STAT.PLIST_HIGH : Field := ⟨2, 2, .ro, 0, []⟩
def NC_STAT.PLIST_FULL : Field := ⟨3, 3, .ro, 0, []⟩
def NC_STAT.RETRAIN : Field := ⟨4, 4, .ro, 0, []⟩
def NC_STAT.PLIST_N : Field := ⟨27, 16, .ro, 0, []⟩
def NC_STAT.DTEMP : Field := ⟨39, 32, .ro, 0, []⟩
def NC_STAT.MARGIN : Field := ⟨47, 40, .ro, 0, []⟩
def NC_STAT.REPAIR_LEFT : Field := ⟨55, 48, .ro, 0, []⟩
def NC_STAT : List Field := [NC_STAT.READY, NC_STAT.HOT, NC_STAT.PLIST_HIGH, NC_STAT.PLIST_FULL, NC_STAT.RETRAIN, NC_STAT.PLIST_N, NC_STAT.DTEMP, NC_STAT.MARGIN, NC_STAT.REPAIR_LEFT]

/-! NC_ERR (R412-R439). -/
def NC_ERR.CE : Field := ⟨15, 0, .ro, 0, []⟩
def NC_ERR.UE : Field := ⟨31, 16, .ro, 0, []⟩
def NC_ERR.CRC : Field := ⟨47, 32, .ro, 0, []⟩
def NC_ERR.EXH : Field := ⟨55, 48, .ro, 0, []⟩
def NC_ERR : List Field := [NC_ERR.CE, NC_ERR.UE, NC_ERR.CRC, NC_ERR.EXH]

/-! NC_CAL (R412-R439). -/
def NC_CAL.BURSTS : Field := ⟨15, 0, .ro, 0, []⟩
def NC_CAL.FULL : Field := ⟨31, 16, .ro, 0, []⟩
def NC_CAL.DEFER : Field := ⟨47, 32, .ro, 0, []⟩
def NC_CAL.REQ_FULL : Field := ⟨48, 48, .wo, 0, []⟩
def NC_CAL : List Field := [NC_CAL.BURSTS, NC_CAL.FULL, NC_CAL.DEFER, NC_CAL.REQ_FULL]

/-! NC_SCRUB (R412-R439). -/
def NC_SCRUB.POS : Field := ⟨27, 0, .ro, 0, []⟩
def NC_SCRUB.PASSES : Field := ⟨47, 32, .ro, 0, []⟩
def NC_SCRUB.PERIOD : Field := ⟨55, 48, .rw, 24, [(1, 168)]⟩
def NC_SCRUB : List Field := [NC_SCRUB.POS, NC_SCRUB.PASSES, NC_SCRUB.PERIOD]

/-! NC_PLIST (R412-R439). -/
def NC_PLIST.IDX : Field := ⟨10, 0, .rw, 0, [(0, 2047)]⟩
def NC_PLIST.VALID : Field := ⟨12, 12, .ro, 0, []⟩
def NC_PLIST.ADD : Field := ⟨13, 13, .wo, 0, []⟩
def NC_PLIST.UNIT : Field := ⟨43, 16, .rw, 0, []⟩
def NC_PLIST : List Field := [NC_PLIST.IDX, NC_PLIST.VALID, NC_PLIST.ADD, NC_PLIST.UNIT]

/-! NC_REPAIR (R412-R439). -/
def NC_REPAIR.UNIT : Field := ⟨27, 0, .rw, 0, []⟩
def NC_REPAIR.GO : Field := ⟨32, 32, .wo, 0, []⟩
def NC_REPAIR.BUSY : Field := ⟨33, 33, .ro, 0, []⟩
def NC_REPAIR.FAIL : Field := ⟨34, 34, .w1c, 0, []⟩
def NC_REPAIR : List Field := [NC_REPAIR.UNIT, NC_REPAIR.GO, NC_REPAIR.BUSY, NC_REPAIR.FAIL]

/-! NS_SUBST (R412-R439). -/
def NS_SUBST.CH : Field := ⟨3, 0, .rw, 0, []⟩
def NS_SUBST.COPY : Field := ⟨4, 4, .wo, 0, []⟩
def NS_SUBST.SWITCH : Field := ⟨5, 5, .wo, 0, []⟩
def NS_SUBST.BUSY : Field := ⟨6, 6, .ro, 0, []⟩
def NS_SUBST.ACTIVE : Field := ⟨7, 7, .ro, 0, []⟩
def NS_SUBST.COPY_RATE : Field := ⟨23, 8, .rw, 8000, [(1000, 20000)]⟩
def NS_SUBST.COPIED : Field := ⟨52, 24, .ro, 0, []⟩
def NS_SUBST : List Field := [NS_SUBST.CH, NS_SUBST.COPY, NS_SUBST.SWITCH, NS_SUBST.BUSY, NS_SUBST.ACTIVE, NS_SUBST.COPY_RATE, NS_SUBST.COPIED]

/-! MC_STAT (R412-R439). -/
def MC_STAT.READY : Field := ⟨0, 0, .ro, 0, []⟩
def MC_STAT.HOT : Field := ⟨1, 1, .ro, 0, []⟩
def MC_STAT.RETRAIN : Field := ⟨2, 2, .ro, 0, []⟩
def MC_STAT.DTEMP : Field := ⟨39, 32, .ro, 0, []⟩
def MC_STAT.MARGIN : Field := ⟨47, 40, .ro, 0, []⟩
def MC_STAT.REPAIR_LEFT : Field := ⟨55, 48, .ro, 0, []⟩
def MC_STAT : List Field := [MC_STAT.READY, MC_STAT.HOT, MC_STAT.RETRAIN, MC_STAT.DTEMP, MC_STAT.MARGIN, MC_STAT.REPAIR_LEFT]

/-! FC_STAT (R412-R439). -/
def FC_STAT.READY : Field := ⟨0, 0, .ro, 0, []⟩
def FC_STAT.BUSY : Field := ⟨1, 1, .ro, 0, []⟩
def FC_STAT.PAUSED : Field := ⟨2, 2, .ro, 0, []⟩
def FC_STAT.DIES : Field := ⟨11, 8, .ro, 0, []⟩
def FC_STAT.RETRY : Field := ⟨31, 16, .ro, 0, []⟩
def FC_STAT.UE : Field := ⟨47, 32, .ro, 0, []⟩
def FC_STAT.SPARE_PCT : Field := ⟨55, 48, .ro, 0, []⟩
def FC_STAT.WEAR : Field := ⟨63, 56, .ro, 0, []⟩
def FC_STAT : List Field := [FC_STAT.READY, FC_STAT.BUSY, FC_STAT.PAUSED, FC_STAT.DIES, FC_STAT.RETRY, FC_STAT.UE, FC_STAT.SPARE_PCT, FC_STAT.WEAR]

/-! ID_DEV (R440-R475). -/
def ID_DEV.GRADE : Field := ⟨2, 0, .ro, 0, []⟩
def ID_DEV.STEP : Field := ⟨15, 8, .ro, 176, []⟩
def ID_DEV.MODULE_ID : Field := ⟨18, 16, .ro, 0, []⟩
def ID_DEV.DEEP : Field := ⟨19, 19, .ro, 0, []⟩
def ID_DEV.ACTIVE : Field := ⟨30, 20, .ro, 0, []⟩
def ID_DEV.PORT : Field := ⟨32, 32, .ro, 0, []⟩
def ID_DEV.BOOT_SEL : Field := ⟨33, 33, .ro, 0, []⟩
def ID_DEV : List Field := [ID_DEV.GRADE, ID_DEV.STEP, ID_DEV.MODULE_ID, ID_DEV.DEEP, ID_DEV.ACTIVE, ID_DEV.PORT, ID_DEV.BOOT_SEL]

/-! ID_SERIAL (R440-R475). -/
def ID_SERIAL.SERIAL : Field := ⟨63, 0, .ro, 0, []⟩
def ID_SERIAL : List Field := [ID_SERIAL.SERIAL]

/-! ID_FW (R440-R475). -/
def ID_FW.VERSION : Field := ⟨31, 0, .ro, 0, []⟩
def ID_FW.BANK : Field := ⟨32, 32, .ro, 0, []⟩
def ID_FW.READY : Field := ⟨33, 33, .ro, 0, []⟩
def ID_FW : List Field := [ID_FW.VERSION, ID_FW.BANK, ID_FW.READY]

/-! PORT_STAT (R440-R475). -/
def PORT_STAT.STEWARD : Field := ⟨0, 0, .ro, 0, []⟩
def PORT_STAT.OTHER_UP : Field := ⟨1, 1, .ro, 0, []⟩
def PORT_STAT.PSTATE : Field := ⟨3, 2, .ro, 0, []⟩
def PORT_STAT.WARN : Field := ⟨4, 4, .ro, 0, []⟩
def PORT_STAT.LANES : Field := ⟨11, 8, .ro, 0, []⟩
def PORT_STAT.SPEED : Field := ⟨14, 12, .ro, 0, []⟩
def PORT_STAT : List Field := [PORT_STAT.STEWARD, PORT_STAT.OTHER_UP, PORT_STAT.PSTATE, PORT_STAT.WARN, PORT_STAT.LANES, PORT_STAT.SPEED]

/-! PORT_CTRL (R440-R475). -/
def PORT_CTRL.RESET : Field := ⟨0, 0, .wo, 0, []⟩
def PORT_CTRL : List Field := [PORT_CTRL.RESET]

/-! BAR2_BASE (R440-R475). -/
def BAR2_BASE.BASE : Field := ⟨47, 30, .rw, 0, []⟩
def BAR2_BASE : List Field := [BAR2_BASE.BASE]

/-! HW_BASE (R440-R475). -/
def HW_BASE.BASE : Field := ⟨63, 44, .rw, 0, []⟩
def HW_BASE : List Field := [HW_BASE.BASE]

/-! CR_BASE (R440-R475). -/
def CR_BASE.ADDR : Field := ⟨63, 12, .rw, 0, []⟩
def CR_BASE : List Field := [CR_BASE.ADDR]

/-! CR_CTRL (R440-R475). -/
def CR_CTRL.LOG2N : Field := ⟨3, 0, .rw, 0, [(1, 12)]⟩
def CR_CTRL.EN : Field := ⟨4, 4, .rw, 0, []⟩
def CR_CTRL : List Field := [CR_CTRL.LOG2N, CR_CTRL.EN]

/-! CR_STAT (R440-R475). -/
def CR_STAT.HEAD : Field := ⟨15, 0, .ro, 0, []⟩
def CR_STAT.TAIL : Field := ⟨31, 16, .ro, 0, []⟩
def CR_STAT.STATE : Field := ⟨34, 32, .ro, 0, []⟩
def CR_STAT.ERR : Field := ⟨43, 40, .ro, 0, []⟩
def CR_STAT.OUT : Field := ⟨63, 48, .ro, 0, []⟩
def CR_STAT : List Field := [CR_STAT.HEAD, CR_STAT.TAIL, CR_STAT.STATE, CR_STAT.ERR, CR_STAT.OUT]

/-! CC_CTRL (R440-R475). -/
def CC_CTRL.LOG2N : Field := ⟨3, 0, .rw, 0, [(1, 12)]⟩
def CC_CTRL.EN : Field := ⟨4, 4, .rw, 0, []⟩
def CC_CTRL.IRQ_EN : Field := ⟨5, 5, .rw, 0, []⟩
def CC_CTRL.VEC : Field := ⟨13, 8, .rw, 0, []⟩
def CC_CTRL : List Field := [CC_CTRL.LOG2N, CC_CTRL.EN, CC_CTRL.IRQ_EN, CC_CTRL.VEC]

/-! CC_STAT (R440-R475). -/
def CC_STAT.SEQ : Field := ⟨31, 0, .ro, 0, []⟩
def CC_STAT.CONSUMED : Field := ⟨63, 32, .ro, 0, []⟩
def CC_STAT : List Field := [CC_STAT.SEQ, CC_STAT.CONSUMED]

/-! CC_DROP (R440-R475). -/
def CC_DROP.DROPPED : Field := ⟨31, 0, .ro, 0, []⟩
def CC_DROP : List Field := [CC_DROP.DROPPED]

/-! ERR_BAR2 (R440-R475). -/
def ERR_BAR2.CA_READS : Field := ⟨31, 0, .ro, 0, []⟩
def ERR_BAR2.DROPPED_WRITES : Field := ⟨63, 32, .ro, 0, []⟩
def ERR_BAR2 : List Field := [ERR_BAR2.CA_READS, ERR_BAR2.DROPPED_WRITES]

/-! ERR_HOST (R440-R475). -/
def ERR_HOST.CTO : Field := ⟨23, 0, .ro, 0, []⟩
def ERR_HOST.UR_CA : Field := ⟨47, 24, .ro, 0, []⟩
def ERR_HOST.POISONED : Field := ⟨63, 48, .ro, 0, []⟩
def ERR_HOST : List Field := [ERR_HOST.CTO, ERR_HOST.UR_CA, ERR_HOST.POISONED]

/-! ERR_LINK (R440-R475). -/
def ERR_LINK.DOWN : Field := ⟨15, 0, .ro, 0, []⟩
def ERR_LINK.WIN_DROPPED : Field := ⟨47, 16, .ro, 0, []⟩
def ERR_LINK : List Field := [ERR_LINK.DOWN, ERR_LINK.WIN_DROPPED]

/-! ERR_SUM (R440-R475). -/
def ERR_SUM.RING : Field := ⟨7, 0, .w1c, 0, []⟩
def ERR_SUM.EVT_LOST : Field := ⟨8, 8, .w1c, 0, []⟩
def ERR_SUM.LINK : Field := ⟨9, 9, .w1c, 0, []⟩
def ERR_SUM.BAR2 : Field := ⟨10, 10, .w1c, 0, []⟩
def ERR_SUM.HOST : Field := ⟨11, 11, .w1c, 0, []⟩
def ERR_SUM : List Field := [ERR_SUM.RING, ERR_SUM.EVT_LOST, ERR_SUM.LINK, ERR_SUM.BAR2, ERR_SUM.HOST]

/-! ERR_CTRL (R440-R475). -/
def ERR_CTRL.VEC : Field := ⟨5, 0, .rw, 0, []⟩
def ERR_CTRL.EN : Field := ⟨6, 6, .rw, 0, []⟩
def ERR_CTRL : List Field := [ERR_CTRL.VEC, ERR_CTRL.EN]

/-! Region protection entry i (R476-R498). -/
def RPT0.V : Field := ⟨0, 0, .rw, 0, []⟩
def RPT0.BASE : Field := ⟨47, 12, .rw, 0, []⟩
def RPT0 : List Field := [RPT0.V, RPT0.BASE]

/-! Word 1 (R476-R498). -/
def RPT1.MGMT : Field := ⟨1, 0, .rw, 0, [(0, 1), (3, 3)]⟩
def RPT1.FABRIC : Field := ⟨3, 2, .rw, 0, [(0, 1), (3, 3)]⟩
def RPT1.HOST : Field := ⟨5, 4, .rw, 0, [(0, 1), (3, 3)]⟩
def RPT1.DEBUG : Field := ⟨7, 6, .rw, 0, [(0, 1), (3, 3)]⟩
def RPT1.LIMIT : Field := ⟨47, 12, .rw, 0, []⟩
def RPT1 : List Field := [RPT1.MGMT, RPT1.FABRIC, RPT1.HOST, RPT1.DEBUG, RPT1.LIMIT]

/-! RPT_LOCK (R476-R498). -/
def RPT_LOCK.LOCK : Field := ⟨0, 0, .rw, 0, []⟩
def RPT_LOCK : List Field := [RPT_LOCK.LOCK]

/-! RPT_VIOL (R476-R498). -/
def RPT_VIOL.ADDR : Field := ⟨47, 0, .ro, 0, []⟩
def RPT_VIOL.CLASS : Field := ⟨49, 48, .ro, 0, []⟩
def RPT_VIOL.WRITE : Field := ⟨50, 50, .ro, 0, []⟩
def RPT_VIOL.VALID : Field := ⟨51, 51, .w1c, 0, []⟩
def RPT_VIOL.COUNT : Field := ⟨63, 52, .ro, 0, []⟩
def RPT_VIOL : List Field := [RPT_VIOL.ADDR, RPT_VIOL.CLASS, RPT_VIOL.WRITE, RPT_VIOL.VALID, RPT_VIOL.COUNT]

/-! KEY_STAT (R476-R498). -/
def KEY_STAT.PROGRAMMED : Field := ⟨2, 0, .ro, 0, []⟩
def KEY_STAT.REVOKED : Field := ⟨6, 4, .ro, 0, []⟩
def KEY_STAT.REVOKE : Field := ⟨10, 8, .wo, 0, []⟩
def KEY_STAT : List Field := [KEY_STAT.PROGRAMMED, KEY_STAT.REVOKED, KEY_STAT.REVOKE]

/-! RB_CTR (R476-R498). -/
def RB_CTR.VALUE : Field := ⟨7, 0, .ro, 0, []⟩
def RB_CTR.TARGET : Field := ⟨15, 8, .rw, 0, [(0, 128)]⟩
def RB_CTR.GO : Field := ⟨16, 16, .wo, 0, []⟩
def RB_CTR.BUSY : Field := ⟨17, 17, .ro, 0, []⟩
def RB_CTR.FAIL : Field := ⟨18, 18, .w1c, 0, []⟩
def RB_CTR : List Field := [RB_CTR.VALUE, RB_CTR.TARGET, RB_CTR.GO, RB_CTR.BUSY, RB_CTR.FAIL]

/-! SIGN_CTL (R476-R498). -/
def SIGN_CTL.LEN : Field := ⟨15, 0, .rw, 0, [(1, 4096)]⟩
def SIGN_CTL.GO : Field := ⟨16, 16, .wo, 0, []⟩
def SIGN_CTL.BUSY : Field := ⟨17, 17, .ro, 0, []⟩
def SIGN_CTL.ERR : Field := ⟨18, 18, .w1c, 0, []⟩
def SIGN_CTL : List Field := [SIGN_CTL.LEN, SIGN_CTL.GO, SIGN_CTL.BUSY, SIGN_CTL.ERR]

/-! BOOT_STAT (R476-R498). -/
def BOOT_STAT.PHASE : Field := ⟨3, 0, .ro, 0, []⟩
def BOOT_STAT.BANK : Field := ⟨4, 4, .ro, 0, []⟩
def BOOT_STAT.TRIAL : Field := ⟨5, 5, .ro, 0, []⟩
def BOOT_STAT.FALLBACK : Field := ⟨6, 6, .ro, 0, []⟩
def BOOT_STAT.SLOT : Field := ⟨9, 8, .ro, 0, []⟩
def BOOT_STAT.SVN : Field := ⟨23, 16, .ro, 0, []⟩
def BOOT_STAT.REASON : Field := ⟨31, 24, .ro, 0, []⟩
def BOOT_STAT.WDOG : Field := ⟨32, 32, .w1c, 0, []⟩
def BOOT_STAT.CONFIRM : Field := ⟨33, 33, .wo, 0, []⟩
def BOOT_STAT : List Field := [BOOT_STAT.PHASE, BOOT_STAT.BANK, BOOT_STAT.TRIAL, BOOT_STAT.FALLBACK, BOOT_STAT.SLOT, BOOT_STAT.SVN, BOOT_STAT.REASON, BOOT_STAT.WDOG, BOOT_STAT.CONFIRM]

/-! BF_PROT (R476-R498). -/
def BF_PROT.MARCH_WP : Field := ⟨0, 0, .rw, 0, []⟩
def BF_PROT.SEPT_WP : Field := ⟨1, 1, .rw, 0, []⟩
def BF_PROT.CERT_WP : Field := ⟨2, 2, .ro, 0, []⟩
def BF_PROT.LOCK : Field := ⟨3, 3, .rw, 0, []⟩
def BF_PROT : List Field := [BF_PROT.MARCH_WP, BF_PROT.SEPT_WP, BF_PROT.CERT_WP, BF_PROT.LOCK]

/-! BF_CMD (R476-R498). -/
def BF_CMD.ADDR : Field := ⟨25, 0, .rw, 0, []⟩
def BF_CMD.OP : Field := ⟨34, 32, .rw, 0, [(0, 4)]⟩
def BF_CMD.BUSY : Field := ⟨35, 35, .ro, 0, []⟩
def BF_CMD.ERR : Field := ⟨36, 36, .w1c, 0, []⟩
def BF_CMD.DENIED : Field := ⟨37, 37, .w1c, 0, []⟩
def BF_CMD.PAUSED : Field := ⟨38, 38, .ro, 0, []⟩
def BF_CMD : List Field := [BF_CMD.ADDR, BF_CMD.OP, BF_CMD.BUSY, BF_CMD.ERR, BF_CMD.DENIED, BF_CMD.PAUSED]

/-! ERRLOG_CTRL (R499-R534). -/
def ERRLOG_CTRL.NEXT : Field := ⟨9, 0, .ro, 0, []⟩
def ERRLOG_CTRL.SEQ : Field := ⟨63, 32, .ro, 0, []⟩
def ERRLOG_CTRL : List Field := [ERRLOG_CTRL.NEXT, ERRLOG_CTRL.SEQ]

/-! CORE_ERR (R499-R534). -/
def CORE_ERR.CMEM_CE : Field := ⟨15, 0, .ro, 0, []⟩
def CORE_ERR.IMEM_CE : Field := ⟨31, 16, .ro, 0, []⟩
def CORE_ERR.CMEM_UE : Field := ⟨39, 32, .ro, 0, []⟩
def CORE_ERR.IMEM_UE : Field := ⟨47, 40, .ro, 0, []⟩
def CORE_ERR.LOCKUPS : Field := ⟨55, 48, .ro, 0, []⟩
def CORE_ERR : List Field := [CORE_ERR.CMEM_CE, CORE_ERR.IMEM_CE, CORE_ERR.CMEM_UE, CORE_ERR.IMEM_UE, CORE_ERR.LOCKUPS]

/-! CORE_ACT (R499-R534). -/
def CORE_ACT.ACT : Field := ⟨31, 0, .ro, 0, []⟩
def CORE_ACT.QUIET : Field := ⟨32, 32, .ro, 0, []⟩
def CORE_ACT : List Field := [CORE_ACT.ACT, CORE_ACT.QUIET]

/-! ALERT_SRC (R499-R534). -/
def ALERT_SRC.SUPPLY : Field := ⟨0, 0, .ro, 0, []⟩
def ALERT_SRC.THERMAL : Field := ⟨1, 1, .w1c, 0, []⟩
def ALERT_SRC.FATAL : Field := ⟨2, 2, .w1c, 0, []⟩
def ALERT_SRC.SPARE : Field := ⟨3, 3, .w1c, 0, []⟩
def ALERT_SRC.EXHAUST : Field := ⟨4, 4, .w1c, 0, []⟩
def ALERT_SRC.MGMT : Field := ⟨5, 5, .w1c, 0, []⟩
def ALERT_SRC.LOG : Field := ⟨6, 6, .w1c, 0, []⟩
def ALERT_SRC : List Field := [ALERT_SRC.SUPPLY, ALERT_SRC.THERMAL, ALERT_SRC.FATAL, ALERT_SRC.SPARE, ALERT_SRC.EXHAUST, ALERT_SRC.MGMT, ALERT_SRC.LOG]

/-! FATAL_STAT (R499-R534). -/
def FATAL_STAT.FATAL : Field := ⟨0, 0, .ro, 0, []⟩
def FATAL_STAT.DUMP_DONE : Field := ⟨1, 1, .ro, 0, []⟩
def FATAL_STAT.MIRROR_DONE : Field := ⟨2, 2, .ro, 0, []⟩
def FATAL_STAT.NO_DUMP : Field := ⟨3, 3, .ro, 0, []⟩
def FATAL_STAT.CAUSE : Field := ⟨31, 16, .ro, 0, []⟩
def FATAL_STAT : List Field := [FATAL_STAT.FATAL, FATAL_STAT.DUMP_DONE, FATAL_STAT.MIRROR_DONE, FATAL_STAT.NO_DUMP, FATAL_STAT.CAUSE]

/-! MGMT_ROLE (R499-R534). -/
def MGMT_ROLE.ACTIVE : Field := ⟨0, 0, .ro, 0, []⟩
def MGMT_ROLE.STANDBY_UP : Field := ⟨1, 1, .ro, 0, []⟩
def MGMT_ROLE.TAKEOVER : Field := ⟨2, 2, .w1c, 0, []⟩
def MGMT_ROLE.HB : Field := ⟨47, 16, .ro, 0, []⟩
def MGMT_ROLE : List Field := [MGMT_ROLE.ACTIVE, MGMT_ROLE.STANDBY_UP, MGMT_ROLE.TAKEOVER, MGMT_ROLE.HB]

/-! LINK_REP (R499-R534). -/
def LINK_REP.USED : Field := ⟨5, 0, .ro, 0, []⟩
def LINK_REP.RESENT : Field := ⟨31, 16, .ro, 0, []⟩
def LINK_REP.LAST_WIRE : Field := ⟨41, 32, .ro, 0, []⟩
def LINK_REP.WIRE_LIM : Field := ⟨55, 48, .rw, 16, [(1, 255)]⟩
def LINK_REP.FAILED : Field := ⟨56, 56, .ro, 0, []⟩
def LINK_REP : List Field := [LINK_REP.USED, LINK_REP.RESENT, LINK_REP.LAST_WIRE, LINK_REP.WIRE_LIM, LINK_REP.FAILED]

/-! SLICE_REPAIR (R499-R534). -/
def SLICE_REPAIR.ROW : Field := ⟨10, 0, .rw, 0, []⟩
def SLICE_REPAIR.GO : Field := ⟨11, 11, .wo, 0, []⟩
def SLICE_REPAIR.FAIL : Field := ⟨12, 12, .w1c, 0, []⟩
def SLICE_REPAIR : List Field := [SLICE_REPAIR.ROW, SLICE_REPAIR.GO, SLICE_REPAIR.FAIL]

/-! DIE_THERM (R499-R534). -/
def DIE_THERM.TMAX : Field := ⟨15, 0, .ro, 0, []⟩
def DIE_THERM.WARN : Field := ⟨16, 16, .ro, 0, []⟩
def DIE_THERM.TRIP_SEEN : Field := ⟨17, 17, .w1c, 0, []⟩
def DIE_THERM : List Field := [DIE_THERM.TMAX, DIE_THERM.WARN, DIE_THERM.TRIP_SEEN]

/-! Sensor n (R499-R534). -/
def SENSOR.TEMP : Field := ⟨15, 0, .ro, 0, []⟩
def SENSOR.FAILED : Field := ⟨16, 16, .ro, 0, []⟩
def SENSOR : List Field := [SENSOR.TEMP, SENSOR.FAILED]

/-! DBG_CTRL (R535-R546). -/
def DBG_CTRL.HALT : Field := ⟨3, 0, .wo, 0, []⟩
def DBG_CTRL.RESUME : Field := ⟨7, 4, .wo, 0, []⟩
def DBG_CTRL.STEP : Field := ⟨8, 8, .wo, 0, []⟩
def DBG_CTRL : List Field := [DBG_CTRL.HALT, DBG_CTRL.RESUME, DBG_CTRL.STEP]

/-! DBG_STAT (R535-R546). -/
def DBG_STAT.HALTED : Field := ⟨3, 0, .ro, 0, []⟩
def DBG_STAT.REASON0 : Field := ⟨5, 4, .ro, 0, []⟩
def DBG_STAT.REASON1 : Field := ⟨7, 6, .ro, 0, []⟩
def DBG_STAT.REASON2 : Field := ⟨9, 8, .ro, 0, []⟩
def DBG_STAT.REASON3 : Field := ⟨11, 10, .ro, 0, []⟩
def DBG_STAT.PENDING : Field := ⟨15, 12, .ro, 0, []⟩
def DBG_STAT : List Field := [DBG_STAT.HALTED, DBG_STAT.REASON0, DBG_STAT.REASON1, DBG_STAT.REASON2, DBG_STAT.REASON3, DBG_STAT.PENDING]

/-! DBG_BP0-DBG_BP3 (R535-R546). -/
def DBG_BP.EN : Field := ⟨0, 0, .rw, 0, []⟩
def DBG_BP.ADDR : Field := ⟨47, 3, .rw, 0, []⟩
def DBG_BP.THREADS : Field := ⟨51, 48, .rw, 0, []⟩
def DBG_BP : List Field := [DBG_BP.EN, DBG_BP.ADDR, DBG_BP.THREADS]

/-! Registers the chapters give in words. -/

/-- MC_CTRL: as NC_CTRL, but MODE lists only 0b00. -/
def MC_CTRL.MODE : Field := ⟨5, 4, .rw, 0, [(0, 0)]⟩
def MC_CTRL : List Field := [NC_CTRL.EN, NC_CTRL.SCRUB_EN, NC_CTRL.TRACK_EN, NC_CTRL.BURST_EN, MC_CTRL.MODE, NC_CTRL.MARGIN_LIM, NC_CTRL.CRC_LIM]
def MC_SCRUB.POS : Field := ⟨30, 0, .ro, 0, []⟩
def MC_SCRUB : List Field := [MC_SCRUB.POS, NC_SCRUB.PASSES, NC_SCRUB.PERIOD]
def MC_REPAIR.UNIT : Field := ⟨30, 0, .rw, 0, []⟩
def MC_REPAIR : List Field := [MC_REPAIR.UNIT, NC_REPAIR.GO, NC_REPAIR.BUSY, NC_REPAIR.FAIL]

/-- Barrier unit, words 0x000 and 0x008 (chapter 10). -/
def BU0.V : Field := ⟨0, 0, .rw, 0, []⟩
def BU0.SLOT : Field := ⟨4, 1, .rw, 0, []⟩
def BU0.INDEX : Field := ⟨10, 5, .rw, 0, []⟩
def BU0 : List Field := [BU0.V, BU0.SLOT, BU0.INDEX]
def BU1.PHASE : Field := ⟨31, 0, .rw, 0, []⟩
def BU1.PARKED : Field := ⟨47, 32, .ro, 0, []⟩
def BU1 : List Field := [BU1.PHASE, BU1.PARKED]

/-- MSI-X table entry, word 1: message data and the mask bit, set at reset (R440; log 18). -/
def MSIX1.DATA : Field := ⟨31, 0, .rw, 0, []⟩
def MSIX1.MASK : Field := ⟨32, 32, .rw, 1, []⟩
def MSIX1 : List Field := [MSIX1.DATA, MSIX1.MASK]

/-- EVT_STAT (R453). -/
def EVT_STAT.SEQ : Field := ⟨31, 0, .ro, 0, []⟩
def EVT_STAT.LOST : Field := ⟨63, 32, .ro, 0, []⟩
def EVT_STAT : List Field := [EVT_STAT.SEQ, EVT_STAT.LOST]

/-- SIGN_MSG: PA of the message. -/
def SIGN_MSG.PA : Field := ⟨47, 0, .rw, 0, []⟩
def SIGN_MSG : List Field := [SIGN_MSG.PA]

/-- ALERT_EN: the same sources as ALERT_SRC, RW with reset 1. -/
def ALERT_EN.BITS : Field := ⟨6, 0, .rw, 0x7F, []⟩
def ALERT_EN : List Field := [ALERT_EN.BITS]

/-- DMA_PC: as DMA_PROG, read only. -/
def DMA_PC.ADDR : Field := ⟨47, 5, .ro, 0, []⟩
def DMA_PC : List Field := [DMA_PC.ADDR]

/-! Addresses (R100 and the chapters' offsets). -/

def ctrlBase : Nat := 0x1200_0000_0000
def coreBlk (c : Nat) : Nat := ctrlBase + c * 0x1_0000
def powerBlk : Nat := ctrlBase + 0x0800_0000
def clusterBlk (k : Nat) : Nat := ctrlBase + 0x0900_0000 + k * 0x1_0000
def dieBlk (d : Nat) : Nat := ctrlBase + 0x0A00_0000 + d * 0x10_0000
def barrierBlk (u : Nat) : Nat := ctrlBase + 0x0B00_0000 + u * 0x1000
def dirEntry (e : Nat) : Nat := ctrlBase + 0x0C00_0000 + e * 0x10
def bar0 (p : Nat) : Nat := ctrlBase + 0x0D00_0000 + p * 0x10_0000
def flashBlk (f : Nat) : Nat := ctrlBase + 0x0E00_0000 + f * 0x1000
def mgmtBlk (m : Nat) : Nat := ctrlBase + 0x0F00_0000 + m * 0x10_0000

/-- Rail pair of rail r: clusters 0-71, then dies 72-75. -/
def railBlk (r : Nat) : Nat := if r < 72 then powerBlk + 0x1000 + r * 0x10 else powerBlk + 0x1800 + (r - 72) * 0x10
def aGOV_CTRL : Nat := powerBlk
def aGOV_LIMITS : Nat := powerBlk + 0x08
def aPWR_STATE : Nat := powerBlk + 0x10
def aSUPPLY_STAT : Nat := powerBlk + 0x20
def aSUPPLY_EVT : Nat := powerBlk + 0x28
def aGOV_SET (r : Nat) : Nat := railBlk r
def aGOV_STAT (r : Nat) : Nat := railBlk r + 8
def aCLKD_CTRL (n : Nat) : Nat := powerBlk + 0x2000 + n * 0x40
def aCLKD_STAT (n : Nat) : Nat := aCLKD_CTRL n + 8
def aCLKD_OPP (n k : Nat) : Nat := aCLKD_CTRL n + 0x10 + k * 4
def aFMC_CTRL (m : Nat) : Nat := powerBlk + 0x3000 + m * 0x100
def aFMC_RESULT (m : Nat) : Nat := aFMC_CTRL m + 8

def aTR_ROOT (c : Nat) : Nat := coreBlk c + 0x1000
def aTR_INV (c : Nat) : Nat := coreBlk c + 0x1008
def aTR_STAT (c : Nat) : Nat := coreBlk c + 0x1020
def aHANDLE0 (c h : Nat) : Nat := coreBlk c + 0x2000 + h * 0x10
def aHANDLE1 (c h : Nat) : Nat := aHANDLE0 c h + 8
def aQCFG (c q : Nat) : Nat := coreBlk c + 0x3040 + q * 8
def aQCNT (c q : Nat) : Nat := coreBlk c + 0x3080 + q * 8
def aBAR_MAP (c : Nat) : Nat := coreBlk c + 0x3100
def aHENT (c h : Nat) : Nat := coreBlk c + 0x3400 + h * 8
def aIRL_CTRL (c : Nat) : Nat := coreBlk c + 0x4040
def aCCTL (c : Nat) : Nat := coreBlk c + 0x5000
def aCWAY (c : Nat) : Nat := coreBlk c + 0x5008
def aCWAYCNT (c : Nat) : Nat := coreBlk c + 0x5010
def aCSTAT (c : Nat) : Nat := coreBlk c + 0x5018
def aMX_STAT (c : Nat) : Nat := coreBlk c + 0x6100
def aVX_STAT (c : Nat) : Nat := coreBlk c + 0x6108
def aMX_BUSYHS (c : Nat) : Nat := coreBlk c + 0x6110
def aVX_BUSYHS (c : Nat) : Nat := coreBlk c + 0x6118
def aIMEM_PTR (c : Nat) : Nat := coreBlk c + 0x7000
def aIMEM_STAT (c : Nat) : Nat := coreBlk c + 0x7010
def aDBG_BP (c i : Nat) : Nat := coreBlk c + 0x8020 + i * 8
def aDMA_MAP (c : Nat) : Nat := coreBlk c + 0x9000
def aCORE_ERR (c : Nat) : Nat := coreBlk c + 0xC000
def aCORE_ACT (c : Nat) : Nat := coreBlk c + 0xC008

def aSCNT (k i : Nat) : Nat := clusterBlk k + i * 8
def aSALLOC (k s : Nat) : Nat := clusterBlk k + 0x800 + s * 8
def aSERR (k n : Nat) : Nat := clusterBlk k + 0x900 + n * 0x10
def aSERR_CTL (k : Nat) : Nat := clusterBlk k + 0xA00
def aLINK_REP (k p : Nat) : Nat := clusterBlk k + 0x1800 + p * 8
def aGENT (k g : Nat) : Nat := clusterBlk k + 0x2000 + g * 0x10
def aBU0 (u : Nat) : Nat := barrierBlk u
def aBU1 (u : Nat) : Nat := barrierBlk u + 8
def aMASK (u w : Nat) : Nat := barrierBlk u + 0x100 + w * 8
def aARR (u w : Nat) : Nat := barrierBlk u + 0x200 + w * 8
def aDIR0 (e : Nat) : Nat := dirEntry e
def aDIR1 (e : Nat) : Nat := dirEntry e + 8

def sliceBlk (d s : Nat) : Nat := dieBlk d + 0x1_0000 + s * 0x100
def aSLICE_STAT (d s : Nat) : Nat := sliceBlk d s
def aSLICE_REPAIR (d s : Nat) : Nat := sliceBlk d s + 8
/-- Block of DMA channel ch (die x 32 + n). -/
def dmaBlk (ch : Nat) : Nat := dieBlk (ch / 32) + 0x2_0000 + ch % 32 * 0x1000
def aDMA_CTRL (ch : Nat) : Nat := dmaBlk ch
def aDMA_STAT (ch : Nat) : Nat := dmaBlk ch + 0x08
def aDMA_PROG (ch : Nat) : Nat := dmaBlk ch + 0x10
def aDMA_PC (ch : Nat) : Nat := dmaBlk ch + 0x18
def aDMA_SA (ch : Nat) : Nat := dmaBlk ch + 0x20
def aDMA_DA (ch : Nat) : Nat := dmaBlk ch + 0x28
def aDMA_LC (ch i : Nat) : Nat := dmaBlk ch + 0x30 + i * 8
def aDMA_CQBASE (ch : Nat) : Nat := dmaBlk ch + 0x50
def aDMA_CQSEQ (ch : Nat) : Nat := dmaBlk ch + 0x58
def aDMA_ERR (ch : Nat) : Nat := dmaBlk ch + 0x60
def aDMA_ERRADDR (ch : Nat) : Nat := dmaBlk ch + 0x68
def aDMA_CNT (ch : Nat) : Nat := dmaBlk ch + 0x70
def aDMA_OWN (ch : Nat) : Nat := dmaBlk ch + 0x100
def aDMA_TRINV (d : Nat) : Nat := dieBlk d + 0x2_0800

/-- Block of near-tier controller n: NC0-NC63, then NS0-NS3 as 64-67. -/
def ncBlk (n : Nat) : Nat :=
  if n < 64 then dieBlk (n / 16) + 0x4_0000 + n % 16 * 0x1000 else dieBlk (n - 64) + 0x5_0000
def mcBlk (m : Nat) : Nat := dieBlk (m / 4) + 0x6_0000 + m % 4 * 0x1000
/-- Block of a tier controller. -/
def tierBlk : TierCtl → Nat
  | .near n => ncBlk n
  | .middle m => mcBlk m
def aNS_SUBST (d : Nat) : Nat := dieBlk d + 0x5_0040
def aDIE_THERM (d : Nat) : Nat := dieBlk d + 0xF_0000
def aSENSOR (d n : Nat) : Nat := dieBlk d + 0xF_0100 + n * 8
def aFC_STAT (f : Nat) : Nat := flashBlk f

def aID_SERIAL (p : Nat) : Nat := bar0 p + 0x0008
def aID_FW (p : Nat) : Nat := bar0 p + 0x0010
def aPORT_STAT (p : Nat) : Nat := bar0 p + 0x1000
def aBAR2_BASE (p : Nat) : Nat := bar0 p + 0x1010
def aHW_BASE (p : Nat) : Nat := bar0 p + 0x1018
def aEVT_BASE (p : Nat) : Nat := bar0 p + 0x1020
def aEVT_CTRL (p : Nat) : Nat := bar0 p + 0x1028
def aEVT_STAT (p : Nat) : Nat := bar0 p + 0x1030
/-- Consumed count of the event ring, the last value written to DB_EVT (the manual gives it no offset of
its own; log 6). -/
def aEVT_CONS (p : Nat) : Nat := bar0 p + 0x1038
def ringBlk (p r : Nat) : Nat := bar0 p + 0x2000 + r * 0x100
def aCR_BASE (p r : Nat) : Nat := ringBlk p r
def aCR_CTRL (p r : Nat) : Nat := ringBlk p r + 0x08
def aCR_STAT (p r : Nat) : Nat := ringBlk p r + 0x10
def aCC_BASE (p r : Nat) : Nat := ringBlk p r + 0x20
def aCC_CTRL (p r : Nat) : Nat := ringBlk p r + 0x28
def aCC_STAT (p r : Nat) : Nat := ringBlk p r + 0x30
def aCC_DROP (p r : Nat) : Nat := ringBlk p r + 0x38
def aMSIX (p i w : Nat) : Nat := bar0 p + 0x4000 + i * 0x10 + w * 8
def aPBA (p : Nat) : Nat := bar0 p + 0x4800
def aERR_BAR2 (p : Nat) : Nat := bar0 p + 0x8000
def aERR_HOST (p : Nat) : Nat := bar0 p + 0x8008
def aERR_LINK (p : Nat) : Nat := bar0 p + 0x8010
def aERR_SUM (p : Nat) : Nat := bar0 p + 0x8018
def aERR_CTRL (p : Nat) : Nat := bar0 p + 0x8020

def aBOOT_STAT (m : Nat) : Nat := mgmtBlk m
def aLOCKUP_STAT : Nat := mgmtBlk 0 + 0x0100
def aALERT_SRC (m : Nat) : Nat := mgmtBlk m + 0x0200
def aALERT_EN (m : Nat) : Nat := mgmtBlk m + 0x0208
def aFATAL_STAT (m : Nat) : Nat := mgmtBlk m + 0x0210
def aMGMT_ROLE (m : Nat) : Nat := mgmtBlk m + 0x0218
def aERRLOG_CTRL (m : Nat) : Nat := mgmtBlk m + 0x1_8000
def aRPT0 (m i : Nat) : Nat := mgmtBlk m + 0x2_0000 + i * 0x10
def aRPT1 (m i : Nat) : Nat := aRPT0 m i + 8
def aRPT_LOCK (m : Nat) : Nat := mgmtBlk m + 0x2_0400
def aRPT_VIOL (m : Nat) : Nat := mgmtBlk m + 0x2_0408
def aKEY_STAT (m : Nat) : Nat := mgmtBlk m + 0x3_0100
def aRB_CTR (m : Nat) : Nat := mgmtBlk m + 0x3_0108
def aSIGN_MSG (m : Nat) : Nat := mgmtBlk m + 0x3_0180
def aSIGN_CTL (m : Nat) : Nat := mgmtBlk m + 0x3_0188
def aBF_CMD (m : Nat) : Nat := mgmtBlk m + 0x4_0000
def aBF_PROT (m : Nat) : Nat := mgmtBlk m + 0x4_0010

/-! The map of control space: the fields of the register at an address. -/

/-- Registers of a per-core control block by offset. -/
def coreSpec (o : Nat) : Option (List Field) :=
  if o = 8 then some THREAD_FAULT else if o = 0x10 then some DTBASE else if o = 0x1000 then some TR_ROOT else if o = 0x1008 then some TR_INV else if o = 0x1020 then some TR_STAT
  else if 0x2000 ≤ o ∧ o < 0x2400 then some (if o % 16 = 0 then HANDLE0 else HANDLE1)
  else if 0x3040 ≤ o ∧ o < 0x3080 then some QCFG
  else if 0x3080 ≤ o ∧ o < 0x30C0 then some QCNT
  else if o = 0x3100 then some BAR_MAP
  else if 0x3400 ≤ o ∧ o < 0x3600 then some HENT
  else if o = 0x4040 then some IRL_CTRL
  else if o = 0x5000 then some CCTL else if o = 0x5008 then some CWAY
  else if o = 0x5010 then some CWAYCNT else if o = 0x5018 then some CSTAT
  else if o = 0x6100 ∨ o = 0x6108 then some MX_STAT
  else if o = 0x6110 ∨ o = 0x6118 then some MX_BUSYHS
  else if o = 0x7000 then some IMEM_PTR else if o = 0x7008 then some IMEM_DATA
  else if o = 0x7010 then some IMEM_STAT
  else if o = 0x8000 then some DBG_CTRL else if o = 0x8008 then some DBG_STAT
  else if 0x8020 ≤ o ∧ o < 0x8040 then some DBG_BP
  else if o = 0x9000 then some DMA_MAP
  else if o = 0xC000 then some CORE_ERR else if o = 0xC008 then some CORE_ACT
  else none

/-- Registers of the power controller by offset. -/
def powerSpec (o : Nat) : Option (List Field) :=
  if o = 0 then some GOV_CTRL else if o = 0x08 then some GOV_LIMITS else if o = 0x10 then some PWR_STATE
  else if o = 0x20 then some SUPPLY_STAT else if o = 0x28 then some SUPPLY_EVT
  else if 0x1000 ≤ o ∧ o < 0x1480 ∨ 0x1800 ≤ o ∧ o < 0x1840 then
    some (if o % 16 ≠ 0 then GOV_STAT else if o < 0x1800 then GOV_SET else GOV_SET.die)
  else if 0x2000 ≤ o ∧ o < 0x2380 then
    let k := o % 0x40
    if k = 0 then some CLKD_CTRL else if k = 8 then some CLKD_STAT
    else if 0x10 ≤ k ∧ k < 0x30 then some (CLKD_OPP.within ((o - 0x2000) / 0x40)) else none
  else if o = 0x3000 ∨ o = 0x3100 then some FMC_CTRL
  else if o = 0x3008 ∨ o = 0x3108 then some FMC_RESULT
  else none

/-- Registers of a cluster block by offset. -/
def clusterSpec (o : Nat) : Option (List Field) :=
  if o < 0x800 then some SCNT else if o < 0x880 then some SALLOC
  else if 0x900 ≤ o ∧ o < 0xA00 then some (wordField .ro)
  else if o = 0xA00 then some SERR_CTL
  else if 0x1800 ≤ o ∧ o < 0x1820 then some LINK_REP
  else if 0x2000 ≤ o ∧ o < 0x2400 then (if o % 16 = 0 then some GENT else none)
  else none

/-- Registers of a DMA channel block by offset. -/
def dmaSpec (n o : Nat) : Option (List Field) :=
  if o = 0x00 then some DMA_CTRL else if o = 0x08 then some DMA_STAT else if o = 0x10 then some DMA_PROG
  else if o = 0x18 then some DMA_PC else if o = 0x20 ∨ o = 0x28 then some DMA_SA
  else if 0x30 ≤ o ∧ o < 0x50 then some DMA_LC
  else if o = 0x50 then some DMA_CQBASE else if o = 0x58 then some DMA_CQSEQ
  else if o = 0x60 then some DMA_ERR else if o = 0x68 ∨ o = 0x70 then some DMA_CNT
  else if o = 0x100 then some DMA_OWN
  else if o = 0x800 ∧ n = 0 then some DMA_TRINV
  else none

/-- Registers of a near-tier controller block by offset; `sp`: of a spare. -/
def ncSpec (sp : Bool) (o : Nat) : Option (List Field) :=
  if o = 0x00 then some NC_CTRL else if o = 0x08 then some NC_STAT else if o = 0x10 then some NC_ERR
  else if o = 0x18 then some NC_CAL else if o = 0x20 then some NC_SCRUB else if o = 0x28 then some NC_PLIST
  else if o = 0x30 then some NC_REPAIR
  else if o = 0x40 ∧ sp then some NS_SUBST
  else none

/-- Registers of a middle-tier controller block by offset. -/
def mcSpec (o : Nat) : Option (List Field) :=
  if o = 0x00 then some MC_CTRL else if o = 0x08 then some MC_STAT else if o = 0x10 then some NC_ERR
  else if o = 0x18 then some NC_CAL else if o = 0x20 then some MC_SCRUB else if o = 0x30 then some MC_REPAIR
  else none

/-- Registers of a die block by offset. -/
def dieSpec (o : Nat) : Option (List Field) :=
  if 0x1_0000 ≤ o ∧ o < 0x1_2000 then
    (if o % 0x100 = 0 then some SLICE_STAT else if o % 0x100 = 8 then some SLICE_REPAIR else none)
  else if 0x2_0000 ≤ o ∧ o < 0x4_0000 then dmaSpec ((o - 0x2_0000) / 0x1000) (o % 0x1000)
  else if 0x4_0000 ≤ o ∧ o < 0x5_0000 then ncSpec false (o % 0x1000)
  else if 0x5_0000 ≤ o ∧ o < 0x5_1000 then ncSpec true (o % 0x1000)
  else if 0x6_0000 ≤ o ∧ o < 0x6_4000 then mcSpec (o % 0x1000)
  else if o = 0xF_0000 then some DIE_THERM
  else if 0xF_0100 ≤ o ∧ o < 0xF_0380 then some SENSOR
  else none

/-- Registers of a barrier unit by offset. -/
def barrierSpec (o : Nat) : Option (List Field) :=
  if o = 0 then some BU0 else if o = 8 then some BU1
  else if 0x100 ≤ o ∧ o < 0x180 ∨ 0x200 ≤ o ∧ o < 0x280 then some (wordField .rw)
  else none

/-- Registers of a port's BAR0 image by offset. -/
def portSpec (o : Nat) : Option (List Field) :=
  if o = 0x0000 then some ID_DEV else if o = 0x0008 then some ID_SERIAL else if o = 0x0010 then some ID_FW
  else if o = 0x1000 then some PORT_STAT else if o = 0x1008 then some PORT_CTRL
  else if o = 0x1010 then some BAR2_BASE else if o = 0x1018 then some HW_BASE
  else if o = 0x1020 then some CR_BASE else if o = 0x1028 then some CC_CTRL else if o = 0x1030 then some EVT_STAT
  else if 0x2000 ≤ o ∧ o < 0x2800 then
    let k := o % 0x100
    if k = 0x00 ∨ k = 0x20 then some CR_BASE else if k = 0x08 then some CR_CTRL
    else if k = 0x10 then some CR_STAT else if k = 0x28 then some CC_CTRL
    else if k = 0x30 then some CC_STAT else if k = 0x38 then some CC_DROP else none
  else if 0x3000 ≤ o ∧ o < 0x3088 then some (wordField .wo)
  else if 0x4000 ≤ o ∧ o < 0x4400 then some (if o % 16 = 0 then wordField .rw else MSIX1)
  else if o = 0x4800 then some (wordField .ro)
  else if o = 0x8000 then some ERR_BAR2 else if o = 0x8008 then some ERR_HOST
  else if o = 0x8010 then some ERR_LINK else if o = 0x8018 then some ERR_SUM else if o = 0x8020 then some ERR_CTRL
  else none

/-- Registers of a management complex by offset. -/
def mgmtSpec (o : Nat) : Option (List Field) :=
  if o = 0 then some BOOT_STAT else if o = 0x0100 then some LOCKUP_STAT
  else if o = 0x0200 then some ALERT_SRC else if o = 0x0208 then some ALERT_EN
  else if o = 0x0210 then some FATAL_STAT else if o = 0x0218 then some MGMT_ROLE
  else if o = 0x1_8000 then some ERRLOG_CTRL
  else if 0x2_0000 ≤ o ∧ o < 0x2_0400 then some (if o % 16 = 0 then RPT0 else RPT1)
  else if o = 0x2_0400 then some RPT_LOCK else if o = 0x2_0408 then some RPT_VIOL
  else if o = 0x3_0100 then some KEY_STAT else if o = 0x3_0108 then some RB_CTR
  else if o = 0x3_0180 then some SIGN_MSG else if o = 0x3_0188 then some SIGN_CTL
  else if o = 0x4_0000 then some BF_CMD else if o = 0x4_0010 then some BF_PROT
  else none

/-- The fields of the register at a control-space address (R100); none where no register lies. -/
def specAt (a : Nat) : Option (List Field) :=
  if a < ctrlBase then none else
  let o := a - ctrlBase
  if o < 0x0480_0000 then coreSpec (o % 0x1_0000)
  else if o < 0x0800_0000 then none
  else if o < 0x0801_0000 then powerSpec (o - 0x0800_0000)
  else if o < 0x0900_0000 then none
  else if o < 0x0948_0000 then clusterSpec (o % 0x1_0000)
  else if o < 0x0A00_0000 then none
  else if o < 0x0A40_0000 then dieSpec (o % 0x10_0000)
  else if o < 0x0B00_0000 then none
  else if o < 0x0B04_0000 then barrierSpec (o % 0x1000)
  else if o < 0x0C00_0000 then none
  else if o < 0x0C08_0000 then some (if o % 16 = 0 then DIR0 else DIR1)
  else if o < 0x0D00_0000 then none
  else if o < 0x0D20_0000 then portSpec (o % 0x10_0000)
  else if o < 0x0E00_0000 then none
  else if o < 0x0E02_0000 then (if o % 0x1000 = 0 then some FC_STAT else none)
  else if o < 0x0F00_0000 then none
  else if o < 0x0F20_0000 then mgmtSpec (o % 0x10_0000)
  else none

/-- The word a register holds at reset (R100's maps; 0 where no map gives another). -/
def resetAt (a : Nat) : Word :=
  match specAt a with
  | some fs => fieldsReset fs
  | none => 0

end Sys2Proof.Machine
end

