-- ==== Sys2Proof/Machine/Ops.lean ====
section
/-! DEFINITION. The named operations over the state that every family uses: sparse tables, registers,
memory bytes, cores and threads, free values, the error log and the alert line, interrupts, and the
outcome of a command. -/

namespace Sys2Proof.Machine

/-- The answer of a command. -/
abbrev Out := Host.Outcome State Fault Refusal

/-! Sparse tables -/

/-- The entry of a key. -/
def tabFind {α : Type} : Tab α → Nat → Option α
  | [], _ => none
  | (k, v) :: t, i => if k = i then some v else tabFind t i

/-- The value of a key, `d` where none is listed. -/
def tabGet {α : Type} (d : α) (t : Tab α) (i : Nat) : α := (tabFind t i).getD d

/-- Enter a value, keys staying in rising order. -/
def tabIns {α : Type} : Tab α → Nat → α → Tab α
  | [], i, v => [(i, v)]
  | (k, w) :: t, i, v =>
    if i < k then (i, v) :: (k, w) :: t
    else if i = k then (i, v) :: t
    else (k, w) :: tabIns t i v

/-- Take out the entries of a key. -/
def tabDel {α : Type} : Tab α → Nat → Tab α
  | [], _ => []
  | (k, w) :: t, i => if k = i then tabDel t i else (k, w) :: tabDel t i

/-- Set a key's value, in the form that lists no value equal to `d`. -/
def tabSet {α : Type} [DecidableEq α] (d : α) (t : Tab α) (i : Nat) (v : α) : Tab α :=
  if v = d then tabDel t i else tabIns t i v

/-! Small list and number helpers -/

/-- Bit `i` of a number. -/
def bit (n i : Nat) : Bool := n.testBit i

/-- A Bool as a number. -/
def b2n (b : Bool) : Nat := if b then 1 else 0

/-- Saturating sum at a maximum. -/
def satAdd (mx a b : Nat) : Nat := min mx (a + b)

/-- Sign-extension of an n-bit number to an integer. -/
def sext (n v : Nat) : Int := if v % 2 ^ n < 2 ^ (n - 1) then (v % 2 ^ n : Nat) else ((v % 2 ^ n : Nat) : Int) - 2 ^ n

/-- A number from an integer, modulo 2^n. -/
def wrap (n : Nat) (v : Int) : Nat := (v % (2 ^ n : Int)).toNat

/-- The list with element `i` replaced. -/
def listSet {α : Type} : List α → Nat → α → List α
  | [], _, _ => []
  | _ :: l, 0, v => v :: l
  | x :: l, i + 1, v => x :: listSet l i v

/-- Little-endian number of `n` bytes at offset `o` of a byte string, missing bytes 0. -/
def field (bs : List Byte) (o n : Nat) : Nat := ofBytes ((bs.drop o).take n)

/-- The byte string with `n` bytes at offset `o` set to a number. -/
def putField (bs : List Byte) (o n v : Nat) : List Byte :=
  bs.take o ++ toBytes n v ++ bs.drop (o + n)

/-- `n` zero bytes. -/
def zeros (n : Nat) : List Byte := List.replicate n 0

/-- Index of the lowest set bit of the `n` low bits. -/
def lowestBit (n v : Nat) : Option Nat := (List.range n).find? (bit v ·)

/-- CRC-32 (IEEE 802.3, reflected polynomial 0xEDB88320). -/
def crcStep (c : BitVec 32) : BitVec 32 :=
  if c.getLsbD 0 then (c >>> 1) ^^^ 0xEDB88320 else c >>> 1

/-- CRC-32 of a byte string. -/
def crc32 (bs : List Byte) : Nat :=
  let f (c : BitVec 32) (b : Byte) : BitVec 32 :=
    crcStep (crcStep (crcStep (crcStep (crcStep (crcStep (crcStep (crcStep (c ^^^ b.setWidth 32))))))))
  (~~~ (bs.foldl f 0xFFFFFFFF)).toNat

/-! Registers of control space -/

/-- The word of a register. -/
def State.reg (s : State) (a : Nat) : Word := (tabFind s.regs a).getD (resetAt a)

/-- Set the word of a register; a word equal to the reset word is not listed. -/
def State.setReg (s : State) (a : Nat) (w : Word) : State :=
  { s with regs := tabSet (resetAt a) s.regs a w }

/-- A field of a register. -/
def State.fld (s : State) (a : Nat) (f : Field) : Nat := f.get (s.reg a)

/-- A one-bit field of a register. -/
def State.flag (s : State) (a : Nat) (f : Field) : Bool := s.fld a f == 1

/-- Set a field of a register. -/
def State.setFld (s : State) (a : Nat) (f : Field) (v : Nat) : State := s.setReg a (f.put (s.reg a) v)

/-- Add to a field of a register, saturating at its largest value. -/
def State.incFld (s : State) (a : Nat) (f : Field) (n : Nat) : State :=
  s.setFld a f (satAdd (f.size - 1) (s.fld a f) n)

/-! Memory -/

/-- What a command does to memory: whether all contents are lost, the bytes it writes in order, and the
8-byte words (address / 8) whose poison mark it sets or clears. -/
structure MemUpd where
  clear : Bool
  bytes : List (Nat × Byte)
  poison : List (Nat × Bool)
deriving DecidableEq, Repr

/-- No effect on memory. -/
def MemUpd.none : MemUpd := ⟨false, [], []⟩

/-- One effect after another. -/
def MemUpd.then (u v : MemUpd) : MemUpd :=
  if v.clear then v else ⟨u.clear, u.bytes ++ v.bytes, u.poison ++ v.poison⟩

/-- Writes of consecutive bytes at an address, the words they cover whole losing their poison (R311). -/
def MemUpd.ofBytes (a : Nat) (bs : List Byte) : MemUpd :=
  ⟨false, (List.range bs.length).zipWith (fun i b => (a + i, b)) bs,
    (List.range ((a + bs.length) / 8 - (a + 7) / 8)).map fun i => ((a + 7) / 8 + i, false)⟩

/-- One byte of memory; an unlisted byte reads as 0 (log 2). -/
def memByte (m : List Host.Cell) (a : Nat) : Byte := tabGet 0 m a

/-- Write one byte of memory, keeping the canonical form. -/
def memSet (m : List Host.Cell) (a : Nat) (b : Byte) : List Host.Cell := tabSet 0 m a b

/-- Write bytes of memory in order. -/
def memWrite (m : List Host.Cell) (bs : List (Nat × Byte)) : List Host.Cell :=
  bs.foldl (fun m p => memSet m p.1 p.2) m

/-- Set or clear poison marks, kept in rising order. -/
def poisonWrite (p : List Nat) (ps : List (Nat × Bool)) : List Nat :=
  ps.foldl (fun p x => if x.2 then (p.filter (· < x.1)) ++ x.1 :: p.filter (x.1 < ·)
    else p.filter (· ≠ x.1)) p

/-- The canonical form of memory: addresses strictly rising, no byte listed that reads as unlisted. -/
def Memory.wf : List Host.Cell → Bool
  | [] => true
  | [(_, b)] => b != 0
  | (a, b) :: (a', b') :: m => b != 0 && decide (a < a') && Memory.wf ((a', b') :: m)

/-- Bytes of memory from an address. -/
def State.bytes (s : State) (a n : Nat) : List Byte := (List.range n).map fun i => memByte s.mem (a + i)

/-- A little-endian number in memory. -/
def State.load (s : State) (a n : Nat) : Nat := ofBytes (s.bytes a n)

/-- Whether any 8-byte word of a byte range is poisoned. -/
def State.isPoisoned (s : State) (a n : Nat) : Bool :=
  s.poison.any fun w => decide (a / 8 ≤ w ∧ w ≤ (a + n - 1) / 8)

/-! Outcomes -/

/-- The state after a command that writes no memory: what no such command touches is as before. -/
def State.commit (s t : State) : State :=
  { t with pending := s.pending, grade := s.grade, mem := s.mem, poison := s.poison }

/-- The answer of a command that writes no memory. -/
def State.done (s t : State) : Out := .next (s.commit t)

/-- The state after a command that writes memory. -/
def State.commitMem (s : State) (r : State × MemUpd) : State :=
  { r.1 with
    pending := s.pending
    grade := s.grade
    mem := memWrite (if r.2.clear then [] else s.mem) r.2.bytes
    poison := poisonWrite (if r.2.clear then [] else s.poison) r.2.poison }

/-- The answer of a command that writes memory. -/
def State.doneMem (s : State) (r : State × MemUpd) : Out := .next (s.commitMem r)

/-! Grades, cores, threads -/

/-- Active cores of a grade (R1). -/
def gradeCores (g : Fin 6) : Nat := if g.val < 2 then 1024 else if g.val < 4 then 960 else 896

/-- Whether the grade has the deep tier (R4). -/
def State.deepPresent (s : State) : Bool := s.grade.val % 2 == 0

/-- Die of a physical core (R6). -/
def dieOfCore (c : Nat) : Nat := c / 288

/-- Cluster id of a physical core (R6). -/
def clusterOfCore (c : Nat) : Nat := c / 288 * 18 + c % 288 / 16

/-- Mesh coordinates of a cluster's router (R7). -/
def clusterX (k : Nat) : Nat := k / 18 % 2 * 3 + k % 18 % 3
def clusterY (k : Nat) : Nat := k / 18 / 2 * 6 + k % 18 / 3

/-- A core. -/
def State.core (s : State) (c : Nat) : Core := tabGet Core.reset s.cores c

/-- Set a core. -/
def State.setCore (s : State) (c : Nat) (k : Core) : State := { s with cores := tabIns s.cores c k }

/-- Change a core. -/
def State.modCore (s : State) (c : Nat) (f : Core → Core) : State := s.setCore c (f (s.core c))

/-- A thread. -/
def State.thr (s : State) (c : Nat) (t : Thr) : Thread := (s.core c).thr[t]

/-- The thread a core's issue stage holds. -/
def Core.running (k : Core) : Option Thr := ([0, 1, 2, 3] : List Thr).find? fun t => k.thr[t].st == .running

/-- The matrix and vector instructions a core's units hold (R258). -/
def Core.unitOps (k : Core) : List UnitOp :=
  [k.mx.ending.map (·.1), k.mx.running, k.mx.queued, k.vx.ending.map (·.1), k.vx.running, k.vx.queued].filterMap id

/-- Matrix or vector work of a thread is in flight. -/
def Core.unitBusy (k : Core) (t : Thr) : Bool := k.unitOps.any (·.thr == t)

/-- To whom the issue stage goes after thread t's state changes (R190). -/
def Core.nextAfter (k : Core) (t : Thr) (old new : TState) : Option Thr :=
  if old = .running ∧ new ≠ .running then
    (([t + 1, t + 2, t + 3] : List Thr).find? fun u => k.thr[u].st == .ready).or (if new = .ready then some t else none)
  else if new = .ready ∧ old ≠ .ready ∧ k.running.isNone ∧ k.next.isNone then some t
  else k.next

/-- Change a thread of a core. -/
def Core.modThr (k : Core) (t : Thr) (f : Thread → Thread) : Core :=
  { k with thr := k.thr.set t (f k.thr[t]), next := k.nextAfter t k.thr[t].st (f k.thr[t]).st }

/-- Change a thread. -/
def State.modThr (s : State) (c : Nat) (t : Thr) (f : Thread → Thread) : State :=
  s.modCore c fun k => k.modThr t f

/-- The four threads in order. -/
def threads : List Thr := [0, 1, 2, 3]

/-- The code of a thread state (R189). -/
def TState.code : TState → Nat
  | .notStarted => 0 | .running => 1 | .ready => 2 | .stalled => 3
  | .faulted => 4 | .exited => 5 | .halted => 6 | .locked => 7

/-- Activity of a core (R514): ACT counts modulo 2^32. -/
def State.act (s : State) (c : Nat) : State :=
  s.setFld (aCORE_ACT c) CORE_ACT.ACT (s.fld (aCORE_ACT c) CORE_ACT.ACT + 1)

/-- A STALLED thread becomes READY (R191). -/
def Thread.wake (th : Thread) : Thread :=
  if th.st = .stalled then { th with st := .ready, stall := .none } else th

/-- Interrupts pending that the thread may take (R193, R205): lowest vector first. -/
def Thread.takeable (th : Thread) : Option Nat :=
  if TSTATUS.IE.get th.tstatus = 1 then
    (lowestBit 6 ((th.ipend &&& th.ien).toNat)).map (0x20 + ·)
  else none

/-- Whether an interrupt or imprecise exception waits that the thread may take at its next acceptance point; none between an entry and
its handler's first instruction (R202, R205, R207, R209). -/
def Thread.pending (th : Thread) : Bool :=
  th.entering.isNone && (!th.imprecise.isEmpty || ARITH.PEND.get th.arith == 1 || th.takeable.isSome)

/-- A thread leaves the issue stage on a long stall (R190, R191). A long stall is an acceptance point: where something waits to be taken
the thread is READY for it at once (R193, R202). -/
def Thread.stallFor (th : Thread) (w : Stall) : Thread :=
  if th.pending then { th with st := .ready, stall := .none } else { th with st := .stalled, stall := w }

/-- An interrupt becomes pending for a thread; where the thread may take it, it ends its stall (R193). -/
def State.interrupt (s : State) (c : Nat) (t : Thr) (vec : Nat) : State :=
  s.modThr c t fun th =>
    let th := { th with ipend := th.ipend ||| BitVec.ofNat 64 (2 ^ (vec - 0x20)) }
    if th.takeable.isSome then th.wake else th

/-- Bit of 0x20 in thread 0's IPEND follows the NEW bits (R204). -/
def Core.followNew (k : Core) : Core :=
  k.modThr 0 fun th =>
    let base := th.ipend &&& ~~~ 1#64
    let th := { th with ipend := if THREAD_FAULT.NEW.get k.threadFault = 0 then base else base ||| 1 }
    if th.takeable.isSome then th.wake else th

/-! Free values, identifiers -/

/-- A value the manual leaves open (log 7). -/
def State.draw (s : State) : Word × State := (Config.freeValue s.free, { s with free := s.free + 1 })

/-- An identifier for something now in flight. -/
def State.fresh (s : State) : Nat × State := (s.nextId, { s with nextId := s.nextId + 1 })

/-! Alerts and the error log -/

/-- The complex that manages: 0 on CD0, 1 on CD2 (R510). -/
def State.activeMc (s : State) : Nat := s.fld (aMGMT_ROLE 0) MGMT_ROLE.ACTIVE

/-- ALERT_N is low while an enabled source is set (R503). -/
def State.alertPin (s : State) : State :=
  { s with pins := { s.pins with
      alert := decide ((s.reg (aALERT_SRC 0) &&& s.reg (aALERT_EN 0)) ≠ 0) } }

/-- Set a source of ALERT_SRC (R503). -/
def State.alert (s : State) (f : Field) : State := (s.setFld (aALERT_SRC 0) f 1).alertPin

/-- Record an event in the error log (R501, R502): an event equal in code, kind and index to the most
recent entry adds to its count; else a new entry stands at NEXT, of classes 0x03 and 0x04 it sets
ALERT_SRC.LOG, and of classes 0x03 to 0x06 it becomes a PLDM event (R531). -/
def State.logErr (s : State) (code kind index count handle data1 data0 : Nat) : State :=
  let new :=
    let seq := s.fld (aERRLOG_CTRL 0) ERRLOG_CTRL.SEQ
    let e : LogEntry := ⟨seq, code, kind, index, count, handle, data1, data0⟩
    let s := { s with mgmt := { s.mgmt with errlog := (e :: s.mgmt.errlog).take 1024 } }
    let s := s.setFld (aERRLOG_CTRL 0) ERRLOG_CTRL.SEQ (seq + 1)
    let s := s.setFld (aERRLOG_CTRL 0) ERRLOG_CTRL.NEXT (s.fld (aERRLOG_CTRL 0) ERRLOG_CTRL.NEXT + 1)
    let s := if code / 256 = 3 ∨ code / 256 = 4 then s.alert ALERT_SRC.LOG else s
    if 3 ≤ code / 256 ∧ code / 256 ≤ 6 then
      match s.mgmt.receiver with
      | some _ => { s with mgmt := { s.mgmt with smbOut := s.mgmt.smbOut ++ [e] } }
      | none => { s with mgmt := { s.mgmt with held := s.mgmt.held ++ [e] } }
    else s
  match s.mgmt.errlog with
  | e :: es =>
    if e.code = code ∧ e.kind = kind ∧ e.index = index then
      { s with mgmt := { s.mgmt with errlog := { e with count := e.count + count } :: es } }
    else new
  | [] => new

/-! Images -/

/-- The image of a slot. -/
def State.image (s : State) (k : Nat) : Option Image := if h : k < 16 then s.images[k] else none

/-- Set the image of a slot. -/
def State.setImage (s : State) (k : Nat) (i : Option Image) : State :=
  if h : k < 16 then { s with images := s.images.set k i } else s

/-- Change the image of a slot, where one is loaded. -/
def State.modImage (s : State) (k : Nat) (f : Image → Image) : State :=
  match s.image k with
  | some i => s.setImage k (some (f i))
  | none => s

/-- The slots of loaded images, in order. -/
def State.loadedSlots (s : State) : List Nat := (List.range 16).filter fun k => (s.image k).isSome

/-- The physical core an active-core index names now (R9). -/
def State.physOf (s : State) (a : Nat) : Nat := s.mgmt.coreMap.getD a 0

/-- The physical core of a workload core index of an image (R10). -/
def Image.core (i : Image) (w : Nat) : Option Nat := i.bindPhys[w]?

/-- The slot and workload index of the image a physical core is bound to. -/
def State.boundTo (s : State) (c : Nat) : Option (Nat × Nat) :=
  (List.range 16).findSome? fun k =>
    match s.image k with
    | some i => (i.bindPhys.findIdx? (· = c)).map fun w => (k, w)
    | none => none

/-- Whether an image's invocation is under way: STARTING, RUNNING or STOPPING (R467). -/
def Image.active (i : Image) : Bool := i.state != .loaded

/-- Ports. -/
def State.port (s : State) (p : Port) : PortSt := s.ports[p]
def State.modPort (s : State) (p : Port) (f : PortSt → PortSt) : State :=
  { s with ports := s.ports.set p (f s.ports[p]) }

/-- Put a packet on a port's link. -/
def State.emit (s : State) (p : Port) (t : Tlp) : State :=
  s.modPort p fun q => { q with out := t :: q.out }

/-- A tier controller's key in the table of tiers. -/
def TierCtl.key : TierCtl → Nat
  | .near n => n
  | .middle m => 68 + m

/-- What a tier controller holds beside its registers. -/
def State.tier (s : State) (n : Nat) : Tier := tabGet Tier.reset s.tiers n
def State.modTier (s : State) (n : Nat) (f : Tier → Tier) : State :=
  { s with tiers := tabIns s.tiers n (f (s.tier n)) }

/-- A DMA channel's hidden state. -/
def State.dma (s : State) (ch : Nat) : Dma := tabGet Dma.reset s.dmas ch
def State.modDma (s : State) (ch : Nat) (f : Dma → Dma) : State :=
  { s with dmas := tabIns s.dmas ch (f (s.dma ch)) }

/-- Change what the management side holds. -/
def State.modMgmt (s : State) (f : Mgmt → Mgmt) : State := { s with mgmt := f s.mgmt }

/-- An access in flight. -/
def State.txn (s : State) (id : Nat) : Option Txn := s.txns.find? (·.id = id)

/-- Change an access in flight. -/
def State.modTxn (s : State) (id : Nat) (f : Txn → Txn) : State :=
  { s with txns := s.txns.map fun x => if x.id = id then f x else x }

/-- Take an access out of flight. -/
def State.dropTxn (s : State) (id : Nat) : State := { s with txns := s.txns.filter (·.id ≠ id) }

/-- Fold an update over a list. -/
def State.forAll {α : Type} (s : State) (l : List α) (f : State → α → State) : State := l.foldl f s

end Sys2Proof.Machine
end

