-- ==== Sys2Proof/Machine/Operands.lean ====
section
/-! DEFINITION. The instruction word of a core: the fields of the five formats, the register specifiers,
and the reading and writing of a thread's registers (R133, R140, R142). -/

namespace Sys2Proof.Machine

/-- Bits `[hi:lo]` of an instruction word. -/
def wb (w : Word) (hi lo : Nat) : Nat := w.toNat / 2 ^ lo % 2 ^ (hi + 1 - lo)

/-- Major opcode, wait field, signal field. -/
def wMajor (w : Word) : Nat := wb w 63 56
def wWait (w : Word) : Nat := wb w 55 52
def wSig (w : Word) : Nat := wb w 51 48

/-- K format. -/
def kRd (w : Word) : Nat := wb w 47 42
def kRs1 (w : Word) : Nat := wb w 41 36
def kRs2 (w : Word) : Nat := wb w 35 30
def kRs3 (w : Word) : Nat := wb w 29 24
def kFn (w : Word) : Nat := wb w 23 16
def kRes (w : Word) : Nat := wb w 15 0

/-- L format. -/
def lRd (w : Word) : Nat := wb w 47 42
def lRs (w : Word) : Nat := wb w 41 36
def lPM (w : Word) : Bool := wb w 35 35 == 1
def lPsel (w : Word) : Nat := wb w 34 32
def lImm (w : Word) : Nat := wb w 31 0

/-- M format. -/
def mRt (w : Word) : Nat := wb w 47 42
def mAn (w : Word) : Nat := wb w 41 38
def mMn (w : Word) : Nat := wb w 37 34
def mKind (w : Word) : Nat := wb w 33 30
def mMode (w : Word) : Nat := wb w 29 28
def mPM (w : Word) : Bool := wb w 27 27 == 1
def mPsel (w : Word) : Nat := wb w 26 24
def mOff (w : Word) : Nat := wb w 23 0

/-- X format. -/
def xFn (w : Word) : Nat := wb w 47 40
def xReg (w : Word) : Nat := wb w 39 34
def xOp (w : Word) : Nat := wb w 33 0

/-- T format. -/
def tFn (w : Word) : Nat := wb w 47 40
def tTd (w : Word) : Nat := wb w 39 35
def tTa (w : Word) : Nat := wb w 34 30
def tTb (w : Word) : Nat := wb w 29 25
def tTc (w : Word) : Nat := wb w 24 20
def tCtl (w : Word) : Nat := wb w 19 0

/-- The word of a major opcode with wait, signal and a 48-bit operand part. -/
def mkWord (major wait sig rest : Nat) : Word :=
  BitVec.ofNat 64 (major * 2 ^ 56 + wait * 2 ^ 52 + sig * 2 ^ 48 + rest)

/-- A register specifier names D0-D31, A0-A15 or M0-M15 (R140). -/
def isD (r : Nat) : Bool := decide (r < 0x20)
def isA (r : Nat) : Bool := decide (0x20 ≤ r ∧ r < 0x30)

/-- The key under which a parameter register stands beside the 64 specifiers. -/
def pKey (i : Nat) : Nat := 64 + i

/-- Read a register by specifier; an A register reads zero-extended. -/
def Thread.readReg (th : Thread) (r : Nat) : Word :=
  if h : r < 32 then th.d[r]
  else if h : r - 32 < 16 then (th.a[r - 32]).setWidth 64
  else if h : r - 48 < 16 then th.m[r - 48] else 0

/-- Write a register by specifier; an A register keeps bits [47:0] (R133). -/
def Thread.writeReg (th : Thread) (r : Nat) (v : Word) : Thread :=
  if h : r < 32 then { th with d := th.d.set r v }
  else if h : r - 32 < 16 then { th with a := th.a.set (r - 32) (v.setWidth 48) }
  else if h : r - 48 < 16 then { th with m := th.m.set (r - 48) v } else th

/-- Read an address register. -/
def Thread.readA (th : Thread) (i : Nat) : Addr := if h : i < 16 then th.a[i] else 0

/-- Write an address register. -/
def Thread.writeA (th : Thread) (i : Nat) (v : Addr) : Thread :=
  if h : i < 16 then { th with a := th.a.set i v } else th

/-- Read a modifier register. -/
def Thread.readM (th : Thread) (i : Nat) : Word := if h : i < 16 then th.m[i] else 0

/-- Read and write a parameter register. -/
def Thread.readP (th : Thread) (i : Nat) : Word := if h : i < 8 then th.p[i] else 0
def Thread.writeP (th : Thread) (i : Nat) (v : Word) : Thread :=
  if h : i < 8 then { th with p := th.p.set i v } else th

/-- Sync indirection register. -/
def Thread.readSC (th : Thread) (i : Nat) : Word := if h : i < 4 then th.sc[i] else 0

/-- The immediate of an L-format instruction as it executes: a marked field takes bits [31:0] of its P
register (R142). -/
def Thread.imm (th : Thread) (w : Word) : Nat :=
  if lPM w then (th.readP (lPsel w)).toNat % 2 ^ 32 else lImm w

/-- The immediate sign-extended to 64 bits. -/
def Thread.immS (th : Thread) (w : Word) : Word := BitVec.ofInt 64 (sext 32 (th.imm w))

/-- The offset of an M-format instruction as it executes (R142). -/
def Thread.off (th : Thread) (w : Word) : Int :=
  sext 24 (if mPM w then (th.readP (mPsel w)).toNat % 2 ^ 24 else mOff w)

/-- An address plus a signed offset, modulo 2^48 (R134). -/
def addrAdd (a : Addr) (o : Int) : Addr := a + BitVec.ofInt 48 o

/-- The P register a marked L-format field reads. -/
def lReads (w : Word) : List Nat := if lPM w then [pKey (lPsel w)] else []

/-- The P register a marked M-format field reads. -/
def mReads (w : Word) : List Nat := if mPM w then [pKey (mPsel w)] else []

end Sys2Proof.Machine
end

