-- ==== Sys2Proof/Machine/Flags.lean ====
section
/-! DEFINITION. The completion flags F1-F11 (R147, R148) and the sticky arithmetic flags (R206). -/

namespace Sys2Proof.Machine

/-- Outstanding signallers of Fn. -/
def Thread.flagCount (th : Thread) (n : Nat) : Nat := th.flags.toNat / 2 ^ (4 * n) % 16

/-- The FLAGS word with Fn set. -/
def setFlagCount (w : Word) (n v : Nat) : Word :=
  BitVec.ofNat 64 (w.toNat - w.toNat / 2 ^ (4 * n) % 16 * 2 ^ (4 * n) + v % 16 * 2 ^ (4 * n))

/-- Fn rises by 1 when a signaller issues (R147). -/
def Thread.flagUp (th : Thread) (n : Nat) : Thread :=
  { th with flags := setFlagCount th.flags n (th.flagCount n + 1) }

/-- Fn falls by 1 when a signaller completes (R147); a thread stalled on it becomes READY (R191). -/
def Thread.flagDown (th : Thread) (n : Nat) : Thread :=
  let th := { th with flags := setFlagCount th.flags n (th.flagCount n - 1) }
  if th.stall = .flagZero n ∧ th.flagCount n = 0 ∨ th.stall = .flagLow n ∧ th.flagCount n ≤ 14 then th.wake else th

/-- The sticky flags an operation raises. -/
structure FFlags where
  nv : Bool
  of : Bool
  uf : Bool
  nx : Bool
deriving DecidableEq, Repr

/-- No flag. -/
def FFlags.none : FFlags := ⟨false, false, false, false⟩

/-- Flags of either. -/
def FFlags.or (a b : FFlags) : FFlags := ⟨a.nv || b.nv, a.of || b.of, a.uf || b.uf, a.nx || b.nx⟩

/-- The flags in ARITH's bit order. -/
def FFlags.bits (f : FFlags) : Nat := b2n f.nv + 2 * b2n f.of + 4 * b2n f.uf + 8 * b2n f.nx

/-- Sticky flags set; where a flag with its EN bit 1 rises from 0, PEND sets and SRC_PC records the raising
instruction if PEND was 0 (R206). -/
def arithRaise (arith : Word) (f : FFlags) (pc : Addr) : Word :=
  let old := arith.toNat % 16
  let rising := f.bits &&& (15 - old) &&& ARITH.EN.get arith
  let w := arith ||| BitVec.ofNat 64 f.bits
  if rising = 0 then w
  else
    let w := if ARITH.PEND.get arith = 0 then ARITH.SRC_PC.put w pc.toNat else w
    ARITH.PEND.put w 1

/-- The thread with arithmetic flags raised. -/
def Thread.raiseArith (th : Thread) (f : FFlags) (pc : Addr) : Thread :=
  { th with
    arith := arithRaise th.arith f pc
    pendPriv := if ARITH.PEND.get th.arith = 0 then TSTATUS.PRIV.get th.tstatus else th.pendPriv }

/-- The same as an instruction of a unit completes, at the privilege of its issue: a set PEND ends the thread's stall (R201, R202,
R207). -/
def Thread.raiseLate (th : Thread) (f : FFlags) (pc : Addr) (priv : Nat) : Thread :=
  let th' := { th with
    arith := arithRaise th.arith f pc
    pendPriv := if ARITH.PEND.get th.arith = 0 then priv else th.pendPriv }
  if ARITH.PEND.get th'.arith = 1 then th'.wake else th'

end Sys2Proof.Machine
end

