-- ==== Sys2Proof/Machine/Formats.lean ====
section
/-! DEFINITION. Number formats: encodings and values (R280-R286), rounding with its flags (R295-R299),
conversions (R300-R302), arithmetic on exact values (R291-R293), comparison, minimum and maximum (R303, R304). -/

namespace Sys2Proof.Machine

/-- The value of an encoding: NaN, a signed infinity, or exactly m x 2^e. -/
inductive FVal where
  | nan
  | inf (neg : Bool)
  | fin (m : Int) (e : Int)
deriving DecidableEq, Repr

/-- Which encodings of the top exponent are not numbers (R280). -/
inductive FTop where
  | ieee | e4m3 | none
deriving DecidableEq, Repr

/-- A floating-point format: exponent and fraction bits, bias (R280). -/
structure FFmt where
  eb : Nat
  mb : Nat
  bias : Nat
  top : FTop
deriving DecidableEq, Repr

def fp32 : FFmt := ⟨8, 23, 127, .ieee⟩
def bf16 : FFmt := ⟨8, 7, 127, .ieee⟩
def fp16 : FFmt := ⟨5, 10, 15, .ieee⟩
def e4m3 : FFmt := ⟨4, 3, 7, .e4m3⟩
def e5m2 : FFmt := ⟨5, 2, 15, .ieee⟩
def e3m2 : FFmt := ⟨3, 2, 3, .none⟩
def e2m3 : FFmt := ⟨2, 3, 1, .none⟩
def e2m1 : FFmt := ⟨2, 1, 1, .none⟩

/-- The value of an encoding (R281). -/
def FFmt.value (f : FFmt) (b : Nat) : FVal :=
  let neg := bit b (f.eb + f.mb)
  let e := b / 2 ^ f.mb % 2 ^ f.eb
  let fr := b % 2 ^ f.mb
  let sign (m : Nat) : Int := if neg then -(m : Int) else m
  if f.top = .ieee ∧ e = 2 ^ f.eb - 1 then (if fr = 0 then .inf neg else .nan)
  else if f.top = .e4m3 ∧ e = 2 ^ f.eb - 1 ∧ fr = 2 ^ f.mb - 1 then .nan
  else if e = 0 then .fin (sign fr) (1 - (f.bias : Int) - f.mb)
  else .fin (sign (2 ^ f.mb + fr)) ((e : Int) - f.bias - f.mb)

/-- The canonical NaN (R292): the top exponent with the top fraction bit, for E4M3 every bit. -/
def FFmt.qnan (f : FFmt) : Nat :=
  if f.top = .e4m3 then 2 ^ (f.eb + f.mb) - 1 else (2 ^ f.eb - 1) * 2 ^ f.mb + 2 ^ (f.mb - 1)

/-- The infinity encoding of a sign. -/
def FFmt.infBits (f : FFmt) (neg : Bool) : Nat := (2 ^ f.eb - 1) * 2 ^ f.mb + b2n neg * 2 ^ (f.eb + f.mb)

/-- The largest finite magnitude as t x 2^q. -/
def FFmt.maxT (f : FFmt) : Nat := if f.top = .ieee then 2 ^ (f.mb + 1) - 1 else 2 ^ (f.mb + 1) - 2
def FFmt.maxQ (f : FFmt) : Int := (if f.top = .ieee then (2 ^ f.eb : Int) - 2 else (2 ^ f.eb : Int) - 1) - f.bias - f.mb

/-- How a rounding goes: 0 to nearest even, 1 toward zero, 2 stochastic with the LFSR value it uses (R295, R296). -/
structure RMode where
  mode : Nat
  lfsr : Nat
deriving DecidableEq, Repr

/-- Round to nearest even (R295). -/
def RMode.rne : RMode := ⟨0, 0⟩

/-- A magnitude n x 2^e as a whole number of ulps 2^q, rounded, and whether anything was discarded (R295, R296). -/
def roundMag (r : RMode) (n : Nat) (e q : Int) : Nat × Bool :=
  if q ≤ e then (n * 2 ^ (e - q).toNat, false)
  else
    let d := (q - e).toNat
    let t := n / 2 ^ d
    let rem := n % 2 ^ d
    let up := match r.mode with
      | 0 => decide (2 ^ d < 2 * rem ∨ (2 * rem = 2 ^ d ∧ t % 2 = 1))
      | 1 => false
      | _ => decide (2 ^ 32 ≤ rem * 2 ^ 32 / 2 ^ d + r.lfsr)
    (if up then t + 1 else t, rem != 0)

/-- Round an exact value m x 2^e into a format: the encoding and the flags (R291, R295-R299). -/
def FFmt.round (f : FFmt) (r : RMode) (m e : Int) : Nat × FFlags :=
  let n := m.natAbs
  if n = 0 then (0, .none)
  else
    let lead := (Nat.log2 n : Int) + e
    let emin := 1 - (f.bias : Int)
    let q := max lead emin - f.mb
    let (t, inexact) := roundMag r n e q
    let sign := if m < 0 then 2 ^ (f.eb + f.mb) else 0
    let beyond := if f.maxQ < q then t != 0 else decide (f.maxT * 2 ^ (f.maxQ - q).toNat < t)
    if beyond then
      let big := ((f.maxQ + f.mb + f.bias - 1).toNat * 2 ^ f.mb + f.maxT)
      (if f.top = .ieee ∧ r.mode ≠ 1 then f.infBits (m < 0) else sign + big, ⟨false, true, false, true⟩)
    else
      let tiny := decide (lead < emin) &&
        !(decide (lead = emin - 1) && (roundMag r n e (lead - f.mb)).1 == 2 ^ (f.mb + 1))
      (if t = 0 then 0 else sign + (q + f.mb + f.bias - 1).toNat * 2 ^ f.mb + t,
        ⟨false, false, inexact && tiny, inexact⟩)

/-- A value written into a format: NaN canonical, an infinity as it is or, for E4M3, an invalid case (R292, R293). -/
def FFmt.write (f : FFmt) (r : RMode) : FVal → Nat × FFlags
  | .nan => (f.qnan, .none)
  | .inf neg => if f.top = .ieee then (f.infBits neg, .none) else (f.qnan, ⟨true, false, false, false⟩)
  | .fin m e => f.round r m e

/-- A value converted to a signed integer of n bits, as n bits: rounded, then the range rule (R293, R298, R301). -/
def toIntBits (nb : Nat) (r : RMode) : FVal → Nat × FFlags
  | .nan => (0, ⟨true, false, false, false⟩)
  | .inf neg => (if neg then 2 ^ (nb - 1) else 2 ^ (nb - 1) - 1, ⟨true, false, false, false⟩)
  | .fin m e =>
    let (t, inexact) := roundMag r m.natAbs e 0
    let v : Int := if m < 0 then -(t : Int) else t
    if v < -(2 ^ (nb - 1) : Int) then (2 ^ (nb - 1), ⟨true, false, false, true⟩)
    else if (2 ^ (nb - 1) : Int) ≤ v then (2 ^ (nb - 1) - 1, ⟨true, false, false, true⟩)
    else (wrap nb v, ⟨false, false, false, inexact⟩)

/-- An integer held to a signed range (R302). -/
def satInt (nb : Nat) (v : Int) : Nat :=
  if v < -(2 ^ (nb - 1) : Int) then 2 ^ (nb - 1)
  else if (2 ^ (nb - 1) : Int) ≤ v then 2 ^ (nb - 1) - 1 else wrap nb v

/-! Arithmetic on exact values -/

/-- Exact sum of two dyadic numbers. -/
def dyAdd (m1 e1 m2 e2 : Int) : FVal :=
  if e1 ≤ e2 then .fin (m1 + m2 * 2 ^ (e2 - e1).toNat) e1 else .fin (m1 * 2 ^ (e1 - e2).toNat + m2) e2

/-- Negation. -/
def FVal.neg : FVal → FVal
  | .nan => .nan
  | .inf n => .inf !n
  | .fin m e => .fin (-m) e

/-- Exact sum, and whether infinities of both signs met (R293). -/
def FVal.add : FVal → FVal → FVal × Bool
  | .nan, _ | _, .nan => (.nan, false)
  | .inf a, .inf b => if a = b then (.inf a, false) else (.nan, true)
  | .inf a, .fin _ _ => (.inf a, false)
  | .fin _ _, .inf b => (.inf b, false)
  | .fin m1 e1, .fin m2 e2 => (dyAdd m1 e1 m2 e2, false)

/-- Exact product, and whether 0 met an infinity (R293). -/
def FVal.mul : FVal → FVal → FVal × Bool
  | .nan, _ | _, .nan => (.nan, false)
  | .inf a, .inf b => (.inf (a != b), false)
  | .inf a, .fin m _ | .fin m _, .inf a => if m = 0 then (.nan, true) else (.inf (a != decide (m < 0)), false)
  | .fin m1 e1, .fin m2 e2 => (.fin (m1 * m2) (e1 + e2), false)

/-- Exact sum of a list of values: NaN where one is, or infinities of both signs meet (R293). -/
def FVal.sum (l : List FVal) : FVal × Bool :=
  let pos := l.any (· == .inf false)
  let neg := l.any (· == .inf true)
  if l.any (· == .nan) then (.nan, pos && neg)
  else l.foldl (fun a v => let r := a.1.add v; (r.1, a.2 || r.2)) (.fin 0 0, false)

/-- Order of two numbers: `none` where one is a NaN (R303). -/
def FVal.cmp : FVal → FVal → Option Ordering
  | .nan, _ | _, .nan => none
  | .inf a, .inf b => some (if a = b then .eq else if a then .lt else .gt)
  | .inf a, .fin _ _ => some (if a then .lt else .gt)
  | .fin _ _, .inf b => some (if b then .gt else .lt)
  | .fin m1 e1, .fin m2 e2 =>
    match dyAdd m1 e1 (-m2) e2 with
    | .fin m _ => some (compare m 0)
    | _ => none

/-- minimumNumber and maximumNumber (R304). -/
def FVal.minMax (isMax : Bool) (a b : FVal) : FVal :=
  match a.cmp b with
  | none => if a = .nan then b else a
  | some o => if (o == .lt) != isMax then a else b

/-! The rounding of a thread -/

/-- One step of a thread's LFSR (R297). -/
def lfsrStep (x : BitVec 32) : BitVec 32 :=
  if x.getLsbD 0 then (x >>> 1) ^^^ 0x80200003 else x >>> 1

/-- n steps. -/
def lfsrSteps : Nat → BitVec 32 → BitVec 32
  | 0, x => x
  | n + 1, x => lfsrSteps n (lfsrStep x)

/-- A result with flags raised beside those of its rounding. -/
def withNv (nv : Bool) (r : Nat × FFlags) : Nat × FFlags := (r.1, { r.2 with nv := r.2.nv || nv })

end Sys2Proof.Machine
end

