-- ==== Sys2Proof/Machine/Mem.lean ====
section
/-! DEFINITION. Memory as the cores and homes see it: the home of an address (R89-R99), poison
(R311, R417, R429), accesses in flight (R122, R123), handles and translation (R103-R114), and the
caches (R322-R327). -/

namespace Sys2Proof.Machine

/-! Homes -/

/-- Channel and channel offset of a near-tier address (R94, R95). -/
def nearChan (ilv : List Nat) (pa : Nat) : Nat × Nat :=
  let d := pa / 2 ^ 38
  let p := pa / 2 ^ 21 % 2 ^ 17
  let g := pa / 256 % 8192
  if ilv.contains (pa / 2 ^ 21) then
    ((g + p) % 64, p * 131072 + d * 32768 + g / 64 * 256 + pa % 256)
  else (d * 16 + (g + p) % 16, p * 131072 + g / 16 * 256 + pa % 256)

/-- Package and package offset of a middle-tier address (R98). -/
def midPkg (pa : Nat) : Nat × Nat :=
  let q := pa - 0x100_0000_0000
  let p := q / 2 ^ 21 % 2 ^ 18
  let g := pa / 256 % 8192
  (q / 2 ^ 39 * 4 + (g + p) % 4, p * 524288 + g / 4 * 256 + pa % 256)

/-- The home of a physical address (R89, R99, R100). -/
def homeOf (ilv : List Nat) (pa : Nat) : Home :=
  if pa < 0x100_0000_0000 then .near (nearChan ilv pa).1
  else if pa < 0x300_0000_0000 then .middle (midPkg pa).1
  else if pa < 0x1000_0000_0000 then .absent
  else if pa < 0x1000_4000_0000 then
    (if pa % 0x1000_0000 < 0x800_0000 then .slice (pa % 0x4000_0000 / 0x1000_0000) (pa / 256 % 32) else .absent)
  else if pa < 0x1100_0000_0000 then .absent
  else if pa < 0x1100_4800_0000 then
    (if pa % 0x10_0000 < 0x8_0000 then .coreMem ((pa - 0x1100_0000_0000) / 0x10_0000) else .absent)
  else if pa < ctrlBase then .absent
  else if pa < ctrlBase + 0x1000_0000 then .control
  else if pa < 0x2000_0000_0000 then .absent
  else if pa < 0x3000_0000_0000 then .host 0
  else if pa < 0x4000_0000_0000 then .host 1
  else .absent

/-- Base of a core's core memory (R89). -/
def coreMemBase (c : Nat) : Nat := 0x1100_0000_0000 + c * 0x10_0000

/-- The controller that serves near-tier channel n: the die's spare where it stands in for n (R425). -/
def State.ncOf (s : State) (n : Nat) : Nat :=
  let d := n / 16
  if s.flag (aNS_SUBST d) NS_SUBST.ACTIVE && tabGet 0 s.spareOf d == n then 64 + d else n

/-! Poison -/

/-- PLIST_N, PLIST_HIGH and PLIST_FULL follow the poison list (R417). -/
def State.plistStat (s : State) (n : Nat) : State :=
  let len := (s.tier n).plist.length
  ((s.setFld (ncBlk n + 8) NC_STAT.PLIST_N len).setFld (ncBlk n + 8) NC_STAT.PLIST_HIGH (b2n (1536 ≤ len))).setFld
    (ncBlk n + 8) NC_STAT.PLIST_FULL (b2n (2048 ≤ len))

/-- A unit enters the poison list of one controller; a full list records nothing (R417, R418). -/
def State.plistEnter (s : State) (n unit : Nat) : State :=
  let l := (s.tier n).plist
  if l.contains unit || decide (2048 ≤ l.length) then s
  else (s.modTier n fun t => { t with plist := l ++ [unit] }).plistStat n

/-- A unit leaves the poison list of one controller (R417). -/
def State.plistLeave (s : State) (n unit : Nat) : State :=
  if (s.tier n).plist.contains unit then
    (s.modTier n fun t => { t with plist := t.plist.filter (· ≠ unit) }).plistStat n
  else s

/-- Whether a near-tier channel is the mirror source of its die's spare (R425). -/
def State.mirrored (s : State) (n : Nat) : Bool := decide (n < 64) && s.fld (ncBlk n) NC_CTRL.MODE == 1

/-- A write leaves a unit bad: it enters the controller's list, and that of the spare that mirrors it (R417, R425). -/
def State.plistAdd (s : State) (n unit : Nat) : State :=
  let s := if s.mirrored n then s.plistEnter (64 + n / 16) unit else s
  s.plistEnter n unit

/-- A write of a whole unit: it leaves the controller's list, and that of the spare that mirrors it (R417, R425). -/
def State.plistDel (s : State) (n unit : Nat) : State :=
  let s := if s.mirrored n then s.plistLeave (64 + n / 16) unit else s
  s.plistLeave n unit

/-- Whether a byte reads as poison at its home (R311, R417, R429). -/
def State.badByte (s : State) (pa : Nat) : Bool :=
  match homeOf s.ilv pa with
  | .near n => (s.tier (s.ncOf n)).plist.contains ((nearChan s.ilv pa).2 / 64)
  | .middle m => (s.tier (68 + m)).midBad.contains ((midPkg pa).2 / 32)
  | .slice _ _ | .coreMem _ => s.poison.contains (pa / 8)
  | _ => false

/-- The block of `n` bytes that holds each address written, with whether the write covers all of it and
whether any byte of it is poisoned. -/
def blocksOf (n : Nat) (ws : List (Nat × Byte × Bool)) : List (Nat × Bool × Bool) :=
  ((ws.map fun w => w.1 / n).dedup).map fun b =>
    let here := ws.filter fun w => w.1 / n = b
    (b, decide ((here.map (·.1)).dedup.length = n), here.any (·.2.2))

/-- What writing bytes does to poison at the homes: a whole word, unit or burst loses its poison, a smaller
write leaves it, a poisoned byte or failed storage sets it (R311, R417, R429). -/
def State.writePoison (s : State) (ws : List (Nat × Byte × Bool)) : State × List (Nat × Bool) :=
  let words := (blocksOf 8 (ws.filter fun w => match homeOf s.ilv w.1 with
    | .slice _ _ | .coreMem _ => true | _ => false)).filterMap fun (b, whole, bad) =>
      if bad || s.failed.contains b then some (b, true) else if whole then some (b, false) else none
  let s := s.forAll (blocksOf 64 ws) fun s (b, whole, bad) =>
    match homeOf s.ilv (b * 64) with
    | .near n =>
      let u := (nearChan s.ilv (b * 64)).2 / 64
      if bad then s.plistAdd (s.ncOf n) u else if whole then s.plistDel (s.ncOf n) u else s
    | _ => s
  let s := s.forAll (blocksOf 32 ws) fun s (b, whole, bad) =>
    match homeOf s.ilv (b * 32) with
    | .middle m =>
      let u := (midPkg (b * 32)).2 / 32
      if bad then s.modTier (68 + m) fun t => { t with midBad := u :: t.midBad.filter (· ≠ u) }
      else if whole then s.modTier (68 + m) fun t => { t with midBad := t.midBad.filter (· ≠ u) } else s
    | _ => s
  (s, words)

/-- The words of a core's pinned instruction memory that can no longer be stored (R311). -/
def State.imemBad (s : State) (c : Nat) : List Nat := (s.imemFailed.filter (·.1 = c)).map (·.2)

/-- Bytes written at their homes. -/
def State.writeHome (s : State) (ws : List (Nat × Byte × Bool)) : State × MemUpd :=
  let (s, ps) := s.writePoison ws
  (s, ⟨false, ws.map fun w => (w.1, w.2.1), ps⟩)

/-- Consecutive clean bytes as a write. -/
def runOf (a : Nat) (bs : List Byte) : List (Nat × Byte × Bool) :=
  (List.range bs.length).zipWith (fun i b => (a + i, b, false)) bs

/-! Accesses in flight -/

/-- The core a source belongs to. -/
def Source.core? : Source → Option CoreId
  | .thread c _ | .cache c | .walker c _ => some c
  | _ => none

/-- The addresses an operation touches. -/
def MemOp.addrs (addr : Nat) : MemOp → List Nat
  | .read as => as
  | .write ws => ws.map (·.1)
  | .atomic _ n _ _ _ => (List.range n).map (addr + ·)

/-- Send an access to its home, behind those already sent. -/
def State.send (s : State) (src : Source) (addr : Nat) (op : MemOp) (purpose : Purpose)
    (overlay : List (Nat × Byte)) (vpn : Option Nat) : State :=
  let (id, s) := s.fresh
  { s with txns := s.txns ++ [⟨id, src, homeOf s.ilv addr, addr, op, purpose, .sent, [], [], false, overlay, vpn⟩] }

/-- The homes an access reaches: of a gather of die memory every slice it reads (R99, R237). -/
def Txn.homes (x : Txn) : List Home :=
  match x.home with
  | .slice _ _ => ((x.op.addrs x.addr).map (homeOf [])).dedup
  | h => [h]

/-- The lines an access reaches. -/
def Txn.lines (x : Txn) : List Nat := ((x.op.addrs x.addr).map (· / 64)).dedup

/-- Whether two accesses reach a line in common. -/
def Txn.meets (e l : Txn) : Bool := e.lines.any l.lines.contains

/-- Whether an access is a write-back of a core's data cache. -/
def Txn.isWriteBack (x : Txn) : Bool :=
  match x.purpose with
  | .writeBack _ => true
  | _ => false

/-- Whether an access fills a line of a data cache or side buffer. -/
def Txn.isFill (x : Txn) : Bool :=
  match x.purpose with
  | .fillLoad .. | .fillSide => true
  | .tileRow _ _ _ _ fill => fill
  | _ => false

/-- Whether an access sent earlier must be performed first: one of the same source to the same home (R123); a write-back holds
stores of its core's threads, and counts as an access of each of them to its line (R123, R132; log 64). -/
def Txn.before (e l : Txn) : Bool :=
  (e.src == l.src && e.homes.any l.homes.contains) ||
    ((e.isWriteBack || l.isWriteBack) && e.src.core?.isSome && e.src.core? == l.src.core? && e.meets l)

/-- Whether a fill is performed ahead of a write of its core to its line: then it is not installed, for the core has written what the
fill does not hold (R123, R326). -/
def State.overtakes (s : State) (x : Txn) : Bool :=
  x.isFill && (s.txns.takeWhile (·.id ≠ x.id)).any fun e =>
    (match e.op with | .read _ => false | _ => true) && (match e.stage with | .sent | .taken _ => true | _ => false) &&
      e.src.core? == x.src.core? && e.meets x

/-- Whether a request that its controller has taken, and tries again, touches what addresses touch: accesses to one address are
performed in their order of arrival (R412, R428). -/
def State.retried (s : State) (as : List Nat) : Bool :=
  s.txns.any fun e => (match e.stage, e.home with
    | .taken _, .near _ | .taken _, .middle _ => true
    | _, _ => false) && (e.op.addrs e.addr).any fun a => as.any fun b => a / 64 == b / 64

/-- Whether an access may be performed: none that must come first is still waiting. -/
def State.mayPerform (s : State) (x : Txn) : Bool :=
  !(x.stage == .sent && s.retried (x.op.addrs x.addr)) && (s.txns.takeWhile (·.id ≠ x.id)).all fun e => e.stage == .performed || e.stage == .lost || e.stage == .denied || !e.before x

/-! Handles and translation -/

/-- Where an access goes, or how it ends (R110, R114). -/
inductive Xlat where
  | ok (pa : Nat) (cacheable : Bool) (vpn : Option Nat)
  | fault (vec cause : Nat)
  | walk (va : Nat)
deriving DecidableEq, Repr

def handleWindow : Nat := 0xF000_0000_0000
def pinnedPage : Nat := 0xEFFF_FFE0_0000

/-- A level-2 entry that no walk accepts (R109). -/
def badEntry (e : Word) : Bool :=
  wb e 20 8 != 0 || wb e 55 48 != 0 || decide (0x300_0000_0000 ≤ PTE2.PPA.get e * 2 ^ 21)

/-- The permissions of a present entry (R110). -/
def entryCheck (e : Word) (va : Nat) (fetch write : Bool) : Xlat :=
  if write && PTE2.W.get e == 0 then .fault 0x03 2
  else if fetch && PTE2.X.get e == 0 then .fault 0x03 3
  else .ok (PTE2.PPA.get e * 2 ^ 21 + va % 2 ^ 21) (PTE2.C.get e == 1) (some (va / 2 ^ 21))

/-- Translate an address of the translated space through a translation cache (R108, R110, R138). -/
def translate (en : Bool) (tlb : Tab (Option Word)) (va : Nat) (fetch write : Bool) : Xlat :=
  if pinnedPage ≤ va then .fault 0x02 1
  else if !en then .fault 0x03 5
  else match tabGet none tlb (va / 2 ^ 21) with
    | some e => entryCheck e va fetch write
    | none => .walk va

/-- The handle checks of R114 for a data access, then translation for kind virtual. -/
def State.handleAccess (s : State) (c : Nat) (en : Bool) (tlb : Tab (Option Word)) (va : Nat) (write : Bool) : Xlat :=
  let h := va / 2 ^ 38 % 64
  let o := va % 2 ^ 38
  let w0 := s.reg (aHANDLE0 c h)
  let kind := HANDLE0.KIND.get w0
  if kind = 0 ∨ 5 < kind then .fault 0x03 6
  else if HANDLE1.LIMIT.get (s.reg (aHANDLE1 c h)) < o then .fault 0x03 7
  else if (if write then HANDLE0.W.get w0 else HANDLE0.R.get w0) = 0 then .fault 0x03 8
  else
    let ea := (HANDLE0.BASE.get w0 + o) % 2 ^ 48
    if kind = 1 then (if handleWindow ≤ ea then .fault 0x03 7 else translate en tlb ea false write)
    else .ok ea (HANDLE0.C.get w0 == 1 && (kind == 2 || kind == 3)) none

/-- Resolve an address of a thread's access (R103, R110, R114, R138). -/
def State.resolve (s : State) (c : Nat) (va : Nat) (fetch write : Bool) : Xlat :=
  let en := s.flag (aTR_ROOT c) TR_ROOT.EN
  if handleWindow ≤ va then
    (if fetch then .fault 0x03 8 else s.handleAccess c en (s.core c).tlb va write)
  else translate en (s.core c).tlb va fetch write

/-- A translation enters a translation cache of the given size; in a full one a free value names the entry
that leaves (log 7). -/
def tlbFill (size draw : Nat) (tlb : Tab (Option Word)) (vpn : Nat) (e : Word) : Tab (Option Word) :=
  let tlb := if size ≤ tlb.length then tabDel tlb ((tlb.getD (draw % size) (0, none)).1) else tlb
  tabIns tlb vpn (some e)

/-- Physical address of an entry of an image's page tables, from TR_ROOT and the level-1 entry. -/
def l1Addr (root : Word) (va : Nat) : Nat := TR_ROOT.ROOT.get root * 2 ^ 15 + va / 2 ^ 36 * 8
def l2Addr (e1 : Word) (va : Nat) : Nat := PTE1.L2.get e1 * 2 ^ 15 + va / 2 ^ 21 % 2 ^ 15 * 8

/-! Caches -/

/-- A line with nothing valid. -/
def Line.empty (tag : Nat) : Line := ⟨tag, 0, 0, 0, zeros 64⟩

/-- A line filled from its home. -/
def Line.ofHome (tag : Nat) (bs : List Byte) : Line := ⟨tag, BitVec.allOnes 64, 0, 0, bs⟩

/-- The line in a set and way. -/
def Cache.at (k : Cache) (set way : Nat) : Option Line := tabGet none k.lines (set * 4 + way)

/-- Put or take out the line in a set and way. -/
def Cache.put (k : Cache) (set way : Nat) (l : Option Line) : Cache :=
  { k with lines := tabSet none k.lines (set * 4 + way) l }

/-- The enabled way that holds a line (R322). -/
def Cache.find (k : Cache) (dis : Nat) (tag : Nat) : Option Nat :=
  [0, 1, 2, 3].find? fun w => !bit dis w && (k.at (tag % 256) w).any (·.tag = tag)

/-- The replacement tree points away from the way used (R322; log 10). -/
def Cache.touch (k : Cache) (set way : Nat) : Cache :=
  let t := tabGet (0 : BitVec 3) k.plru set
  let root := if way < 2 then t ||| 1 else t &&& 6
  let t := if way = 0 then root ||| 2 else if way = 1 then root &&& 5 else if way = 2 then root ||| 4 else root &&& 3
  { k with plru := tabSet 0 k.plru set t }

/-- A hit of the instruction cache counts as a use of its way (R322). -/
def Core.touchInstr (q : Core) (dis pa : Nat) : Core :=
  match q.icache.find dis (pa / 64) with
  | some way => { q with icache := q.icache.touch (pa / 64 % 256) way }
  | none => q

/-- The way a new line takes: an enabled empty one, else the one the tree names among the enabled. -/
def Cache.victim (k : Cache) (dis set : Nat) : Nat :=
  match [0, 1, 2, 3].find? fun w => !bit dis w && (k.at set w).isNone with
  | some w => w
  | none =>
    let t := (tabGet (0 : BitVec 3) k.plru set).toNat
    let pick (a b : Nat) (second : Bool) : Nat :=
      if bit dis a then b else if bit dis b then a else if second then b else a
    let left := pick 0 1 (bit t 1)
    let right := pick 2 3 (bit t 2)
    if bit dis 0 && bit dis 1 then right else if bit dis 2 && bit dis 3 then left
    else if bit t 0 then right else left

/-- The dirty bytes of a line as a write (R129, R323). -/
def Line.dirtyBytes (l : Line) : List (Nat × Byte × Bool) :=
  (List.range 64).filterMap fun i =>
    if l.dirty.getLsbD i then some (l.tag * 64 + i, l.data.getD i 0, l.bad.getLsbD i) else none

/-- Bytes of a line from an offset. -/
def Line.bytes (l : Line) (o n : Nat) : List Byte := (l.data.drop o).take n

/-- The mask of bytes `o .. o+n-1` of a line. -/
def lineMask (o n : Nat) : BitVec 64 := BitVec.ofNat 64 ((2 ^ n - 1) * 2 ^ o)

/-- Bytes stored into a line, becoming valid and dirty (R323). -/
def Line.store (l : Line) (o : Nat) (bs : List Byte) : Line :=
  let m := lineMask o bs.length
  { l with valid := l.valid ||| m, dirty := l.dirty ||| m, bad := l.bad &&& ~~~ m
           data := l.data.take o ++ bs ++ l.data.drop (o + bs.length) }

/-- Bytes updated in a line and left clean there (R161). -/
def Line.update (l : Line) (o : Nat) (bs : List Byte) : Line :=
  let m := lineMask o bs.length
  { l with valid := l.valid ||| m, dirty := l.dirty &&& ~~~ m, bad := l.bad &&& ~~~ m
           data := l.data.take o ++ bs ++ l.data.drop (o + bs.length) }

/-- A fill merged into a line: bytes already valid stand (R323). -/
def Line.merge (l : Line) (bs : List Byte) : Line :=
  { l with valid := BitVec.allOnes 64
           data := (List.range 64).map fun i => if l.valid.getLsbD i then l.data.getD i 0 else bs.getD i 0 }

/-- Disabled ways of the two caches (R333). -/
def State.dcDis (s : State) (c : Nat) : Nat := s.fld (aCWAY c) CWAY.DC_WAYDIS
def State.icDis (s : State) (c : Nat) : Nat := s.fld (aCWAY c) CWAY.IC_WAYDIS
/-- Whether the caches are enabled (R328, R330). -/
def State.dcOn (s : State) (c : Nat) : Bool := s.flag (aCCTL c) CCTL.DC_EN
def State.icOn (s : State) (c : Nat) : Bool := s.flag (aCCTL c) CCTL.IC_EN

/-- Fills of a line in flight for a core's data side are not installed (R326, log 11). -/
def State.cancelFills (s : State) (c : CoreId) (instr : Bool) (hit : Nat → Bool) : State :=
  { s with txns := s.txns.map fun x =>
      let fits := match x.purpose with
        | .fillLoad .. | .fillSide => !instr
        | .tileRow _ _ _ _ fill => fill && !instr
        | .fillInstr _ => instr
        | _ => false
      if fits && x.src.core? == some c && hit (x.addr / 64) then { x with cancelled := true } else x }

/-- Write a line's dirty bytes back to their home; `t` where a maintenance instruction of that thread starts
it (R124, R129). -/
def State.writeBack (s : State) (c : CoreId) (t : Option Thr) (l : Line) : State :=
  if l.dirty = 0 then s
  else s.send (.cache c) (l.tag * 64) (.write l.dirtyBytes) (.writeBack t) [] none

/-- Put a line into the data cache, writing back what it displaces (R322, R323). -/
def State.dcInstall (s : State) (c : CoreId) (l : Line) : State :=
  let k := (s.core c).dcache
  let set := l.tag % 256
  let way := (k.find (s.dcDis c) l.tag).getD (k.victim (s.dcDis c) set)
  let out := (k.at set way).filter (·.tag ≠ l.tag)
  let s := s.modCore c fun q => { q with dcache := (q.dcache.put set way (some l)).touch set way }
  match out with
  | some v => (s.cancelFills c false (· = v.tag)).writeBack c none v
  | none => s

/-- The line as the data cache holds it, moved there from the side buffer where that holds it (R324). -/
def State.dcLine (s : State) (c : CoreId) (tag : Nat) : Option Line × State :=
  let q := s.core c
  match q.dcache.find (s.dcDis c) tag with
  | some w => (q.dcache.at (tag % 256) w, s.modCore c fun q => { q with dcache := q.dcache.touch (tag % 256) w })
  | none =>
    match q.side.find? (·.tag = tag) with
    | some l =>
      let s := s.modCore c fun q => { q with side := q.side.filter (·.tag ≠ tag) }
      (some l, (s.dcInstall c l).incFld (aCSTAT c) CSTAT.PF_USED 1)
    | none => (none, s)

/-- The dirty bytes a core's data cache holds at given addresses (R161, R314). -/
def State.dirtyAt (s : State) (c : Nat) (as : List Nat) : List (Nat × Byte) :=
  if s.dcOn c then
    as.filterMap fun a =>
      match (s.core c).dcache.find (s.dcDis c) (a / 64) with
      | some w => match (s.core c).dcache.at (a / 64 % 256) w with
        | some l => if l.dirty.getLsbD (a % 64) then some (a, l.data.getD (a % 64) 0) else none
        | none => none
      | none => none
  else []

/-- A line enters the side buffer of 16 lines, the oldest leaving (R324). -/
def Core.sideAdd (q : Core) (l : Line) : Core :=
  let r := q.side.filter (·.tag ≠ l.tag)
  { q with side := (r ++ [l]).drop (r.length - 15) }

/-- Clean or invalidate lines of the data cache (R325). `sel` picks lines by place and content. -/
def State.dcMaint (s : State) (c : CoreId) (t : Option Thr) (sel : Nat → Line → Bool) (clean inval : Bool) : State :=
  let ls := (s.core c).dcache.lines.filterMap fun (k, l) => l.bind fun l => if sel k l then some (k, l) else none
  s.forAll ls fun s (k, l) =>
    let s := if clean then s.writeBack c t l else s
    let l' : Option Line := if inval then none else if clean then some { l with dirty := 0 } else some l
    s.modCore c fun q => { q with dcache := q.dcache.put (k / 4) (k % 4) l' }

end Sys2Proof.Machine
end

