-- ==== Sys2Proof/Machine/Issue.lean ====
section
/-! DEFINITION. The issue of a core instruction, shared by all: fetch, irregularity (R185-R188), repetition
(R165-R168), replay (R176, R177), the loop-back (R170), interlocks (R144), the wait and signal fields
(R146-R154), and completion. -/

namespace Sys2Proof.Machine

/-! Where the thread stands -/

/-- A replay is in progress (R177). -/
def Thread.replaying (th : Thread) : Bool := RPLSTAT.ACTIVE.get th.rplstat == 1

/-- The address the instruction counts as being at: within a replay REPLAY + 8 x (1 + IDX) (R176). -/
def Thread.wordAddr (th : Thread) : Addr :=
  if th.replaying then th.pc + BitVec.ofNat 48 (8 * (1 + RPLSTAT.IDX.get th.rplstat)) else th.pc

/-- A repetition is in progress (R168). -/
def Thread.repeating (th : Thread) : Bool := REPCNT.ACTIVE.get th.repcnt == 1

/-- TSB frames held. -/
def Thread.depth (th : Thread) : Nat := TSTATUS.DEPTH.get th.tstatus

/-- The privilege of the thread: 1 supervisor, 0 user (R200). -/
def Thread.priv (th : Thread) : Nat := TSTATUS.PRIV.get th.tstatus

/-- The thread is in supervisor mode (R200). -/
def Thread.super (th : Thread) : Bool := TSTATUS.PRIV.get th.tstatus == 1

/-- The instruction here has passed its wait; with the flight key of a repeated signaller. -/
def Thread.gateHere (th : Thread) : Option (Option Nat) :=
  match tabFind th.gate th.depth with
  | some (a, g) => if a = th.wordAddr then some g else none
  | none => none

/-- An exception, interrupt or halt that the thread must take before it issues again; between an entry and its
handler's first instruction only a halt (R202, R203, R207, R209, R536, R539). -/
def Thread.mustEnter (th : Thread) : Bool :=
  th.entry.isSome || (!th.waitPassed && (th.haltReq || th.pending || (th.entering.isNone && th.stepTrap.isSome)))

/-! Faults -/

/-- A precise fault: TR_FAULT for 0x02-0x04, and the entry it leads to with the instruction as saved PC
(R110, R160, R203). -/
def Thread.fault (th : Thread) (vec cause va : Nat) (write fetch : Bool) : Thread :=
  let th : Thread := if vec = 2 ∨ vec = 3 ∨ vec = 4 then
      { th with trFault := TR_FAULT.FETCH.put (TR_FAULT.WRITE.put (TR_FAULT.CAUSE.put
          (TR_FAULT.VA.put 0 va) cause) (b2n write)) (b2n fetch) }
    else th
  { th with entry := some ⟨vec, cause, th.pc, th.wordAddr, false, th.priv⟩ }

/-- An imprecise exception pends for the thread's next acceptance point, with the address and the privilege of the instruction that
raised it (R201, R203). -/
def Thread.pendImprecise (th : Thread) (vec : Nat) (pc : Addr) (priv : Nat) : Thread :=
  { th with imprecise := th.imprecise ++ [PendExc.mk vec pc priv] }.wake

/-! Sync objects behind an SC register (R152, R154) -/

/-- The object an SC value names for a thread of a core, where it lies within the image's allocation. -/
def State.scObj (s : State) (c : Nat) (sc : Word) : Option SyncObj :=
  match s.boundTo c with
  | none => none
  | some (slot, _) =>
    if SC.KIND.get sc = 1 then
      (if SC.INDEX.get sc < s.fld (aBAR_MAP c) BAR_MAP.COUNT then
        some (.barrier (s.fld (aBAR_MAP c) BAR_MAP.BASE + SC.INDEX.get sc)) else none)
    else match (s.image slot).bind (·.core (SC.CORE.get sc)) with
      | none => none
      | some q =>
        let k := clusterOfCore q
        if SC.INDEX.get sc < s.fld (aSALLOC k slot) SALLOC.COUNT then
          some (.counter k (s.fld (aSALLOC k slot) SALLOC.BASE + SC.INDEX.get sc)) else none

/-- An operation sets out for a counter or barrier. -/
def State.sendSync (s : State) (who : Waiter) (core : Nat) (obj : SyncObj) (kind : SyncKind) (slot : Nat) (pc : Addr)
    (priv : Nat) : State :=
  let (id, s) := s.fresh
  { s with sync := s.sync ++ [⟨id, who, core, obj, kind, slot, pc, priv⟩] }

/-- The slot of the image a core is bound to; 0 where none. -/
def State.slotOf (s : State) (c : Nat) : Nat := ((s.boundTo c).map (·.1)).getD 0

/-- A signal field fires (R147, R153): a flag falls, or SIG_N or an arrival sets out. -/
def State.fire (s : State) (c : CoreId) (t : Thr) (n : Nat) (sc : Word) (pc : Addr) (priv : Nat) : State :=
  if n = 0 then s
  else if n ≤ 11 then s.modThr c t (·.flagDown n)
  else match s.scObj c sc with
    | some (.counter k i) => s.sendSync (.thread c t) c (.counter k i) (.add (SC.SIG_N.get sc)) (s.slotOf c) pc priv
    | some (.barrier u) => s.sendSync (.thread c t) c (.barrier u) .arrive (s.slotOf c) pc priv
    | none => s

/-- A flight ends: its signal fires (R150), and the repeated instruction it belonged to completes with its last. -/
def State.land (s : State) (c : CoreId) (t : Thr) (key : Nat) : State :=
  match (s.thr c t).flights.find? (·.key = key) with
  | none => s
  | some f =>
    let s := s.modThr c t fun th => { th with flights := th.flights.filter (·.key ≠ key) }
    let s := s.fire c t f.signal f.sc f.pc f.priv
    match f.grp with
    | none => s
    | some g =>
      let th := s.thr c t
      match th.flights.find? (·.key = g) with
      | some q =>
        if !q.more && !th.flights.any (·.grp = some g) then
          (s.modThr c t fun th => { th with flights := th.flights.filter (·.key ≠ g) }).fire c t q.signal q.sc q.pc q.priv
        else s
      | none => s

/-! Going on to the next instruction -/

/-- The loop-back of R170 after the instruction at `pc`: new loop registers and next PC. -/
def loopBack : Nat → Thread → Addr → Thread
  | 0, th, pc => { th with pc := pc + 8 }
  | i + 1, th, pc =>
    let le : Addr := if h : i < 3 then th.le[i] else 0
    if pc = le then
      let lc : BitVec 32 := if h : i < 3 then th.lc[i] else 0
      if 1 < lc.toNat then
        { th with
          lc := if h : i < 3 then th.lc.set i (lc - 1) else th.lc
          pc := if h : i < 3 then th.ls[i] else pc + 8 }
      else loopBack i { th with
        lc := if h : i < 3 then th.lc.set i 0 else th.lc
        lstat := BitVec.ofNat 64 i } pc
    else { th with pc := pc + 8 }

/-- Active loops. -/
def Thread.loops (th : Thread) : Nat := LSTAT.DEPTH.get th.lstat

/-- On past the instruction at PC, in a replay to the next word, at a loop's end by the loop-back (R170, R176). -/
def Thread.advance (th : Thread) : Thread :=
  if th.replaying then
    let i := RPLSTAT.IDX.get th.rplstat + 1
    if i < RPLSTAT.LEN.get th.rplstat then { th with rplstat := RPLSTAT.IDX.put th.rplstat i }
    else
      let th := { th with rplstat := RPLSTAT.ACTIVE.put (RPLSTAT.IDX.put th.rplstat 0) 0 }
      loopBack th.loops th th.pc
  else loopBack th.loops th th.pc

/-- The instruction at the thread's place is over: its wait no longer counts as passed. -/
def Thread.clearGate (th : Thread) : Thread :=
  { th with gate := tabDel th.gate th.depth, waitPassed := false, fetched := [], bpPassed := false }

/-- After an instruction, repetition or replayed word, whose address is given: the single-step trap (R203, R205), and the end of a
debug step (R539). -/
def Thread.stepTraps (th : Thread) (a : Addr) : Thread :=
  let th : Thread := if TSTATUS.SS.get th.tstatus = 1 then { th with stepTrap := some (a, th.priv) } else th
  if th.stepping then { th with stepping := false, haltReq := true, halt := .step } else th

/-- An instruction completes without transferring control: the next repetition, or on (R165, R168, R170). -/
def Thread.retire (th : Thread) : Thread :=
  if th.repeating then
    let n := REPCNT.COUNT.get th.repcnt - 1
    if 0 < n then { th with repcnt := REPCNT.COUNT.put th.repcnt n, waitPassed := false }.stepTraps th.wordAddr
    else ({ th.clearGate with repcnt := 0 }).advance.stepTraps th.wordAddr
  else th.clearGate.advance.stepTraps th.wordAddr

/-- An instruction transfers control. -/
def Thread.jump (th : Thread) (to_ : Addr) : Thread := { th.clearGate with pc := to_ }.stepTraps th.wordAddr

/-! Irregular instructions -/

/-- An entry in the core's irregularity log (R187, R188). -/
def State.logIrregular (s : State) (c : Nat) (t : Thr) (a : Addr) (cause : Nat) (w : Word) : State :=
  let r := aIRL_CTRL c
  let n := s.fld r IRL_CTRL.NEXT
  let word0 := BitVec.ofNat 64 (a.toNat + t.val * 2 ^ 48 + cause * 2 ^ 56)
  let s := s.modCore c fun k => { k with irlog := tabIns k.irlog n (word0, w) }
  let s := (s.setFld r IRL_CTRL.NEXT (n + 1)).incFld r IRL_CTRL.COUNT 1
  if s.fld r IRL_CTRL.THRESH ≠ 0 ∧ s.fld r IRL_CTRL.COUNT = s.fld r IRL_CTRL.THRESH ∧ s.fld r IRL_CTRL.HIT = 0 then
    (s.setFld r IRL_CTRL.HIT 1).interrupt c 0 0x24
  else s

/-- An irregular instruction is logged and skipped; a repetition of it does not continue (R165, R185). -/
def State.skipIrregular (s : State) (c : Nat) (t : Thr) (cause : Nat) (w : Word) : State :=
  (s.logIrregular c t (s.thr c t).wordAddr cause w).modThr c t fun th =>
    { th.clearGate with repcnt := if th.repeating then 0 else th.repcnt }.advance.stepTraps th.wordAddr

/-- Words a REP may not repeat (R167, R255, R374). -/
def repeatable (w : Word) : Bool :=
  let m := wMajor w
  !(decide (0x30 ≤ m ∧ m ≤ 0x3A) || decide (0x40 ≤ m ∧ m ≤ 0x49) ||
    (m == 0x50 && [3, 4, 5, 6, 7, 0x0C].contains (xFn w)) || (m == 0x60 && xFn w == 6) ||
    [0x82, 0x83, 0x84, 0x86, 0x87].contains m)

/-- Irregularities of control at the end of any active loop (R172, R374) and of a signal field where none may
stand (R151, R373). -/
def commonIrregular (th : Thread) (w : Word) : Option Nat :=
  let m := wMajor w
  let control := decide (0x30 ≤ m ∧ m ≤ 0x3A) || decide (0x40 ≤ m ∧ m ≤ 0x49)
  let qdisp := m == 0x60 && xFn w == 6
  let atEnd := ((List.finRange 3).any fun i => decide (i.val < th.loops) && th.le[i] == th.pc) && !th.replaying
  if atEnd && (decide (0x30 ≤ m ∧ m ≤ 0x3A) || decide (0x40 ≤ m ∧ m ≤ 0x46) || qdisp) then some 0x0A
  else if (control || qdisp) && wSig w != 0 then some 0x07
  else none

/-! Fetch -/

/-- What a fetch gives. -/
inductive Fetch where
  | word (w : Word)
  | fault (vec cause : Nat)
  | walk (va : Nat)
  | line (pa : Nat)
deriving DecidableEq, Repr

/-- The word in a line at a byte offset. -/
def lineWord (bs : List Byte) (o : Nat) : Word := BitVec.ofNat 64 (field bs (o / 8 * 8) 8)

/-- Fetch the thread's next word: replay buffer, pinned instruction memory, or the instruction cache
(R138, R176, R321, R330). -/
def State.fetch (s : State) (c : Nat) (t : Thr) : Fetch :=
  let q := s.core c
  let th := q.thr[t]
  let va := th.pc.toNat
  if th.replaying then
    .word (if h : RPLSTAT.IDX.get th.rplstat < 32 then th.replay[RPLSTAT.IDX.get th.rplstat] else 0)
  else if pinnedPage ≤ va ∧ va < pinnedPage + 0x1_0000 then
    (if q.imemPoison.contains ((va - pinnedPage) / 8) then .fault 0x0A 0
      else .word (tabGet 0 q.imem ((va - pinnedPage) / 8)))
  else match s.resolve c va true false with
    | .fault v e => .fault v e
    | .walk a => .walk a
    | .ok pa _ _ =>
      match th.fetched.find? (·.1 = pa / 64) with
      | some l => .word (lineWord l.2 (pa % 64))
      | none =>
        if s.icOn c then
          match q.icache.find (s.icDis c) (pa / 64) with
          | some w => match q.icache.at (pa / 64 % 256) w with
            | some l => .word (lineWord l.data (pa % 64))
            | none => .line pa
          | none => .line pa
        else .line pa

/-- A walk sets out for an access that missed the translation cache; the thread stalls (R108, R191). -/
def State.startWalk (s : State) (c : CoreId) (t : Thr) (va : Nat) (write fetch : Bool) (soft : Nat) : State :=
  let root := s.reg (aTR_ROOT c)
  ((s.send (.walker c t) (l1Addr root va) (.read ((List.range 8).map (l1Addr root va + ·)))
    (.walk 1 va write fetch soft) [] none).incFld (aTR_STAT c) TR_STAT.WALKS 1).modThr c t (·.stallFor .walk)

/-- A fetch that gave no word: the walk, the line request, or the fault (R110, R191, R321). -/
def State.fetchMiss (s : State) (c : CoreId) (t : Thr) (f : Fetch) : State :=
  match f with
  | .word _ => s
  | .fault v e => s.modThr c t fun th => th.fault v e th.pc.toNat false true
  | .walk va => s.startWalk c t va false true 0
  | .line pa =>
    let a := pa / 64 * 64
    let p : Purpose := if s.icOn c then .fillInstr t else .fetchOnce t
    (s.send (.thread c t) a (.read ((List.range 64).map (a + ·))) p [] (some ((s.thr c t).pc.toNat / 2 ^ 21))).modThr c t
      (·.stallFor .fetch)

/-! Issue -/

/-- What executing an instruction's body came to. `now`: complete at issue; `due`: done, its completion
event to come; `busy`: so, and in flight for a tile until then (R225); `launched`: work outstanding under its key; `held`: not issued, tried again; `set`: issued, the
body having set what follows. -/
inductive Res where
  | now
  | due
  | launched (tile : Option Nat)
  | busy (tile : Nat)
  | jump (to_ : Addr)
  | fault (vec cause va : Nat) (write : Bool)
  | stall (why : Stall)
  | held
  | irregular (cause : Nat)
  | set
deriving DecidableEq, Repr

/-- The SC value a wait or signal field of 12-15 reads. -/
def Thread.scOf (th : Thread) (n : Nat) : Word := if n < 12 then 0 else th.readSC (n - 12)

/-- A signaller issues: its flag rises and its flight begins, a repeated one once for all repetitions with a flight of
its own for each that is launched (R147-R150, R165). -/
def State.launch (s : State) (c : CoreId) (t : Thr) (n key : Nat) (flying : Bool) (tile : Option Nat) : State :=
  let th := s.thr c t
  let sc := th.scOf n
  let a := th.wordAddr
  let add (f : Flight) (th : Thread) : Thread := { th with flights := th.flights ++ [f] }
  let up (th : Thread) : Thread := if 1 ≤ n ∧ n ≤ 11 then th.flagUp n else th
  if th.repeating && n != 0 then
    let g := (th.gateHere.getD none).getD key
    let s := if (th.gateHere.getD none).isNone then s.modThr c t fun th => up (add ⟨g, n, sc, a, none, false, true, none, th.priv⟩ th) else s
    let s := s.modThr c t fun th => { th with gate := tabIns th.gate th.depth (a, some g) }
    if flying then s.modThr c t (add ⟨key + 1, 0, 0, a, tile, false, false, some g, th.priv⟩) else s
  else if flying then s.modThr c t fun th => up (add ⟨key + 1, n, sc, a, tile, false, false, none, th.priv⟩ th)
  else s

/-- A launched instruction is over at issue: the next repetition or the next instruction follows; with the last
repetition the repeated signaller has no more to come (R165). `now`: nothing remains to complete. -/
def State.conclude (s : State) (c : CoreId) (t : Thr) (n key : Nat) (now : Bool) : State :=
  let th := s.thr c t
  if th.repeating && n != 0 then
    let last := REPCNT.COUNT.get th.repcnt ≤ 1
    let g := (th.gateHere.getD none).getD key
    let s := if last then s.modThr c t fun th =>
        { th with flights := th.flights.map fun f => if f.key = g then { f with more := false } else f } else s
    let alone := !(s.thr c t).flights.any (·.grp = some g)
    let s := s.modThr c t (·.retire)
    if last && alone then
      (if now then s.land c t g
      else s.modThr c t fun th => { th with flights := th.flights.map fun f => if f.key = g then { f with due := true } else f })
    else s
  else s.modThr c t (·.retire)

/-- Nothing of a flight is outstanding but its completion. -/
def Thread.markDue (th : Thread) (key : Nat) : Thread :=
  { th with flights := th.flights.map fun f => if f.key = key then { f with due := true } else f }

/-- An instruction has executed: its flight, its flag, and on to the next (R147-R150, R165). -/
def State.finish (s : State) (c : CoreId) (t : Thr) (n key : Nat) (r : Res) : State :=
  let th := s.thr c t
  let sc := th.scOf n
  let a := th.wordAddr
  let up (th : Thread) : Thread := if 1 ≤ n ∧ n ≤ 11 then th.flagUp n else th
  match r with
  | .launched tile => (s.launch c t n key true tile).conclude c t n key false
  | .busy tile => ((s.launch c t n key true (some tile)).modThr c t (·.markDue (key + 1))).conclude c t n key false
  | _ =>
    let now := r == .now
    if th.repeating && n != 0 then (s.launch c t n key false none).conclude c t n key now
    else if n = 0 then s.modThr c t (·.retire)
    else if now then ((s.modThr c t up).fire c t n sc a th.priv).modThr c t (·.retire)
    else (s.modThr c t fun th =>
      up { th with flights := th.flights ++ [⟨key, n, sc, a, none, true, false, none, th.priv⟩] }).modThr c t (·.retire)

/-- The wait field holds the instruction: a flag above 0, or an object asked (R146, R152, R191). `none`: it is
satisfied. -/
def State.tryWait (s : State) (c : CoreId) (t : Thr) (n : Nat) : Option State :=
  let th := s.thr c t
  if n = 0 || th.waitPassed || th.gateHere.isSome then none
  else if n ≤ 11 then
    (if th.flagCount n = 0 then none else some (s.modThr c t (·.stallFor (.flagZero n))))
  else
    let sc := th.scOf n
    match s.scObj c sc with
    | none => none
    | some (.counter k i) =>
      if SC.WAIT_N.get sc = 0 then none
      else some ((s.sendSync (.thread c t) c (.counter k i) (.wait (SC.WAIT_N.get sc) (SC.MODE.get sc == 0))
        (s.slotOf c) th.wordAddr th.priv).modThr c t (·.stallFor .parked))
    | some (.barrier u) =>
      some ((s.sendSync (.thread c t) c (.barrier u) .barrierWait (s.slotOf c) th.wordAddr th.priv).modThr c t (·.stallFor .parked))

/-- A wait or signal field names an object beyond the image's allocation (R154). -/
def State.scBad (s : State) (c : Nat) (t : Thr) (n : Nat) : Bool :=
  decide (12 ≤ n) && (s.scObj c ((s.thr c t).scOf n)).isNone

/-- Registers an outstanding load or atomic owes (R144). -/
def Thread.owes (th : Thread) (regs : List Nat) : Bool := th.owed.any fun o => regs.contains o.1

/-- Whether what the thread waits for comes from a home other than its own core's memory port (R191). -/
def State.farOwed (s : State) (c : CoreId) (t : Thr) (regs : List Nat) : Bool :=
  let keys := ((s.thr c t).owed.filter fun o => regs.contains o.1).map (·.2)
  s.txns.any fun x => x.home != .coreMem c.val && (match x.purpose with
    | .load t' k _ _ | .fillLoad t' k _ _ _ | .oldValue t' k _ _ _ => t' == t && keys.contains k && x.src.core? == some c
    | _ => false) || s.sync.any fun o => match o.kind with
      | .addReturn t' k _ _ | .read t' k _ | .barrierRead t' k _ | .reply t' k _ _ => t' == t && keys.contains k && o.core == c.val
      | _ => false

/-- A matrix or vector instruction that computes in floating point, or a VCVT (R261): of a matrix instruction the format of its operands
says so, of a vector instruction its TY and function, and the paired ones compute in FP32. -/
def Core.floats (q : Core) (w : Word) : Bool :=
  let fn := tFn w
  if wMajor w = 0xC0 then decide ((tabGet TTile.reset q.tt (tTa w)).fmt.val < 5)
  else fn == 0x0E || decide (0x18 ≤ fn) || (decide (fn ≤ 0x09) && decide (wb w 2 0 < 5))

/-- PRECISE holds every issue while floating-point matrix, vector or converting tile-load work of the thread is in flight
(R207, R232, R261). -/
def Core.preciseHeld (q : Core) (t : Thr) : Bool :=
  FPCTL.PRECISE.get q.thr[t].fpctl == 1 &&
    ((q.thr[t].tileOps.any fun o => o.sfmt != o.fmt && o.sfmt != 16) || q.unitOps.any fun o => o.thr == t && q.floats o.word)

/-- An enabled comparator names the thread and the PC at first issue (R538). -/
def State.breakpoint (s : State) (c : Nat) (t : Thr) : Bool :=
  let th := s.thr c t
  !th.replaying && !th.bpPassed && th.gateHere.isNone && (List.range 4).any fun i =>
    let r := s.reg (aDBG_BP c i)
    DBG_BP.EN.get r == 1 && bit (DBG_BP.THREADS.get r) t.val && DBG_BP.ADDR.get r * 8 == th.pc.toNat

/-- The wait of the instruction here has been passed, or none was asked (R146, R364). -/
def Thread.passGate (th : Thread) : Thread :=
  { th with
    waitPassed := false
    gate := if th.gateHere.isSome then th.gate else tabIns th.gate th.depth (th.wordAddr, none) }

/-- Two flight keys have been given out. -/
def Core.bumpKey (q : Core) : Core := { q with nextKey := q.nextKey + 2 }

/-- The state on which the body of an issued instruction runs, and how the instruction goes on from what its body came to. -/
def State.atBody (s : State) (c : CoreId) (t : Thr) : State := (s.modThr c t Thread.passGate).modCore c Core.bumpKey
def State.afterBody (s : State) (c : CoreId) (t : Thr) (w : Word) (key : Nat) : Res → State
  | .irregular e => (s.skipIrregular c t e w).act c
  | .fault v e va wr => s.modThr c t fun th => th.fault v e va wr false
  | .stall why => s.modThr c t (·.stallFor why)
  | .held => s
  | .set => s.act c
  | .jump to_ => (s.modThr c t (·.jump to_)).act c
  | r => (s.finish c t (wSig w) key r).act c

/-- Issue of an instruction whose fetched word is the command's, past the checks of repetition and
irregularity: interlocks, R154, the wait, the flag limit, then the body. -/
def State.issueBody (s : State) (c : CoreId) (t : Thr) (w : Word) (regs : List Nat)
    (body : Nat → State → State × Res) : State :=
  let th := s.thr c t
  let (wn, n) := (wWait w, wSig w)
  if th.owes regs then
    (if s.farOwed c t regs then s.modThr c t (·.stallFor (.operand ((th.owed.filter fun o => regs.contains o.1).map (·.2)))) else s)
  else if (s.core c).preciseHeld t then s
  else if s.scBad c t wn || s.scBad c t n then s.modThr c t fun th => th.fault 0x07 0 0 false false
  else match s.tryWait c t wn with
    | some s' => s'
    | none =>
      if decide (1 ≤ n ∧ n ≤ 11) && th.flagCount n == 15 && (th.gateHere.getD none).isNone then
        (s.modThr c t Thread.passGate).modThr c t (·.stallFor (.flagLow n))
      else
        let key := (s.core c).nextKey
        let r := body (key + 1) (s.atBody c t)
        r.1.afterBody c t w key r.2

/-- The word that follows an exception entry has been fetched (R212). -/
def Thread.unenter (th : Thread) : Thread := { th with entering := none }

/-- The address at which the thread's word lies in its core's instruction cache, where that is looked up for it (R322). -/
def State.cachedFetch (s : State) (c : Nat) (t : Thr) : Option Nat :=
  let th := s.thr c t
  if th.replaying || (decide (pinnedPage ≤ th.pc.toNat ∧ th.pc.toNat < pinnedPage + 0x1_0000)) || !s.icOn c then none
  else match s.resolve c th.pc.toNat true false with
    | .ok pa _ _ => some pa
    | _ => none

/-- The word at the thread's place has been fetched: the handler's first fetch is over, and the cache's way is in use (R212, R322). -/
def State.entered (s : State) (c : CoreId) (t : Thr) : State :=
  match s.cachedFetch c t with
  | some pa => (s.modThr c t Thread.unenter).modCore c (·.touchInstr (s.icDis c) pa)
  | none => s.modThr c t Thread.unenter

/-- An attempt of a core instruction: the thread holds the issue stage, owes no entry and is in no request phase (R240), the word at its
place is the command's word, and it is one of the row's words. -/
def State.issue (s : State) (c : CoreId) (t : Thr) (w : Word) (mine : Word → Bool)
    (irregular : Thread → Option Nat) (regs : List Nat) (body : Nat → State → State × Res) : State :=
  let th := s.thr c t
  if th.st ≠ .running || th.mustEnter || th.phase.isSome then s
  else if s.breakpoint c t then s.modThr c t fun th => { th with haltReq := true, halt := .breakpoint }
  else match s.fetch c t with
    | .word f =>
      if f ≠ w || !mine w then s else
      let s := s.entered c t
      if th.repeating && REPCNT.COUNT.get th.repcnt == 0 then
        s.modThr c t fun th => { th.clearGate with repcnt := 0 }.advance.stepTraps th.wordAddr
      else if th.repeating && !repeatable w then s.skipIrregular c t 0x08 w
      else match (commonIrregular th w).orElse fun _ => irregular th with
        | some e => (s.skipIrregular c t e w).act c
        | none => s.issueBody c t w regs body
    | f => s.fetchMiss c t f

/-- First of a list of checks that fails: its cause. -/
def checks (l : List (Bool × Nat)) : Option Nat := (l.find? (·.1)).map (·.2)

end Sys2Proof.Machine
end

