-- ==== Sys2Proof/Machine/Branch.lean ====
section
/-! DEFINITION. Branches, calls, returns and the return stack (R136, R164, R178-R180), loops (R169-R172),
repetition (R165), record and replay (R174-R177). -/

namespace Sys2Proof.Machine

/-- The target of a PC-relative branch: PC + sext(imm32) x 8 (R136). -/
def Thread.branchTarget (th : Thread) (w : Word) : Addr := addrAdd th.pc (sext 32 (th.imm w) * 8)

/-- A conditional branch of a major opcode: rd and rs are compared (R136). -/
def State.branchIf (s : State) (c : CoreId) (t : Thr) (w : Word) (major : Nat) (f : Word → Word → Bool) : State :=
  s.issue c t w (fun w => wMajor w == major) (fun _ => none) ([lRd w, lRs w] ++ lReads w)
    fun _ s =>
      let th := s.thr c t
      (s, if f (th.readReg (lRd w)) (th.readReg (lRs w)) then .jump (th.branchTarget w) else .now)

/-- BR; rd and rs must be 0 (R136). -/
def execBr (c : CoreId) (t : Thr) (w : Word) (s : State) : Out :=
  s.done (s.issue c t w (fun w => wMajor w == 0x30) (fun _ => checks [(lRd w != 0 || lRs w != 0, 0x03)]) (lReads w)
    fun _ s => (s, .jump ((s.thr c t).branchTarget w)))

/-- BEQ (R136). -/
def execBeq (c : CoreId) (t : Thr) (w : Word) (s : State) : Out := s.done (s.branchIf c t w 0x31 fun a b => a == b)

/-- BNE (R136). -/
def execBne (c : CoreId) (t : Thr) (w : Word) (s : State) : Out := s.done (s.branchIf c t w 0x32 fun a b => a != b)

/-- BLT, signed (R136). -/
def execBlt (c : CoreId) (t : Thr) (w : Word) (s : State) : Out := s.done (s.branchIf c t w 0x33 fun a b => a.slt b)

/-- BGE, signed (R136). -/
def execBge (c : CoreId) (t : Thr) (w : Word) (s : State) : Out := s.done (s.branchIf c t w 0x34 fun a b => b.sle a)

/-- BLTU (R136). -/
def execBltu (c : CoreId) (t : Thr) (w : Word) (s : State) : Out := s.done (s.branchIf c t w 0x35 fun a b => decide (a < b))

/-- BGEU (R136). -/
def execBgeu (c : CoreId) (t : Thr) (w : Word) (s : State) : Out := s.done (s.branchIf c t w 0x36 fun a b => decide (b ≤ a))

/-- The return stack is in trap mode (R180). -/
def Thread.rsTrap (th : Thread) : Bool := RSCTL.MODE.get th.rsctl == 1

/-- Push onto the return stack; `none`: overflow in trap mode, nothing executes (R179, R180). The stack stands
oldest entry first. -/
def Thread.push (th : Thread) (a : Addr) : Option Thread :=
  if th.rstack.length < 16 then
    some { th with rstack := th.rstack ++ [a], rsctl := RSCTL.DEPTH.put th.rsctl (th.rstack.length + 1) }
  else if th.rsTrap then none
  else some { th with rstack := th.rstack.tail ++ [a], rsctl := RSCTL.LOST.put th.rsctl 1 }

/-- Pop the return stack; `none`: it is empty (R179, R180). -/
def Thread.pop (th : Thread) : Option (Addr × Thread) :=
  match th.rstack.getLast? with
  | some a => some (a, { th with rstack := th.rstack.dropLast, rsctl := RSCTL.DEPTH.put th.rsctl (th.rstack.length - 1) })
  | none => none

/-- What a RET or RSPOP on an empty stack does in trap mode: 0x05 with UNDER = 1 (R180). -/
def State.popEmpty (s : State) (c : CoreId) (t : Thr) : State × Res :=
  (s.modThr c t fun th => { th with rsctl := RSCTL.UNDER.put th.rsctl 1 }, .fault 0x05 0 0 false)

/-- In wrap mode a RET or RSPOP on an empty stack is irregular (R179). -/
def Thread.popIrregular (th : Thread) : Option Nat := checks [(th.rstack.isEmpty && !th.rsTrap, 0x0D)]

/-- What a push onto a full stack in trap mode does: 0x05 with UNDER = 0 (R180). -/
def State.pushFull (s : State) (c : CoreId) (t : Thr) : State × Res :=
  (s.modThr c t fun th => { th with rsctl := RSCTL.UNDER.put th.rsctl 0 }, .fault 0x05 0 0 false)

/-- CALL: push PC + 8, branch as BR (R178). -/
def execCall (c : CoreId) (t : Thr) (w : Word) (s : State) : Out :=
  s.done (s.issue c t w (fun w => wMajor w == 0x37) (fun _ => checks [(lRd w != 0 || lRs w != 0, 0x03)]) (lReads w)
    fun _ s =>
      let th := s.thr c t
      match th.push (th.pc + 8) with
      | some th' => (s.modThr c t fun _ => th', .jump (th.branchTarget w))
      | none => s.pushFull c t)

/-- The target of JR and CALLR: rs + sext(imm32) (R164). -/
def Thread.jrTarget (th : Thread) (w : Word) : Addr := addrAdd ((th.readReg (lRs w)).setWidth 48) (sext 32 (th.imm w))

/-- JR and CALLR: rd must be 0 and rs an A register. -/
def jrIrregular (w : Word) : Option Nat := checks [(lRd w != 0, 0x03), (!isA (lRs w), 0x04)]

/-- JR; a target that is no multiple of 8 raises misalignment at the jump (R160, R164). -/
def execJr (c : CoreId) (t : Thr) (w : Word) (s : State) : Out :=
  s.done (s.issue c t w (fun w => wMajor w == 0x38) (fun _ => jrIrregular w) (lRs w :: lReads w)
    fun _ s =>
      let a := (s.thr c t).jrTarget w
      (s, if a.toNat % 8 = 0 then .jump a else .fault 0x04 0xA a.toNat false))

/-- CALLR: push PC + 8, then as JR; a misaligned target makes no push (R164, R178). -/
def execCallr (c : CoreId) (t : Thr) (w : Word) (s : State) : Out :=
  s.done (s.issue c t w (fun w => wMajor w == 0x39) (fun _ => jrIrregular w) (lRs w :: lReads w)
    fun _ s =>
      let th := s.thr c t
      let a := th.jrTarget w
      if a.toNat % 8 ≠ 0 then (s, .fault 0x04 0xA a.toNat false)
      else match th.push (th.pc + 8) with
        | some th' => (s.modThr c t fun _ => th', .jump a)
        | none => s.pushFull c t)

/-- Every operand field 0: register fields and PM by cause 0x03, the immediate by 0x05 (R141). -/
def lAllZero (w : Word) : Option Nat := checks [(wb w 47 32 != 0, 0x03), (lImm w != 0, 0x05)]

/-- RET: PC = popped entry (R178). -/
def execRet (c : CoreId) (t : Thr) (w : Word) (s : State) : Out :=
  s.done (s.issue c t w (fun w => wMajor w == 0x3A) (fun th => (lAllZero w).orElse fun _ => th.popIrregular) []
    fun _ s =>
      match (s.thr c t).pop with
      | some (a, th') => (s.modThr c t fun _ => th', .jump a)
      | none => s.popEmpty c t)

/-- A system instruction of function `fn` under major 0x50 that names reg and no operand bit. -/
def State.sysIssue (s : State) (c : CoreId) (t : Thr) (w : Word) (fn : Nat) (irregular : Thread → Option Nat)
    (regs : List Nat) (body : Nat → State → State × Res) : State :=
  s.issue c t w (fun w => wMajor w == 0x50 && xFn w == fn) irregular regs body

/-- RSPUSH: push reg[47:3] x 8 (R178). -/
def execRspush (c : CoreId) (t : Thr) (w : Word) (s : State) : Out :=
  s.done (s.sysIssue c t w 0x08 (fun _ => checks [(xOp w != 0, 0x03)]) [xReg w]
    fun _ s =>
      let th := s.thr c t
      match th.push (BitVec.ofNat 48 ((th.readReg (xReg w)).toNat / 8 * 8)) with
      | some th' => (s.modThr c t fun _ => th', .now)
      | none => s.pushFull c t)

/-- RSPOP: pop into reg (R178). -/
def execRspop (c : CoreId) (t : Thr) (w : Word) (s : State) : Out :=
  s.done (s.sysIssue c t w 0x09 (fun th => (checks [(xOp w != 0, 0x03)]).orElse fun _ => th.popIrregular) [xReg w]
    fun _ s =>
      match (s.thr c t).pop with
      | some (a, th') => (s.modThr c t fun _ => th'.writeReg (xReg w) (a.setWidth 64), .now)
      | none => s.popEmpty c t)

/-! Loops -/

/-- A LOOP of count `n` over `len` instructions at PC `a`: the loop pushed, or with count 0 the body skipped
(R169). The caller has made the irregularity checks. -/
def Thread.loopSet (th : Thread) (n len : Nat) : Thread :=
  let le := th.pc + BitVec.ofNat 48 (8 * len)
  let i := th.loops
  if n = 0 then loopBack i th.clearGate le
  else if h : i < 3 then
    { th.clearGate with
      pc := th.pc + 8
      ls := th.ls.set i (th.pc + 8)
      le := th.le.set i le
      lc := th.lc.set i (BitVec.ofNat 32 n)
      lstat := BitVec.ofNat 64 (i + 1) }
  else th

/-- Length 0, depth 3, or an end beyond the enclosing loop's (R169). -/
def Thread.loopBad (th : Thread) (len : Nat) : Bool :=
  len == 0 || decide (3 ≤ th.loops) ||
    (if h : 0 < th.loops ∧ th.loops - 1 < 3 then
      decide ((th.le[th.loops - 1]'h.2).toNat < th.pc.toNat + 8 * len) else false)

/-- LOOPI: imm32[31:12] passes over imm32[11:0] instructions (R169). -/
def execLoopi (c : CoreId) (t : Thr) (w : Word) (s : State) : Out :=
  s.done (s.issue c t w (fun w => wMajor w == 0x40)
    (fun th => checks [(th.loopBad (th.imm w % 4096), 0x09)]) (lReads w)
    fun _ s => (s.modThr c t fun th => (th.loopSet (th.imm w / 4096) (th.imm w % 4096)).stepTraps th.wordAddr, .set))

/-- LOOPR: rs[31:0] passes over imm32[11:0] instructions; imm32[31:12] must be 0 (R169). -/
def execLoopr (c : CoreId) (t : Thr) (w : Word) (s : State) : Out :=
  s.done (s.issue c t w (fun w => wMajor w == 0x41)
    (fun th => checks [(th.imm w / 4096 != 0, 0x05), (th.loopBad (th.imm w % 4096), 0x09)]) (lRs w :: lReads w)
    fun _ s => (s.modThr c t fun th =>
      (th.loopSet ((th.readReg (lRs w)).toNat % 2 ^ 32) (th.imm w % 4096)).stepTraps th.wordAddr, .set))

/-- LEXIT: end the innermost loop (R171). -/
def execLexit (c : CoreId) (t : Thr) (w : Word) (s : State) : Out :=
  s.done (s.issue c t w (fun w => wMajor w == 0x42)
    (fun th => (lAllZero w).orElse fun _ => checks [(th.loops == 0, 0x0E)]) []
    fun _ s => (s.modThr c t fun th => { th with lstat := BitVec.ofNat 64 (th.loops - 1) }, .now))

/-! Repetition -/

/-- A REP of count `n`: the next instruction repeats, or with count 0 is skipped whole (R165). -/
def Thread.repSet (th : Thread) (n : Nat) : Thread :=
  let on := th.clearGate.advance
  if n = 0 then on.advance.stepTraps th.wordAddr
  else { on with repcnt := REPCNT.ACTIVE.put (REPCNT.COUNT.put 0 n) 1 }.stepTraps th.wordAddr

/-- REPI: imm32[15:0] repetitions; imm32[31:16] must be 0 (R165). -/
def execRepi (c : CoreId) (t : Thr) (w : Word) (s : State) : Out :=
  s.done (s.issue c t w (fun w => wMajor w == 0x43) (fun th => checks [(th.imm w / 2 ^ 16 != 0, 0x05)]) (lReads w)
    fun _ s => (s.modThr c t fun th => th.repSet (th.imm w % 2 ^ 16), .set))

/-- REPR: min(rs, 65,535) repetitions (R165). -/
def execRepr (c : CoreId) (t : Thr) (w : Word) (s : State) : Out :=
  s.done (s.issue c t w (fun w => wMajor w == 0x44) (fun _ => none) [lRs w]
    fun _ s => (s.modThr c t fun th => th.repSet (min (th.readReg (lRs w)).toNat 65535), .set))

/-! Record and replay -/

/-- Words that a block may not hold (R175, R374); `last`: the word is the block's last. -/
def recordable (last : Bool) (w : Word) : Bool :=
  let m := wMajor w
  !(decide (0x30 ≤ m ∧ m ≤ 0x3A) || decide (0x40 ≤ m ∧ m ≤ 0x42) || m == 0x45 || m == 0x46 ||
    (m == 0x50 && [5, 6, 7].contains (xFn w)) || (m == 0x60 && xFn w == 6) ||
    (last && (m == 0x43 || m == 0x44)))

/-- The words after a REC as fetches give them; `none` where a word's fetch does not give one (R174). -/
def State.span (s : State) (c : CoreId) (t : Thr) (n : Nat) : List Fetch :=
  (List.range n).map fun i =>
    (s.modThr c t fun th => { th with pc := th.pc + BitVec.ofNat 48 (8 * (i + 1)) }).fetch c t

/-- Where execution goes on after the span of a REC. -/
def Thread.pastSpan (th : Thread) (w : Word) : Addr := th.pc + BitVec.ofNat 48 (8 * (th.imm w % 64 + 1))

/-- Whether the span of a REC is known not to be recordable: it holds the LE of an active loop, or a word already fetched that may not
stand there (R175). -/
def State.spanBad (s : State) (c : CoreId) (t : Thr) (w : Word) : Bool :=
  let th := s.thr c t
  let n := th.imm w % 64
  ((List.finRange 3).any fun i => decide (i.val < th.loops ∧ th.pc.toNat < th.le[i].toNat ∧ th.le[i].toNat < (th.pastSpan w).toNat)) ||
  ((List.range n).zip (s.span c t n)).any fun x => match x.2 with
    | .word v => !recordable (x.1 + 1 == n) v
    | _ => false

/-- The count of a REC (R174). -/
def Thread.recCount (th : Thread) (w : Word) : Option Nat :=
  checks [(th.imm w / 64 != 0, 0x05), (th.imm w % 64 == 0 || decide (32 < th.imm w % 64), 0x0B)]

/-- Whether a REC is about to issue: it is the thread's next word and otherwise regular. -/
def State.recReady (s : State) (c : CoreId) (t : Thr) (w : Word) : Bool :=
  let th := s.thr c t
  th.st == .running && !th.mustEnter && !th.repeating && !s.breakpoint c t && s.fetch c t == .word w && wMajor w == 0x45 &&
    (commonIrregular th w).isNone && (th.recCount w).isNone

/-- The first word of a span whose fetch gives none, with what its fetch comes to. -/
def State.spanMiss (s : State) (c : CoreId) (t : Thr) (w : Word) : Option Fetch :=
  (s.span c t ((s.thr c t).imm w % 64)).find? fun f => match f with
    | .word _ => false
    | _ => true

/-- REC: the next imm32[5:0] words into the replay buffer, without executing them; execution continues after
the span (R174, R175). A span that is not recordable makes the REC irregular and sets LEN = 0; the words of the span are fetched before
the wait is looked at: one whose fetch misses is waited for, one whose fetch faults raises its fault at the REC (log 12). -/
def execRecWords (c : CoreId) (t : Thr) (w : Word) (s : State) : Out :=
  s.done (
    if s.recReady c t w && s.spanBad c t w then
      (((s.modThr c t Thread.unenter).logIrregular c t (s.thr c t).wordAddr 0x0B w).modThr c t fun th =>
        { th.clearGate with rplstat := RPLSTAT.LEN.put th.rplstat 0, pc := th.pastSpan w }.stepTraps th.wordAddr).act c
    else match if s.recReady c t w then s.spanMiss c t w else none with
      | some f => (s.modThr c t Thread.unenter).fetchMiss c t f
      | none => s.issue c t w (fun w => wMajor w == 0x45) (fun th => th.recCount w) (lReads w)
          fun _ s =>
            let ws := (s.span c t ((s.thr c t).imm w % 64)).map fun f => match f with | .word x => x | _ => 0
            (s.modThr c t fun th =>
              { th.clearGate with
                rplstat := RPLSTAT.LEN.put th.rplstat (th.imm w % 64)
                replay := Vector.ofFn fun i => if i.val < th.imm w % 64 then ws.getD i.val 0 else th.replay[i]
                pc := th.pastSpan w }.stepTraps th.wordAddr, .set))

/-- REPLAY: the buffer's words come next, as if at REPLAY + 8 x (1 + IDX) (R176). -/
def execReplay (c : CoreId) (t : Thr) (w : Word) (s : State) : Out :=
  s.done (s.issue c t w (fun w => wMajor w == 0x46)
    (fun th => (lAllZero w).orElse fun _ => checks [(RPLSTAT.LEN.get th.rplstat == 0, 0x0C)]) []
    fun _ s => (s.modThr c t fun th =>
      { th.clearGate with rplstat := RPLSTAT.ACTIVE.put (RPLSTAT.IDX.put th.rplstat 0) 1 }, .set))

end Sys2Proof.Machine
end

