-- ==== Sys2Proof/Machine/System.lean ====
section
/-! DEFINITION. System instructions: NOP with the words no row defines, MFENCE (R124), system registers
(R182, R183, R214), traps (R203), cache maintenance by set and way (R181), and the clear of the
irregularity log (R188). -/

namespace Sys2Proof.Machine

/-! Words that no row defines -/

/-- Whether major and function of a word are defined: cause 0x01 or 0x02 where not (R155, R156, R182, R186). -/
def undefinedWord (w : Word) : Option Nat :=
  let m := wMajor w
  if m = 0x01 then checks [(decide (0x19 < kFn w), 0x02)]
  else if m = 0x02 then checks [(decide (0x0C < kFn w), 0x02)]
  else if (0x10 ≤ m ∧ m ≤ 0x1A) ∨ (0x20 ≤ m ∧ m ≤ 0x2A) ∨ (0x30 ≤ m ∧ m ≤ 0x3A) ∨ (0x40 ≤ m ∧ m ≤ 0x49) then none
  else if m = 0x50 then checks [(decide (0x0C < xFn w) || xFn w == 0x0B, 0x02)]
  else if m = 0x60 then checks [(decide (8 < xFn w), 0x02)]
  else if m = 0x61 then checks [(decide (4 < xFn w), 0x02)]
  else if 0x80 ≤ m ∧ m ≤ 0x87 then none
  else if m = 0xC0 then checks [(decide (3 < tFn w), 0x02)]
  else if m = 0xC1 then checks [(decide (0x14 < tFn w) && decide (tFn w < 0x18) || decide (0x1A < tFn w), 0x02)]
  else some 0x01

/-- NOP (R150); the row also takes every word that no row of the table defines, which is irregular (R182, R185). -/
def execNop (c : CoreId) (t : Thr) (w : Word) (s : State) : Out :=
  s.done (s.issue c t w (fun w => (wMajor w == 0x50 && xFn w == 0) || (undefinedWord w).isSome)
    (fun _ => (undefinedWord w).orElse fun _ => checks [(xReg w != 0 || xOp w != 0, 0x03)]) []
    fun _ s => (s, .now))

/-! MFENCE -/

/-- Memory accesses of a thread not yet performed or answered: its own, and write-backs that its maintenance
instructions started; instruction fetches are not among them (R124). -/
def State.outstanding (s : State) (c : CoreId) (t : Thr) : Bool :=
  (s.txns.any fun x => match x.purpose with
    | .fillInstr _ | .fetchOnce _ => false
    | .writeBack (some t') => x.src == .cache c && t' == t
    | _ => x.src == .thread c t) ||
  ((s.thr c t).flights.any fun f => f.tile.isSome)

/-- A thread that stalls on MFENCE becomes READY once none is left (R191). -/
def State.fenceWake (s : State) (c : CoreId) (t : Thr) : State :=
  if (s.thr c t).stall = .fence ∧ s.outstanding c t = false then s.modThr c t (·.wake) else s

/-- MFENCE: completes when every earlier access of the thread has been performed (R124). -/
def execMfence (c : CoreId) (t : Thr) (w : Word) (s : State) : Out :=
  s.done (s.sysIssue c t w 0x01 (fun _ => checks [(xReg w != 0 || xOp w != 0, 0x03)]) []
    fun _ s => (s, if s.outstanding c t then .stall .fence else .now))

/-! System registers -/

/-- FEAT0-FEAT3 of a grade. -/
def featWord (g : Fin 6) (n : Nat) : Word :=
  match n with
  | 0 => 0x3FF
  | 1 => BitVec.ofNat 64 (1 + 0xB0 * 2 ^ 8 + g.val * 2 ^ 16 + (1 - g.val % 2) * 2 ^ 19 + gradeCores g * 2 ^ 20)
  | 2 => 0x1FFF
  | _ => BitVec.ofNat 64 (64 + 64 * 2 ^ 8 + 64 * 2 ^ 16 + 512 * 2 ^ 24 + 64 * 2 ^ 36 + 256 * 2 ^ 44 + 8 * 2 ^ 53 + 16 * 2 ^ 57)

/-- TSTATE: the states of the four threads (R189). -/
def Core.tstate (q : Core) : Word :=
  BitVec.ofNat 64 (q.thr[0].st.code + q.thr[1].st.code * 8 + q.thr[2].st.code * 64 + q.thr[3].st.code * 512)

/-- The value of a system register as MFS reads it; `none`: not present (R183, R214). -/
def State.sysRead (s : State) (c : CoreId) (t : Thr) (n : Nat) : Option Word :=
  let q := s.core c
  let th := q.thr[t]
  if n = 0 then some th.flags
  else if h : 0x10 ≤ n ∧ n < 0x14 then some (th.sc[n - 0x10]'(by omega))
  else if h : 0x20 ≤ n ∧ n < 0x23 then some ((th.lc[n - 0x20]'(by omega)).setWidth 64)
  else if h : 0x24 ≤ n ∧ n < 0x27 then some ((th.ls[n - 0x24]'(by omega)).setWidth 64)
  else if h : 0x28 ≤ n ∧ n < 0x2B then some ((th.le[n - 0x28]'(by omega)).setWidth 64)
  else if n = 0x2C then some th.lstat
  else if n = 0x30 then some th.repcnt
  else if n = 0x31 then some th.rplstat
  else if n = 0x40 then some th.rsctl
  else if n = 0x50 then some (fieldsRead IRL_CTRL (s.reg (aIRL_CTRL c)))
  else if 0x60 ≤ n ∧ n < 0x64 then some (featWord s.grade (n - 0x60))
  else if n = 0x100 then some th.tstatus
  else if n = 0x101 then some th.tsbp
  else if n = 0x102 then some th.tsblim
  else if n = 0x103 then some q.dtbase
  else if n = 0x104 then some th.ipend
  else if n = 0x105 then some th.ien
  else if n = 0x106 then some th.arith
  else if n = 0x107 then some th.fpctl
  else if n = 0x108 then some th.excInfo
  else if n = 0x110 then some q.threadFault
  else if n = 0x111 then some q.tstate
  else if n = 0x112 then some th.hscd
  else if n = 0x114 then some (th.lfsr.setWidth 64)
  else if h : 0x121 ≤ n ∧ n < 0x124 then some (q.tspc[n - 0x120]'(by omega))
  else if h : 0x125 ≤ n ∧ n < 0x128 then some (q.tssp[n - 0x124]'(by omega))
  else if h : 0x129 ≤ n ∧ n < 0x12C then some (q.tsarg[n - 0x128]'(by omega))
  else if h : 0x12D ≤ n ∧ n < 0x130 then some (q.tstsb[n - 0x12C]'(by omega))
  else if n = 0x130 then some q.tspriv
  else none

/-- The countdown of a thread has fallen to `n`; at 0 with EN = 1 it raises 0x25 (R194). -/
def State.hscdTo (s : State) (c : CoreId) (t : Thr) (n : Nat) : State :=
  let th := s.thr c t
  if HSCD.COUNT.get th.hscd ≤ n then s
  else
    let s := s.modThr c t fun th => { th with hscd := HSCD.COUNT.put th.hscd n }
    if n = 0 ∧ HSCD.EN.get th.hscd = 1 then s.interrupt c t 0x25 else s

/-- The countdown falls with every handshake of the issue stage (R194): by the time software looks at it, by a free amount (log 7). -/
def State.hscdRuns (s : State) (c : CoreId) (t : Thr) : State :=
  let (d, s) := s.draw
  s.hscdTo c t (HSCD.COUNT.get (s.thr c t).hscd - d.toNat % 2 ^ 32)

/-- MFS: reg = the system register named (R183). -/
def execMfs (c : CoreId) (t : Thr) (w : Word) (s : State) : Out :=
  s.done (s.sysIssue c t w 0x02
    (fun _ => checks [(xOp w / 4096 != 0, 0x03), ((s.sysRead c t (xOp w % 4096)).isNone, 0x0F)]) [xReg w]
    fun _ s =>
      let s := if xOp w % 4096 = 0x112 then s.hscdRuns c t else s
      let v := (s.sysRead c t (xOp w % 4096)).getD 0
      (s.modThr c t (·.writeReg (xReg w) v), .due))

/-- Who may write a system register: `none` nobody; else whether supervisor mode and thread 0 are asked (R182,
R183, R214). RSCTL is written at both levels. -/
def sysWriter (n : Nat) : Option (Bool × Bool) :=
  if (0x10 ≤ n ∧ n < 0x14) ∨ n = 0x40 ∨ n = 0x106 ∨ n = 0x107 ∨ n = 0x114 then some (false, false)
  else if (0x20 ≤ n ∧ n < 0x23) ∨ (0x24 ≤ n ∧ n < 0x27) ∨ (0x28 ≤ n ∧ n < 0x2B) ∨ n = 0x2C ∨ n = 0x30 ∨ n = 0x31
      ∨ n = 0x50 ∨ (0x100 ≤ n ∧ n ≤ 0x102) ∨ n = 0x105 ∨ n = 0x112 then some (true, false)
  else if n = 0x110 then some (false, true)
  else if n = 0x103 ∨ (0x121 ≤ n ∧ n < 0x124) ∨ (0x125 ≤ n ∧ n < 0x128) ∨ (0x129 ≤ n ∧ n < 0x12C)
      ∨ (0x12D ≤ n ∧ n < 0x131) then some (true, true)
  else none

/-- Irregularity of an MTS: no such writable register 0x0F, a mode or thread that may not write it 0x06 (R183,
R214). -/
def mtsIrregular (t : Thr) (w : Word) (th : Thread) : Option Nat :=
  let n := xOp w % 4096
  if xOp w / 4096 ≠ 0 then some 0x03
  else match sysWriter n with
    | none => some 0x0F
    | some (sup, zero) => if (sup && !th.super) || (zero && t != 0) then some 0x06 else none

/-- Clear COUNT, NEXT and HIT of the irregularity log (R188). -/
def State.irlClear (s : State) (c : Nat) : State :=
  ((s.setFld (aIRL_CTRL c) IRL_CTRL.COUNT 0).setFld (aIRL_CTRL c) IRL_CTRL.NEXT 0).setFld (aIRL_CTRL c) IRL_CTRL.HIT 0

/-- THREAD_FAULT.NEW bits written 1 are cleared, and IPEND's bit of 0x20 follows (R204). -/
def Core.clearNew (q : Core) (v : Word) : Core :=
  { q with threadFault := fieldsWrite THREAD_FAULT q.threadFault v }.followNew

/-- A loop address register keeps bits [47:3]. -/
def loopAddr (v : Word) : Addr := BitVec.ofNat 48 (v.toNat / 8 * 8)

/-- The effect of an MTS on the thread's own registers (R183, R214). -/
def Thread.sysWrite (th : Thread) (n : Nat) (v : Word) : Thread :=
  if h : 0x10 ≤ n ∧ n < 0x14 then { th with sc := th.sc.set (n - 0x10) (fieldsWrite SC 0 v) (by omega) }
  else if h : 0x20 ≤ n ∧ n < 0x23 then { th with lc := th.lc.set (n - 0x20) (v.setWidth 32) (by omega) }
  else if h : 0x24 ≤ n ∧ n < 0x27 then { th with ls := th.ls.set (n - 0x24) (loopAddr v) (by omega) }
  else if h : 0x28 ≤ n ∧ n < 0x2B then { th with le := th.le.set (n - 0x28) (loopAddr v) (by omega) }
  else if n = 0x2C then { th with lstat := fieldsWrite LSTAT th.lstat v }
  else if n = 0x30 then { th with repcnt := fieldsWrite REPCNT th.repcnt v }
  else if n = 0x31 then { th with rplstat := fieldsWrite RPLSTAT th.rplstat v }
  else if n = 0x40 then
    { th with rsctl := fieldsWrite (if th.super then RSCTL else [RSCTL.LOST]) th.rsctl v }
  else if n = 0x100 then { th with tstatus := fieldsWrite TSTATUS th.tstatus v }
  else if n = 0x101 then { th with tsbp := fieldsWrite TSBP th.tsbp v }
  else if n = 0x102 then { th with tsblim := fieldsWrite TSBP th.tsblim v }
  else if n = 0x105 then { th with ien := v &&& 0x3F }
  else if n = 0x106 then { th with arith := fieldsWrite ARITH th.arith v }
  else if n = 0x107 then { th with fpctl := fieldsWrite FPCTL th.fpctl v }
  else if n = 0x112 then { th with hscd := fieldsWrite HSCD th.hscd v }
  else if n = 0x114 then { th with lfsr := (fieldsWrite LFSR (th.lfsr.setWidth 64) v).setWidth 32 }
  else th

/-- The effect of an MTS on the core-wide registers (R214). -/
def Core.sysWrite (q : Core) (n : Nat) (v : Word) : Core :=
  if n = 0x103 then { q with dtbase := fieldsWrite DTBASE q.dtbase v }
  else if n = 0x110 then q.clearNew v
  else if h : 0x121 ≤ n ∧ n < 0x124 then { q with tspc := q.tspc.set (n - 0x120) v (by omega) }
  else if h : 0x125 ≤ n ∧ n < 0x128 then { q with tssp := q.tssp.set (n - 0x124) v (by omega) }
  else if h : 0x129 ≤ n ∧ n < 0x12C then { q with tsarg := q.tsarg.set (n - 0x128) v (by omega) }
  else if h : 0x12D ≤ n ∧ n < 0x130 then { q with tstsb := q.tstsb.set (n - 0x12C) v (by omega) }
  else if n = 0x130 then { q with tspriv := v &&& 0xE }
  else q

/-- The effect of an MTS (R183). -/
def State.sysWrite (s : State) (c : CoreId) (t : Thr) (n : Nat) (v : Word) : State :=
  if n = 0x50 then
    let s := s.setReg (aIRL_CTRL c) (fieldsWrite IRL_CTRL (s.reg (aIRL_CTRL c)) v)
    if IRL_CTRL.CLR.get v = 1 then s.irlClear c else s
  else (s.modThr c t (·.sysWrite n v)).modCore c (·.sysWrite n v)

/-- MTS: the system register named takes reg (R183). A loop register is written before the instruction's
loop-back, every other after the instruction is over, so that SC, REPCNT, RPLSTAT and TSTATUS act from the next
instruction on (log 13). -/
def execMts (c : CoreId) (t : Thr) (w : Word) (s : State) : Out :=
  s.done (s.sysIssue c t w 0x03 (mtsIrregular t w) [xReg w]
    fun key s =>
      let n := xOp w % 4096
      let v := (s.thr c t).readReg (xReg w)
      if 0x20 ≤ n ∧ n ≤ 0x2C then (s.sysWrite c t n v, .now)
      else ((s.finish c t (wSig w) key .now).sysWrite c t n v, .set))

/-- IRL_CLEAR: a write of IRL_CTRL.CLR (R188). -/
def execIrlClear (c : CoreId) (s : State) : Out := s.done (s.irlClear c)

/-! Traps -/

/-- A trap: the instruction is over, its loop-back done, and the thread's next entry is the trap's (R173, R203). -/
def State.trapTo (s : State) (c : CoreId) (t : Thr) (w : Word) (vec key : Nat) : State :=
  let a := (s.thr c t).wordAddr
  (s.finish c t (wSig w) key .now).modThr c t fun th => { th with entry := some ⟨vec, 0, th.pc, a, false, th.priv⟩ }

/-- TRAP n: vector 0x10 + n (R203). -/
def execTrap (c : CoreId) (t : Thr) (w : Word) (s : State) : Out :=
  s.done (s.sysIssue c t w 0x04 (fun _ => checks [(xReg w != 0 || xOp w / 16 != 0, 0x03)]) []
    fun key s => (s.trapTo c t w (0x10 + xOp w % 16) key, .set))

/-- BRK: vector 0x0C (R203). -/
def execBrk (c : CoreId) (t : Thr) (w : Word) (s : State) : Out :=
  s.done (s.sysIssue c t w 0x0C (fun _ => checks [(xReg w != 0 || xOp w != 0, 0x03)]) []
    fun key s => (s.trapTo c t w 0x0C key, .set))

/-! Cache maintenance by set and way -/

/-- Irregularity of DCSW (R181). -/
def dcswIrregular (w : Word) : Option Nat :=
  let op := xOp w % 4
  let all := bit (xOp w) 2
  let cache := xOp w / 8 % 4
  checks [(xOp w / 32 != 0, 0x03), (op == 3 || decide (1 < cache) || (cache == 1 && (op != 1 || !all)), 0x05),
    (all && xReg w != 0, 0x03), (!all && !isD (xReg w), 0x04)]

/-- DCSW: clean, invalidate, or both, by set and way or the whole cache (R181, R325, R326). -/
def execDcsw (c : CoreId) (t : Thr) (w : Word) (s : State) : Out :=
  s.done (s.sysIssue c t w 0x0A (fun _ => dcswIrregular w) (if bit (xOp w) 2 then [] else [xReg w])
    fun _ s =>
      let op := xOp w % 4
      let all := bit (xOp w) 2
      let inval := op != 0
      if xOp w / 8 % 4 = 1 then
        ((s.modCore c fun q => { q with icache := { q.icache with lines := [] } }).cancelFills c true fun _ => true, .due)
      else
        let v := ((s.thr c t).readReg (xReg w)).toNat
        let place := v % 256 * 4 + v / 256 % 4
        let tag := (tabGet none (s.core c).dcache.lines place).map (·.tag)
        let s := s.dcMaint c (some t) (fun k _ => all || k == place) (op != 1) inval
        let s := if all && inval then s.modCore c fun q => { q with side := [] } else s
        (if inval then s.cancelFills c false (fun l => all || tag == some l) else s, .due))

end Sys2Proof.Machine
end

