-- ==== Sys2Proof/Machine/Messages.lean ====
section
/-! DEFINITION. Active messages: composing and sending, channels and credits, receive queues, combining queues
and multicast (R334-R358, R372-R374). -/

namespace Sys2Proof.Machine

/-! Channels -/

/-- Valid entries of the channel directory. -/
def State.channels (s : State) : List Nat :=
  s.regs.filterMap fun (a, w) =>
    if dirEntry 0 ≤ a ∧ a < dirEntry 0x8000 ∧ a % 16 = 0 ∧ DIR0.V.get w = 1 then some ((a - dirEntry 0) / 16) else none

/-- The entry with a SEND's key (R337). -/
def State.channel (s : State) (slot c t kind dst q : Nat) : Option Nat :=
  s.channels.find? fun e =>
    let w := s.reg (aDIR0 e)
    DIR0.SLOT.get w == slot && DIR0.SRC.get w == c && DIR0.THREAD.get w == t && DIR0.KIND.get w == kind &&
      DIR0.DST_W.get w == dst && DIR0.QUEUE.get w == q

/-- Core-in-cluster of a physical core (R6). -/
def inCluster (c : Nat) : Nat := c % 288 % 16

/-- The group table entry of a group in a cluster's router (R355). -/
def State.groupEntry (s : State) (k slot g : Nat) : Option Word :=
  ((List.range 64).map fun i => s.reg (aGENT k i)).find? fun w =>
    GENT.V.get w == 1 && GENT.SLOT.get w == slot && GENT.GROUP.get w == g

/-- Whether a core is a member of a group. -/
def State.inGroup (s : State) (c slot g : Nat) : Bool :=
  (s.groupEntry (clusterOfCore c) slot g).any fun w => bit (GENT.CORES.get w) (inCluster c)

/-- Whether a channel leads into a queue of a core. -/
def State.leadsTo (s : State) (e c q : Nat) : Bool :=
  let w := s.reg (aDIR0 e)
  DIR0.QUEUE.get w == q && (if DIR0.KIND.get w = 2 then s.inGroup c (DIR0.SLOT.get w) (DIR0.DST_W.get w)
    else DIR0.DST.get w == c)

/-- The channels into a queue of a core. -/
def State.inbound (s : State) (c q : Nat) : List Nat := s.channels.filter fun e => s.leadsTo e c q

/-- A return token sets out (R342). -/
def State.token (s : State) (kind : TokenKind) (e : Nat) : State :=
  let (id, s) := s.fresh
  { s with tokens := s.tokens ++ [⟨id, kind, e⟩] }

/-- Whether another copy of a message is on its way or in a queue (R357). -/
def State.copiesLeft (s : State) (mid : Nat) : Bool :=
  (s.msgs.any (·.msg.mid = mid)) ||
  s.cores.any fun (_, k) => k.queues.toList.any fun q => q.msgs.any fun m => m.mid == mid && m.dir.isSome

/-- The slot or place a message took is free: its credit returns, for multicast with the last copy (R341, R357). -/
def State.freed (s : State) (m : Message) : State :=
  match m.dir with
  | none => s
  | some e => if s.copiesLeft m.mid then s else s.token .credit e

/-- A message has entered or been discarded at a queue: its acknowledgement returns, for multicast with the last
copy (R342, R357). -/
def State.acked (s : State) (m : Message) : State :=
  match m.dir with
  | none => s
  | some e => if s.msgs.any (·.msg.mid = m.mid) then s else s.token .entryAck e

/-! Queues -/

/-- A queue of a core. -/
def State.queue (s : State) (c : Nat) (q : Fin 8) : Queue := (s.core c).queues[q]
def State.modQueue (s : State) (c : Nat) (q : Fin 8) (f : Queue → Queue) : State :=
  s.modCore c fun k => { k with queues := k.queues.set q (f k.queues[q]) }

/-- Words a message's header says follow it. -/
def Message.len (m : Message) : Nat := wb m.header 8 6

/-- Contribution credits that waited for a free slot return once there is one (R354). -/
def State.payRounds (s : State) (c : Nat) (q : Fin 8) : State :=
  let k := s.queue c q
  if k.owedRounds ≠ [] ∧ k.msgs.length < 32 then
    (s.modQueue c q fun k => { k with owedRounds := [] }).forAll k.owedRounds fun s e => s.token .credit e
  else s

/-- The head's slot frees (R346). -/
def State.freeHead (s : State) (c : Nat) (q : Fin 8) : State :=
  match (s.queue c q).msgs with
  | [] => s
  | m :: _ => ((s.modQueue c q fun k => { k with msgs := k.msgs.tail, pos := 0 }).freed m).payRounds c q

/-- The reader thread of a queue. -/
def State.reader (s : State) (c : Nat) (q : Fin 8) : Thr :=
  let r := s.fld (aQCFG c q) QCFG.READER
  if h : r < 4 then ⟨r, h⟩ else 0

/-- The message-arrival interrupt, where the queue is ARMED and holds THRESH messages (R350). -/
def State.judgeArm (s : State) (c : Nat) (q : Fin 8) : State :=
  let k := s.queue c q
  if k.armed ∧ k.thresh ≤ k.msgs.length then
    (s.modQueue c q fun k => { k with armed := false }).interrupt c (s.reader c q) 0x21
  else s

/-- A message enters a queue: SEQ filled in, counted, its reader told (R336, R344, R346, R350, R514). -/
def State.enterQueue (s : State) (c : Nat) (q : Fin 8) (m : Message) : State :=
  let k := s.queue c q
  let m := { m with header := m.header + BitVec.ofNat 64 (k.seq % 2 ^ 16 * 2 ^ 32) }
  let s := s.modQueue c q fun k => { k with msgs := k.msgs ++ [m], seq := k.seq + 1 }
  let s := (s.incFld (aQCNT c q) QCNT.ENTERED 1).act c
  let s := if (s.thr c (s.reader c q)).stall = .emptyQueue q then s.modThr c (s.reader c q) (·.wake) else s
  s.judgeArm c q

/-- A message is discarded at a closed queue (R343). -/
def State.discard (s : State) (c : Nat) (q : Fin 8) (m : Message) : State :=
  let s := s.incFld (aQCNT c q) QCNT.DISCARDED 1
  match m.dir with
  | some e => s.incFld (aDIR1 e) DIR1.CLOSED_N 1
  | none => s

/-- A queue closes: what it holds is discarded, every credit returns, and every sender is told (R343). -/
def State.closeQueue (s : State) (c : Nat) (q : Fin 8) : State :=
  let k := s.queue c q
  if k.closed || !s.flag (aQCFG c q) QCFG.DECL then s
  else
    let s := s.modQueue c q fun k => { k with
      msgs := [], pos := 0, closed := true, armed := false, round := none, owedRounds := [] }
    let s := s.forAll k.msgs fun s m => s.freed m
    let s := s.forAll (k.owedRounds ++ (k.round.map (·.chans)).getD []) fun s e => s.token .credit e
    s.forAll (s.inbound c q) fun s e => s.token .closure e

/-- The eight queues. -/
def queues : List (Fin 8) := [0, 1, 2, 3, 4, 5, 6, 7]

/-- Every queue of a core closes (R343). -/
def State.closeAll (s : State) (c : Nat) : State := s.forAll queues fun s q => s.closeQueue c q

/-- The queues that a thread reads close (R343). -/
def State.closeRead (s : State) (c : Nat) (t : Thr) : State :=
  s.forAll (queues.filter fun q => s.reader c q == t) fun s q => s.closeQueue c q

/-- Whether a channel leads to a closed queue. -/
def State.leadsToClosed (s : State) (e : Nat) : Bool :=
  s.cores.any fun (c, k) => queues.any fun q => k.queues[q].closed && s.leadsTo e c q

/-- The thread held for credit on a channel becomes READY. -/
def State.wakeSender (s : State) (e : Nat) : State :=
  let c := s.fld (aDIR0 e) DIR0.SRC
  let t : Thr := Fin.ofNat 4 (s.fld (aDIR0 e) DIR0.THREAD)
  if (s.thr c t).stall = .credit then s.modThr c t (·.wake) else s

/-- A queue opens empty, its senders' SHUT clears where no queue of the channel is still closed, and their
credits are restored, for which a SEND may be held (R341, R343). -/
def State.openQueue (s : State) (c : Nat) (q : Fin 8) : State :=
  let s := s.modQueue c q fun k => { Queue.reset with seq := k.seq, thresh := k.thresh }
  s.forAll (s.inbound c q) fun s e =>
    if s.leadsToClosed e then s else
    let s := (s.setFld (aDIR1 e) DIR1.SHUT 0).setFld (aDIR1 e) DIR1.AVAIL (s.fld (aDIR0 e) DIR0.CRED)
    ({ s with tokens := s.tokens.filter fun k => !(k.dir == e && (k.kind == .closure || k.kind == .credit)) } : State).wakeSender e

/-! Message instructions -/

/-- A message instruction of function `fn`. -/
def State.msgIssue (s : State) (c : CoreId) (t : Thr) (w : Word) (fn : Nat) (irregular : Thread → Option Nat)
    (regs : List Nat) (body : Nat → State → State × Res) : State :=
  s.issue c t w (fun w => wMajor w == 0x60 && xFn w == fn) irregular regs body

/-- Compose buffer words. -/
def Thread.readC (th : Thread) (i : Nat) : Word := if h : i < 8 then th.compose[i] else 0
def Thread.writeC (th : Thread) (i : Nat) (v : Word) : Thread :=
  if h : i < 8 then { th with compose := th.compose.set i v } else th

/-- MCW: C[word] = reg (R334). -/
def execMcw (c : CoreId) (t : Thr) (w : Word) (s : State) : Out :=
  s.done (s.msgIssue c t w 0x00 (fun _ => checks [(xOp w / 8 != 0, 0x03), (xOp w == 0, 0x05)]) [xReg w]
    fun _ s => (s.modThr c t fun th => th.writeC (xOp w) (th.readReg (xReg w)), .due))

/-- MCR: reg = C[word] (R334). -/
def execMcr (c : CoreId) (t : Thr) (w : Word) (s : State) : Out :=
  s.done (s.msgIssue c t w 0x01 (fun _ => checks [(xOp w / 8 != 0, 0x03), (!isD (xReg w), 0x04)]) [xReg w]
    fun _ s => (s.modThr c t fun th => th.writeReg (xReg w) (th.readC (xOp w)), .due))

/-- The fields of a SEND operand. -/
def opQueue (o : Nat) : Nat := o % 8
def opKind (o : Nat) : Nat := o / 8 % 4
def opDst (o : Nat) : Nat := if o / 8 % 4 = 2 then o / 32 % 64 else o / 32 % 1024
def opLen (o : Nat) : Nat := o / 2 ^ 15 % 8
def opHandler (o : Nat) : Nat := o / 2 ^ 18 % 64

/-- Irregularity of a SEND operand of 24 bits (R372). -/
def opIrregular (o : Nat) : Option Nat :=
  checks [(opKind o == 2 && o / 2 ^ 11 % 16 != 0, 0x03), (opKind o == 3, 0x05)]

/-- The header a SEND builds (R336). -/
def sendHeader (o : Nat) (t : Thr) (wcore : Nat) : Word :=
  BitVec.ofNat 64 (opHandler o + opLen o * 2 ^ 6 + opKind o * 2 ^ 9 + t.val * 2 ^ 11 + wcore * 2 ^ 16)

/-- The router of a group's root: that of its member with the lowest workload index. -/
def State.groupRoot (s : State) (slot g : Nat) : Nat :=
  ((List.range 72).find? fun k => (s.groupEntry k slot g).any fun w => GENT.ROOT.get w == 1).getD 0

/-- Transmit the message of a SEND on its channel (R335, R338, R341, R343). -/
def State.sendOp (s : State) (c : CoreId) (t : Thr) (rd o : Nat) : State × Res :=
  match s.boundTo c with
  | none => (s, .fault 0x08 0 0 false)
  | some (slot, wcore) =>
    match s.channel slot c t (opKind o) (opDst o) (opQueue o) with
    | none => (s, .fault 0x08 0 0 false)
    | some e =>
      let d0 := s.reg (aDIR0 e)
      let d1 := s.reg (aDIR1 e)
      let head := sendHeader o t wcore
      if DIR1.SHUT.get d1 = 1 then
        ((s.incFld (aDIR1 e) DIR1.CLOSED_N 1).modThr c t fun th => (th.writeC 0 head).writeReg rd 0x33, .due)
      else if DIR1.AVAIL.get d1 = 0 ∨
          (DIR0.GUAR.get d0 = 1 ∧ DIR0.INFL.get d0 ≠ 0 ∧ DIR0.INFL.get d0 ≤ DIR1.OUT.get d1) then
        (s, .stall .credit)
      else
        let th := s.thr c t
        let pay := (List.range (opLen o)).map fun i => th.readC (i + 1)
        let (id, s) := s.fresh
        let s := (s.incFld (aDIR1 e) DIR1.SENT 1).setFld (aDIR1 e) DIR1.AVAIL (DIR1.AVAIL.get d1 - 1)
        let s := if DIR0.GUAR.get d0 = 1 then s.incFld (aDIR1 e) DIR1.OUT 1 else s
        let root := if opKind o = 2 then some (s.groupRoot slot (opDst o)) else none
        let q : Fin 8 := Fin.ofNat 8 (opQueue o)
        let m : NetMsg := ⟨id, ⟨head, pay, some e, id⟩, DIR0.DST.get d0, q, slot, root, 0⟩
        let s := { s with msgs := s.msgs ++ [m] }
        (s.modThr c t fun th => (th.writeC 0 head).writeReg rd 0, .due)

/-- SEND (R335-R341). -/
def execSend (c : CoreId) (t : Thr) (w : Word) (s : State) : Out :=
  s.done (s.msgIssue c t w 0x02
    (fun _ => (checks [(xOp w / 2 ^ 24 != 0, 0x03), (!isD (xReg w), 0x04)]).orElse fun _ => opIrregular (xOp w)) [xReg w]
    fun _ s => s.sendOp c t (xReg w) (xOp w))

/-- Irregularity of SENDR, its descriptor register's included (R372). -/
def sendrIrregular (w : Word) (th : Thread) : Option Nat :=
  (checks [(xOp w / 64 != 0, 0x03), (!isD (xReg w) || !isD (xOp w), 0x04)]).orElse fun _ =>
    let v := (th.readReg (xOp w)).toNat
    if v / 2 ^ 24 ≠ 0 then some 0x05 else opIrregular v

/-- SENDR: as SEND with the operand in a D register; the register is judged once no writer owes it (R144, R372). -/
def execSendr (c : CoreId) (t : Thr) (w : Word) (s : State) : Out :=
  s.done (s.msgIssue c t w 0x03
    (fun th => if th.owes [xOp w] && isD (xReg w) && isD (xOp w) then none else sendrIrregular w th) [xReg w, xOp w % 64]
    fun _ s =>
      let th := s.thr c t
      match sendrIrregular w th with
      | some e => (s, .irregular e)
      | none => s.sendOp c t (xReg w) ((th.readReg (xOp w)).toNat))

/-- The queue an instruction names. -/
def qOf (w : Word) : Fin 8 := Fin.ofNat 8 (xOp w)

/-- Irregularity of an instruction that names a queue: a queue its thread may not read is not listed (R351,
R372). -/
def State.qIrregular (s : State) (c : CoreId) (t : Thr) (w : Word) (opMax : Nat) : Option Nat :=
  checks [(xOp w / opMax != 0, 0x03), (!isD (xReg w), 0x04),
    (!s.flag (aQCFG c (qOf w)) QCFG.DECL || s.reader c (qOf w) != t, 0x05)]

/-- QPOP: reg = the head's next word (R346). -/
def execQpop (c : CoreId) (t : Thr) (w : Word) (s : State) : Out :=
  s.done (s.msgIssue c t w 0x04 (fun _ => s.qIrregular c t w 8) [xReg w]
    fun _ s =>
      let k := s.queue c (qOf w)
      match k.msgs with
      | [] => (s, .stall (.emptyQueue (qOf w)))
      | m :: _ =>
        let v := if k.pos = 0 then m.header else m.payload.getD (k.pos - 1) 0
        let s := s.modThr c t (·.writeReg (xReg w) v)
        (if m.len ≤ k.pos then s.freeHead c (qOf w) else s.modQueue c (qOf w) fun k => { k with pos := k.pos + 1 }, .due))

/-- QSTAT of a queue (R375). -/
def Queue.stat (k : Queue) : Word :=
  BitVec.ofNat 64 (k.msgs.length + k.pos * 2 ^ 8 + b2n k.closed * 2 ^ 11 + b2n k.armed * 2 ^ 12 + k.thresh * 2 ^ 13 +
    (k.round.map (·.chans.length)).getD 0 * 2 ^ 32)

/-- QSTAT: reg = QSTAT of the queue (R351). -/
def execQstat (c : CoreId) (t : Thr) (w : Word) (s : State) : Out :=
  s.done (s.msgIssue c t w 0x05 (fun _ => s.qIrregular c t w 8) [xReg w]
    fun _ s => (s.modThr c t (·.writeReg (xReg w) (s.queue c (qOf w)).stat), .due))

/-- Whether the handler that a message names is absent from the handler table (R348, R349). -/
def State.noHandler (s : State) (c : Nat) (m : Message) : Bool := !s.flag (aHENT c (wb m.header 5 0)) HENT.V

/-- QDISP: dispatch the head message (R348). -/
def execQdisp (c : CoreId) (t : Thr) (w : Word) (s : State) : Out :=
  s.done (s.msgIssue c t w 0x06
    (fun _ => (s.qIrregular c t w 8).orElse fun _ =>
      let k := s.queue c (qOf w)
      checks [(k.pos == 0 && k.msgs.head?.any (s.noHandler c), 0x05)]) [xReg w]
    fun _ s =>
      let q := qOf w
      let s := if 0 < (s.queue c q).pos then s.freeHead c q else s
      match (s.queue c q).msgs with
      | [] => (s, .stall (.emptyQueue q))
      | m :: _ =>
        if s.noHandler c m then (s, .irregular 0x05)
        else match (s.thr c t).push ((s.thr c t).pc + 8) with
          | none => s.pushFull c t
          | some th' =>
            let s := s.modThr c t fun _ => th'.writeReg (xReg w) m.header
            let s := if m.len = 0 then s.freeHead c q else s.modQueue c q fun k => { k with pos := 1 }
            (s, .jump (BitVec.ofNat 48 (s.fld (aHENT c (wb m.header 5 0)) HENT.HANDLER * 8))))

/-- QDROP: discard the head or its remainder (R347). -/
def execQdrop (c : CoreId) (t : Thr) (w : Word) (s : State) : Out :=
  s.done (s.msgIssue c t w 0x07 (fun _ => s.qIrregular c t w 8) []
    fun _ s => (s.freeHead c (qOf w), .due))

/-- QARM: set ARMED and THRESH (R350). -/
def execQarm (c : CoreId) (t : Thr) (w : Word) (s : State) : Out :=
  s.done (s.msgIssue c t w 0x08
    (fun _ => (s.qIrregular c t w 1024).orElse fun _ =>
      checks [(xOp w / 16 == 0 || decide (32 < xOp w / 16), 0x05)]) []
    fun _ s =>
      ((s.modQueue c (qOf w) fun k => { k with armed := bit (xOp w) 3, thresh := xOp w / 16 }).judgeArm c (qOf w), .due))

/-! Messages on their way -/

/-- A message on its way. -/
def State.netMsg (s : State) (id : Nat) : Option NetMsg := s.msgs.find? (·.id = id)

/-- The group of a multicast message: slot and group id. -/
def State.groupOf (s : State) (m : NetMsg) : Option (Nat × Nat) :=
  m.msg.dir.bind fun e =>
    if s.fld (aDIR0 e) DIR0.KIND = 2 then some (m.slot, s.fld (aDIR0 e) DIR0.DST_W) else none

/-- Whether an earlier message must come first at the same place: on the same channel (R345), or earlier in its
group's order with a copy for this member still to come (R356). -/
def State.mustFollow (s : State) (m : NetMsg) : Bool :=
  let before := s.msgs.takeWhile (·.id ≠ m.id)
  if m.router.isSome ∧ m.order = 0 then before.any fun e => e.msg.dir == m.msg.dir && e.order == 0
  else match s.groupOf m with
    | none => before.any fun e => e.msg.dir == m.msg.dir
    | some g => s.msgs.any fun e => decide (0 < e.order ∧ e.order < m.order) && s.groupOf e == some g &&
        (if m.router.isSome then e.router == m.router else e.router.isSome || e.dst == m.dst)

/-- MESSAGE_ENTRY: a message that arrives whole enters its queue, or is discarded at a closed one (R343-R345). -/
def execMessageEntry (id : Nat) (s : State) : Out :=
  s.done (match s.netMsg id with
  | none => s
  | some m =>
    let comb := s.fld (aQCFG m.dst m.queue) QCFG.COMB
    let k := s.queue m.dst m.queue
    if m.router.isSome || comb != 0 || s.mustFollow m then s
    else
      let t := { s with msgs := s.msgs.filter (·.id ≠ id) }
      if k.closed then ((t.discard m.dst m.queue m.msg).acked m.msg).freed m.msg
      else if 32 ≤ k.msgs.length then s
      else (t.enterQueue m.dst m.queue m.msg).acked m.msg)

/-- Element `i` of a contribution; a missing one is +0 (R352). -/
def Message.element (m : Message) (i : Nat) : BitVec 32 :=
  if i / 2 < m.payload.length then
    BitVec.ofNat 32 ((m.payload.getD (i / 2) 0).toNat / 2 ^ (32 * (i % 2)))
  else 0

/-- One element added into a round (R353). -/
def combine (comb : Nat) (a b : BitVec 32) : BitVec 32 :=
  if comb = 1 then BitVec.ofNat 32 (fp32.write .rne ((fp32.value a.toNat).add (fp32.value b.toNat)).1).1 else a + b

/-- The message of a delivered round (R336, R352). -/
def Round.message (r : Round) (mid : Nat) : Message :=
  let len := (r.elems.length + 1) / 2
  ⟨BitVec.ofNat 64 (r.handler + len * 2 ^ 6 + 2 ^ 9 + 0x3FF * 2 ^ 16 + r.chans.length * 2 ^ 48),
    (List.range len).map fun i =>
      BitVec.ofNat 64 ((r.elems.getD (2 * i) 0).toNat + (r.elems.getD (2 * i + 1) 0).toNat * 2 ^ 32), none, mid⟩

/-- CONTRIBUTION_ARRIVAL: a contribution is added into the open round, those of one channel in the order of their SENDs; with the N-th
the round is delivered (R345, R352-R354). -/
def execContributionArrival (id : Nat) (s : State) : Out :=
  s.done (match s.netMsg id with
  | none => s
  | some m =>
    let cfg := s.reg (aQCFG m.dst m.queue)
    let k := s.queue m.dst m.queue
    if QCFG.COMB.get cfg = 0 || s.mustFollow m then s
    else
      let t := { s with msgs := s.msgs.filter (·.id ≠ id) }
      if k.closed then ((t.discard m.dst m.queue m.msg).acked m.msg).freed m.msg
      else if k.round.isNone && decide (32 ≤ k.msgs.length) then s
      else
        let n := QCFG.ELEMS.get cfg
        let r := k.round.getD ⟨wb m.msg.header 5 0, List.replicate n 0, []⟩
        let r : Round := { r with
          elems := (List.range n).map fun i => combine (QCFG.COMB.get cfg) (r.elems.getD i 0) (m.msg.element i)
          chans := r.chans ++ m.msg.dir.toList }
        let t := t.acked m.msg
        if r.chans.length < QCFG.NPER.get cfg then t.modQueue m.dst m.queue fun k => { k with round := some r }
        else
          let (mid, t) := t.fresh
          let t := t.modQueue m.dst m.queue fun k => { k with round := none, owedRounds := r.chans }
          (t.enterQueue m.dst m.queue (r.message mid)).payRounds m.dst m.queue)

/-- A return token on its way. -/
def State.takeToken (s : State) (id : Nat) (kind : TokenKind) : Option (Nat × State) :=
  (s.tokens.find? fun k => k.id == id && k.kind == kind).map fun k =>
    (k.dir, { s with tokens := s.tokens.filter (·.id ≠ id) })

/-- ENTRY_ACK: the channel's in-flight count falls (R342). -/
def execEntryAck (id : Nat) (s : State) : Out :=
  s.done (match s.takeToken id .entryAck with
  | none => s
  | some (e, s) => (s.setFld (aDIR1 e) DIR1.OUT (s.fld (aDIR1 e) DIR1.OUT - 1)).wakeSender e)

/-- CREDIT_RETURN: a credit returns to a channel (R341). -/
def execCreditReturn (id : Nat) (s : State) : Out :=
  s.done (match s.takeToken id .credit with
  | none => s
  | some (e, s) =>
    (s.setFld (aDIR1 e) DIR1.AVAIL (min (s.fld (aDIR0 e) DIR0.CRED) (s.fld (aDIR1 e) DIR1.AVAIL + 1))).wakeSender e)

/-- CLOSURE_NOTICE: SHUT sets, and a SEND held for credit goes on, to status CLOSED (R343). -/
def execClosureNotice (id : Nat) (s : State) : Out :=
  s.done (match s.takeToken id .closure with
  | none => s
  | some (e, s) => (s.setFld (aDIR1 e) DIR1.SHUT 1).wakeSender e)

/-- The cluster next to a router in a direction (0 +x, 1 -x, 2 +y, 3 -y; R7). -/
def neighbour (k dir : Nat) : Option Nat :=
  let x := clusterX k
  let y := clusterY k
  let at_ (x y : Nat) : Nat := (x / 3 + 2 * (y / 6)) * 18 + x % 3 + 3 * (y % 6)
  match dir with
  | 0 => if x < 5 then some (at_ (x + 1) y) else none
  | 1 => if 0 < x then some (at_ (x - 1) y) else none
  | 2 => if y < 11 then some (at_ x (y + 1)) else none
  | _ => if 0 < y then some (at_ x (y - 1)) else none

/-- A multicast message leaves a router of its tree: copies to every port and every local core its entry names
(R355); at the root it takes its place in the group's order (R356). -/
def State.replicate (s : State) (id : Nat) : State :=
  match s.netMsg id with
  | none => s
  | some m =>
    match m.router with
    | none => s
    | some k =>
      let g := (m.msg.dir.map fun e => s.fld (aDIR0 e) DIR0.DST_W).getD 0
      match s.groupEntry k m.slot g with
      | none => (({ s with msgs := s.msgs.filter (·.id ≠ id) } : State).acked m.msg).freed m.msg
      | some w =>
        if s.mustFollow m then s else
        let (ord, s) := if m.order = 0 then (fun r : Nat × State => (r.1 + 1, r.2)) s.fresh else (m.order, s)
        let down := (List.range 4).filterMap fun d => if bit (GENT.DOWN.get w) d then neighbour k d else none
        let here := (List.range 16).filter fun j => bit (GENT.CORES.get w) j
        let copies := down.map (fun k' => { m with router := some k', order := ord }) ++
          here.map (fun j => { m with router := none, dst := k / 18 * 288 + k % 18 * 16 + j, order := ord })
        let s := { s with msgs := s.msgs.filter (·.id ≠ id) }
        s.forAll copies fun s x =>
          let (id', s) := s.fresh
          { s with msgs := s.msgs ++ [{ x with id := id' }] }

end Sys2Proof.Machine
end

