-- ==== Sys2Proof/Machine/Sync.lean ====
section
/-! DEFINITION. Sync counters and barrier units: the instructions (R372), signals, waits, parking and release
(R359-R364), arrivals and phases (R365-R368), notifications (R370), withdrawal (R364). -/

namespace Sys2Proof.Machine

/-! What the objects hold -/

/-- The value of a counter. -/
def State.counter (s : State) (k i : Nat) : Nat := s.fld (aSCNT k i) SCNT.VALUE

/-- Completed phases of a barrier unit. -/
def State.phase (s : State) (u : Nat) : Nat := s.fld (aBU1 u) BU1.PHASE

/-- The active-core index of a physical core (R9). -/
def State.activeOf (s : State) (c : Nat) : Option Nat := s.mgmt.coreMap.findIdx? (· = c)

/-- A mask of 1,024 bits in 16 register words. -/
def State.mask (s : State) (at_ : Nat → Nat) (j : Nat) : Bool := (s.reg (at_ (j / 64))).getLsbD (j % 64)
def State.setMask (s : State) (at_ : Nat → Nat) (f : Nat → Bool) : State :=
  s.forAll (List.range 16) fun s w =>
    s.setReg (at_ w) (BitVec.ofNat 64 ((List.range 64).foldl (fun v j => v + b2n (f (64 * w + j)) * 2 ^ j) 0))

/-- SCNT.PARKED and BU1.PARKED follow the parked waits. -/
def State.parkStat (s : State) (obj : SyncObj) : State :=
  let n := (s.parked.filter (·.obj = obj)).length
  match obj with
  | .counter k i => s.setFld (aSCNT k i) SCNT.PARKED (b2n (n ≠ 0))
  | .barrier u => s.setFld (aBU1 u) BU1.PARKED n

/-! Errors -/

/-- The source field of a sync error log entry. -/
def waiterSource (core : Nat) : Waiter → Nat
  | .thread _ _ => core
  | .dma ch => 0x8000 + ch.val
  | .ring p _ => 0xC000 + p.val

/-- An operation refused: logged in the cluster's sync error log and in the error log (R361, R461). -/
def State.syncLog (s : State) (o : SyncOp) (kind before : Nat) (amount : Int) : State :=
  let (k, index) := match o.obj with
    | .counter k i => (k, i)
    | .barrier u => (clusterOfCore o.core, u)
  let t := match o.who with
    | .thread _ t => t.val
    | _ => 0
  let n := s.fld (aSERR_CTL k) SERR_CTL.NEXT
  let s := s.setReg (aSERR k n) (BitVec.ofNat 64 (before + wrap 32 amount * 2 ^ 32))
  let s := s.setReg (aSERR k n + 8)
    (BitVec.ofNat 64 (waiterSource o.core o.who + t * 2 ^ 16 + kind * 2 ^ 24 + index * 2 ^ 32 + o.slot * 2 ^ 48))
  let s := (s.setFld (aSERR_CTL k) SERR_CTL.NEXT (n + 1)).incFld (aSERR_CTL k) SERR_CTL.COUNT 1
  s.logErr 0x0205 0x0C k 1 (((s.image o.slot).map (·.handle)).getD 0) kind index

/-- An operation refused: logged, and reported back to who made it (R361, R393). -/
def State.syncError (s : State) (o : SyncOp) (kind before : Nat) (amount : Int) (key : Option Nat) : State :=
  (s.syncLog o kind before amount).sendSync o.who o.core o.obj (.error key) o.slot o.pc o.priv

/-! Waits -/

/-- The release of a satisfied wait sets out (R362). -/
def State.releaseWait (s : State) (p : Parked) : State :=
  s.sendSync p.who 0 p.obj (.release p.consume) 0 0 0

/-- Notifications armed on an object whose amount a value reaches fire, and disarm (R370). -/
def State.notify (s : State) (obj : SyncObj) (hit : Nat → Bool) : State :=
  s.forAll (s.cores.map (·.1)) fun s c => s.forAll threads fun s t =>
    match (s.thr c t).notif with
    | some n =>
      if n.obj = obj ∧ hit n.amount then
        (s.modThr c t fun th => { th with notif := none }).interrupt c t 0x23
      else s
    | none => s

/-- The first parked wait that passes a test leaves. -/
def takeParked (f : Parked → Bool) : List Parked → Option (Parked × List Parked)
  | [] => none
  | p :: ps => if f p then some (p, ps) else (takeParked f ps).map fun r => (r.1, p :: r.2)

/-- Consume waits parked on a counter are satisfied in their order of arrival while the counter covers the oldest
(R362). -/
def State.consumeAll : Nat → State → Nat → Nat → State
  | 0, s, _, _ => s
  | n + 1, s, k, i =>
    match takeParked (fun p => p.obj == .counter k i && p.consume) s.parked with
    | none => s
    | some (p, rest) =>
      if p.amount ≤ s.counter k i then
        State.consumeAll n ((({ s with parked := rest } : State).setFld (aSCNT k i) SCNT.VALUE (s.counter k i - p.amount)).releaseWait p) k i
      else s

/-- Judge the waits parked on a counter after an operation changed it: observe waits and notifications against the
value produced, then the consume waits (R362). -/
def State.judge (s : State) (k i : Nat) : State :=
  let v := s.counter k i
  let hit (p : Parked) : Bool := p.obj == .counter k i && !p.consume && decide (p.amount ≤ v)
  let ps := s.parked.filter hit
  let s := ({ s with parked := s.parked.filter fun p => !hit p } : State).forAll ps fun s p => s.releaseWait p
  let s := s.notify (.counter k i) fun a => decide (a ≤ v)
  (State.consumeAll s.parked.length s k i).parkStat (.counter k i)

/-- A counter takes a value, and its waits are judged. -/
def State.setCounter (s : State) (k i v : Nat) : State := (s.setFld (aSCNT k i) SCNT.VALUE v).judge k i

/-- Waits parked in a cluster (R363). -/
def State.parkedIn (s : State) (k : Nat) : Nat :=
  (s.parked.filter fun p => match p.obj with | .counter k' _ => k' == k | _ => false).length

/-- A wait at its counter: satisfied, or parked, or at a full cluster held at its input, where it has no place yet in the order of the
consume waits (R152, R362, R363). -/
def State.waitAt (s : State) (p : Parked) (k i : Nat) : State :=
  let v := s.counter k i
  let behind := p.consume && s.parked.any fun q => q.obj == p.obj && q.consume
  if p.amount ≤ v ∧ ¬ behind then
    let s := if p.consume then s.setFld (aSCNT k i) SCNT.VALUE (v - p.amount) else s
    s.releaseWait p
  else if s.parkedIn k < 512 then ({ s with parked := s.parked ++ [p] } : State).parkStat p.obj
  else { s with inputs := s.inputs ++ [p] }

/-- Take an operation on its way, where it is of the kinds asked for. -/
def State.takeSync (s : State) (id : Nat) (f : SyncOp → Bool) : Option (SyncOp × State) :=
  (s.sync.find? fun o => o.id == id && f o).map fun o => (o, { s with sync := s.sync.filter (·.id ≠ id) })

/-- The answer of a read sets out. -/
def State.reply (s : State) (o : SyncOp) (t : Thr) (key rt v : Nat) : State :=
  s.sendSync o.who o.core o.obj (.reply t key rt v) o.slot o.pc o.priv

/-- An add at its counter: applied and judged, or a sync error (R360, R361). -/
def State.addAt (s : State) (o : SyncOp) (k i : Nat) (v : Int) (ret : Option (Thr × Nat × Nat)) : State :=
  let old := s.counter k i
  let new := (old : Int) + v
  let key := ret.map (·.2.1)
  if new < 0 then s.syncError o 1 old v key
  else if 2 ^ 32 ≤ new then s.syncError o 2 old v key
  else
    let s := s.setCounter k i new.toNat
    match ret with
    | some (t, key, rt) => s.reply o t key rt old
    | none => s

/-- COUNTER_SIGNAL: a signal, add or read reaches its counter (R153, R360-R362). -/
def execCounterSignal (id : Nat) (s : State) : Out :=
  s.done (match s.takeSync id fun o => match o.kind, o.obj with
      | .add _, .counter _ _ | .addReturn .., .counter _ _ | .read .., .counter _ _ => true
      | _, _ => false with
  | none => s
  | some (o, s) =>
    match o.obj with
    | .barrier _ => s
    | .counter k i =>
      match o.kind with
      | .add v => s.addAt o k i v none
      | .addReturn t key rt v => s.addAt o k i v (some (t, key, rt))
      | .read t key rt => s.reply o t key rt (s.counter k i)
      | _ => s)

/-- COUNTER_WAIT: a wait reaches its counter (R152, R362, R363). -/
def execCounterWait (id : Nat) (s : State) : Out :=
  s.done (match s.takeSync id fun o => match o.kind, o.obj with
      | .wait _ _, .counter _ _ => true
      | _, _ => false with
  | none => s
  | some (o, s) =>
    match o.obj, o.kind with
    | .counter k i, .wait n consume => s.waitAt ⟨o.who, o.obj, n, consume⟩ k i
    | _, _ => s)

/-- PARKED_WAIT_ADMIT: an entry has freed, and the first wait held at the cluster's input takes its place (R363). -/
def execParkedWaitAdmit (k : Cluster) (s : State) : Out :=
  s.done (match takeParked (fun p => match p.obj with | .counter k' _ => k' == k.val | _ => false) s.inputs with
  | none => s
  | some (p, rest) =>
    if s.parkedIn k < 512 then
      match p.obj with
      | .counter k' i => ({ s with inputs := rest } : State).waitAt p k' i
      | .barrier _ => s
    else s)

/-! Withdrawal -/

/-- Whether a sync operation is a wait of the one asked about, or its release. -/
def SyncOp.waits (o : SyncOp) (who : Waiter) : Bool :=
  o.who == who && match o.kind with
    | .wait _ _ | .barrierWait | .release _ => true
    | _ => false

/-- Whether a wait of a thread, channel or ring is under way at its object. -/
def State.waiting (s : State) (who : Waiter) : Bool :=
  s.parked.any (·.who == who) || s.inputs.any (·.who == who) || s.sync.any (·.waits who)

/-- The wait is withdrawn; whether a consume had already been satisfied (R364). -/
def State.withdraw (s : State) (who : Waiter) : Bool × State :=
  let passed := s.sync.any fun o => o.waits who && o.kind == .release true
  let objs := (s.parked.filter (·.who == who)).map (·.obj)
  let s : State := { s with
    parked := s.parked.filter (·.who != who)
    inputs := s.inputs.filter (·.who != who)
    sync := s.sync.filter fun o => !o.waits who }
  (passed, s.forAll objs fun s o => s.parkStat o)

/-- A thread's instruction has passed its wait: it issues before anything is taken (R364). -/
def Thread.passWait (th : Thread) : Thread :=
  { th with waitPassed := true, gate := tabIns th.gate th.depth (th.wordAddr, none) }.wake

/-! Barriers -/

/-- A phase of a unit completes: PHASE rises, the arrival mask clears, and every parked wait and notification of
that phase is released (R367, R370). -/
def State.completePhase (s : State) (u : Nat) : State :=
  let ph := s.phase u
  let s := (s.setFld (aBU1 u) BU1.PHASE (ph + 1)).setMask (aARR u) fun _ => false
  let ps := s.parked.filter (·.obj = .barrier u)
  let s := ({ s with parked := s.parked.filter (·.obj ≠ .barrier u) } : State).forAll ps fun s p => s.releaseWait p
  (s.notify (.barrier u) fun a => decide (a ≤ ph)).parkStat (.barrier u)

/-- Whether every participant of a unit has arrived. -/
def State.allArrived (s : State) (u : Nat) : Bool :=
  (List.range 16).all fun w => s.reg (aARR u w) == s.reg (aMASK u w)

/-- A core's arrival (R367). -/
def State.arriveAt (s : State) (o : SyncOp) (u : Nat) : State :=
  match s.activeOf o.core with
  | none => s.syncError o 3 (s.phase u) 0 none
  | some j =>
    if s.mask (aARR u) j || !s.mask (aMASK u) j then s.syncError o 3 (s.phase u) 0 none
    else
      let s := s.modCore o.core fun q => { q with lastArr := tabIns q.lastArr u (s.phase u + 1) }
      let s := s.setReg (aARR u (j / 64)) (s.reg (aARR u (j / 64)) ||| BitVec.ofNat 64 (2 ^ (j % 64)))
      if s.allArrived u then s.completePhase u else s

/-- A unit's participant mask is set, or the request refused (R366). -/
def State.configAt (s : State) (o : SyncOp) (u first last stride : Nat) : State :=
  match s.image o.slot with
  | none => s
  | some im =>
    let busy := (List.range 16).any fun w => s.reg (aARR u w) != 0
    if busy ∨ last < first ∨ im.k ≤ last ∨ stride = 0 then s.syncError o 4 (s.phase u) 0 none
    else
      let ws := (List.range ((last - first) / stride + 1)).map (first + stride * ·)
      let js := ws.filterMap fun w => (im.core w).bind s.activeOf
      s.setMask (aMASK u) fun j => js.contains j

/-- BARRIER_ARRIVAL: an arrival, a configuration or a read of PHASE reaches its unit (R366, R367). -/
def execBarrierArrival (id : Nat) (s : State) : Out :=
  s.done (match s.takeSync id fun o => match o.kind, o.obj with
      | .arrive, .barrier _ | .config .., .barrier _ | .barrierRead .., .barrier _ => true
      | _, _ => false with
  | none => s
  | some (o, s) =>
    match o.obj with
    | .counter _ _ => s
    | .barrier u =>
      match o.kind with
      | .arrive => s.arriveAt o u
      | .config first last stride => s.configAt o u first last stride
      | .barrierRead t key rt => s.reply o t key rt (s.phase u)
      | _ => s)

/-- BARRIER_WAIT: a wait reaches its unit: for the phase in which its core last arrived, else the current one
(R368). -/
def execBarrierWait (id : Nat) (s : State) : Out :=
  s.done (match s.takeSync id fun o => match o.kind, o.obj with
      | .barrierWait, .barrier _ => true
      | _, _ => false with
  | none => s
  | some (o, s) =>
    match o.obj with
    | .counter _ _ => s
    | .barrier u =>
      let last := tabGet 0 (s.core o.core).lastArr u
      let ph := if last = 0 then s.phase u else last - 1
      let p : Parked := ⟨o.who, o.obj, ph, false⟩
      if ph < s.phase u then s.releaseWait p
      else ({ s with parked := s.parked ++ [p] } : State).parkStat o.obj)

/-! Sync instructions -/

/-- A sync instruction of function `fn`: its SC register must be of its kind and name an allocated object, else
sync error 0x07 precisely (R372). `named`: how many operand bits the table names. -/
def State.syncIssue (s : State) (c : CoreId) (t : Thr) (w : Word) (fn named : Nat) (kind : Option Nat) (regs : List Nat)
    (body : SyncObj → Word → Nat → State → State × Res) : State :=
  s.issue c t w (fun w => wMajor w == 0x61 && xFn w == fn)
    (fun _ => checks [(xOp w / named != 0, 0x03), (!isD (xReg w), 0x04)]) regs
    fun key s =>
      let sc := (s.thr c t).readSC (xOp w % 4)
      match s.scObj c sc with
      | none => (s, .fault 0x07 0 0 false)
      | some obj =>
        if kind.any (· != SC.KIND.get sc) then (s, .fault 0x07 0 0 false) else body obj sc key s

/-- A register is owed to an operation under its key (R144). -/
def Thread.owe (th : Thread) (rt key : Nat) : Thread := { th with owed := th.owed ++ [(rt, key)] }

/-- The flight key of a launched instruction whose body was given `key`. -/
def State.askSync (s : State) (c : CoreId) (t : Thr) (obj : SyncObj) (kind : SyncKind) (rt key : Nat) : State × Res :=
  (((s.sendSync (.thread c t) c obj kind (s.slotOf c) (s.thr c t).wordAddr (s.thr c t).priv).modThr c t (·.owe rt key)), .launched none)

/-- SCADD (R360). -/
def execScadd (c : CoreId) (t : Thr) (w : Word) (s : State) : Out :=
  s.done (s.syncIssue c t w 0x00 8 (some 0) [xReg w]
    fun obj _ key s =>
      let v := sext 32 ((s.thr c t).readReg (xReg w)).toNat
      if bit (xOp w) 2 then s.askSync c t obj (.addReturn t key (xReg w) v) (xReg w) key
      else (s.sendSync (.thread c t) c obj (.add v) (s.slotOf c) (s.thr c t).wordAddr (s.thr c t).priv, .due))

/-- SCRD (R360). -/
def execScrd (c : CoreId) (t : Thr) (w : Word) (s : State) : Out :=
  s.done (s.syncIssue c t w 0x01 4 (some 0) [xReg w]
    fun obj _ key s => s.askSync c t obj (.read t key (xReg w)) (xReg w) key)

/-- SNOTE: arm or disarm the thread's notification; armed on an object that has reached it, it fires at once
(R370). -/
def execSnote (c : CoreId) (t : Thr) (w : Word) (s : State) : Out :=
  s.done (s.syncIssue c t w 0x02 8 none []
    fun obj sc _ s =>
      let s := s.modThr c t fun th => { th with notif := none }
      if bit (xOp w) 2 then (s, .due)
      else
        let n : Notif := match obj with
          | .counter _ _ => ⟨obj, SC.WAIT_N.get sc⟩
          | .barrier u => ⟨obj, s.phase u⟩
        let now := match obj with
          | .counter k i => decide (n.amount ≤ s.counter k i)
          | .barrier _ => false
        (if now then s.interrupt c t 0x23 else s.modThr c t fun th => { th with notif := some n }, .due))

/-- BCFG: the participant mask from reg (R366). -/
def execBcfg (c : CoreId) (t : Thr) (w : Word) (s : State) : Out :=
  s.done (s.syncIssue c t w 0x03 4 (some 1) [xReg w]
    fun obj _ _ s =>
      let v := (s.thr c t).readReg (xReg w)
      (s.sendSync (.thread c t) c obj (.config (wb v 9 0) (wb v 25 16) (wb v 41 32)) (s.slotOf c) (s.thr c t).wordAddr (s.thr c t).priv, .due))

/-- BSTAT: reg = PHASE (R372). -/
def execBstat (c : CoreId) (t : Thr) (w : Word) (s : State) : Out :=
  s.done (s.syncIssue c t w 0x04 4 (some 1) [xReg w]
    fun obj _ key s => s.askSync c t obj (.barrierRead t key (xReg w)) (xReg w) key)

end Sys2Proof.Machine
end

