-- ==== Sys2Proof/Machine/Threads.lean ====
section
/-! DEFINITION. Threads: the end of a core's part (R199, R331), lockup (R212, R213), the TSB frame (R208),
exception entry and return (R202-R211), TSTART, TEXIT, thread switching (R190, R193), the countdown
(R194), and the completion of a signalling instruction (R147, R150). -/

namespace Sys2Proof.Machine

/-! The end of a core's part -/

/-- Every dirty byte of a core's data cache is written back and its caches hold nothing (R331). -/
def State.flushCore (s : State) (c : CoreId) : State :=
  let s := s.forAll (s.core c).dcache.lines fun s (_, l) => match l with
    | some l => s.writeBack c none l
    | none => s
  s.modCore c fun q => { q with
    dcache := { lines := [], plru := [] }, icache := { lines := [], plru := [] }, side := [] }

/-- The vector of a thread that is FAULTED or LOCKED. -/
def Core.faultVector (q : Core) (t : Thr) : Nat :=
  if q.thr[t].st = .locked then q.lock.toNat / 256 % 64 else EXC_INFO.VECTOR.get q.thr[t].excInfo

/-- The first thread of a core that is FAULTED or LOCKED; in a lockup the thread that locked up. -/
def Core.faulted (q : Core) : Option Thr :=
  if q.lock ≠ 0 then some (Fin.ofNat 4 (q.lock.toNat / 2 % 4))
  else threads.find? fun t => q.thr[t].st == .faulted

/-- A core's part of an invocation ends when no thread of it is RUNNING, READY, STALLED or HALTED (R199): its
queues close (R343), its caches are flushed (R331), and a fault is the image's first where none came before
(R468). -/
def State.partCheck (s : State) (c : CoreId) : State :=
  let q := s.core c
  let live := threads.any fun t => [TState.running, .ready, .stalled, .halted].contains q.thr[t].st
  match s.boundTo c with
  | none => s
  | some (slot, w) =>
    if live || q.partEnd.isSome || !(s.image slot).any (·.active) then s
    else
      let f := q.faulted.map fun t => (t, q.faultVector t)
      let s := s.modCore c fun q => { q with partEnd := some f }
      let s := (s.closeAll c).flushCore c
      match f with
      | some (_, v) => s.modImage slot fun i =>
          if i.firstFault.isNone then { i with firstFault := some (w, v) } else i
      | none => s

/-! Lockup -/

/-- LOCKUP_N asserts, and LOCKUP_STAT names the first lockup since VALID was cleared (R212, R213). -/
def State.noteLockup (s : State) (c t vec reason : Nat) : State :=
  let s := if s.flag aLOCKUP_STAT LOCKUP_STAT.VALID then s else
    ((((s.setFld aLOCKUP_STAT LOCKUP_STAT.CORE c).setFld aLOCKUP_STAT LOCKUP_STAT.THREAD t).setFld
      aLOCKUP_STAT LOCKUP_STAT.VECTOR vec).setFld aLOCKUP_STAT LOCKUP_STAT.REASON reason).setFld
      aLOCKUP_STAT LOCKUP_STAT.VALID 1
  let s := s.incFld aLOCKUP_STAT LOCKUP_STAT.COUNT 1
  { s with pins := { s.pins with lockup := true } }

/-- The core locks up: its threads become LOCKED, the event is recorded, its queues close, and Ahnal ends the
invocation with FAULTED (R212, R213). -/
def State.lockup (s : State) (c : CoreId) (t : Thr) (vec reason : Nat) : State :=
  let h := ((s.image (s.slotOf c)).map (·.handle)).getD 0
  let s := s.forAll threads fun s t => (s.withdraw (.thread c t)).2
  let s := s.modCore c fun q => { q with
    lock := BitVec.ofNat 64 (1 + t.val * 2 + vec * 2 ^ 8 + reason * 2 ^ 16)
    thr := q.thr.map fun th => { th with st := .locked, stall := .none } }
  let s := (s.incFld (aCORE_ERR c) CORE_ERR.LOCKUPS 1).noteLockup c t vec reason
  let s := (s.logErr 0x0301 0x01 c 1 h reason vec).closeAll c
  let s := match s.boundTo c with
    | some (slot, _) => s.modImage slot fun i => if i.ending = Ending.none then { i with ending := .faulted } else i
    | none => s
  s.partCheck c

/-! The TSB frame -/

/-- 8-byte words as bytes. -/
def words (l : List Word) : List Byte := l.flatMap fun w => toBytes 8 w.toNat

/-- An address as a register word. -/
def addrWord (a : Addr) : Word := a.setWidth 64

/-- The frame an entry writes (R208): `info` and `va` are the exception's EXC_INFO and fault address. -/
def Thread.frame (th : Thread) (savedPc : Addr) (info : Word) (va : Nat) : List Byte :=
  words ([savedPc.setWidth 64, th.tstatus, info, BitVec.ofNat 64 va, th.flags, th.arith, th.fpctl,
      th.lfsr.setWidth 64, th.repcnt, th.rplstat, th.lstat, th.rsctl] ++
    th.lc.toList.map (fun x => x.setWidth 64) ++ (th.ls.toList ++ th.le.toList).map addrWord ++
    [th.tlprog] ++ th.sc.toList ++ List.replicate 6 0 ++ th.d.toList ++ th.a.toList.map addrWord ++
    th.m.toList ++ th.p.toList ++ th.compose.toList ++
    (th.rstack.map addrWord ++ List.replicate 16 0).take 16 ++ th.replay.toList)

/-- Bytes of a frame. -/
def frameSize : Nat := 0x500

/-- A word of a frame. -/
def frameWord (f : List Byte) (o : Nat) : Word := BitVec.ofNat 64 (field f o 8)

/-- A word of a restored register: RSV bits and encodings not listed are ignored (R210). -/
def fieldsRestore (fs : List Field) (old new : Word) : Word :=
  fs.foldl (fun w f => if f.isListed (f.get new) then f.put w (f.get new) else w) old

/-- Load every restored field of a frame, TSTATUS.DEPTH one less, and raise TSBP (R208, R210). -/
def Thread.restore (th : Thread) (f : List Byte) : Thread :=
  let w := frameWord f
  let depth := th.depth - 1
  let rs := fieldsRestore [RSCTL.MODE, RSCTL.UNDER, RSCTL.DEPTH] th.rsctl (w 0x058)
  let n := min 16 (RSCTL.DEPTH.get rs)
  { th with
    pc := loopAddr (w 0x000)
    tstatus := TSTATUS.DEPTH.put (fieldsRestore TSTATUS 0 (w 0x008)) depth
    fpctl := fieldsRestore FPCTL th.fpctl (w 0x030)
    lfsr := (fieldsRestore LFSR (th.lfsr.setWidth 64) (w 0x038)).setWidth 32
    repcnt := fieldsRestore REPCNT 0 (w 0x040)
    rplstat := fieldsRestore RPLSTAT 0 (w 0x048)
    lstat := fieldsRestore LSTAT 0 (w 0x050)
    rsctl := RSCTL.DEPTH.put rs n
    lc := Vector.ofFn fun i => (w (0x060 + 8 * i)).setWidth 32
    ls := Vector.ofFn fun i => loopAddr (w (0x078 + 8 * i))
    le := Vector.ofFn fun i => loopAddr (w (0x090 + 8 * i))
    tlprog := fieldsRestore TLPROG 0 (w 0x0A8)
    sc := Vector.ofFn fun i => fieldsWrite SC 0 (w (0x0B0 + 8 * i))
    d := Vector.ofFn fun i => w (0x100 + 8 * i)
    a := Vector.ofFn fun i => (w (0x200 + 8 * i)).setWidth 48
    m := Vector.ofFn fun i => w (0x280 + 8 * i)
    p := Vector.ofFn fun i => w (0x300 + 8 * i)
    compose := Vector.ofFn fun i => w (0x340 + 8 * i)
    rstack := (List.range n).map fun i => loopAddr (w (0x380 + 8 * i))
    replay := Vector.ofFn fun i => w (0x400 + 8 * i)
    tsbp := TSBP.OFFSET.put th.tsbp (TSBP.OFFSET.get th.tsbp + 5) }

/-- The address of the frame at TSBP. -/
def Thread.frameAt (th : Thread) (c : Nat) : Nat := coreMemBase c + TSBP.OFFSET.get th.tsbp * 256

/-! Exception entry -/

/-- Matrix, vector, load and returning-atomic work of the thread has completed, and its tile loads and stores
stand at a row boundary (R209 step 2). -/
def State.drained (s : State) (c : CoreId) (t : Thr) : Bool :=
  let q := s.core c
  q.thr[t].owed.isEmpty &&
  !q.unitBusy t &&
  !s.txns.any fun x => x.src == .thread c t && match x.purpose with
    | .tileRow .. => true
    | _ => false

/-- The imprecise exception of lowest vector that waits, with the PC and privilege that EXC_INFO names (R201, R203, R205, R206). -/
def Thread.firstImprecise (th : Thread) : Option PendExc :=
  let l := (if ARITH.PEND.get th.arith = 1 then
      [PendExc.mk 0x06 (BitVec.ofNat 48 (ARITH.SRC_PC.get th.arith)) th.pendPriv] else []) ++ th.imprecise
  l.foldl (fun b e => match b with
    | some x => if e.vector < x.vector then some e else some x
    | none => some e) none

/-- What the thread takes at this acceptance point (R205): a precise fault or trap of its instruction, else the
first imprecise exception, else the lowest enabled interrupt, else the single-step trap. -/
def Thread.taken (th : Thread) : Option PendEntry :=
  let later : Option PendEntry :=
    if th.waitPassed then none
    else match th.firstImprecise with
      | some x => some ⟨x.vector, 0, th.pc, x.pc, true, x.priv⟩
      | none => match th.takeable with
        | some v => some ⟨v, 0, th.pc, th.pc, false, th.priv⟩
        | none => th.stepTrap.map fun x => ⟨0x0D, 0, th.pc, x.1, false, x.2⟩
  match th.entry with
  | some e => some e
  | none => later

/-- The exception no longer waits: entry, imprecise list, PEND and IPEND (R204, R209 step 6). -/
def Thread.clearTaken (th : Thread) (e : PendEntry) : Thread :=
  let th : Thread := if th.entry = some e then { th with entry := none }
    else if e.vector = 0x0D then { th with stepTrap := none } else th
  if e.vector = 0x06 then { th with arith := ARITH.PEND.put th.arith 0 }
  else if e.imprecise then
    { th with imprecise := th.imprecise.eraseP fun x => x.vector = e.vector ∧ x.pc = e.excPc }
  else if 0x21 ≤ e.vector then { th with ipend := th.ipend &&& ~~~ BitVec.ofNat 64 (2 ^ (e.vector - 0x20)) }
  else th

/-- The EXC_INFO word of an exception (R209). -/
def PendEntry.info (e : PendEntry) : Word :=
  BitVec.ofNat 64 (e.vector + e.cause * 2 ^ 8 + b2n e.imprecise * 2 ^ 12 + e.priv * 2 ^ 13 +
    e.excPc.toNat * 2 ^ 16)

/-- Step 6: the new state of the thread that enters a handler of descriptor words d0, d1 (R209). -/
def Thread.enterHandler (th : Thread) (d0 d1 : Word) (vec : Nat) : Thread :=
  let ts := TSTATUS.SS.put (TSTATUS.PRIV.put th.tstatus (wb d0 49 49)) 0
  let ts := if wb d0 50 50 = 1 then TSTATUS.IE.put ts 0 else ts
  let th : Thread := { th with
    tstatus := ts
    pc := loopAddr (BitVec.ofNat 64 (wb d0 47 0))
    lstat := 0
    repcnt := 0
    rplstat := RPLSTAT.ACTIVE.put (RPLSTAT.IDX.put th.rplstat 0) 0
    rsctl := RSCTL.DEPTH.put th.rsctl 0
    rstack := []
    entering := some vec }
  if wb d0 52 52 = 1 then th else th.writeA 15 (BitVec.ofNat 48 (wb d1 47 0))

/-- A debug step ends after an entry (R539). -/
def Thread.stepEntered (th : Thread) : Thread :=
  if th.stepping then { th with stepping := false, haltReq := true, halt := .step } else th

/-- A request phase stops at a row boundary: TLPROG holds its next row, the palette latch is cleared, and for its
flag the instruction counts as complete (R235, R247, R249). The header of TCTXS follows slot 23, row 31. -/
def State.stopPhase (s : State) (c : CoreId) (t : Thr) : State :=
  match (s.thr c t).phase with
  | none => s
  | some ph =>
    let (slot, row) := if ph.slot = 24 then (23, 31) else (ph.slot, ph.row)
    let s := s.modThr c t fun th => { th with
      phase := none
      tlprog := BitVec.ofNat 64 (row + slot * 2 ^ 5 + 2 ^ 10 + ph.kind * 2 ^ 11 + b2n ph.hdr * 2 ^ 13)
      tileOps := th.tileOps.filter fun o => o.key ≠ ph.key || !o.rows.isEmpty
      gate := (match th.gateHere with
        | some (some _) => tabIns th.gate th.depth (th.wordAddr, none)
        | _ => th.gate)
      flights := th.flights.map fun f =>
        if f.key = ph.key ∨ th.gateHere = some (some f.key) then
          { f with more := false, signal := if 12 ≤ f.signal then 0 else f.signal } else f }
    s.land c t ph.key

/-- Exception entry: steps 3 to 7, or the lockup of the step that fails; a fault routed to thread 0 ends FAULTED
(R204, R209, R212). -/
def State.enter (s : State) (c : CoreId) (t : Thr) (e : PendEntry) : State × MemUpd :=
  let th := s.thr c t
  let desc := coreMemBase c + DTBASE.OFFSET.get (s.core c).dtbase * 1024 + e.vector * 16
  let d0 := BitVec.ofNat 64 (s.load desc 8)
  let d1 := BitVec.ofNat 64 (s.load (desc + 8) 8)
  let base := TSBP.OFFSET.get th.tsbp
  if 255 ≤ th.depth ∨ base < TSBP.OFFSET.get th.tsblim + 5 then (s.lockup c t e.vector 3, .none)
  else if s.isPoisoned desc 16 then (s.lockup c t e.vector 2, .none)
  else if wb d0 48 48 = 0 then (s.lockup c t e.vector 1, .none)
  else
    let info := e.info
    let va := if e.vector = 2 ∨ e.vector = 3 ∨ e.vector = 4 then TR_FAULT.VA.get th.trFault else 0
    let at_ := coreMemBase c + (base - 5) * 256
    let (s, u) := s.writeHome (runOf at_ (th.frame e.savedPc info va))
    if s.failed.any fun w => decide (at_ / 8 ≤ w ∧ w < (at_ + frameSize) / 8) then (s.lockup c t e.vector 4, u)
    else
      let s := s.modThr c t fun th =>
        let th := th.clearTaken e
        { th with
          excInfo := info
          waitPassed := false
          tsbp := TSBP.OFFSET.put th.tsbp (base - 5)
          gate := tabDel th.gate (th.depth + 1)
          tstatus := TSTATUS.DEPTH.put th.tstatus (th.depth + 1) }
      if 2 ≤ e.vector ∧ e.vector ≤ 0x0B ∧ t ≠ 0 ∧ wb d0 51 51 = 0 then
        let s := s.modThr c t fun th => { th with st := .faulted, stall := .none }
        let s := s.modCore c fun q =>
          let f := THREAD_FAULT.NEW.put q.threadFault (THREAD_FAULT.NEW.get q.threadFault ||| 2 ^ (t.val - 1))
          let v := if t = 1 then THREAD_FAULT.VECTOR1 else if t = 2 then THREAD_FAULT.VECTOR2 else THREAD_FAULT.VECTOR3
          { q with threadFault := v.put f e.vector }.followNew
        (s.partCheck c, u)
      else
        ((s.modThr c t fun th => (th.enterHandler d0 d1 e.vector).stepEntered).act c, u)

/-- EXCEPTION_ENTRY: the thread that holds the issue stage takes what waits for it, once its work has drained and
no sync wait of it is outstanding; a halt it has been asked for comes before an interrupt and an imprecise exception; an
exception in the fetch of a handler's first instruction locks the core (R202-R209, R212, R364, R536, R540). -/
def execExceptionEntry (c : CoreId) (t : Thr) (s : State) : Out :=
  s.doneMem (
    let th := s.thr c t
    if th.st ≠ .running || s.waiting (.thread c t) || !s.drained c t then (s, .none)
    else match th.entering, th.entry with
      | some v, some _ => (s.lockup c t v 5, .none)
      | some _, none => (s, .none)
      | none, _ =>
        if th.haltReq && th.entry.isNone then (s, .none)
        else match th.taken with
        | some e => (s.stopPhase c t).enter c t e
        | none => (s, .none))

/-! Return -/

/-- Whether the frame at TSBP holds poison. -/
def State.framePoisoned (s : State) (c : Nat) (th : Thread) : Bool := s.isPoisoned (th.frameAt c) frameSize

/-- RTE: restore from the frame at TSBP and continue at the saved PC; poison locks the core (R201, R210, R212). -/
def execRte (c : CoreId) (t : Thr) (w : Word) (s : State) : Out :=
  s.done (s.sysIssue c t w 0x05
    (fun th => checks [(xReg w != 0 || xOp w != 0, 0x03), (th.depth == 0, 0x05),
      (!th.super && !s.framePoisoned c th && TSTATUS.PRIV.get (BitVec.ofNat 64 (s.load (th.frameAt c + 8) 8)) == 1, 0x06)]) []
    fun key s =>
      let th := s.thr c t
      if s.framePoisoned c th then (s.lockup c t 0 6, .set)
      else
        let f := s.bytes (th.frameAt c) frameSize
        ((s.finish c t (wSig w) key .now).modThr c t fun q =>
          { q.restore f with gate := tabDel q.gate th.depth }, .set))

/-! Starting and ending threads -/

/-- A thread started: registers at their start values (R137, R197, R198). -/
def Thread.start (pc a15 d0 d1 d2 : Word) (tsbp tsblim : Nat) (priv : Bool) : Thread :=
  { Thread.reset with
    st := .ready
    pc := loopAddr pc
    tstatus := TSTATUS.PRIV.put 0 (b2n priv)
    tsbp := BitVec.ofNat 64 tsbp
    tsblim := BitVec.ofNat 64 tsblim
    a := (Thread.reset.a).set 15 (a15.setWidth 48)
    d := (((Thread.reset.d).set 0 d0).set 1 d1).set 2 d2 }

/-- The limits of TSBP and TSBLIM (R195, R198). -/
def tsbOk (tsbp tsblim : Nat) : Bool :=
  tsbp % 256 == 0 && tsblim % 256 == 0 && decide (tsbp ≤ 0x8_0000) && decide (tsblim < tsbp)

/-- The queues a thread reads reopen where they are closed (R343). -/
def State.reopen (s : State) (c : Nat) (t : Thr) : State :=
  s.forAll (queues.filter fun q => s.reader c q == t && (s.queue c q).closed) fun s q => s.openQueue c q

/-- TSTART for one thread: started or resumed, or left as it is (R198); poison in a resumed frame locks the core. -/
def State.tstartOne (s : State) (c : CoreId) (t : Thr) (resume : Bool) : State × Bool :=
  let q := s.core c
  let th := q.thr[t]
  if resume then
    if th.st = .faulted then
      if s.framePoisoned c th then (s.lockup c t 0 6, false)
      else
        let f := s.bytes (th.frameAt c) frameSize
        (s.modThr c t fun th => { th.restore f with st := .ready, gate := tabDel th.gate th.depth }, true)
    else (s, false)
  else
    let b := q.tstsb[t]
    if [TState.notStarted, .exited, .faulted].contains th.st && tsbOk (wb b 31 0) (wb b 63 32) then
      ((s.modThr c t fun _ => Thread.start q.tspc[t] q.tssp[t] q.tsarg[t] 0 0 (wb b 31 0) (wb b 63 32)
        (q.tspriv.getLsbD t.val)).reopen c t, true)
    else (s, false)

/-- TSTART (R198). -/
def execTstart (c : CoreId) (t : Thr) (w : Word) (s : State) : Out :=
  s.done (s.sysIssue c t w 0x06
    (fun th => checks [(xOp w / 32 != 0 || xOp w % 2 != 0, 0x03), (!isD (xReg w), 0x04), (t != 0 || !th.super, 0x06)])
    [xReg w]
    fun _ s =>
      let (s, got) := ([1, 2, 3] : List Thr).foldl (fun (r : State × Nat) u =>
        if bit (xOp w) u.val then
          let (s, ok) := r.1.tstartOne c u (bit (xOp w) 4)
          (s, if ok then r.2 + 2 ^ u.val else r.2)
        else r) (s, 0)
      if (s.core c).lock ≠ 0 then (s, .set)
      else (s.modThr c t (·.writeReg (xReg w) (BitVec.ofNat 64 got)), .now))

/-- TEXIT: once everything the thread issued has completed and been performed it is EXITED, the queues it reads
close, and the core's part may have ended; what waits to be taken at that moment is taken first (R199, R343). -/
def execTexit (c : CoreId) (t : Thr) (w : Word) (s : State) : Out :=
  s.done (s.sysIssue c t w 0x07 (fun _ => checks [(xReg w != 0 || xOp w != 0, 0x03)]) []
    fun key s =>
      if s.outstanding c t || !(s.thr c t).flights.isEmpty || (s.thr c t).pending then (s, .held)
      else
        let s := (s.finish c t (wSig w) key .now).modThr c t fun th => { th with st := .exited, stall := .none, entry := none }
        ((s.closeRead c t).partCheck c, .set))

/-! Switching -/

/-- The threads in the order of replacement after thread t (R190). -/
def after (t : Thr) : List Thr := [t + 1, t + 2, t + 3, t]

/-- THREAD_SWITCH: with the issue stage free the thread that became READY first takes it, or the first READY one in order where several
were READY as it became free; else a READY thread that is URGENT
and may take a pending interrupt replaces the running one at its acceptance point (R190, R193). -/
def execThreadSwitch (c : CoreId) (s : State) : Out :=
  s.done (
    let q := s.core c
    let put (s : State) (t : Thr) : State :=
      (s.modThr c t fun th => { th with st := .running, stall := .none }).modCore c fun q => { q with lastIssue := t, next := none }
    match q.running with
    | none =>
      match (q.next.filter fun t => q.thr[t].st == .ready).or ((after q.lastIssue).find? fun t => q.thr[t].st == .ready) with
      | some t => put s t
      | none => s
    | some r =>
      let th := q.thr[r]
      if th.entry.isSome || th.entering.isSome || th.waitPassed || q.unitBusy r then s
      else match ((after r).dropLast).find? fun t =>
          q.thr[t].st == .ready && TSTATUS.URGENT.get q.thr[t].tstatus == 1 && q.thr[t].takeable.isSome with
        | some t => put (s.modThr c r fun th => { th with st := .ready }) t
        | none => s)

/-- HSCD_EXPIRY: the countdown reaches 0; with EN = 1 0x25 becomes pending (R194). -/
def execHscdExpiry (c : CoreId) (t : Thr) (s : State) : Out := s.done (s.hscdTo c t 0)

/-- INSTRUCTION_COMPLETE: an instruction whose work is done completes; its signal fires (R147, R150). -/
def execInstructionComplete (c : CoreId) (t : Thr) (k : Nat) (s : State) : Out :=
  s.done (if ((s.thr c t).flights.find? (·.key = k)).any (·.due) then s.land c t k else s)

end Sys2Proof.Machine
end

