-- ==== Sys2Proof/Machine/MemInstr.lean ====
section
/-! DEFINITION. Memory instructions: loads and stores (R158-R161), prefetch (R163), cache maintenance by address
(R325, R326), atomics (R119-R121, R162), and what a core may reach in control space (R102). -/

namespace Sys2Proof.Machine

/-- Bytes of a load or store kind (R158). -/
def kindSize (k : Nat) : Nat := [1, 2, 4, 8, 1, 2, 4].getD k 1

/-- The value a load of a kind writes (R158). -/
def loadValue (k : Nat) (bs : List Byte) : Word :=
  let v := ofBytes bs
  if 4 ≤ k then BitVec.ofInt 64 (sext (8 * kindSize k) v) else BitVec.ofNat 64 v

/-- A word with `n` bytes from byte `o` on replaced. -/
def mergeWord (old : Word) (o n : Nat) (v : Word) : Word :=
  BitVec.ofNat 64 (ofBytes (((toBytes 8 old.toNat).take o ++ toBytes n v.toNat ++ (toBytes 8 old.toNat).drop (o + n)).take 8))

/-- Whether a word may not enter the handler table of a core: in a Guaranteed image an entry with V = 1 outside the pinned-code page
(R349). -/
def State.handlerBad (s : State) (c o : Nat) (v : Word) : Bool :=
  decide (0x3400 ≤ o ∧ o < 0x3600) && HENT.V.get v == 1 && ((s.boundTo c).any fun (k, _) => (s.image k).any fun i => !i.elastic) &&
    !(decide (pinnedPage ≤ HENT.HANDLER.get v * 8 ∧ HENT.HANDLER.get v * 8 < pinnedPage + 0x1_0000))

/-- Whether a thread's read or write of its own control block at an offset is not allowed (R101, R102, R215, R319, R349, R375, R377). A
write of part of a handler entry is judged when it is performed (R349). -/
def State.ctrlDenied (s : State) (c : CoreId) (t : Thr) (o : Nat) (write : Bool) (size : Nat) (v : Word) : Bool :=
  let sup := (s.thr c t).super
  let area := o / 0x1000
  if area = 0 then
    if write then !sup || (if o / 8 = 1 ∨ o / 8 = 2 then t != 0 else
      o / 8 == 0 || decide (0x40 ≤ o ∧ o < 0xA0) || o / 8 == 0x20) else !sup
  else if area = 3 then
    if write then !sup || (if 0x3400 ≤ o ∧ o < 0x3600 then size == 8 && s.handlerBad c o v
      else (coreSpec (o / 8 * 8)).isSome || decide (o < 0x3040)) else !sup
  else if area = 5 then !sup
  else if area = 7 then !sup || (write && o / 8 == 0x7008 / 8 && size != 8)
  else if area = 0xA then !sup || (write && decide (s.fld (aDMA_MAP c) DMA_MAP.COUNT ≤ (o - 0xA000) / 0x80))
  else if [1, 2, 4, 6, 9, 0xC].contains area then write
  else true

/-- The effective address by which a core reaches a place of its control block: through the lowest of its handles of that kind that
covers it. -/
def State.ctrlVa (s : State) (c : Nat) (pa : Nat) : Nat :=
  let hits (h : Nat) : Bool :=
    let b := HANDLE0.BASE.get (s.reg (aHANDLE0 c h))
    HANDLE0.KIND.get (s.reg (aHANDLE0 c h)) == 5 && decide (b ≤ pa ∧ pa - b ≤ HANDLE1.LIMIT.get (s.reg (aHANDLE1 c h)))
  match (List.range 64).find? hits with
  | some h => handleWindow + h * 2 ^ 38 + (pa - HANDLE0.BASE.get (s.reg (aHANDLE0 c h)))
  | none => pa

/-- A thread's write of control space that its access column or the register does not allow is discarded and raises access violation,
cause CONTROL (R102, R110). -/
def State.ctrlFault (s : State) (c : Nat) (t : Thr) (pa : Nat) : State :=
  s.modThr c t fun th => if th.entry.isSome then th else (th.fault 0x03 9 (s.ctrlVa c pa) true false).wake

/-- What happens at issue to an access that does not go to its home (R99, R102, R119, R121, R319). -/
def State.homeCheck (s : State) (c : CoreId) (t : Thr) (ea pa size : Nat) (write atomic : Bool) (op : Nat) (v : Word) :
    Option (State × Res) :=
  match homeOf s.ilv pa with
  | .control =>
    let o := pa - coreBlk c
    if atomic ∨ pa < coreBlk c ∨ coreBlk c + 0x1_0000 ≤ pa ∨ s.ctrlDenied c t o write size v then
      let s := if write ∧ !atomic ∧ o / 8 = 0x7008 / 8 ∧ size ≠ 8 ∧ (s.thr c t).super then
          s.setFld (aIMEM_STAT c) IMEM_STAT.ERR 1 else s
      some (s, .fault 0x03 9 ea write)
    else none
  | .host _ => if atomic ∧ op ≠ 0 ∧ op ≠ 6 ∧ op ≠ 7 then some (s, .fault 0x03 0 ea write) else none
  | .absent => some (s, .fault 0x03 9 ea write)
  | _ => none

/-- The register specifiers that the address of a memory instruction reads or steps. -/
def addrRegs (w : Word) : List Nat :=
  [0x20 + mAn w] ++ (if mMode w = 0 then [] else [0x30 + mMn w]) ++ mReads w

/-- The address register stepped by its modifier (R159). -/
def Thread.stepA (th : Thread) (w : Word) : Thread :=
  th.writeA (mAn w) (th.readA (mAn w) + (th.readM (mMn w)).setWidth 48)

/-- The same where a load is outstanding: the register is owed, and takes its new value as the load completes (R144, R159). -/
def Thread.oweStep (th : Thread) (w : Word) (key : Nat) : Thread :=
  if mMode w = 1 ∨ mMode w = 2 then
    { th with
      owed := th.owed ++ [(0x20 + mAn w, key)]
      steps := th.steps ++ [(key, mAn w, th.readA (mAn w) + (th.readM (mMn w)).setWidth 48)] }
  else th

/-- The same where the access is over at issue. -/
def Thread.stepNow (th : Thread) (w : Word) : Thread := if mMode w = 1 ∨ mMode w = 2 then th.stepA w else th

/-- A memory instruction: the effective address by mode, alignment, translation and the checks of the home; then
the access, which for all but a load steps the address register at issue (R159, R160, R205). `soft`: 0 an ordinary access, 1
maintenance, 2 PREF; a PREF that would fault does nothing (R163). -/
def State.memAccess (s : State) (c : CoreId) (t : Thr) (w : Word) (size : Nat) (write : Bool) (soft : Nat)
    (go : Thread → Nat → Bool → Option Nat → State → State × Res) : State × Res :=
  let th := s.thr c t
  let th0 := if mMode w = 2 then th.stepA w else th
  let ea := (addrAdd (th0.readA (mAn w)) (th0.off w)).toNat
  let step (s : State) : State := if write ∨ soft ≠ 0 then s.modThr c t (·.stepNow w) else s
  if ea % size ≠ 0 then (s, .fault 0x04 0xA ea write)
  else match s.resolve c ea false write with
    | .fault v e => if soft = 2 then (s, .due) else (s, .fault v e ea write)
    | .walk va => (s.startWalk c t va write false soft, .held)
    | .ok pa cacheable vpn =>
      if soft ≠ 0 then go th0 pa cacheable vpn (step s)
      else match s.homeCheck c t ea pa size write false 0 (th0.readReg (mRt w)) with
        | some r => r
        | none => go th0 pa cacheable vpn (step s)

/-- An access of a thread to its home sets out. -/
def State.ask (s : State) (c : CoreId) (t : Thr) (pa n : Nat) (p : Purpose) (overlay : List (Nat × Byte))
    (vpn : Option Nat) : State :=
  s.send (.thread c t) pa (.read ((List.range n).map (pa + ·))) p overlay vpn

/-- Whether a line is in the data cache or the side buffer, or a fill of it is under way. -/
def State.lineNear (s : State) (c : CoreId) (tag : Nat) : Bool :=
  ((s.core c).dcache.find (s.dcDis c) tag).isSome || (s.core c).side.any (·.tag = tag) ||
  s.txns.any fun x => x.src.core? == some c && x.addr / 64 == tag && !x.cancelled && match x.purpose with
    | .fillLoad .. | .fillSide => true
    | _ => false

/-- A fill of a line into the side buffer (R163, R324). -/
def State.fillLine (s : State) (c : CoreId) (tag : Nat) (vpn : Option Nat) : State :=
  if s.lineNear c tag then s
  else s.send (.cache c) (tag * 64) (.read ((List.range 64).map (tag * 64 + ·))) .fillSide [] vpn

/-- The end of the handle's buffer, where an address of the handle window names a physical kind. -/
def State.handleEnd (s : State) (c : Nat) (ea : Nat) : Nat :=
  let h := ea / 2 ^ 38 % 64
  HANDLE0.BASE.get (s.reg (aHANDLE0 c h)) + HANDLE1.LIMIT.get (s.reg (aHANDLE1 c h))

/-- A demand miss: counted, and with PF_EN = 1 the next line of the same page or handle is filled (R324). -/
def State.demandMiss (s : State) (c : CoreId) (ea pa : Nat) (vpn : Option Nat) : State :=
  let s := s.incFld (aCSTAT c) CSTAT.DC_MISS 1
  let next := pa / 64 + 1
  let within := match vpn with
    | some _ => next * 64 / 2 ^ 21 == pa / 2 ^ 21
    | none => decide (next * 64 ≤ s.handleEnd c ea)
  if s.flag (aCCTL c) CCTL.PF_EN && within then s.fillLine c next vpn else s

/-- Whether every one of `n` bytes at an offset of a line is valid. -/
def Line.has (l : Line) (o n : Nat) : Bool := l.valid &&& lineMask o n == lineMask o n

/-- An atomic is out: its register is owed under its key (R144). -/
def State.owing (s : State) (c : CoreId) (t : Thr) (rt key : Nat) : State × Res :=
  (s.modThr c t (·.owe rt key), .launched none)

/-- A load is out: its register is owed under its key, and the address register it steps (R144, R159). -/
def State.loading_ (s : State) (c : CoreId) (t : Thr) (w : Word) (key : Nat) : State × Res :=
  (s.modThr c t fun th => (th.oweStep w key).owe (mRt w) key, .launched none)

/-- The valid bytes of a line at an offset, by address. -/
def Line.validAt (l : Line) (o n : Nat) : List (Nat × Byte) :=
  (List.range n).filterMap fun i =>
    if l.valid.getLsbD (o + i) then some (l.tag * 64 + o + i, l.data.getD (o + i) 0) else none

/-- LD (R158, R159, R323, R324, R328). -/
def execLd (c : CoreId) (t : Thr) (w : Word) (s : State) : Out :=
  s.done (s.issue c t w (fun w => wMajor w == 0x20)
    (fun _ => checks [(decide (6 < mKind w) || mMode w == 3, 0x05)]) (mRt w :: addrRegs w)
    fun key s => s.memAccess c t w (kindSize (mKind w)) false 0 fun th0 pa cacheable vpn s =>
      let n := kindSize (mKind w)
      if cacheable && s.dcOn c then
        let ea := (addrAdd (th0.readA (mAn w)) (th0.off w)).toNat
        let (l, s) := s.dcLine c (pa / 64)
        let miss (over_ : List (Nat × Byte)) : State × Res :=
          ((s.demandMiss c ea pa vpn).ask c t (pa / 64 * 64) 64 (.fillLoad t key (mRt w) (mKind w) pa) over_ vpn).loading_
            c t w key
        match l with
        | some l =>
          if l.has (pa % 64) n then
            if l.bad &&& lineMask (pa % 64) n ≠ 0 then (s.modThr c t (·.pendImprecise 0x0A th0.wordAddr th0.priv), .due)
            else (s.modThr c t fun th => (th.stepNow w).writeReg (mRt w) (loadValue (mKind w) (l.bytes (pa % 64) n)), .due)
          else miss (l.validAt (pa % 64) n)
        | none => miss []
      else (s.ask c t pa n (.load t key (mRt w) (mKind w)) [] vpn).loading_ c t w key)

/-- LDU: read at the home, bytes dirty in the core's own data cache taken from it (R161). -/
def execLdu (c : CoreId) (t : Thr) (w : Word) (s : State) : Out :=
  s.done (s.issue c t w (fun w => wMajor w == 0x22)
    (fun _ => checks [(decide (6 < mKind w) || mMode w == 3, 0x05)]) (mRt w :: addrRegs w)
    fun key s => s.memAccess c t w (kindSize (mKind w)) false 0 fun _ pa _ vpn s =>
      let n := kindSize (mKind w)
      (s.ask c t pa n (.load t key (mRt w) (mKind w)) (s.dirtyAt c ((List.range n).map (pa + ·))) vpn).loading_ c t w key)

/-- A store performed at its home sets out (R150, R161). -/
def State.storeHome (s : State) (c : CoreId) (t : Thr) (pa : Nat) (bs : List Byte) (vpn : Option Nat) : State :=
  s.send (.thread c t) pa (.write (runOf pa bs)) (.stored t (some ((s.thr c t).wordAddr, (s.thr c t).priv))) [] vpn

/-- Bytes of one line stored as ST stores them: into the data cache, allocating on a miss without reading the home; of
an uncacheable page or with the cache disabled, to the home (R323, R328). -/
def State.stBytes (s : State) (c : CoreId) (t : Thr) (ea pa : Nat) (bs : List Byte) (cacheable : Bool) (vpn : Option Nat) : State :=
  if cacheable && s.dcOn c then
    let (l, s) := s.dcLine c (pa / 64)
    match l with
    | some l => s.dcInstall c (l.store (pa % 64) bs)
    | none => (s.demandMiss c ea pa vpn).dcInstall c ((Line.empty (pa / 64)).store (pa % 64) bs)
  else s.storeHome c t pa bs vpn

/-- ST (R158, R159, R323). -/
def execSt (c : CoreId) (t : Thr) (w : Word) (s : State) : Out :=
  s.done (s.issue c t w (fun w => wMajor w == 0x21)
    (fun _ => checks [(decide (3 < mKind w) || mMode w == 3, 0x05)]) (mRt w :: addrRegs w)
    fun _ s => s.memAccess c t w (kindSize (mKind w)) true 0 fun th0 pa cacheable vpn s =>
      (s.stBytes c t (addrAdd (th0.readA (mAn w)) (th0.off w)).toNat pa
        (toBytes (kindSize (mKind w)) (th0.readReg (mRt w)).toNat) cacheable vpn, .due))

/-- Change a line of the data cache in place. -/
def State.dcUpdate (s : State) (c : CoreId) (tag : Nat) (f : Line → Line) : State :=
  s.modCore c fun q => match q.dcache.find (s.dcDis c) tag with
    | some way => { q with dcache := q.dcache.put (tag % 256) way ((q.dcache.at (tag % 256) way).map f) }
    | none => q

/-- Bytes of one line stored as STU stores them: to the home, and into any copy of the line in the core's own data
cache, the stored bytes clean there; a fill of the line under way is not installed (R161, log 15). -/
def State.stuBytes (s : State) (c : CoreId) (t : Thr) (pa : Nat) (bs : List Byte) (vpn : Option Nat) : State :=
  let tag := pa / 64
  let s := if s.dcOn c then
      ((s.dcUpdate c tag fun l => l.update (pa % 64) bs).modCore c fun q =>
        { q with side := q.side.map fun l => if l.tag = tag then l.update (pa % 64) bs else l }).cancelFills c false (· = tag)
    else s
  s.storeHome c t pa bs vpn

/-- STU (R158, R161). -/
def execStu (c : CoreId) (t : Thr) (w : Word) (s : State) : Out :=
  s.done (s.issue c t w (fun w => wMajor w == 0x23)
    (fun _ => checks [(decide (3 < mKind w) || mMode w == 3, 0x05)]) (mRt w :: addrRegs w)
    fun _ s => s.memAccess c t w (kindSize (mKind w)) true 0 fun th0 pa _ vpn s =>
      (s.stuBytes c t pa (toBytes (kindSize (mKind w)) (th0.readReg (mRt w)).toNat) vpn, .due))

/-- The fields that a prefetch or maintenance instruction must leave 0 (R158). -/
def maintIrregular (w : Word) : Option Nat := checks [(mRt w != 0 || mKind w != 0, 0x03), (mMode w == 3, 0x05)]

/-- PREF: fill the line into the side buffer; it never faults (R163, R324). -/
def execPref (c : CoreId) (t : Thr) (w : Word) (s : State) : Out :=
  s.done (s.issue c t w (fun w => wMajor w == 0x24) (fun _ => maintIrregular w) (addrRegs w)
    fun _ s => s.memAccess c t w 1 false 2 fun _ pa cacheable vpn s =>
      (if cacheable && s.dcOn c then s.fillLine c (pa / 64) vpn else s, .due))

/-- Maintenance of one line of the data cache and the side buffer (R325, R326). -/
def State.maintain (s : State) (c : CoreId) (t : Thr) (tag : Nat) (clean inval : Bool) : State :=
  let s := s.dcMaint c (some t) (fun _ l => l.tag == tag) clean inval
  if inval then
    (s.modCore c fun q => { q with side := q.side.filter (·.tag ≠ tag) }).cancelFills c false (· = tag)
  else s

/-- CLEAN (R325). -/
def execClean (c : CoreId) (t : Thr) (w : Word) (s : State) : Out :=
  s.done (s.issue c t w (fun w => wMajor w == 0x25) (fun _ => maintIrregular w) (addrRegs w)
    fun _ s => s.memAccess c t w 1 false 1 fun _ pa _ _ s => (s.maintain c t (pa / 64) true false, .due))

/-- INV (R325). -/
def execInv (c : CoreId) (t : Thr) (w : Word) (s : State) : Out :=
  s.done (s.issue c t w (fun w => wMajor w == 0x26) (fun _ => maintIrregular w) (addrRegs w)
    fun _ s => s.memAccess c t w 1 false 1 fun _ pa _ _ s => (s.maintain c t (pa / 64) false true, .due))

/-- CLINV (R325). -/
def execClinv (c : CoreId) (t : Thr) (w : Word) (s : State) : Out :=
  s.done (s.issue c t w (fun w => wMajor w == 0x27) (fun _ => maintIrregular w) (addrRegs w)
    fun _ s => s.memAccess c t w 1 false 1 fun _ pa _ _ s => (s.maintain c t (pa / 64) true true, .due))

/-- ICINV: the instruction-cache line is discarded, and a fill of it not installed (R325, R326). -/
def execIcinv (c : CoreId) (t : Thr) (w : Word) (s : State) : Out :=
  s.done (s.issue c t w (fun w => wMajor w == 0x2A) (fun _ => maintIrregular w) (addrRegs w)
    fun _ s => s.memAccess c t w 1 false 1 fun _ pa _ _ s =>
      let tag := pa / 64
      ((s.modCore c fun q => { q with icache := { q.icache with
        lines := q.icache.lines.filter fun (_, l) => !l.any (·.tag = tag) } }).cancelFills c true (· = tag), .due))

/-! Atomics -/

/-- The operation an atomic's kind and type name (R162); `none`: not listed. -/
def atomicOp (kind ty : Nat) : Option AtomicOp :=
  let sg := decide (2 ≤ ty)
  let w32 := ty % 2 == 0
  match kind with
  | 0 => some .add
  | 1 => if w32 then some .fadd else none
  | 2 => some (.min sg)
  | 3 => some (.max sg)
  | 4 => if w32 then some .fmin else none
  | 5 => if w32 then some .fmax else none
  | 6 => some .swap
  | 7 => some .cas
  | _ => none

/-- Irregularity of an atomic (R141, R162). -/
def atomicIrregular (w : Word) : Option Nat :=
  checks [(mMn w != 0, 0x03), (mKind w == 7 && !isD (mRt w), 0x04),
    ((atomicOp (mKind w) (mMode w)).isNone || (mKind w == 7 && mRt w == 31), 0x05)]

/-- The registers an atomic reads. -/
def atomicRegs (w : Word) : List Nat :=
  [mRt w] ++ (if mKind w = 7 then [mRt w + 1] else []) ++ [0x20 + mAn w] ++ mReads w

/-- An atomic sets out for its home (R119-R121, R162). -/
def State.atomicAccess (s : State) (c : CoreId) (t : Thr) (w : Word) (returning : Bool)
    (go : Nat → Option Nat → MemOp → Nat → State → State × Res) : State × Res :=
  let th := s.thr c t
  let size := if mMode w % 2 = 0 then 4 else 8
  let ea := (addrAdd (th.readA (mAn w)) (th.off w)).toNat
  if ea % size ≠ 0 then (s, .fault 0x04 0xA ea true)
  else match s.resolve c ea false true with
    | .fault v e => (s, .fault v e ea true)
    | .walk va => (s.startWalk c t va true false 0, .held)
    | .ok pa _ vpn =>
      match s.homeCheck c t ea pa size true true (mKind w) 0 with
      | some r => r
      | none =>
        let v := (th.readReg (mRt w)).toNat % 2 ^ (8 * size)
        let cmp := if mKind w = 7 then (th.readReg (mRt w + 1)).toNat % 2 ^ (8 * size) else 0
        go pa vpn (.atomic ((atomicOp (mKind w) (mMode w)).getD .add) size v cmp returning) size s

/-- ATOMR: a returning atomic (R120, R162). -/
def execAtomr (c : CoreId) (t : Thr) (w : Word) (s : State) : Out :=
  s.done (s.issue c t w (fun w => wMajor w == 0x28) (fun _ => atomicIrregular w) (atomicRegs w)
    fun key s => s.atomicAccess c t w true fun pa vpn op size s =>
      (s.send (.thread c t) pa op (.oldValue t key (mRt w) size (decide (2 ≤ mMode w))) [] vpn).owing c t (mRt w) key)

/-- ATOMP: a posted atomic (R120, R162). -/
def execAtomp (c : CoreId) (t : Thr) (w : Word) (s : State) : Out :=
  s.done (s.issue c t w (fun w => wMajor w == 0x29) (fun _ => atomicIrregular w) (atomicRegs w)
    fun _ s => s.atomicAccess c t w false fun pa vpn op _ s =>
      (s.send (.thread c t) pa op (.stored t (some ((s.thr c t).wordAddr, (s.thr c t).priv))) [] vpn, .due))

end Sys2Proof.Machine
end

