-- ==== Sys2Proof/Machine/Tiles.lean ====
section
/-! DEFINITION. Tile registers: shapes, states and words (R216-R229, R257), tile loads with their conversions and
request phases (R230-R250), tile stores (R251, R252), context save and restore (R253, R254). -/

namespace Sys2Proof.Machine

/-! Tiles -/

/-- A T tile and a Z tile of a core. -/
def Core.tTile (q : Core) (i : Nat) : TTile := tabGet TTile.reset q.tt i
def Core.zTile (q : Core) (j : Nat) : ZTile := tabGet ZTile.reset q.zt j
def Core.setT (q : Core) (i : Nat) (x : TTile) : Core := { q with tt := tabSet TTile.reset q.tt i x }
def Core.setZ (q : Core) (j : Nat) (x : ZTile) : Core := { q with zt := tabSet ZTile.reset q.zt j x }

/-- Element bits of a tile format. -/
def fmtBits (f : Nat) : Nat := [32, 16, 16, 8, 8, 8, 4, 32].getD f 32

/-- The floating-point format of a tile format, where it is one. -/
def fmtFloat (f : Nat) : Option FFmt := [fp32, bf16, fp16, e4m3, e5m2][f]?

/-- Row elements E (R226). -/
def TTile.elems (x : TTile) : Nat := x.rowBytes * 8 / fmtBits x.fmt

/-- Elements of w bits packed from bit 0 of a row up (R283), and taken apart. -/
def packElems (w : Nat) : List Nat → Nat
  | [] => 0
  | v :: vs => v % 2 ^ w + 2 ^ w * packElems w vs
def elemAt (w n i : Nat) : Nat := n / 2 ^ (w * i) % 2 ^ w

/-- The bytes of a row of a T tile (R218, R221). -/
def TTile.row (x : TTile) (r : Nat) : List Byte := (List.range x.rowBytes).map fun i => tabGet 0 x.data (r * 64 + i)

/-- The bytes of a row of a Z tile (R229). -/
def ZTile.row (x : ZTile) (r : Nat) : List Byte :=
  (List.range 16).flatMap fun i => toBytes 4 (tabGet (0 : BitVec 32) x.data (r * 16 + i)).toNat

/-- A row of a T tile written (R244). -/
def TTile.setRow (x : TTile) (r : Nat) (bs : List Byte) : TTile :=
  { x with data := (List.range x.rowBytes).foldl (fun d i => tabSet 0 d (r * 64 + i) (bs.getD i 0)) x.data }

/-- A row of a Z tile written. -/
def ZTile.setRow (x : ZTile) (r : Nat) (bs : List Byte) : ZTile :=
  { x with data := (List.range 16).foldl (fun d i => tabSet 0 d (r * 16 + i) (BitVec.ofNat 32 (field bs (4 * i) 4))) x.data }

/-- Reuse latches whose row passes a test are cleared (R220). -/
def Core.dropReuse (q : Core) (f : Nat × Nat → Bool) : Core :=
  { q with reuse := q.reuse.filter fun e => !e.2.any f }

/-- A collector holds a row (R220). -/
def Core.latch (q : Core) (col tile row : Nat) : Core := { q with reuse := tabSet none q.reuse col (some (tile, row)) }

/-- A tile becomes EMPTY, its contents lost (R221, R223); specifiers 16-23 name Z tiles. -/
def Core.emptyTile (q : Core) (i : Nat) : Core :=
  (if i < 16 then q.setT i { q.tTile i with held := false, data := [] }
    else q.setZ (i - 16) { q.zTile (i - 16) with held := false, data := [] }).dropReuse (·.1 == i)

/-- Whether a tile is HELD. -/
def Core.held (q : Core) (i : Nat) : Bool := if i < 16 then (q.tTile i).held else (q.zTile (i - 16)).held

/-- A row of any tile written, where the tile is HELD and has the row. -/
def Core.writeRow (q : Core) (i r : Nat) (bs : List Byte) : Core :=
  (if i < 16 then
    let x := q.tTile i
    if x.held && decide (r < x.rows) then q.setT i (x.setRow r bs) else q
  else
    let x := q.zTile (i - 16)
    if x.held then q.setZ (i - 16) (x.setRow r bs) else q).dropReuse (· == (i, r))

/-- How many of ta, tb, tc a vector function reads. -/
def vecArity (fn : Nat) : Nat :=
  if fn = 3 ∨ fn = 4 ∨ fn = 0x0A then 3
  else if fn = 0x0D ∨ fn = 0x19 then 0
  else if fn = 0x0B ∨ fn = 0x0C ∨ fn = 0x0E ∨ (0x12 ≤ fn ∧ fn ≤ 0x14) ∨ fn = 0x18 ∨ fn = 0x1A then 1 else 2

/-- The tiles a matrix or vector word names. -/
def namesTiles (w : Word) : List Nat :=
  let fn := tFn w
  if wMajor w = 0xC0 then [tTd w, tTa w, tTb w] ++ (if 2 ≤ fn then [tTd w + 1] else [])
  else [tTd w] ++ ([tTa w, tTb w, tTc w].take (vecArity fn)) ++
    (if fn = 0x18 ∨ fn = 0x19 then [tTd w + 1] else []) ++ (if fn = 0x1A then [tTa w + 1] else [])

/-- The specifier under which a context instruction's flight names every tile. -/
def allTiles : Nat := 31

/-- Whether a tile instruction that names a tile is in flight (R225). -/
def Core.tileBusy (q : Core) (f : Nat → Bool) : Bool :=
  (threads.any fun t => q.thr[t].flights.any fun x => x.tile.any fun i => i == allTiles || f i) ||
  q.unitOps.any fun o => (namesTiles o.word).any f

/-- TDESC of a T tile and ZSTATE of a Z tile (R229). -/
def Core.tdesc (q : Core) (i : Nat) : Word :=
  let x := q.tTile i
  BitVec.ofNat 64 ((x.rows - 1) + (x.rowBytes / 4 - 1) * 2 ^ 5 + x.fmt.val * 2 ^ 9 + b2n x.held * 2 ^ 16 +
    b2n (q.tileBusy (· == i)) * 2 ^ 17 + x.lastt.val * 2 ^ 18 + x.elems * 2 ^ 24 + x.rows * x.rowBytes * 2 ^ 32)
def Core.zstate (q : Core) (j : Nat) : Word :=
  let x := q.zTile j
  BitVec.ofNat 64 (x.zfmt.val + b2n x.held * 2 ^ 16 + b2n (q.tileBusy (· == 16 + j)) * 2 ^ 17 + x.lastt.val * 2 ^ 18)

/-- The HELD bits at +0x60E0 (R257). -/
def Core.heldBits (q : Core) : Word :=
  BitVec.ofNat 64 ((List.range 24).foldl (fun v i => v + b2n (q.held i) * 2 ^ i) 0)

/-! Configuration -/

/-- TCFG: a new shape empties the tile (R227). -/
def execTcfg (c : CoreId) (t : Thr) (w : Word) (s : State) : Out :=
  s.done (s.issue c t w (fun w => wMajor w == 0x82)
    (fun _ => checks [(tFn w != 0 || wb w 34 12 != 0, 0x03), (decide (0x18 ≤ tTd w), 0x05), (decide (16 ≤ tTd w), 0x20)]) []
    fun _ s =>
      let q := s.core c
      if q.tileBusy (· == tTd w) then (s, .held)
      else
        let x := q.tTile (tTd w)
        let (rows, rowBytes, fmt) := (wb w 4 0 + 1, (wb w 8 5 + 1) * 4, (Fin.ofNat 8 (wb w 11 9)))
        if x.rows = rows ∧ x.rowBytes = rowBytes ∧ x.fmt = fmt then (s.modCore c (·.dropReuse (·.1 == tTd w)), .busy (tTd w))
        else (s.modCore c fun q =>
          (q.setT (tTd w) { x with rows := rows, rowBytes := rowBytes, fmt := fmt }).emptyTile (tTd w), .busy (tTd w)))

/-- TREL: the tile becomes EMPTY (R228). -/
def execTrel (c : CoreId) (t : Thr) (w : Word) (s : State) : Out :=
  s.done (s.issue c t w (fun w => wMajor w == 0x83)
    (fun _ => checks [(tFn w != 0 || wb w 34 0 != 0, 0x03), (decide (0x18 ≤ tTd w), 0x05)]) []
    fun _ s =>
      if (s.core c).tileBusy (· == tTd w) then (s, .held) else (s.modCore c (·.emptyTile (tTd w)), .busy (tTd w)))

/-- Every tile becomes EMPTY. -/
def Core.emptyAll (q : Core) : Core := (List.range 24).foldl (fun q i => q.emptyTile i) q

/-- TRELA: every tile becomes EMPTY (R228). -/
def execTrela (c : CoreId) (t : Thr) (w : Word) (s : State) : Out :=
  s.done (s.issue c t w (fun w => wMajor w == 0x84) (fun _ => checks [(wb w 47 0 != 0, 0x03)]) []
    fun _ s => if (s.core c).tileBusy (fun _ => true) then (s, .held) else (s.modCore c (·.emptyAll), .busy allTiles))

/-- TSTAT: the state word of a tile (R229). -/
def execTstat (c : CoreId) (t : Thr) (w : Word) (s : State) : Out :=
  s.done (s.issue c t w (fun w => wMajor w == 0x85)
    (fun _ => checks [(tFn w != 0 || wb w 34 6 != 0, 0x03), (!isD (wb w 5 0), 0x04), (decide (0x18 ≤ tTd w), 0x05)]) [wb w 5 0]
    fun _ s =>
      let q := s.core c
      (s.modThr c t (·.writeReg (wb w 5 0) (if tTd w < 16 then q.tdesc (tTd w) else q.zstate (tTd w - 16))), .now))

/-! The words of TLD and TST -/

def tlSfmt (w : Word) : Nat := wb w 47 44
def tlTr (w : Word) : Bool := wb w 43 43 == 1
def tlUpd (w : Word) : Bool := wb w 42 42 == 1
def tlNa (w : Word) : Bool := wb w 41 41 == 1
def tlTile (w : Word) : Nat := wb w 39 35
def tlAn (w : Word) : Nat := wb w 34 31
def tlMn (w : Word) : Nat := wb w 30 27
def tlAs (w : Word) : Nat := wb w 26 23

/-- The base B (R230). -/
def Thread.tileBase (th : Thread) (w : Word) : Nat :=
  let off := if wb w 22 22 = 1 then (th.readP (wb w 21 19)).toNat % 2 ^ 19 else wb w 18 0
  (addrAdd (th.readA (tlAn w)) (sext 19 off)).toNat

/-- Mn modulo 2^48. -/
def Thread.tileStride (th : Thread) (w : Word) : Nat := (th.readM (tlMn w)).toNat % 2 ^ 48

/-- Whether a source format is a microscaling or palette format, and which (R230). -/
def isMx (f : Nat) : Bool := decide (8 ≤ f ∧ f < 14)
def isPal (f : Nat) : Bool := f == 14 || f == 15

/-- Element bits, elements per block, and where in a block its elements begin (R230, R287). -/
def srcBits (f : Nat) : Nat := [32, 16, 16, 8, 8, 8, 4, 32, 8, 8, 6, 6, 4, 8, 4, 2].getD f 8
def srcBlock (f : Nat) : Nat := if isPal f then 256 else 32
def palEntries (f : Nat) : Nat := if f = 14 then 16 else 4
def srcIndices (f : Nat) : Nat := if isPal f then 2 * palEntries f else 0

/-- Source and tile formats that pair (R231). -/
def pairs (src fmt : Nat) : Bool :=
  if 5 ≤ src ∧ src ≤ 7 then true else decide (fmt < 5)

/-- Irregularity of a TLD (R230, R231, R237, R256). -/
def State.tldIrregular (s : State) (c : Nat) (w : Word) : Option Nat :=
  checks [(wb w 40 40 != 0 || (!isMx (tlSfmt w) && tlAs w != 0), 0x03), (decide (0x18 ≤ tlTile w), 0x05),
    (decide (16 ≤ tlTile w), 0x20), (!pairs (tlSfmt w) ((s.core c).tTile (tlTile w)).fmt, 0x22),
    (tlTr w && (decide (8 ≤ tlSfmt w) || tlSfmt w == 6), 0x23)]

/-! Where a row's bytes lie -/

/-- A virtual address, modulo 2^48. -/
def va48 (n : Nat) : Nat := n % 2 ^ 48

/-- Address of the first byte of element c of row r and its bit within that byte (R236-R238). -/
def srcPlace (f : Nat) (tr : Bool) (base stride r e c : Nat) : Nat × Nat :=
  let w := srcBits f
  if 8 ≤ f then
    let n := srcBlock f
    let k := r * e + c
    (va48 (base + k / n * stride + srcIndices f + k % n * w / 8), k % n * w % 8)
  else if tr then (va48 (base + c * stride + r * w / 8), 0)
  else (va48 (base + r * stride + c * w / 8), c * w % 8)

/-- The blocks that hold elements of a row (R238). -/
def rowBlocks (f r e : Nat) : List Nat :=
  let b := r * e / srcBlock f
  (List.range ((r * e + e - 1) / srcBlock f + 1 - b)).map (b + ·)

/-- The addresses of a row's elements, and of the scales it uses (R233). -/
def rowVas (f : Nat) (tr : Bool) (base stride scale r e : Nat) : List Nat :=
  let es := (List.range e).flatMap fun c =>
    let (a, o) := srcPlace f tr base stride r e c
    (List.range ((o + srcBits f + 7) / 8)).map fun i => va48 (a + i)
  (es ++ (if isMx f then (rowBlocks f r e).map fun b => va48 (scale + b) else [])).dedup

/-- Address of a block. -/
def blockVa (base stride b : Nat) : Nat := va48 (base + b * stride)

/-- The addresses of the palette of the block at an address. -/
def palVas (f a : Nat) : List Nat := (List.range (2 * palEntries f)).map fun i => va48 (a + i)

/-- The lowest misaligned element or block of a row (R239). -/
def rowMisaligned (f : Nat) (tr : Bool) (base stride r e : Nat) : Option Nat :=
  let bad := if 8 ≤ f then (rowBlocks f r e).filterMap fun b =>
      let a := va48 (base + b * stride)
      if a % 8 ≠ 0 then some a else none
    else (List.range e).filterMap fun c =>
      let a := (srcPlace f tr base stride r e c).1
      if a % ((srcBits f + 7) / 8) ≠ 0 then some a else none
  bad.min?

/-! Requesting a row -/

/-- What a row's request comes to. -/
inductive RowRes where
  | ok
  | walk (va : Nat) (write : Bool)
  | fault (vec cause va : Nat) (write : Bool)
deriving DecidableEq, Repr

/-- The bytes of a row: virtual and physical address, cacheable, and page. -/
abbrev RowBytes := List (Nat × Nat × Bool × Option Nat)

/-- Whether a byte of a row goes no further than its translation. -/
def Xlat.stops : Xlat → Bool
  | .ok .. => false
  | _ => true

/-- Translate and check every byte of a row: the lowest address that does not go through decides, by a walk where it needs one, else by
its fault (R242). -/
def State.rowXlat (s : State) (c : CoreId) (t : Thr) (vas : List Nat) (write : Bool) : RowRes × RowBytes :=
  let xs := vas.map fun va => (va, match s.resolve c va false write with
    | .ok pa cacheable vpn =>
      (match s.homeCheck c t va pa 1 write false 0 0 with
        | some (_, .fault v e _ _) => Xlat.fault v e
        | _ => .ok pa cacheable vpn)
    | x => x)
  match xs.filter (·.2.stops) with
  | b :: bs =>
    let m := bs.foldl (fun (a : Nat × Xlat) b => if b.1 < a.1 then b else a) b
    (match m.2 with
      | .walk ea => .walk ea write
      | .fault v e => .fault v e m.1 write
      | .ok .. => .ok, [])
  | [] => (.ok, xs.filterMap fun (va, x) => match x with | .ok pa ca vpn => some (va, pa, ca, vpn) | _ => none)

/-- A row whose lowest misaligned element is given: what comes of it where no lower address stops it (R239, R242). -/
def State.rowCheck (s : State) (c : CoreId) (t : Thr) (vas : List Nat) (write : Bool) : Option Nat → RowRes × RowBytes
  | none => s.rowXlat c t vas write
  | some a =>
    match s.rowXlat c t (vas.filter fun va => decide (va < a)) write with
    | (.ok, _) => (.fault 0x04 0xA a write, [])
    | r => r

/-- Part of a row that a cache answers at once. -/
def State.sendServed (s : State) (src : Source) (addr : Nat) (pas : List Nat) (p : Purpose) (bs : List Byte)
    (bad : List Nat) : State :=
  let (id, s) := s.fresh
  { s with txns := s.txns ++ [⟨id, src, homeOf s.ilv addr, addr, .read pas, p, .performed, bs, bad, false, [], none⟩] }

/-- Bytes of a row that lie in one line: through the data cache as LD reads it, or with NA at the cache, the side
buffer or the home (R243). -/
def State.rowLine (s : State) (c : CoreId) (t : Thr) (key place : Nat) (na : Bool) (part : RowBytes) : State :=
  match part with
  | [] => s
  | (va, pa, cacheable, vpn) :: _ =>
    let tag := pa / 64
    let at_ := part.map fun b => (b.1, b.2.1)
    let pas := at_.map (·.2)
    let need := pas.foldl (fun m a => m ||| lineMask (a % 64) 1) (0 : BitVec 64)
    let served (l : Line) (s : State) : State :=
      s.sendServed (.thread c t) (tag * 64) pas (.tileRow t key place at_ false) (pas.map fun a => l.data.getD (a % 64) 0)
        (pas.filter fun a => l.bad.getLsbD (a % 64))
    let home (s : State) : State :=
      s.send (.thread c t) pa (.read pas) (.tileRow t key place at_ false)
        (if cacheable && s.dcOn c then s.dirtyAt c pas else []) vpn
    if cacheable && s.dcOn c && !na then
      let (l, s) := s.dcLine c tag
      match l with
      | some l =>
        if l.valid &&& need = need then served l s
        else (s.demandMiss c va pa vpn).ask c t (tag * 64) 64 (.tileRow t key place at_ true) (l.validAt 0 64) vpn
      | none => (s.demandMiss c va pa vpn).ask c t (tag * 64) 64 (.tileRow t key place at_ true) [] vpn
    else if cacheable && s.dcOn c then
      let q := s.core c
      let l := match q.dcache.find (s.dcDis c) tag with
        | some way => q.dcache.at (tag % 256) way
        | none => q.side.find? (·.tag = tag)
      match l with
      | some l => if l.valid &&& need = need then served l s else home s
      | none => home s
    else home s

/-- A transposed row that one core memory or die memory gathers: its key where it is one (R237, R314, R315). -/
def State.gatherHome (s : State) (part : RowBytes) : Bool :=
  match part with
  | [] => false
  | b :: _ =>
    let k (pa : Nat) : Option Nat := match homeOf s.ilv pa with
      | .coreMem n => some n
      | .slice d _ => some (2000 + d)
      | _ => none
    (k b.2.1).isSome && part.all fun x => k x.2.1 == k b.2.1

/-- The accesses of a row set out (R237, R243). -/
def State.sendRow (s : State) (c : CoreId) (t : Thr) (key place : Nat) (tr na : Bool) (bytes : RowBytes) : State :=
  if tr && s.gatherHome bytes then
    let at_ := bytes.map fun b => (b.1, b.2.1)
    match bytes with
    | [] => s
    | b :: _ => s.send (.thread c t) b.2.1 (.read (at_.map (·.2))) (.tileRow t key place at_ false)
        (s.dirtyAt c (at_.map (·.2))) b.2.2.2
  else
    s.forAll ((bytes.map fun b => b.2.1 / 64).dedup) fun s tag =>
      s.rowLine c t key place na (bytes.filter fun b => b.2.1 / 64 == tag)

/-- The tile load under way under a key. -/
def Thread.tileOp (th : Thread) (key : Nat) : Option TileOp := th.tileOps.find? (·.key = key)
def Thread.modTileOp (th : Thread) (key : Nat) (f : TileOp → TileOp) : Thread :=
  { th with tileOps := th.tileOps.map fun o => if o.key = key then f o else o }

/-- The palettes of the blocks at the given addresses, each with the row that reads it, and the latch after them (R234, R235). -/
def rowPalettes (place : Nat) : List Nat → Option (Nat × Nat) → List (Nat × Nat) × Option (Nat × Nat)
  | [], l => ([], l)
  | a :: as, l =>
    let e := match l with
      | some (k, r) => if k = a then (a, r) else (a, place)
      | none => (a, place)
    let rest := rowPalettes place as (some e)
    (e :: rest.1, rest.2)

/-- Row r of a TLD: checked and requested, with the LFSR steps its conversions will use (R232, R234, R239, R242). -/
def State.loadRow (s : State) (c : CoreId) (t : Thr) (key tile r : Nat) (na : Bool) : RowRes × State :=
  let th := s.thr c t
  match th.tileOp key with
  | none => (.ok, s)
  | some o =>
    let e := o.rowBytes * 8 / fmtBits o.fmt
    let place := tile * 32 + r
    let (pals, latch) := if isPal o.sfmt then
        rowPalettes place ((rowBlocks o.sfmt r e).map (blockVa o.base o.stride)) (th.phase.bind (·.latch)) else ([], none)
    let pals := pals.dedup
    let reads := (pals.filter fun p => p.2 = place).map (·.1)
    let vas := (rowVas o.sfmt o.tr o.base o.stride o.scale r e ++ reads.flatMap (palVas o.sfmt)).dedup
    match s.rowCheck c t vas false (rowMisaligned o.sfmt o.tr o.base o.stride r e) with
    | (.ok, bytes) =>
      let s := s.sendRow c t key place o.tr na bytes
      let steps := if o.rmode ≠ 2 ∨ o.sfmt = o.fmt then 0
        else if isPal o.sfmt then reads.length * palEntries o.sfmt else e
      (.ok, s.modThr c t fun th =>
        { th.modTileOp key fun o => { o with rows := o.rows ++ [⟨place, th.lfsr, pals⟩] } with
          lfsr := lfsrSteps steps th.lfsr
          phase := th.phase.map fun p => { p with latch := latch } })
    | (x, _) => (x, s)

/-- The request phase ends: ACTIVE clears, the latch is cleared, the instruction is over at issue (R235, R250). With no
row outstanding its flight is due. -/
def State.endPhase (s : State) (c : CoreId) (t : Thr) (n key : Nat) (upd : Thread → Thread) : State :=
  let s := s.modThr c t fun th => upd { th with phase := none, tlprog := 0 }
  let s := if ((s.thr c t).tileOp key).any fun o => o.rows ≠ [] then s
    else s.modThr c t fun th => { th with
      tileOps := th.tileOps.filter (·.key ≠ key)
      flights := th.flights.map fun f => if f.key = key then { f with due := true } else f }
  s.conclude c t n (key - 1) false

/-- A row did not go: the thread stalls on the walk, or the phase stops with a precise fault (R241, R242, R247). -/
def State.rowStop (s : State) (c : CoreId) (t : Thr) (slot row : Nat) (r : RowRes) : State :=
  let s := s.modThr c t fun th => { th with phase := th.phase.map fun p => { p with slot := slot, row := row } }
  match r with
  | .ok => s
  | .walk va write => s.startWalk c t va write false 0
  | .fault vec cause va write => (s.stopPhase c t).modThr c t fun th => th.fault vec cause va write false

/-- One step of a request phase: the next of its rows is requested, and after the last the phase ends. Between two rows is a row
boundary, at which an interrupt or imprecise exception may be taken (R240, R247; log 88). -/
def State.nextRow (s : State) (c : CoreId) (t : Thr) (jobs : List (Nat × Nat)) (req : State → Nat × Nat → RowRes × State)
    (fin : State → State) : State :=
  match jobs with
  | [] => fin s
  | j :: js =>
    match req s j with
    | (.ok, s) =>
      (match js with
        | [] => fin s
        | k :: _ => s.modThr c t fun th => { th with phase := th.phase.map fun p => { p with slot := k.1, row := k.2 } })
    | (x, s) => s.rowStop c t j.1 j.2 x

/-- Blocks that rows 0 to rows-1 touch (R246). -/
def blocksTouched (f rows e : Nat) : Nat := ceilDiv (rows * e) (srcBlock f)

/-- An address register plus a number, modulo 2^48. -/
def Thread.addA (th : Thread) (i n : Nat) : Thread := th.writeA i (th.readA i + BitVec.ofNat 48 n)

/-- The UPD step of a TLD (R246). -/
def tldUpd (w : Word) (o : TileOp) (rows : Nat) (th : Thread) : Thread :=
  if !tlUpd w then th
  else
    let e := o.rowBytes * 8 / fmtBits o.fmt
    let steps := if 8 ≤ o.sfmt then blocksTouched o.sfmt rows e else if o.tr then e else rows
    let th := th.writeA (tlAn w) (BitVec.ofNat 48 (o.base + steps * o.stride))
    if isMx o.sfmt then th.addA (tlAs w) (blocksTouched o.sfmt rows e) else th

/-- The request phase of a TLD goes on with its next row. -/
def State.tldRun (s : State) (c : CoreId) (t : Thr) (w : Word) (ph : TilePhase) : State :=
  let tile := tlTile w
  let rows := ((s.core c).tTile tile).rows
  let jobs := ((List.range rows).drop ph.row).map fun r => (0, r)
  s.nextRow c t jobs (fun s j => s.loadRow c t ph.key tile j.2 (tlNa w)) fun s =>
    match (s.thr c t).tileOp ph.key with
    | some o => s.endPhase c t (wSig w) ph.key (tldUpd w o rows)
    | none => s.endPhase c t (wSig w) ph.key id

/-- Bytes of consecutive addresses cut where a line ends. -/
def lineParts : List ((Nat × Nat × Bool × Option Nat) × Byte) → List ((Nat × Nat × Bool × Option Nat) × List Byte)
  | [] => []
  | (a, b) :: rest =>
    match lineParts rest with
    | [] => [(a, [b])]
    | (a', bs) :: ps => if a.2.1 / 64 = a'.2.1 / 64 ∧ a.2.1 + 1 = a'.2.1 then (a, b :: bs) :: ps else (a, [b]) :: (a', bs) :: ps

/-- A row of bytes written at an address, each as ST or with NA as STU writes it (R251, R252). -/
def State.storeRow (s : State) (c : CoreId) (t : Thr) (va align : Nat) (na : Bool) (bs : List Byte) : RowRes × State :=
  match s.rowCheck c t ((List.range bs.length).map fun i => va48 (va + i)) true (if va % align ≠ 0 then some va else none) with
  | (.ok, bytes) =>
    (.ok, s.forAll (lineParts (bytes.zip bs)) fun s p =>
      if na then s.stuBytes c t p.1.2.1 p.2 p.1.2.2.2 else s.stBytes c t p.1.1 p.1.2.1 p.2 p.1.2.2.1 p.1.2.2.2)
  | (x, _) => (x, s)

/-- Rows of a tile, a row's bytes, and the alignment its elements ask. -/
def Core.rowsOf (q : Core) (i : Nat) : Nat := if i < 16 then (q.tTile i).rows else 32
def Core.rowOf (q : Core) (i r : Nat) : List Byte := if i < 16 then (q.tTile i).row r else (q.zTile (i - 16)).row r
def Core.alignOf (q : Core) (i : Nat) : Nat := if i < 16 then (fmtBits (q.tTile i).fmt + 7) / 8 else 4

/-- A row of a T tile read through collector 3, which tile stores and context saves share with the vector engine (R220). -/
def Core.read3 (q : Core) (i r : Nat) : Core := if i < 16 then q.latch 3 i r else q

/-- The request phase of a TST goes on with its next row (R251, R252). -/
def State.tstRun (s : State) (c : CoreId) (t : Thr) (w : Word) (ph : TilePhase) : State :=
  let i := tlTile w
  let th := s.thr c t
  let (b, m) := (th.tileBase w, th.tileStride w)
  let rows := (s.core c).rowsOf i
  s.nextRow c t (((List.range rows).drop ph.row).map fun r => (0, r))
    (fun s j => (s.modCore c (·.read3 i j.2)).storeRow c t (va48 (b + j.2 * m)) ((s.core c).alignOf i) (tlNa w) ((s.core c).rowOf i j.2))
    fun s => s.endPhase c t (wSig w) ph.key fun th =>
      if tlUpd w then th.writeA (tlAn w) (BitVec.ofNat 48 (b + rows * m)) else th

/-! Context save and restore -/

/-- Slot and row of every row of every HELD tile, from a place on (R253). -/
def Core.contextRows (q : Core) (slot row : Nat) : List (Nat × Nat) :=
  ((List.range 24).flatMap fun i => if q.held i then (List.range (q.rowsOf i)).map fun r => (i, r) else []).filter
    fun j => decide (slot < j.1 ∨ (slot = j.1 ∧ row ≤ j.2))

/-- Address of a row in a context save area. -/
def contextAddr (b slot row : Nat) : Nat := va48 (b + 0x100 + slot * 0x800 + row * 64)

/-- The header of a context save area. -/
def Core.contextHeader (q : Core) : List Byte :=
  words ((List.range 16).map q.tdesc ++ (List.range 8).map q.zstate ++ List.replicate 8 0)

/-- The request phase of TCTXS goes on: rows, then the header; with REL every tile becomes EMPTY (R253). -/
def State.tctxsRun (s : State) (c : CoreId) (t : Thr) (w : Word) (ph : TilePhase) : State :=
  let b := (s.thr c t).tileBase w
  let head := ((s.core c).modThr t fun th => { th with flights := th.flights.filter (·.key ≠ ph.key) }).contextHeader
  if b % 256 ≠ 0 then s.rowStop c t 0 0 (.fault 0x04 0xA b true)
  else
    s.nextRow c t ((s.core c).contextRows ph.slot ph.row ++ [(24, 0)])
      (fun s j => if j.1 = 24 then s.storeRow c t b 1 false head
        else (s.modCore c (·.read3 j.1 j.2)).storeRow c t (contextAddr b j.1 j.2) 1 false ((s.core c).rowOf j.1 j.2))
      fun s => (if tlUpd w then s.modCore c (·.emptyAll) else s).endPhase c t (wSig w) ph.key id

/-- The place under which the header of TCTXR arrives. -/
def headerPlace : Nat := 1000

/-- A row of TCTXR requested. -/
def State.restoreRow (s : State) (c : CoreId) (t : Thr) (key place va n : Nat) : RowRes × State :=
  match s.rowXlat c t ((List.range n).map fun i => va48 (va + i)) false with
  | (.ok, bytes) =>
    (.ok, (s.sendRow c t key place false false bytes).modThr c t fun th =>
      th.modTileOp key fun o => { o with rows := o.rows ++ [⟨place, 0, []⟩] })
  | (x, _) => (x, s)

/-- The request phase of TCTXR goes on: the header, then the rows of every HELD tile (R254). Its wait for the header is
a long stall where the area's home is not the core's own memory (R191). -/
def State.tctxrRun (s : State) (c : CoreId) (t : Thr) (w : Word) (ph : TilePhase) : State :=
  let b := (s.thr c t).tileBase w
  if b % 256 ≠ 0 then s.rowStop c t ph.slot ph.row (.fault 0x04 0xA b false)
  else if !ph.hdr then
    if ph.asked then s
    else match s.restoreRow c t ph.key headerPlace b 256 with
      | (.ok, s) =>
        let far := s.txns.any fun x => x.home != .coreMem c.val && match x.purpose with
          | .tileRow t' key _ _ _ => x.src == .thread c t && t' == t && key == ph.key
          | _ => false
        s.modThr c t fun th =>
          let th := { th with phase := some { ph with asked := true } }
          if far then th.stallFor .header else th
      | (x, s) => s.rowStop c t ph.slot ph.row x
  else
    s.nextRow c t ((s.core c).contextRows ph.slot ph.row)
      (fun s j => s.restoreRow c t ph.key (j.1 * 32 + j.2) (contextAddr b j.1 j.2) (if j.1 < 16 then ((s.core c).tTile j.1).rowBytes else 64))
      fun s => s.endPhase c t (wSig w) ph.key id

/-! The four instructions with a request phase -/

/-- TLPROG's kinds: 0 TLD, 1 TST, 2 TCTXS, 3 TCTXR; each with its part of the request phase. -/
def State.phaseRun (s : State) (c : CoreId) (t : Thr) (w : Word) (kind : Nat) : State :=
  match (s.thr c t).phase with
  | none => s
  | some ph =>
    if ph.kind ≠ kind then s
    else match kind with
      | 0 => s.tldRun c t w ph
      | 1 => s.tstRun c t w ph
      | 2 => s.tctxsRun c t w ph
      | _ => s.tctxrRun c t w ph

/-- The stopped phase that TLPROG holds for a kind (R248). -/
def Thread.resumes (th : Thread) (kind : Nat) : Bool :=
  TLPROG.ACTIVE.get th.tlprog == 1 && TLPROG.KIND.get th.tlprog == kind

/-- A walk of the thread for a data access is under way. -/
def State.walking (s : State) (c : CoreId) (t : Thr) : Bool :=
  s.txns.any fun x => x.src == .walker c t && !x.cancelled && match x.purpose with
    | .walk _ _ _ fetch _ => !fetch
    | _ => false

/-- A tile instruction with a request phase: it goes on where its phase is under way and neither a walk of its own holds the row nor
the thread, running, has something to take first; it resumes from TLPROG without its wait, or starts (R240, R241, R247, R248).
`begin`: what its issue does beside. -/
def State.phaseIssue (s : State) (c : CoreId) (t : Thr) (w : Word) (kind major tile : Nat) (irregular : Option Nat)
    (regs : List Nat) (begin_ : Nat → State → State) : State :=
  let th := s.thr c t
  if th.phase.isSome then
    (if (th.phase.any (·.word == w)) && wMajor w == major && (th.st == .ready || (th.st == .running && !th.mustEnter)) && !s.walking c t then
      s.phaseRun c t w kind else s)
  else
    let s := if th.resumes kind && th.gateHere.isNone && wMajor w == major && (match s.fetch c t with | .word f => f == w | _ => false)
        && th.st == .running && !th.mustEnter then
        s.modThr c t fun th => { th with gate := tabIns th.gate th.depth (th.wordAddr, none) }
      else s
    s.issue c t w (fun w => wMajor w == major) (fun _ => irregular) regs fun key s =>
      let th := s.thr c t
      if 2 ≤ kind && (s.core c).tileBusy (fun _ => true) then (s, .held)
      else
        let r := th.resumes kind
        let ph : TilePhase := ⟨kind, key, if r then TLPROG.SLOT.get th.tlprog else 0,
          if r then TLPROG.ROW.get th.tlprog else 0, false, r && TLPROG.HDR.get th.tlprog == 1, none, w⟩
        let s := s.launch c t (wSig w) (key - 1) true (some tile)
        let s := (begin_ key s).modThr c t fun th => { th with phase := some ph }
        (s.phaseRun c t w kind, .set)

/-- TLD (R230-R249). -/
def execTld (c : CoreId) (t : Thr) (w : Word) (s : State) : Out :=
  s.done (s.phaseIssue c t w 0 0x80 (tlTile w) (s.tldIrregular c w)
    ([0x20 + tlAn w, 0x30 + tlMn w] ++ (if isMx (tlSfmt w) then [0x20 + tlAs w] else []) ++
      (if wb w 22 22 = 1 then [pKey (wb w 21 19)] else []))
    fun key s =>
      let th := s.thr c t
      let x := (s.core c).tTile (tlTile w)
      let o : TileOp := ⟨key, tlSfmt w, tlTr w, x.fmt, x.rowBytes, th.tileBase w, th.tileStride w,
        (th.readA (tlAs w)).toNat, FPCTL.RMODE.get th.fpctl, th.wordAddr, th.priv, [], []⟩
      (s.modCore c fun q => q.setT (tlTile w) { x with held := true, lastt := t }).modThr c t fun th =>
        { th with tileOps := th.tileOps ++ [o] })

/-- TST (R251, R252). -/
def execTst (c : CoreId) (t : Thr) (w : Word) (s : State) : Out :=
  s.done (s.phaseIssue c t w 1 0x81 (tlTile w)
    (checks [(wb w 47 43 != 0 || wb w 40 40 != 0 || tlAs w != 0, 0x03), (decide (0x18 ≤ tlTile w), 0x05),
      (!(s.core c).held (tlTile w), 0x21)])
    ([0x20 + tlAn w, 0x30 + tlMn w] ++ (if wb w 22 22 = 1 then [pKey (wb w 21 19)] else [])) fun _ s => s)

/-- Fields of a context word that must be 0. -/
def contextIrregular (w : Word) (rel : Bool) : Option Nat :=
  checks [(wb w 47 43 != 0 || (!rel && wb w 42 42 != 0) || wb w 41 35 != 0 || wb w 30 23 != 0, 0x03)]

/-- The registers a context instruction's base reads. -/
def contextRegs (w : Word) : List Nat := [0x20 + tlAn w] ++ (if wb w 22 22 = 1 then [pKey (wb w 21 19)] else [])

/-- TCTXS (R253). -/
def execTctxs (c : CoreId) (t : Thr) (w : Word) (s : State) : Out :=
  s.done (s.phaseIssue c t w 2 0x86 allTiles (contextIrregular w true) (contextRegs w) fun _ s => s)

/-- TCTXR (R254). -/
def execTctxr (c : CoreId) (t : Thr) (w : Word) (s : State) : Out :=
  s.done (s.phaseIssue c t w 3 0x87 allTiles (contextIrregular w false) (contextRegs w) fun key s =>
    let th := s.thr c t
    s.modThr c t fun q => { q with tileOps := q.tileOps ++
      [⟨key, 16, false, 0, 0, th.tileBase w, 0, 0, 0, th.wordAddr, th.priv, [], []⟩] })

/-! Rows that arrive -/

/-- The byte an access brought for a physical address, and whether it is poisoned: bytes the requester's cache held
stand before those of the home (R161, R323). -/
def Txn.byteAt (x : Txn) (pa : Nat) : Option (Byte × Bool) :=
  match tabFind x.overlay pa with
  | some b => some (b, false)
  | none => match x.op with
    | .read as => ((as.findIdx? (· = pa)).bind (x.result[·]?)).map fun b => (b, x.poisoned.contains pa)
    | _ => none

/-- The bytes of an access's addresses. -/
def Txn.bytesAt (x : Txn) (pa n : Nat) : List Byte :=
  (List.range n).map fun i => ((x.byteAt (pa + i)).map (·.1)).getD 0

/-- Whether any byte asked for is poisoned. -/
def Txn.badAt (x : Txn) (pa n : Nat) : Bool := (List.range n).any fun i => ((x.byteAt (pa + i)).map (·.2)).getD false

/-- A line that a load or tile load asked for is installed in the data cache, unless it was cancelled or holds poison
(R323, R326). -/
def State.installFill (s : State) (c : CoreId) (x : Txn) : State :=
  let tag := x.addr / 64
  if x.cancelled || !x.poisoned.isEmpty || x.stage != .performed then s
  else match (s.core c).dcache.find (s.dcDis c) tag with
    | some _ => s.dcUpdate c tag (·.merge x.result)
    | none =>
      let s := s.modCore c fun q => { q with side := q.side.filter (·.tag ≠ tag) }
      s.dcInstall c (Line.ofHome tag x.result)

/-- How a byte of a row came: `none` where its request timed out. -/
def rowByte (xs : List Txn) (va : Nat) : Option (Byte × Bool) :=
  xs.findSome? fun x => match x.purpose with
    | .tileRow _ _ _ at_ _ =>
      ((at_.find? (·.1 = va)).map (·.2)).bind fun pa => if x.stage = .performed then x.byteAt pa else none
    | _ => none

/-- The bits of an element in memory. -/
def srcRaw (get : Nat → Nat) (p : Nat × Nat) (w : Nat) : Nat :=
  ((List.range ((p.2 + w + 7) / 8)).foldl (fun v i => v + get (va48 (p.1 + i)) * 256 ^ i) 0) / 2 ^ p.2 % 2 ^ w

/-- The value of an element of a source that is no palette: floating point or integer, an MX element scaled
(R233, R280-R286). -/
def srcValue (f raw scale : Nat) : FVal ⊕ Int :=
  let scaled (v : FVal) : FVal ⊕ Int :=
    if scale = 0xFF then .inl .nan else .inl (v.mul (.fin 1 ((scale : Int) - 127))).1
  match f with
  | 0 => .inl (fp32.value raw) | 1 => .inl (bf16.value raw) | 2 => .inl (fp16.value raw)
  | 3 => .inl (e4m3.value raw) | 4 => .inl (e5m2.value raw)
  | 8 => scaled (e4m3.value raw) | 9 => scaled (e5m2.value raw)
  | 10 => scaled (e3m2.value raw) | 11 => scaled (e2m3.value raw) | 12 => scaled (e2m1.value raw)
  | 13 => scaled (.fin (sext 8 raw) (-6))
  | n => .inr (sext (srcBits n) raw)

/-- A value converted to a tile format (R232, R300, R302). -/
def convertTo (fmt : Nat) (r : RMode) (v : FVal ⊕ Int) : Nat × FFlags :=
  match fmtFloat fmt, v with
  | some f, .inl x => f.write r x
  | some f, .inr n => f.round r n 0
  | none, .inr n => (satInt (fmtBits fmt) n, .none)
  | none, .inl x => toIntBits (fmtBits fmt) r x

/-- Convert a list of values in order, each with its own step of the LFSR under stochastic rounding (R232, R297). -/
def convertAll (fmt rmode : Nat) : BitVec 32 → List (FVal ⊕ Int) → List Nat × FFlags
  | _, [] => ([], .none)
  | x, v :: vs =>
    let x' := if rmode = 2 then lfsrStep x else x
    let a := convertTo fmt ⟨rmode, x'.toNat⟩ v
    let b := convertAll fmt rmode x' vs
    (a.1 :: b.1, a.2.or b.2)

/-- The vector with which bytes of a row end it: 0x0B where a request for them timed out, 0x0A where they are poisoned (R245). -/
def rowVec (lost : Bool) : Nat := if lost then 0x0B else 0x0A

/-- The palettes a row read, converted in order of block (R234). -/
def readPalettes (o : TileOp) (place : Nat) (get : Nat → Option (Byte × Bool)) : BitVec 32 → List Nat → List TilePal × FFlags
  | _, [] => ([], .none)
  | x, b :: bs =>
    let n := palEntries o.sfmt
    let vs := (palVas o.sfmt b).map get
    let rest := readPalettes o place get (if o.rmode = 2 then lfsrSteps n x else x) bs
    if vs.all fun v => v.any fun y => !y.2 then
      let raw := vs.map fun v => (v.getD (0, false)).1
      let (es, fl) := convertAll o.fmt o.rmode x ((List.range n).map fun i => .inl (bf16.value (field raw (2 * i) 2)))
      (⟨b, place, .ok es⟩ :: rest.1, fl.or rest.2)
    else (⟨b, place, .error (rowVec (!vs.any fun v => v.any (·.2)))⟩ :: rest.1, rest.2)

/-- The converted row: its bytes and the flags its conversions raise (R232-R238). -/
def tileRowOf (o : TileOp) (row : TileRow) (pals : List TilePal) (get : Nat → Nat) : List Byte × FFlags :=
  if o.sfmt = 16 then
    let va := contextAddr o.base (row.place / 32) (row.place % 32)
    ((List.range 64).map fun i => BitVec.ofNat 8 (get (va48 (va + i))), .none)
  else
    let r := row.place % 32
    let e := o.rowBytes * 8 / fmtBits o.fmt
    let w := srcBits o.sfmt
    let raw (c : Nat) : Nat := srcRaw get (srcPlace o.sfmt o.tr o.base o.stride r e c) w
    let out (vs : List Nat) : List Byte := toBytes o.rowBytes (packElems (fmtBits o.fmt) vs)
    if o.sfmt = o.fmt then (out ((List.range e).map raw), .none)
    else if isPal o.sfmt then
      (out ((List.range e).map fun c =>
        let a := blockVa o.base o.stride ((r * e + c) / 256)
        let es := match (pals.find? (·.block = a)).map (·.entries) with
          | some (.ok es) => es
          | _ => []
        es.getD (raw c) 0), .none)
    else
      let vals := (List.range e).map fun c =>
        srcValue o.sfmt (raw c) (get (va48 (o.scale + (r * e + c) / 32)))
      let (vs, fl) := convertAll o.fmt o.rmode row.lfsr vals
      (out vs, fl)

/-- A row has ended: with the last one the load is over, and its signal fires (R244). -/
def State.rowOver (s : State) (c : CoreId) (t : Thr) (key place : Nat) (new : List TilePal) : State :=
  let s := s.modThr c t fun th => th.modTileOp key fun o =>
    { o with rows := o.rows.filter (·.place ≠ place), pals := o.pals ++ new }
  let th := s.thr c t
  if ((th.tileOp key).any fun o => o.rows = []) && !th.phase.any (·.key = key) then
    (s.modThr c t fun th => { th with tileOps := th.tileOps.filter (·.key ≠ key) }).land c t key
  else s

/-- TCTXR's header applied: a tile that stays HELD keeps what its rows hold (R221, R254). -/
def Core.applyHeader (q : Core) (t : Thr) (h : List Byte) : Core :=
  let q := (List.range 16).foldl (fun q i =>
    let d := field h (8 * i) 8
    let held := bit d 16
    q.setT i ⟨d % 32 + 1, (d / 32 % 16 + 1) * 4, Fin.ofNat 8 (d / 512), held, if held then t else (q.tTile i).lastt,
      if held && (q.tTile i).held then (q.tTile i).data else []⟩) q
  let q := (List.range 8).foldl (fun q j =>
    let d := field h (128 + 8 * j) 8
    let held := bit d 16
    q.setZ j ⟨Fin.ofNat 4 d, held, if held then t else (q.zTile j).lastt,
      if held && (q.zTile j).held then (q.zTile j).data else []⟩) q
  q.dropReuse fun _ => true

/-- The header of TCTXR has arrived: applied, and the phase goes on; where it arrives poisoned or its request timed
out, the instruction ends there. -/
def State.headerArrives (s : State) (c : CoreId) (t : Thr) (key : Nat) (o : TileOp) (get : Nat → Option (Byte × Bool)) : State :=
  let bs := (List.range 256).map fun i => get (va48 (o.base + i))
  let s := s.modThr c t fun th =>
    let th := th.modTileOp key fun o => { o with rows := [] }
    if th.stall = .header then th.wake else th
  if bs.all fun b => b.any fun y => !y.2 then
    (s.modCore c (·.applyHeader t (bs.map fun b => (b.getD (0, false)).1))).modThr c t fun th =>
      { th with phase := th.phase.map fun p => { p with hdr := true } }
  else
    let s := s.modThr c t (·.pendImprecise (if bs.any (·.isNone) then 0x0B else 0x0A) o.pc o.priv)
    s.endPhase c t (((s.thr c t).phase.map fun p => wSig p.word).getD 0) key id

/-- The accesses of a row. -/
def State.rowTxns (s : State) (c : CoreId) (t : Thr) (key place : Nat) : List Txn :=
  s.txns.filter fun x => x.src == .thread c t && match x.purpose with
    | .tileRow _ k p _ _ => k == key && p == place
    | _ => false

/-- All accesses of a row are answered or lost: the row is converted and written, or ends unwritten (R244, R245). A row
of a palette block waits for the row that reads the palette. -/
def State.rowArrives (s : State) (c : CoreId) (t : Thr) (key place : Nat) : State :=
  let xs := s.rowTxns c t key place
  match (s.thr c t).tileOp key with
  | none => s
  | some o =>
    match o.rows.find? (·.place = place) with
    | none => s
    | some row =>
      let get := rowByte xs
      let own := (row.pals.filter (·.2 = place)).map (·.1)
      let (new, pfl) := readPalettes o place get row.lfsr own
      let known := new ++ o.pals.filter fun p => row.pals.contains (p.block, p.place)
      if xs.any (fun x => x.stage != .performed && x.stage != .lost && x.stage != .denied) || decide (known.length < row.pals.length) then s
      else
        let s := { s with txns := s.txns.filter fun x => !xs.any (·.id = x.id) }
        let s := s.forAll xs fun s x => match x.purpose with
          | .tileRow _ _ _ _ true => s.installFill c x
          | _ => s
        let s := if place = headerPlace then s.headerArrives c t key o get
          else
            let all := xs.flatMap fun x => match x.purpose with
              | .tileRow _ _ _ at_ _ => at_.map fun a => get a.1
              | _ => []
            let palBad (vec : Nat) : Bool := known.any fun p => match p.entries with
              | .error v => v == vec
              | .ok _ => false
            let bad := all.any (fun b => b.any (·.2)) || palBad 0x0A
            let lost := all.any (·.isNone) || palBad 0x0B
            let s := s.modThr c t (·.raiseLate pfl o.pc o.priv)
            let denied := xs.any (·.stage = .denied)
            let s := if bad || lost then
                s.modThr c t (·.pendImprecise (if denied then 0x03 else rowVec (lost && !bad)) o.pc o.priv)
              else
                let (bs, fl) := tileRowOf o row known fun va => ((get va).map (·.1.toNat)).getD 0
                (s.modCore c (·.writeRow (place / 32) (place % 32) bs)).modThr c t (·.raiseLate fl o.pc o.priv)
            s.rowOver c t key place new
        s.fenceWake c t

/-- TILE_ROW_ARRIVAL: a row's bytes have all arrived (R244, R245). -/
def execTileRowArrival (id : Nat) (s : State) : Out :=
  s.done (match s.txn id with
    | some x => match x.src, x.purpose with
      | .thread c _, .tileRow t key place _ _ => s.rowArrives c t key place
      | _, _ => s
    | none => s)

end Sys2Proof.Machine
end

