-- ==== Sys2Proof/Machine/MatVec.lean ====
section
/-! DEFINITION. The matrix unit and the vector engine: which words are irregular (R265, R270-R273, R279), their
queues (R258-R260), and what each instruction computes (R262-R276, R306). -/

namespace Sys2Proof.Machine

/-! Reading tiles -/

/-- Element of w bits of a tile; what an EMPTY tile holds reads as 0 (R221, R224). -/
def Core.elem (q : Core) (tile w r c : Nat) : Nat :=
  if tile < 16 then elemAt w (ofBytes ((q.tTile tile).row r)) c
  else (tabGet (0 : BitVec 32) (q.zTile (tile - 16)).data (r * 16 + c)).toNat

/-- Rows and row elements of a tile. -/
def Core.elemsOf (q : Core) (i : Nat) : Nat := if i < 16 then (q.tTile i).elems else 16

/-- Whether a specifier names a Z tile. -/
def isZ (i : Nat) : Bool := decide (16 ≤ i)

/-- ZFMT of a Z tile that is HELD. -/
def Core.zfmtHeld (q : Core) (i : Nat) : Option Nat :=
  let z := q.zTile (i - 16)
  if z.held then some z.zfmt.val else none

/-- A tile is HELD from the issue of an instruction that writes it (R223, R229). -/
def Core.claim (q : Core) (t : Thr) (i zfmt : Nat) : Core :=
  if i < 16 then q.setT i { q.tTile i with held := true, lastt := t }
  else q.setZ (i - 16) { q.zTile (i - 16) with held := true, lastt := t, zfmt := Fin.ofNat 4 zfmt }

/-! The units -/

/-- A unit of a core. -/
def Core.eng (q : Core) (mx : Bool) : Eng := if mx then q.mx else q.vx
def Core.setEng (q : Core) (mx : Bool) (e : Eng) : Core := if mx then { q with mx := e } else { q with vx := e }

/-- Group size G of a floating-point format (R266). -/
def groupSize (fmt : Nat) : Nat := if fmt = 0 then 1 else if fmt ≤ 2 then 8 else 16

/-- Whether a tile type is an integer type. -/
def isInt (ty : Nat) : Bool := decide (5 ≤ ty)

/-- The fields of ctl of a vector word. -/
def vTy (w : Word) : Nat := wb w 2 0
def vBsrc (w : Word) : Nat := wb w 4 3
def vRsel (w : Word) : Nat := wb w 9 5
def vAmt (w : Word) : Nat := wb w 15 10
def vDfmt (w : Word) : Nat := wb w 18 16

/-- Busy time of a unit's instruction (R266, R276). -/
def Core.busyTime (q : Core) (w : Word) : Nat :=
  if wMajor w = 0xC0 then
    let base := if (q.tTile (tTa w)).fmt = 0 then 64 else 32
    if 2 ≤ tFn w then 2 * base else base
  else if tFn w = 0x18 ∨ tFn w = 0x19 then 32
  else
    let srcs := ([tTa w, tTb w, tTc w].take (vecArity (tFn w))).zip [1, 2, 3]
    let n := (srcs.filter fun p => decide (p.1 < 16) && p.2 != vBsrc w).length
    let r := q.rowsOf (tTd w)
    if 3 ≤ n then ceilDiv (3 * r) 4 else ceilDiv r 2

/-- The rows a unit's instruction reads last through its collectors: the matrix unit's operands through 0 and 1, the vector engine's T
sources through 2, 3 and 2; of a broadcast source the row that RSEL names (R220, R271; log 89). -/
def Core.lastReads (q : Core) (mx : Bool) (w : Word) : List (Nat × Nat × Nat) :=
  if mx then [(0, tTa w, (q.tTile (tTa w)).rows - 1), (1, tTb w, (q.tTile (tTb w)).rows - 1)]
  else
    let srcs := ([tTa w, tTb w, tTc w].take (vecArity (tFn w))).zip [1, 2, 3]
    (srcs.filter fun p => decide (p.1 < 16)).map fun p =>
      (if p.2 = 2 then 3 else 2, p.1, if p.2 = vBsrc w ∨ tFn w = 0x0C then vRsel w else (q.tTile p.1).rows - 1)

/-- A unit begins an instruction: its busy time counts (R260, R278). -/
def State.beginUnit (s : State) (c : CoreId) (mx : Bool) (o : UnitOp) (queued : Option UnitOp) : State :=
  let a := if mx then aMX_BUSYHS c else aVX_BUSYHS c
  let s := s.incFld a MX_BUSYHS.HS ((s.core c).busyTime o.word)
  s.modCore c fun q => (q.lastReads mx o.word).foldl (fun q r => q.latch r.1 r.2.1 r.2.2)
    (q.setEng mx { q.eng mx with running := some o, queued := queued })

/-- A matrix or vector instruction issues to its unit: an occupied queue holds it; the LFSR advances by the roundings it
will make (R258, R262). -/
def State.toUnit (s : State) (c : CoreId) (t : Thr) (w : Word) (mx : Bool) (key roundings : Nat) (dests : List (Nat × Nat)) :
    State × Res :=
  let e := (s.core c).eng mx
  if e.queued.isSome then (s, .held)
  else
    let th := s.thr c t
    let rm := FPCTL.RMODE.get th.fpctl
    let o : UnitOp := ⟨t, w, th.wordAddr, th.priv, key, th.lfsr, rm,
      if mx then 0 else th.readReg (vAmt w)⟩
    let s := if rm = 2 then s.modThr c t fun th => { th with lfsr := lfsrSteps roundings th.lfsr } else s
    let s := s.modCore c fun q => dests.foldl (fun q d => q.claim t d.1 d.2) q
    (if e.running.isSome then s.modCore c fun q => q.setEng mx { e with queued := some o } else s.beginUnit c mx o none,
      .launched none)

/-! Matrix instructions -/

/-- Irregularity of a matrix word (R265, R269). -/
def State.mmaIrregular (s : State) (c : Nat) (w : Word) : Option Nat :=
  let q := s.core c
  let (td, ta, tb) := (tTd w, tTa w, tTb w)
  let (a, b) := (q.tTile ta, q.tTile tb)
  let paired := decide (2 ≤ tFn w)
  let zero := tFn w % 2 == 1
  let isI := isInt a.fmt
  checks [(tTc w != 0 || tCtl w != 0, 0x03),
    (decide (0x18 ≤ td) || decide (0x18 ≤ ta) || decide (0x18 ≤ tb), 0x05),
    (isZ ta || isZ tb, 0x20), (!isZ td, 0x2C), (paired && td % 2 == 1, 0x2E), (!a.held || !b.held, 0x21),
    (a.fmt != b.fmt || a.fmt == 7 || (paired && isI), 0x28), (a.elems != b.elems, 0x29), (decide (16 < b.rows), 0x2A),
    (!zero && !paired && (q.zfmtHeld td).any (· != (if isI then 1 else 0)), 0x2B),
    (!zero && paired && ((q.zfmtHeld td).any (fun f => f != 0 && f != 2) || (q.zfmtHeld (td + 1)).any (· != 3)), 0x2B)]

/-- A matrix instruction of function `fn`. -/
def State.mma (s : State) (c : CoreId) (t : Thr) (w : Word) (fn : Nat) : State :=
  s.issue c t w (fun w => wMajor w == 0xC0 && tFn w == fn) (fun _ => s.mmaIrregular c w) []
    fun key s =>
      let q := s.core c
      let (a, b) := (q.tTile (tTa w), q.tTile (tTb w))
      let isI := isInt a.fmt
      let n := if isI || 2 ≤ fn then 0 else a.rows * b.rows * ceilDiv a.elems (groupSize a.fmt)
      s.toUnit c t w true key n
        (if 2 ≤ fn then [(tTd w, 2), (tTd w + 1, 3)] else [(tTd w, if isI then 1 else 0)])

/-- MMA (R264-R268). -/
def execMma (c : CoreId) (t : Thr) (w : Word) (s : State) : Out := s.done (s.mma c t w 0)

/-- MMAZ (R264-R268). -/
def execMmaz (c : CoreId) (t : Thr) (w : Word) (s : State) : Out := s.done (s.mma c t w 1)

/-- MMAP (R269). -/
def execMmap (c : CoreId) (t : Thr) (w : Word) (s : State) : Out := s.done (s.mma c t w 2)

/-- MMAPZ (R269). -/
def execMmapz (c : CoreId) (t : Thr) (w : Word) (s : State) : Out := s.done (s.mma c t w 3)

/-! What the matrix unit computes -/

/-- A list cut into groups of n. -/
def groupsOf {α : Type} (n : Nat) (l : List α) : List (List α) :=
  (List.range (ceilDiv l.length n)).map fun g => (l.drop (g * n)).take n

/-- The exact sum of a group's products, and whether an invalid case arose (R267, R293). -/
def groupSum (ps : List (FVal × FVal)) : FVal × Bool :=
  let ms := ps.map fun p => p.1.mul p.2
  let r := FVal.sum (ms.map (·.1))
  (r.1, r.2 || ms.any (·.2))

/-- An accumulation over groups (R267), each with its own step of the LFSR (R262). -/
def accumulate (rmode : Nat) : List (List (FVal × FVal)) → BitVec 32 → Nat → FFlags → Nat × FFlags × BitVec 32
  | [], x, z, fl => (z, fl, x)
  | g :: gs, x, z, fl =>
    let x' := if rmode = 2 then lfsrStep x else x
    let (sum, nv) := groupSum g
    let v := (fp32.value z).add sum
    let r := withNv (v.2 || nv) (fp32.write ⟨rmode, x'.toNat⟩ v.1)
    accumulate rmode gs x' r.1 (fl.or r.2)

/-- The result of rounding to nearest even, as a value. -/
def rne (v : FVal) : FVal × FFlags :=
  let r := fp32.write .rne v
  (fp32.value r.1, r.2)

/-- Whether a value is finite. -/
def FVal.finite : FVal → Bool
  | .fin _ _ => true
  | _ => false

/-- A paired step that adds an exact sum, split into sh and sl where it comes from a group, into hi + lo: the new
halves and the flags (R269, R306). -/
def pairStep (hi lo : Nat) (sum : FVal) (nv split : Bool) : Nat × Nat × FFlags :=
  let (h, l) := (fp32.value hi, fp32.value lo)
  let (sh, f1) := if split then rne sum else (sum, .none)
  let (sl, f2) := if split then rne (sum.add sh.neg).1 else (.fin 0 0, .none)
  let exact := (h.add sh).1
  let (t, f3) := rne exact
  if !(sum.finite && h.finite && l.finite && t.finite) then
    let a := h.add l
    let b := a.1.add sum
    let r := fp32.write .rne b.1
    (r.1, 0, { r.2 with nv := r.2.nv || a.2 || b.2 || nv })
  else
    let err := (exact.add t.neg).1
    let r := fp32.write .rne ((l.add err).1.add sl).1
    let f := (f1.or (f2.or f3))
    ((fp32.write .rne exact).1, r.1, { f.or r.2 with nx := r.2.nx, nv := nv || f.nv || r.2.nv })

/-- A paired accumulation over groups. -/
def accumulatePair : List (List (FVal × FVal)) → Nat → Nat → FFlags → Nat × Nat × FFlags
  | [], hi, lo, fl => (hi, lo, fl)
  | g :: gs, hi, lo, fl =>
    let (sum, nv) := groupSum g
    let r := pairStep hi lo sum nv true
    accumulatePair gs r.1 r.2.1 (fl.or r.2.2)

/-- Elements of a Z tile replaced. -/
def ZTile.setElems (x : ZTile) (es : List ((Nat × Nat) × Nat)) : ZTile :=
  { x with data := es.foldl (fun d e => tabSet 0 d (e.1.1 * 16 + e.1.2) (BitVec.ofNat 32 e.2)) x.data }

/-- The elements of a row of a tile as values of a floating-point format, and as integers. -/
def Core.rowVals (q : Core) (tile : Nat) (f : FFmt) (w r : Nat) : List FVal :=
  (List.range (q.elemsOf tile)).map fun c => f.value (q.elem tile w r c)
def Core.rowInts (q : Core) (tile w r : Nat) : List Int :=
  (List.range (q.elemsOf tile)).map fun c => sext w (q.elem tile w r c)

/-- The floating-point elements of a product in result order, the LFSR going from one to the next (R262, R267). -/
def mmaElems (rmode : Nat) (old : Nat × Nat → Nat) (groups : Nat × Nat → List (List (FVal × FVal))) :
    List (Nat × Nat) → BitVec 32 → List ((Nat × Nat) × Nat) × FFlags
  | [], _ => ([], .none)
  | ij :: rest, x =>
    let (z, fl, x') := accumulate rmode (groups ij) x (old ij) .none
    let r := mmaElems rmode old groups rest x'
    ((ij, z) :: r.1, fl.or r.2)

/-- What a matrix instruction writes, and the flags it raises (R264-R269). -/
def Core.runMma (q : Core) (o : UnitOp) : Core × FFlags :=
  let w := o.word
  let (a, b) := (q.tTile (tTa w), q.tTile (tTb w))
  let bits := fmtBits a.fmt
  let j := tTd w - 16
  let zero := tFn w % 2 == 1
  let ijs := (List.range a.rows).flatMap fun i => (List.range b.rows).map fun k => (i, k)
  let old (z : ZTile) (ij : Nat × Nat) : Nat :=
    if zero then 0 else (tabGet (0 : BitVec 32) z.data (ij.1 * 16 + ij.2)).toNat
  let clear (z : ZTile) : ZTile := if zero then { z with data := [] } else z
  match fmtFloat a.fmt with
  | none =>
    let ra := (List.range a.rows).map (q.rowInts (tTa w) bits)
    let rb := (List.range b.rows).map (q.rowInts (tTb w) bits)
    let es := ijs.map fun ij =>
      let sum := (List.zipWith (· * ·) (ra.getD ij.1 []) (rb.getD ij.2 [])).foldl (· + ·) 0
      (ij, wrap 32 (old (q.zTile j) ij + sum))
    (q.setZ j ((clear (q.zTile j)).setElems es), .none)
  | some f =>
    let ra := (List.range a.rows).map (q.rowVals (tTa w) f bits)
    let rb := (List.range b.rows).map (q.rowVals (tTb w) f bits)
    let groups (ij : Nat × Nat) : List (List (FVal × FVal)) :=
      groupsOf (groupSize a.fmt) ((ra.getD ij.1 []).zip (rb.getD ij.2 []))
    if tFn w < 2 then
      let (es, fl) := mmaElems o.rmode (old (q.zTile j)) groups ijs o.lfsr
      (q.setZ j ((clear (q.zTile j)).setElems es), fl)
    else
      let rs := ijs.map fun ij => (ij, accumulatePair (groups ij) (old (q.zTile j) ij) (old (q.zTile (j + 1)) ij) .none)
      let q' := q.setZ j ((clear (q.zTile j)).setElems (rs.map fun r => (r.1, r.2.1)))
      (q'.setZ (j + 1) ((clear (q.zTile (j + 1))).setElems (rs.map fun r => (r.1, r.2.2.1))),
        rs.foldl (fun fl r => fl.or r.2.2.2) .none)

/-! Vector instructions -/

/-- Vector functions by what they accept: raw bits, compares, rotation of tb, shifts. -/
def vRaw (fn : Nat) : Bool := decide (0x0A ≤ fn ∧ fn ≤ 0x0C) || decide (0x0F ≤ fn ∧ fn ≤ 0x14)
def vCompare (fn : Nat) : Bool := decide (7 ≤ fn ∧ fn ≤ 9)
def vShift (fn : Nat) : Bool := decide (0x12 ≤ fn ∧ fn ≤ 0x14)
def vRotates (fn : Nat) : Bool := decide (fn ≤ 0x0B)
def vPaired (fn : Nat) : Bool := decide (0x18 ≤ fn)

/-- Irregularity of a vector word (R270-R273, R276, R279). -/
def State.vecIrregular (s : State) (c : Nat) (w : Word) : Option Nat :=
  let q := s.core c
  let fn := tFn w
  let ty := vTy w
  let bits := fmtBits ty
  let td := tTd w
  let n := vecArity fn
  let all := [tTa w, tTb w, tTc w]
  let srcs := (all.take n).zip [1, 2, 3]
  let e := q.elemsOf td
  let r := q.rowsOf td
  let bc (k : Nat) : Bool := k == vBsrc w || (fn == 0x0C)
  let badType (i k : Nat) : Bool :=
    if isZ i then !(ty == 0 || ty == 7)
    else
      let f := (q.tTile i).fmt.val
      if vRaw fn || (fn == 0x0A && k == 3) then fmtBits f != bits else f != ty
  let pair := if fn = 0x18 ∨ fn = 0x19 then some td else if fn = 0x1A then some (tTa w) else none
  checks [
    (wb w 19 19 != 0 || (all.drop n).any (· != 0) || (fn != 0x0E && vDfmt w != 0) ||
      (!(vRotates fn || vShift fn || fn == 0x0D) && vAmt w != 0) || (vBsrc w == 0 && fn != 0x0C && vRsel w != 0), 0x03),
    (decide (0x18 ≤ td) || srcs.any (fun p => decide (0x18 ≤ p.1)) || ty == 6 || (fn == 0x0E && vDfmt w == 6), 0x05),
    (pair.any (!isZ ·), 0x2C), (pair.any (· % 2 == 1), 0x2E),
    (vPaired fn && ty != 0, 0x28),
    (fn != 0x1A && srcs.any (fun p => badType p.1 p.2), 0x28),
    (fn == 0x0E && (if isZ td then !(vDfmt w == 0 || vDfmt w == 7) else (q.tTile td).fmt.val != vDfmt w), 0x2F),
    (fn != 0x0E && (if isZ td then !(ty == 0 || ty == 7)
      else if vRaw fn || vCompare fn then fmtBits (q.tTile td).fmt.val != bits else (q.tTile td).fmt.val != ty), 0x28),
    (srcs.any (fun p => q.elemsOf p.1 != e), 0x29),
    (srcs.any (fun p => !bc p.2 && q.rowsOf p.1 != r), 0x2A),
    (srcs.any (fun p => bc p.2 && decide (q.rowsOf p.1 ≤ vRsel w)) || decide (n < vBsrc w), 0x2D),
    ((vRotates fn && decide (e ≤ vAmt w)) || (vShift fn && decide (bits ≤ vAmt w)) || (fn == 0x0D && !isD (vAmt w)), 0x2D),
    (srcs.any (fun p => !q.held p.1 && !(isZ p.1 && p.2 == 3 && (fn == 3 || fn == 4))), 0x21),
    (fn == 0x1A && !q.held (tTa w + 1), 0x21),
    (pair.any fun i => (q.zfmtHeld i).any (· != 2) || (q.zfmtHeld (i + 1)).any (· != 3), 0x2B)]

/-- Whether each element of a vector instruction is a rounding (R262, R274, R275). -/
def vecRounds (w : Word) : Bool :=
  if tFn w ≤ 4 then !isInt (vTy w) else tFn w == 0x0E && !(isInt (vTy w) && isInt (vDfmt w))

/-- ZFMT a vector instruction gives a Z destination (R270). -/
def vecZfmt (w : Word) : Nat :=
  if vPaired (tFn w) then 0 else if vCompare (tFn w) then 1
  else if tFn w = 0x0E then (if vDfmt w = 0 then 0 else 1) else if vTy w = 0 then 0 else 1

/-- A vector instruction of function `fn`. -/
def State.vec (s : State) (c : CoreId) (t : Thr) (w : Word) (fn : Nat) : State :=
  s.issue c t w (fun w => wMajor w == 0xC1 && tFn w == fn) (fun _ => s.vecIrregular c w)
    (if fn = 0x0D then [vAmt w] else [])
    fun key s =>
      let q := s.core c
      let td := tTd w
      s.toUnit c t w false key (if vecRounds w then q.rowsOf td * q.elemsOf td else 0)
        (if fn = 0x18 ∨ fn = 0x19 then [(td, 2), (td + 1, 3)] else [(td, vecZfmt w)])

/-- VADD (R274). -/
def execVadd (c : CoreId) (t : Thr) (w : Word) (s : State) : Out := s.done (s.vec c t w 0x00)

/-- VSUB (R274). -/
def execVsub (c : CoreId) (t : Thr) (w : Word) (s : State) : Out := s.done (s.vec c t w 0x01)

/-- VMUL (R274). -/
def execVmul (c : CoreId) (t : Thr) (w : Word) (s : State) : Out := s.done (s.vec c t w 0x02)

/-- VFMA (R274). -/
def execVfma (c : CoreId) (t : Thr) (w : Word) (s : State) : Out := s.done (s.vec c t w 0x03)

/-- VFNMA (R274). -/
def execVfnma (c : CoreId) (t : Thr) (w : Word) (s : State) : Out := s.done (s.vec c t w 0x04)

/-- VMIN (R274). -/
def execVmin (c : CoreId) (t : Thr) (w : Word) (s : State) : Out := s.done (s.vec c t w 0x05)

/-- VMAX (R274). -/
def execVmax (c : CoreId) (t : Thr) (w : Word) (s : State) : Out := s.done (s.vec c t w 0x06)

/-- VCEQ (R274). -/
def execVceq (c : CoreId) (t : Thr) (w : Word) (s : State) : Out := s.done (s.vec c t w 0x07)

/-- VCLT (R274). -/
def execVclt (c : CoreId) (t : Thr) (w : Word) (s : State) : Out := s.done (s.vec c t w 0x08)

/-- VCLE (R274). -/
def execVcle (c : CoreId) (t : Thr) (w : Word) (s : State) : Out := s.done (s.vec c t w 0x09)

/-- VSEL (R274). -/
def execVsel (c : CoreId) (t : Thr) (w : Word) (s : State) : Out := s.done (s.vec c t w 0x0A)

/-- VMOV (R272). -/
def execVmov (c : CoreId) (t : Thr) (w : Word) (s : State) : Out := s.done (s.vec c t w 0x0B)

/-- VBROW (R271). -/
def execVbrow (c : CoreId) (t : Thr) (w : Word) (s : State) : Out := s.done (s.vec c t w 0x0C)

/-- VSPL (R273). -/
def execVspl (c : CoreId) (t : Thr) (w : Word) (s : State) : Out := s.done (s.vec c t w 0x0D)

/-- VCVT (R275). -/
def execVcvt (c : CoreId) (t : Thr) (w : Word) (s : State) : Out := s.done (s.vec c t w 0x0E)

/-- VAND (R274). -/
def execVand (c : CoreId) (t : Thr) (w : Word) (s : State) : Out := s.done (s.vec c t w 0x0F)

/-- VOR (R274). -/
def execVor (c : CoreId) (t : Thr) (w : Word) (s : State) : Out := s.done (s.vec c t w 0x10)

/-- VXOR (R274). -/
def execVxor (c : CoreId) (t : Thr) (w : Word) (s : State) : Out := s.done (s.vec c t w 0x11)

/-- VSHL (R272). -/
def execVshl (c : CoreId) (t : Thr) (w : Word) (s : State) : Out := s.done (s.vec c t w 0x12)

/-- VSHR (R272). -/
def execVshr (c : CoreId) (t : Thr) (w : Word) (s : State) : Out := s.done (s.vec c t w 0x13)

/-- VSAR (R272). -/
def execVsar (c : CoreId) (t : Thr) (w : Word) (s : State) : Out := s.done (s.vec c t w 0x14)

/-- VPADD (R276). -/
def execVpadd (c : CoreId) (t : Thr) (w : Word) (s : State) : Out := s.done (s.vec c t w 0x18)

/-- VPNORM (R276). -/
def execVpnorm (c : CoreId) (t : Thr) (w : Word) (s : State) : Out := s.done (s.vec c t w 0x19)

/-- VPCVT (R276). -/
def execVpcvt (c : CoreId) (t : Thr) (w : Word) (s : State) : Out := s.done (s.vec c t w 0x1A)

/-! What the vector engine computes -/

/-- An element that holds a truth value (R274). -/
def vMask (w : Nat) (b : Bool) : Nat := if b then 2 ^ w - 1 else 0

/-- An integer element operation (R274, R303). -/
def vecInt (fn w : Nat) (a b c : Int) : Nat :=
  match fn with
  | 0 => wrap w (a + b) | 1 => wrap w (a - b) | 2 => wrap w (a * b) | 3 => wrap w (a * b + c) | 4 => wrap w (c - a * b)
  | 5 => wrap w (min a b) | 6 => wrap w (max a b)
  | 7 => vMask w (decide (a = b)) | 8 => vMask w (decide (a < b)) | _ => vMask w (decide (a ≤ b))

/-- A floating-point element operation (R274, R293, R303, R304). -/
def vecFloat (fn w : Nat) (f : FFmt) (r : RMode) (a b c : FVal) : Nat × FFlags :=
  let out (v : FVal × Bool) : Nat × FFlags := withNv v.2 (f.write r v.1)
  let cmp (nv : Bool) (ok : Ordering → Bool) : Nat × FFlags :=
    match a.cmp b with
    | some o => (vMask w (ok o), .none)
    | none => (0, ⟨nv, false, false, false⟩)
  match fn with
  | 0 => out (a.add b)
  | 1 => out (a.add b.neg)
  | 2 => out (a.mul b)
  | 3 => let p := a.mul b; withNv p.2 (out (p.1.add c))
  | 4 => let p := a.mul b; withNv p.2 (out (c.add p.1.neg))
  | 5 => f.write r (a.minMax false b)
  | 6 => f.write r (a.minMax true b)
  | 7 => cmp false (· == .eq)
  | 8 => cmp true (· == .lt)
  | _ => cmp true (· != .gt)

/-- A raw-bit element operation. -/
def vecBits (fn w amt a b c : Nat) : Nat :=
  match fn with
  | 0x0A => if c ≠ 0 then a else b
  | 0x0F => a &&& b
  | 0x10 => a ||| b
  | 0x11 => a ^^^ b
  | 0x12 => a * 2 ^ amt % 2 ^ w
  | 0x13 => a / 2 ^ amt
  | 0x14 => wrap w (sext w a / 2 ^ amt)
  | _ => a

/-- The value of an element of a tile type. -/
def typeValue (ty raw : Nat) : FVal ⊕ Int :=
  match fmtFloat ty with
  | some f => .inl (f.value raw)
  | none => .inr (sext (fmtBits ty) raw)

/-- One element of a vector instruction that is not paired. -/
def vecElem (o : UnitOp) (r : RMode) (a b c : Nat) : Nat × FFlags :=
  let fn := tFn o.word
  let ty := vTy o.word
  let w := fmtBits ty
  if fn = 0x0D then (o.splat.toNat % 2 ^ w, .none)
  else if fn = 0x0E then convertTo (vDfmt o.word) r (typeValue ty a)
  else if vRaw fn then (vecBits fn w (vAmt o.word) a b c, .none)
  else match fmtFloat ty with
    | some f => vecFloat fn w f r (f.value a) (f.value b) (f.value c)
    | none => (vecInt fn w (sext w a) (sext w b) (sext w c), .none)

/-- The elements of a vector instruction in result order (R262). -/
def vecElems (o : UnitOp) (rounds : Bool) (get : Nat × Nat → Nat × Nat × Nat) : List (Nat × Nat) → BitVec 32 → List Nat × FFlags
  | [], _ => ([], .none)
  | rc :: rest, x =>
    let x' := if rounds && o.rmode = 2 then lfsrStep x else x
    let (a, b, c) := get rc
    let v := vecElem o ⟨o.rmode, x'.toNat⟩ a b c
    let r := vecElems o rounds get rest x'
    (v.1 :: r.1, v.2.or r.2)

/-- A whole tile written from its elements in order. -/
def Core.putElems (q : Core) (tile w e : Nat) (vs : List Nat) : Core :=
  (List.range (q.rowsOf tile)).foldl (fun q r =>
    let n := if tile < 16 then (q.tTile tile).rowBytes else 64
    q.writeRow tile r (toBytes n (packElems w ((vs.drop (r * e)).take e)))) q

/-- The sum hi + lo of a pair renormalised: new halves and flags (R276, R306). -/
def pairNorm (hi lo : Nat) : Nat × Nat × FFlags :=
  let sum := (fp32.value hi).add (fp32.value lo)
  let r := fp32.write .rne sum.1
  let h := fp32.value r.1
  if (fp32.value hi).finite && (fp32.value lo).finite && h.finite then
    (r.1, (fp32.write .rne (sum.1.add h.neg).1).1, { r.2 with nx := false })
  else (r.1, 0, { r.2 with nv := r.2.nv || sum.2 })

/-- What a vector instruction writes, and the flags it raises (R270-R276). -/
def Core.runVec (q : Core) (o : UnitOp) : Core × FFlags :=
  let w := o.word
  let fn := tFn w
  let td := tTd w
  let e := q.elemsOf td
  let bits := fmtBits (vTy w)
  let rcs := (List.range (q.rowsOf td)).flatMap fun r => (List.range e).map fun c => (r, c)
  let amtOf (k : Nat) : Nat := if vRotates fn && (if fn = 0x0B then k == 1 else k == 2) then vAmt w else 0
  let src (tile k : Nat) (rc : Nat × Nat) : Nat :=
    if vecArity fn < k then 0
    else q.elem tile bits (if k = vBsrc w ∨ fn = 0x0C then vRsel w else rc.1) ((rc.2 + amtOf k) % e)
  if fn = 0x18 ∨ fn = 0x19 then
    let rs := rcs.map fun rc =>
      let (hi, lo) := (q.elem td 32 rc.1 rc.2, q.elem (td + 1) 32 rc.1 rc.2)
      if fn = 0x19 then pairNorm hi lo else pairStep hi lo (fp32.value (src (tTa w) 1 rc)) false false
    ((q.putElems td 32 16 (rs.map (·.1))).putElems (td + 1) 32 16 (rs.map (·.2.1)), rs.foldl (fun f r => f.or r.2.2) .none)
  else if fn = 0x1A then
    let rs := rcs.map fun rc =>
      let at_ (i : Nat) : FVal := fp32.value (q.elem i 32 (if vBsrc w = 1 then vRsel w else rc.1) rc.2)
      let sum := (at_ (tTa w)).add (at_ (tTa w + 1))
      withNv sum.2 (fp32.write .rne sum.1)
    (q.putElems td 32 e (rs.map (·.1)), rs.foldl (fun f r => f.or r.2) .none)
  else
    let out := if fn = 0x0E then fmtBits (vDfmt w) else bits
    let (vs, fl) := vecElems o (vecRounds w) (fun rc => (src (tTa w) 1 rc, src (tTb w) 2 rc, src (tTc w) 3 rc)) rcs o.lfsr
    (q.putElems td out e vs, fl)

/-! The units' events -/

/-- UNIT_INSTRUCTION_BEGIN: the executing instruction's busy time is over, where the one before it has written its destination, and the
queued instruction begins; what it has read of its sources by then is what it computes with (R258-R260; log 90). -/
def execUnitInstructionBegin (c : CoreId) (u : Engine) (s : State) : Out :=
  s.done (
    let mx := u == .matrix
    let q := s.core c
    let e := q.eng mx
    let start (s : State) : State := match e.queued with
      | some o => s.beginUnit c mx o none
      | none => s
    match e.running, e.ending with
    | none, _ => start s
    | some o, none => start (s.modCore c (·.setEng mx { e with running := none, ending := some (o, q.tt, q.zt) }))
    | some _, some _ => s)

/-- What a computation on earlier contents changed, put into a table. -/
def tabMerge {β : Type} [DecidableEq β] (d : β) (old new now : Tab β) : Tab β :=
  ((old ++ new).map (·.1)).foldl (fun l k => if tabGet d old k = tabGet d new k then l else tabSet d l k (tabGet d new k)) now

/-- What an instruction computed on the tiles it read, put into a destination tile as it stands (R260). -/
def Core.takeResult (q old new : Core) (i : Nat) : Core :=
  if i < 16 then q.setT i { q.tTile i with data := tabMerge 0 (old.tTile i).data (new.tTile i).data (q.tTile i).data }
  else q.setZ (i - 16) { q.zTile (i - 16) with data := tabMerge 0 (old.zTile (i - 16)).data (new.zTile (i - 16)).data (q.zTile (i - 16)).data }

/-- What a unit's instruction writes and raises. -/
def Core.runUnit (q : Core) (mx : Bool) (o : UnitOp) : Core × FFlags := if mx then q.runMma o else q.runVec o

/-- The instruction that completes next: its results in the tiles, its flags, and the unit without it. -/
def Core.unitResult (q : Core) (mx : Bool) : Option (UnitOp × Core × FFlags) :=
  let e := q.eng mx
  match e.ending with
  | some (o, tt, zt) =>
    let old := { q with tt := tt, zt := zt }
    let (new, fl) := old.runUnit mx o
    some (o, ((q.takeResult old new (tTd o.word)).takeResult old new (tTd o.word + 1)).setEng mx { e with ending := none }, fl)
  | none => e.running.map fun o =>
    let (new, fl) := q.runUnit mx o
    (o, new.setEng mx { e with running := none }, fl)

/-- UNIT_INSTRUCTION_COMPLETE: the destination is written, flags are set in the issuing thread, and the signal fires
(R260, R261, R278). -/
def execUnitInstructionComplete (c : CoreId) (u : Engine) (s : State) : Out :=
  s.done (
    let mx := u == .matrix
    match (s.core c).unitResult mx with
    | none => s
    | some (o, q, fl) =>
      let dropped := namesTiles o.word
      let s := s.setCore c (q.dropReuse fun x => x.1 == tTd o.word && dropped.contains x.1)
      let s := s.incFld (if mx then aMX_STAT c else aVX_STAT c) MX_STAT.DONE 1
      (s.modThr c o.thr (·.raiseLate fl o.pc o.priv)).land c o.thr o.key)

end Sys2Proof.Machine
end

