-- ==== Sys2Proof/Machine/Access.lean ====
section
/-! DEFINITION. What comes back to a core: data of loads and atomics (R125, R191), line fills (R321, R324, R326, R330),
acknowledged writes (R124), page walks (R106-R111), request timeouts (R415), and the invalidation of
translations (R112, R327). -/

namespace Sys2Proof.Machine

/-! Loads and atomics -/

/-- A load or returning operation is over for its thread: the register is no longer owed, its signal fires, and an
instruction stalled on its result goes on (R125, R150, R191). -/
def State.paid (s : State) (c : CoreId) (t : Thr) (key rt : Nat) : State :=
  let s := s.modThr c t fun th =>
    let th := { th with owed := th.owed.filter fun o => o ≠ (rt, key) ∧ (o.2 = key → 0x30 ≤ o.1 ∨ o.1 < 0x20), steps := th.steps.filter (·.1 ≠ key) }
    match th.stall with
    | .operand keys => if keys.contains key && !th.owed.any (fun o => keys.contains o.2) then th.wake else th
    | _ => th
  s.land c t key

/-- The address register that a load steps takes its new value as the load completes (R159). -/
def Thread.stepsDone (th : Thread) (key : Nat) : Thread :=
  (th.steps.filter (·.1 = key)).foldl (fun th x => th.writeA x.2.1 x.2.2) th

/-- The instruction address of a flight. -/
def Thread.flightPc (th : Thread) (key : Nat) : Addr := ((th.flights.find? (·.key = key)).map (·.pc)).getD th.pc

/-- The privilege at which a flight's instruction issued (R201). -/
def Thread.flightPriv (th : Thread) (key : Nat) : Nat := ((th.flights.find? (·.key = key)).map (·.priv)).getD th.priv

/-- Data of a load or returning operation arrives: the address register is stepped and the register written, or, poisoned, timed out
or denied, both left as they are and an imprecise exception raised (R110, R121, R125, R159, R203, R492). -/
def State.answer (s : State) (c : CoreId) (t : Thr) (key rt : Nat) (v : Word ⊕ Nat) : State :=
  let th := s.thr c t
  if th.owed.contains (rt, key) then
    let s := match v with
      | .inl v => s.modThr c t fun th => (th.stepsDone key).writeReg rt v
      | .inr vec => s.modThr c t (·.pendImprecise vec (th.flightPc key) (th.flightPriv key))
    (s.paid c t key rt).fenceWake c t
  else s.fenceWake c t

/-- How an access ended for the bytes asked: poison 0x0A, denial 0x03, timeout 0x0B. -/
def Txn.outcome (x : Txn) (pa n : Nat) (v : List Byte → Word) : Word ⊕ Nat :=
  match x.stage with
  | .denied => .inr 0x03
  | .lost => .inr 0x0B
  | _ => if x.badAt pa n then .inr 0x0A else .inl (v (x.bytesAt pa n))

/-- Whether an access has its answer. -/
def Txn.answered (x : Txn) : Bool := x.stage == .performed || x.stage == .denied || x.stage == .lost

/-- The answer of a load or atomic reaches its thread. -/
def State.respond (s : State) (x : Txn) : State :=
  match x.src with
  | .thread c _ =>
    match x.purpose with
    | .load t key rt kind => (s.dropTxn x.id).answer c t key rt (x.outcome x.addr (kindSize kind) (loadValue kind))
    | .fillLoad t key rt kind pa =>
      ((s.dropTxn x.id).installFill c x).answer c t key rt (x.outcome pa (kindSize kind) (loadValue kind))
    | .oldValue t key rt size signed =>
      let v := match x.stage with
        | .denied => .inr 0x03
        | .lost => .inr 0x0B
        | _ => if x.poisoned.isEmpty then
            .inl (if signed then BitVec.ofInt 64 (sext (8 * size) (ofBytes x.result)) else BitVec.ofNat 64 (ofBytes x.result))
          else .inr 0x0A
      (s.dropTxn x.id).answer c t key rt v
    | _ => s
  | _ => s

/-- ACCESS_RESPONSE: the data of a load, of a returning atomic or of a returning sync operation arrives (R125, R360,
R373). -/
def execAccessResponse (id : Nat) (s : State) : Out :=
  s.done (match s.txn id with
    | some x => if x.answered then s.respond x else s
    | none =>
      match s.takeSync id fun o => match o.kind with | .reply .. => true | _ => false with
      | some (o, s) =>
        match o.who, o.kind with
        | .thread c _, .reply t key rt v => s.answer c t key rt (.inl (BitVec.ofNat 64 v))
        | _, _ => s
      | none => s)

/-! Line fills -/

/-- A line enters the instruction cache (R322). -/
def State.icInstall (s : State) (c : CoreId) (l : Line) : State :=
  let k := (s.core c).icache
  let set := l.tag % 256
  let way := (k.find (s.icDis c) l.tag).getD (k.victim (s.icDis c) set)
  s.modCore c fun q => { q with icache := (q.icache.put set way (some l)).touch set way }

/-- What a thread's fetch or walk came to late: an imprecise exception; for the first instruction of a handler the core locks up
(R203, R212). -/
def State.fetchLost (s : State) (c : CoreId) (t : Thr) (vec : Nat) : State :=
  match (s.thr c t).entering with
  | some v => s.lockup c t v 5
  | none => s.modThr c t fun th => th.pendImprecise vec th.pc th.priv

/-- A fetched line reaches its thread: it fetches again, or takes 0x0A precisely, 0x03 or 0x0B (R203, R212, R321, R330). -/
def State.fetched (s : State) (c : CoreId) (t : Thr) (x : Txn) (cached : Bool) : State :=
  let s := s.dropTxn x.id
  let th := s.thr c t
  let waits := th.stall = .fetch
  if x.stage = .denied ∨ x.stage = .lost then
    (if waits then s.fetchLost c t (if x.stage = .denied then 0x03 else 0x0B) else s)
  else if !x.poisoned.isEmpty then
    (if waits then s.modThr c t fun th => (th.fault 0x0A 0 0 false true).wake else s)
  else
    let s := if cached && !x.cancelled && s.icOn c then s.icInstall c (Line.ofHome (x.addr / 64) x.result)
      else if cached then s
      else s.modThr c t fun th => { th with fetched := (x.addr / 64, x.result) :: th.fetched }
    if waits then s.modThr c t (·.wake) else s

/-- LINE_FILL_ARRIVAL: a line for the instruction cache, for a fetch past it, or for the side buffer arrives (R321,
R324, R326, R330). -/
def execLineFillArrival (id : Nat) (s : State) : Out :=
  s.done (match s.txn id with
    | none => s
    | some x =>
      if !x.answered then s
      else match x.src.core?, x.purpose with
        | some c, .fillInstr t => s.fetched c t x true
        | some c, .fetchOnce t => s.fetched c t x false
        | some c, .fillSide =>
          let s := s.dropTxn id
          if x.cancelled || x.stage != .performed || !x.poisoned.isEmpty || !s.dcOn c ||
              ((s.core c).dcache.find (s.dcDis c) (x.addr / 64)).isSome then s
          else s.modCore c (·.sideAdd (Line.ofHome (x.addr / 64) x.result))
        | _, _ => s)

/-! Writes -/

/-- WRITE_PERFORMED_ACK: a store, posted atomic or write-back of a core is acknowledged (R124); one that the region
protection table denied raises 0x03 in the thread (R492). -/
def execWritePerformedAck (id : Nat) (s : State) : Out :=
  s.done (match s.txn id with
    | none => s
    | some x =>
      if !x.answered then s
      else match x.src.core?, x.purpose with
        | some c, .stored t by_ =>
          let s := s.dropTxn id
          let s := if x.stage = .denied then s.modThr c t fun th =>
              th.pendImprecise 0x03 ((by_.map (·.1)).getD th.pc) ((by_.map (·.2)).getD th.priv)
            else s
          s.fenceWake c t
        | some c, .writeBack t =>
          let s := s.dropTxn id
          match t with
          | some t => s.fenceWake c t
          | none => s
        | _, _ => s)

/-! Page walks -/

/-- A maintenance instruction or PREF whose walk ends without a page performs nothing: it is over; of a PREF not even the address register
is stepped (R159, R163, R325). -/
def State.completeSoft (s : State) (c : CoreId) (t : Thr) (soft : Nat) : State :=
  match s.fetch c t with
  | .word w =>
    let key := (s.core c).nextKey
    let s := (s.modCore c fun k => { k with nextKey := key + 2 }).modThr c t fun th =>
      (if soft = 1 ∧ (mMode w = 1 ∨ mMode w = 2) then th.stepA w else th).wake
    (s.finish c t (wSig w) key .due).act c
  | _ => s

/-- A walk ends without a usable page for the thread that still waits on it: a fault, in a request phase at the row it
stopped at; nothing for PREF (R110, R163, R247). -/
def State.walkFault (s : State) (c : CoreId) (t : Thr) (vec cause va : Nat) (write fetch : Bool) (soft : Nat) : State :=
  if soft = 2 then s.completeSoft c t soft
  else (s.stopPhase c t).modThr c t fun th => (th.fault vec cause va write fetch).wake

/-- Whether a thread still waits on a walk of its own: no later one of it is under way. -/
def State.waitsOnWalk (s : State) (c : CoreId) (t : Thr) (id : Nat) : Bool :=
  (s.thr c t).stall == .walk && !s.txns.any fun x => x.src == .walker c t && decide (id < x.id)

/-- Reserved fields of a level-1 entry (R109). -/
def badEntry1 (e : Word) : Bool := wb e 14 1 != 0 || wb e 63 48 != 0

/-- A read of a thread's walk has returned (R106-R111). A walk whose page has been invalidated since it began installs nothing, and the
access that waits on it is tried again (R112). -/
def State.walkStep (s : State) (x : Txn) (c : CoreId) (t : Thr) (level va : Nat) (write fetch : Bool) (soft : Nat) : State :=
  let waits := s.waitsOnWalk c t x.id
  let s := s.dropTxn x.id
  let e : Word := BitVec.ofNat 64 (ofBytes x.result)
  let fault (vec cause : Nat) : State := if waits then s.walkFault c t vec cause va write fetch soft else s
  let late (vec : Nat) : State :=
    if !waits then s else if x.cancelled then s.modThr c t (·.wake) else if soft = 2 then s.completeSoft c t soft else s.fetchLost c t vec
  if x.cancelled then late 0
  else if x.stage = .denied then late 0x03
  else if x.stage = .lost then late 0x0B
  else if !x.poisoned.isEmpty then late 0x0A
  else if level = 1 then
    if badEntry1 e then fault 0x03 4
    else if PTE1.V.get e = 0 then fault 0x02 1
    else s.send (.walker c t) (l2Addr e va) (.read ((List.range 8).map (l2Addr e va + ·))) (.walk 2 va write fetch soft) [] none
  else if badEntry e then fault 0x03 4
  else if PTE2.V.get e = 1 then
    let (d, s) := s.draw
    let s := s.modCore c fun q => { q with tlb := tlbFill 256 d.toNat q.tlb (va / 2 ^ 21) e }
    if waits then s.modThr c t (·.wake) else s
  else if PTE2.DEEP.get e = 1 then
    (if !waits then s else if soft ≠ 0 then s.completeSoft c t soft else s.modThr c t (·.stallFor (.pageIn va)))
  else fault 0x02 1

/-! Timeouts -/

/-- A request of a core has no answer within 2^20 hs: its answer will be discarded, and 0x0B is raised (R245, R415,
R446). An atomic may still be performed at its home. -/
def State.timeOut (s : State) (x : Txn) : State :=
  let lost : Txn := { x with stage := .lost, result := [] }
  match x.src, x.purpose with
  | .thread _ _, .load .. | .thread _ _, .fillLoad .. => s.respond lost
  | .thread _ _, .oldValue t .. =>
    let s' := s.respond lost
    if x.stage = .performed then s'
    else { s' with txns := s'.txns ++ [{ x with purpose := .stored t none }] }
  | .thread c _, .fillInstr t => s.fetched c t lost true
  | .thread c _, .fetchOnce t => s.fetched c t lost false
  | .thread _ _, .tileRow .. => s.modTxn x.id fun _ => lost
  | .cache _, .fillSide => s.dropTxn x.id
  | .walker c t, .walk level va write fetch soft => s.walkStep lost c t level va write fetch soft
  | _, _ => s

/-- REQUEST_TIMEOUT (R415). -/
def execRequestTimeout (id : Nat) (s : State) : Out :=
  s.done (match s.txn id with
    | some x => if x.stage = .lost ∨ x.stage = .denied then s else s.timeOut x
    | none => s)

/-! Invalidation of translations -/

/-- Lines of the data cache and side buffer that pass a test are cleaned and invalidated (R327). -/
def State.purge (s : State) (c : CoreId) (sel : Nat → Bool) : State :=
  let s := s.dcMaint c none (fun _ l => sel l.tag) true true
  (s.modCore c fun q => { q with side := q.side.filter fun l => !sel l.tag }).cancelFills c false sel

/-- Walks under way of a core for the pages that pass a test install nothing (R112). -/
def State.cancelWalks (s : State) (c : CoreId) (sel : Nat → Bool) : State :=
  { s with txns := s.txns.map fun x => match x.purpose with
      | .walk _ va _ _ _ => if x.src.core? == some c && sel (va / 2 ^ 21) then { x with cancelled := true } else x
      | _ => x }

/-- TR_INV_ALL (R112, R327). -/
def State.trInvAll (s : State) (c : CoreId) : State :=
  (((s.modCore c fun q => { q with tlb := [] }).cancelWalks c fun _ => true).purge c fun _ => true).setFld (aTR_INV c) TR_INV.BUSY 1

/-- The physical page a core's translation of a virtual page names: by its translation cache, else by the tables. -/
def State.pageOf (s : State) (c : Nat) (vpn : Nat) : Option Nat :=
  match tabGet none (s.core c).tlb vpn with
  | some e => some (PTE2.PPA.get e)
  | none =>
    let va := vpn * 2 ^ 21
    let e1 := BitVec.ofNat 64 (s.load (l1Addr (s.reg (aTR_ROOT c)) va) 8)
    if PTE1.V.get e1 = 1 then some (PTE2.PPA.get (BitVec.ofNat 64 (s.load (l2Addr e1 va) 8))) else none

/-- TR_INV_ONE (R112, R327). -/
def State.trInvOne (s : State) (c : CoreId) (vpn : Nat) : State :=
  let page := s.pageOf c vpn
  let s := ((s.modCore c fun q => { q with tlb := tabDel q.tlb vpn }).cancelWalks c (· == vpn)).purge c fun tag =>
    page == some (tag * 64 / 2 ^ 21)
  (s.setFld (aTR_INV c) TR_INV.VPN vpn).setFld (aTR_INV c) TR_INV.BUSY 1

/-- TR_INV_ALL: every entry is invalidated (R112, R327). -/
def execTrInvAll (c : CoreId) (s : State) : Out := s.done (s.trInvAll c)

/-- TR_INV_ONE: the entry of a page is invalidated (R112, R327). -/
def execTrInvOne (c : CoreId) (vpn : Nat) (s : State) : Out := s.done (s.trInvOne c vpn)

/-- TR_INV_COMPLETE: every access that used a translation, and every write-back, has been performed (R112, R327). -/
def execTrInvComplete (c : CoreId) (s : State) : Out :=
  s.done (
    let busy := s.txns.any fun x => x.src.core? == some c && !x.answered &&
      (x.vpn.isSome || match x.purpose with | .writeBack _ => true | _ => false)
    if s.flag (aTR_INV c) TR_INV.BUSY && !busy then s.setFld (aTR_INV c) TR_INV.BUSY 0 else s)

end Sys2Proof.Machine
end

