-- ==== Sys2Proof/Machine/Alu.lean ====
section
/-! DEFINITION. Integer instructions (major 0x01), immediate instructions (0x10-0x1A) and the parameter
registers (0x47-0x49) (R142, R155, R157). -/

namespace Sys2Proof.Machine

/-- The registers a K-format instruction with `n` sources reads and writes (R144). -/
def kRegs (n : Nat) (w : Word) : List Nat := kRd w :: [kRs1 w, kRs2 w, kRs3 w].take n

/-- An integer instruction of function `fn` with `n` sources: rd takes the result (R155, R157). -/
def State.kInt (s : State) (c : CoreId) (t : Thr) (w : Word) (fn n : Nat) (f : Word → Word → Word → Word) : State :=
  s.issue c t w (fun w => wMajor w == 1 && kFn w == fn) (fun _ => checks [(kRes w != 0, 0x03)]) (kRegs n w)
    fun _ s => (s.modThr c t fun th =>
      th.writeReg (kRd w) (f (th.readReg (kRs1 w)) (th.readReg (kRs2 w)) (th.readReg (kRs3 w))), .due)

/-- ADD (R155). -/
def execAdd (c : CoreId) (t : Thr) (w : Word) (s : State) : Out :=
  s.done (s.kInt c t w 0x00 2 fun a b _ => a + b)

/-- SUB (R155). -/
def execSub (c : CoreId) (t : Thr) (w : Word) (s : State) : Out :=
  s.done (s.kInt c t w 0x01 2 fun a b _ => a - b)

/-- MUL: the low 64 bits of the product (R155). -/
def execMul (c : CoreId) (t : Thr) (w : Word) (s : State) : Out :=
  s.done (s.kInt c t w 0x02 2 fun a b _ => a * b)

/-- MULH: the high 64 bits of the signed product (R155). -/
def execMulh (c : CoreId) (t : Thr) (w : Word) (s : State) : Out :=
  s.done (s.kInt c t w 0x03 2 fun a b _ => BitVec.ofInt 64 (a.toInt * b.toInt / 2 ^ 64))

/-- MULHU: the high 64 bits of the unsigned product (R155). -/
def execMulhu (c : CoreId) (t : Thr) (w : Word) (s : State) : Out :=
  s.done (s.kInt c t w 0x04 2 fun a b _ => BitVec.ofNat 64 (a.toNat * b.toNat / 2 ^ 64))

/-- DIV: signed quotient, truncated; by zero every bit 1 (R155). -/
def execDiv (c : CoreId) (t : Thr) (w : Word) (s : State) : Out :=
  s.done (s.kInt c t w 0x05 2 fun a b _ => if b = 0 then BitVec.allOnes 64 else a.sdiv b)

/-- DIVU: unsigned quotient; by zero every bit 1 (R155). -/
def execDivu (c : CoreId) (t : Thr) (w : Word) (s : State) : Out :=
  s.done (s.kInt c t w 0x06 2 fun a b _ => if b = 0 then BitVec.allOnes 64 else a / b)

/-- REM: signed remainder with the sign of the dividend; by zero the dividend (R155). -/
def execRem (c : CoreId) (t : Thr) (w : Word) (s : State) : Out :=
  s.done (s.kInt c t w 0x07 2 fun a b _ => if b = 0 then a else a.srem b)

/-- REMU: unsigned remainder; by zero the dividend (R155). -/
def execRemu (c : CoreId) (t : Thr) (w : Word) (s : State) : Out :=
  s.done (s.kInt c t w 0x08 2 fun a b _ => if b = 0 then a else a % b)

/-- AND (R155). -/
def execAnd (c : CoreId) (t : Thr) (w : Word) (s : State) : Out :=
  s.done (s.kInt c t w 0x09 2 fun a b _ => a &&& b)

/-- OR (R155). -/
def execOr (c : CoreId) (t : Thr) (w : Word) (s : State) : Out :=
  s.done (s.kInt c t w 0x0A 2 fun a b _ => a ||| b)

/-- XOR (R155). -/
def execXor (c : CoreId) (t : Thr) (w : Word) (s : State) : Out :=
  s.done (s.kInt c t w 0x0B 2 fun a b _ => a ^^^ b)

/-- SHL by rs2[5:0] (R155). -/
def execShl (c : CoreId) (t : Thr) (w : Word) (s : State) : Out :=
  s.done (s.kInt c t w 0x0C 2 fun a b _ => a <<< (b.toNat % 64))

/-- SHR by rs2[5:0], logical (R155). -/
def execShr (c : CoreId) (t : Thr) (w : Word) (s : State) : Out :=
  s.done (s.kInt c t w 0x0D 2 fun a b _ => a >>> (b.toNat % 64))

/-- SAR by rs2[5:0], arithmetic (R155). -/
def execSar (c : CoreId) (t : Thr) (w : Word) (s : State) : Out :=
  s.done (s.kInt c t w 0x0E 2 fun a b _ => a.sshiftRight (b.toNat % 64))

/-- MIN, signed (R155). -/
def execMin (c : CoreId) (t : Thr) (w : Word) (s : State) : Out :=
  s.done (s.kInt c t w 0x0F 2 fun a b _ => if a.sle b then a else b)

/-- MAX, signed (R155). -/
def execMax (c : CoreId) (t : Thr) (w : Word) (s : State) : Out :=
  s.done (s.kInt c t w 0x10 2 fun a b _ => if a.sle b then b else a)

/-- MINU, unsigned (R155). -/
def execMinu (c : CoreId) (t : Thr) (w : Word) (s : State) : Out :=
  s.done (s.kInt c t w 0x11 2 fun a b _ => if a ≤ b then a else b)

/-- MAXU, unsigned (R155). -/
def execMaxu (c : CoreId) (t : Thr) (w : Word) (s : State) : Out :=
  s.done (s.kInt c t w 0x12 2 fun a b _ => if a ≤ b then b else a)

/-- SLT (R155). -/
def execSlt (c : CoreId) (t : Thr) (w : Word) (s : State) : Out :=
  s.done (s.kInt c t w 0x13 2 fun a b _ => if a.slt b then 1 else 0)

/-- SLTU (R155). -/
def execSltu (c : CoreId) (t : Thr) (w : Word) (s : State) : Out :=
  s.done (s.kInt c t w 0x14 2 fun a b _ => if a < b then 1 else 0)

/-- SEQ (R155). -/
def execSeq (c : CoreId) (t : Thr) (w : Word) (s : State) : Out :=
  s.done (s.kInt c t w 0x15 2 fun a b _ => if a = b then 1 else 0)

/-- SEL: rs1 if rs3 is not 0, else rs2 (R155). -/
def execSel (c : CoreId) (t : Thr) (w : Word) (s : State) : Out :=
  s.done (s.kInt c t w 0x16 3 fun a b d => if d ≠ 0 then a else b)

/-- POPC: number of 1 bits (R155). -/
def execPopc (c : CoreId) (t : Thr) (w : Word) (s : State) : Out :=
  s.done (s.kInt c t w 0x17 1 fun a _ _ => BitVec.ofNat 64 ((List.range 64).filter (bit a.toNat ·)).length)

/-- CLZ: leading zeros, 0-64 (R155). -/
def execClz (c : CoreId) (t : Thr) (w : Word) (s : State) : Out :=
  s.done (s.kInt c t w 0x18 1 fun a _ _ => BitVec.ofNat 64 (if a = 0 then 64 else 63 - Nat.log2 a.toNat))

/-- MOV (R155). -/
def execMov (c : CoreId) (t : Thr) (w : Word) (s : State) : Out :=
  s.done (s.kInt c t w 0x19 1 fun a _ _ => a)

/-- An immediate instruction of a major opcode: rd takes the result of rs and imm32 (R142, R157). -/
def State.lImmediate (s : State) (c : CoreId) (t : Thr) (w : Word) (major : Nat) (irregular : Thread → Option Nat)
    (f : Thread → Word → Word) : State :=
  s.issue c t w (fun w => wMajor w == major) irregular ([lRd w, lRs w] ++ lReads w)
    fun _ s => (s.modThr c t fun th => th.writeReg (lRd w) (f th (th.readReg (lRs w))), .due)

/-- imm32[31:6] must be 0 (R141). -/
def imm6 (w : Word) (th : Thread) : Option Nat := checks [(th.imm w / 64 != 0, 0x05)]

/-- ADDI (R157). -/
def execAddi (c : CoreId) (t : Thr) (w : Word) (s : State) : Out :=
  s.done (s.lImmediate c t w 0x10 (fun _ => none) fun th a => a + th.immS w)

/-- ANDI (R157). -/
def execAndi (c : CoreId) (t : Thr) (w : Word) (s : State) : Out :=
  s.done (s.lImmediate c t w 0x11 (fun _ => none) fun th a => a &&& th.immS w)

/-- ORI (R157). -/
def execOri (c : CoreId) (t : Thr) (w : Word) (s : State) : Out :=
  s.done (s.lImmediate c t w 0x12 (fun _ => none) fun th a => a ||| th.immS w)

/-- XORI (R157). -/
def execXori (c : CoreId) (t : Thr) (w : Word) (s : State) : Out :=
  s.done (s.lImmediate c t w 0x13 (fun _ => none) fun th a => a ^^^ th.immS w)

/-- SHLI (R157). -/
def execShli (c : CoreId) (t : Thr) (w : Word) (s : State) : Out :=
  s.done (s.lImmediate c t w 0x14 (imm6 w) fun th a => a <<< (th.imm w % 64))

/-- SHRI (R157). -/
def execShri (c : CoreId) (t : Thr) (w : Word) (s : State) : Out :=
  s.done (s.lImmediate c t w 0x15 (imm6 w) fun th a => a >>> (th.imm w % 64))

/-- SARI (R157). -/
def execSari (c : CoreId) (t : Thr) (w : Word) (s : State) : Out :=
  s.done (s.lImmediate c t w 0x16 (imm6 w) fun th a => a.sshiftRight (th.imm w % 64))

/-- LI; rs must be 0 (R157). -/
def execLi (c : CoreId) (t : Thr) (w : Word) (s : State) : Out :=
  s.done (s.lImmediate c t w 0x17 (fun _ => checks [(lRs w != 0, 0x03)]) fun th _ => th.immS w)

/-- LIH: imm32 above rs[31:0] (R157). -/
def execLih (c : CoreId) (t : Thr) (w : Word) (s : State) : Out :=
  s.done (s.lImmediate c t w 0x18 (fun _ => none) fun th a => BitVec.ofNat 64 (th.imm w * 2 ^ 32 + a.toNat % 2 ^ 32))

/-- SLTI (R157). -/
def execSlti (c : CoreId) (t : Thr) (w : Word) (s : State) : Out :=
  s.done (s.lImmediate c t w 0x19 (fun _ => none) fun th a => if a.slt (th.immS w) then 1 else 0)

/-- HADDR: a handle-window address; rd must be an A register (R157). -/
def execHaddr (c : CoreId) (t : Thr) (w : Word) (s : State) : Out :=
  s.done (s.lImmediate c t w 0x1A (fun th => checks [(!isA (lRd w), 0x04), (th.imm w / 64 != 0, 0x05)]) fun th a => BitVec.ofNat 64 (handleWindow + th.imm w % 64 * 2 ^ 38 + a.toNat % 2 ^ 38))

/-- A parameter instruction: PM must be 0 (R142, R151). -/
def State.param (s : State) (c : CoreId) (t : Thr) (w : Word) (major : Nat) (regs : List Nat) (f : Thread → Thread) : State :=
  s.issue c t w (fun w => wMajor w == major) (fun _ => checks [(lPM w, 0x03)]) regs
    fun _ s => (s.modThr c t f, .now)

/-- PMOV: P[PSEL] = rs (R142). -/
def execPmov (c : CoreId) (t : Thr) (w : Word) (s : State) : Out :=
  s.done (s.param c t w 0x47 [lRs w] fun th => th.writeP (lPsel w) (th.readReg (lRs w)))

/-- PADDI: P[PSEL] = P[PSEL] + sext(imm32) (R142). -/
def execPaddi (c : CoreId) (t : Thr) (w : Word) (s : State) : Out :=
  s.done (s.param c t w 0x48 [] fun th => th.writeP (lPsel w) (th.readP (lPsel w) + BitVec.ofInt 64 (sext 32 (lImm w))))

/-- PGET: rd = P[PSEL] (R142). -/
def execPget (c : CoreId) (t : Thr) (w : Word) (s : State) : Out :=
  s.done (s.param c t w 0x49 [lRd w] fun th => th.writeReg (lRd w) (th.readP (lPsel w)))

end Sys2Proof.Machine
end

