-- ==== Sys2Proof/Machine/Dma.lean ====
section
/-! DEFINITION. DMA channels: programs (R381-R383), MOVE (R384-R390), loops (R391), waits and signals (R392, R393),
FENCE, COMPLETE and HALT (R394-R398), starting and stopping (R378, R400, R401), errors (R402), and their
translation (R105, R407). -/

namespace Sys2Proof.Machine

/-! A channel -/

/-- The states of DMA_STAT.STATE. -/
def dmaRunning : Nat := 1
def dmaWaiting : Nat := 2
def dmaStopping : Nat := 3
def dmaStopped : Nat := 4
def dmaHalted : Nat := 5
def dmaInError : Nat := 6

/-- State, reason of waiting, program counter of a channel. -/
def State.dmaState (s : State) (ch : Nat) : Nat := s.fld (aDMA_STAT ch) DMA_STAT.STATE
def State.setDma (s : State) (ch st why : Nat) : State :=
  (s.setFld (aDMA_STAT ch) DMA_STAT.STATE st).setFld (aDMA_STAT ch) DMA_STAT.WHY why
def State.dmaPc (s : State) (ch : Nat) : Nat := s.fld (aDMA_PC ch) DMA_PC.ADDR * 32

/-- The image slot that holds a channel, and its starter's physical core (R376, R378). -/
def State.dmaSlot (s : State) (ch : Nat) : Nat := s.fld (aDMA_OWN ch) DMA_OWN.SLOT
def State.dmaStarter (s : State) (ch : Nat) : Nat :=
  ((s.image (s.dmaSlot ch)).bind (·.core (s.fld (aDMA_STAT ch) DMA_STAT.STARTER))).getD 0

/-- The channel window j of a core: its physical channel (R377). -/
def State.dmaWindow (s : State) (c j : Nat) : Option Nat :=
  if j < s.fld (aDMA_MAP c) DMA_MAP.COUNT then some (dieOfCore c * 32 + s.fld (aDMA_MAP c) DMA_MAP.BASE + j) else none

/-- 0x22 becomes pending in the starter's thread NTHREAD; discarded where the core has locked up (R378, R405). -/
def State.dmaIrq (s : State) (ch : Nat) : State :=
  let c := s.dmaStarter ch
  if (s.core c).lock ≠ 0 then s else s.interrupt c (Fin.ofNat 4 (s.fld (aDMA_CTRL ch) DMA_CTRL.NTHREAD)) 0x22

/-! Translation -/

/-- Key of a page in a die's translation cache. -/
def dmaKey (slot vpn : Nat) : Nat := slot * 2 ^ 27 + vpn

/-- The translations that a slot holds in a die's cache, by page. -/
def State.dmaPages (s : State) (d slot : Nat) : Tab (Option Word) :=
  (tabGet [] s.dmaTlb d).filterMap fun (k, e) => if k / 2 ^ 27 = slot then some (k % 2 ^ 27, e) else none

/-- Translate an address of a channel (R105, R110, R114). -/
def State.dmaXlat (s : State) (ch va : Nat) (write : Bool) : Xlat :=
  let c := s.dmaStarter ch
  let en := s.flag (aTR_ROOT c) TR_ROOT.EN
  let tlb := s.dmaPages (ch / 32) (s.dmaSlot ch)
  if handleWindow ≤ va then s.handleAccess c en tlb va write else translate en tlb va false write

/-- Resolve an access of a channel (R105, R110, R114, R387): of control space only writes to the starter's IMEM_PTR and
IMEM_DATA, the latter whole (R319). -/
def State.dmaResolve (s : State) (ch va n : Nat) (write : Bool) : Xlat :=
  let x := s.dmaXlat ch va write
  match x with
  | .ok pa _ _ =>
    (match homeOf s.ilv pa with
    | .control =>
      let ptr := coreBlk (s.dmaStarter ch) + 0x7000
      if !write then .fault 4 9
      else if (ptr ≤ pa ∧ pa + n ≤ ptr + 8) ∨ (pa = ptr + 8 ∧ n = 8) then x
      else .fault 4 0
    | .absent => .fault 3 9
    | _ => x)
  | _ => x

/-- Whether a write of a channel is a part of IMEM_DATA of its starter (R319). -/
def State.dmaPartial (s : State) (ch va n : Nat) : Bool :=
  match s.dmaXlat ch va true with
  | .ok pa _ _ => decide (pa / 8 * 8 = coreBlk (s.dmaStarter ch) + 0x7008 ∧ n < 8)
  | _ => false

/-- A walk sets out for a channel's access; `tag`: 0 program, 1 source, 2 destination, 3 completion queue. -/
def State.dmaWalk (s : State) (ch : DmaCh) (va : Nat) (write : Bool) (tag : Nat) : State :=
  if s.txns.any (fun x => x.src == .dmaWalker ch && !x.cancelled) then s
  else
    let root := s.reg (aTR_ROOT (s.dmaStarter ch))
    s.send (.dmaWalker ch) (l1Addr root va) (.read ((List.range 8).map (l1Addr root va + ·))) (.walk 1 va write false tag) [] none

/-- Whether a channel's fetch, head read or write is outstanding. -/
def State.dmaHas (s : State) (ch : DmaCh) (f : Txn → Bool) : Bool := s.txns.any fun x => x.src == .dma ch && !x.cancelled && f x
def Txn.isWrite (x : Txn) : Bool := match x.op with | .write _ => true | _ => false
def Txn.isProgram (x : Txn) : Bool := match x.purpose with | .program => true | _ => false

/-- The responses of a channel's requests that pass a test are not used (R390, R402). -/
def State.dmaForget (s : State) (ch : DmaCh) (f : Txn → Bool) : State :=
  { s with txns := s.txns.map fun (x : Txn) =>
      if (x.src == .dma ch || x.src == .dmaWalker ch) && f x then { x with cancelled := true } else x }

/-- A translation of a die's channels is no longer in use: DMA_TRINV.BUSY clears once none is (R407). -/
def State.dmaInvDone (s : State) (d : Nat) : State :=
  let busy := s.txns.any fun x => x.vpn.isSome && match x.src with | .dma ch => ch.val / 32 == d | _ => false
  if busy then s else s.setFld (aDMA_TRINV d) DMA_TRINV.BUSY 0

/-- A response of a channel has been taken. -/
def State.dmaTaken (s : State) (ch : DmaCh) (id : Nat) : State := (s.dropTxn id).dmaInvDone (ch / 32)

/-! Completion records and errors -/

/-- Whether the queue has room for the next record (R398). -/
def State.cqRoom (s : State) (ch : Nat) : Bool :=
  let q := 2 ^ s.fld (aDMA_CQBASE ch) DMA_CQBASE.LOG2N
  let w := s.reg (aDMA_CQSEQ ch)
  decide ((DMA_CQSEQ.SEQ.get w + 2 ^ 32 - DMA_CQSEQ.HEAD.get w) % 2 ^ 32 < q)

/-- Address of the next record's place in the ring (R397). -/
def State.cqPlace (s : State) (ch : Nat) : Nat :=
  let b := s.reg (aDMA_CQBASE ch)
  (DMA_CQBASE.BASE.get b * 32 + 32 * (s.fld (aDMA_CQSEQ ch) DMA_CQSEQ.SEQ % 2 ^ DMA_CQBASE.LOG2N.get b)) % 2 ^ 48

/-- The next record: status, IRQ and TAG, at an instruction (R397). -/
def State.cqRecord (s : State) (ch status : Nat) (irq : Bool) (tag pc : Nat) : List Byte :=
  let seq := s.fld (aDMA_CQSEQ ch) DMA_CQSEQ.SEQ
  let phase := (seq / 2 ^ s.fld (aDMA_CQBASE ch) DMA_CQBASE.LOG2N + 1) % 2
  toBytes 4 seq ++ toBytes 1 (s.fld (aDMA_OWN ch) DMA_OWN.INDEX) ++ toBytes 1 status ++
    toBytes 1 (phase + 2 * b2n (s.dma ch).poison + 4 * b2n irq) ++ toBytes 1 0 ++ toBytes 8 tag ++
    toBytes 8 (s.fld (aDMA_CNT ch) DMA_CNT.VALUE) ++ toBytes 6 pc ++ toBytes 2 (s.fld (aDMA_STAT ch) DMA_STAT.STARTER)

/-- A record set out for its home. -/
def State.cqWrite (s : State) (ch : DmaCh) (pa : Nat) (vpn : Option Nat) (bs : List Byte) (irq : Bool) : State :=
  let s := s.send (.dma ch) pa (.write (runOf pa bs)) (.record irq (s.dmaPc ch)) [] vpn
  (s.setFld (aDMA_CQSEQ ch) DMA_CQSEQ.SEQ (s.fld (aDMA_CQSEQ ch) DMA_CQSEQ.SEQ + 1)).modDma ch fun d => { d with poison := false }

/-- Translate through the tables in memory themselves, as a walk would find them. -/
def State.dmaPeek (s : State) (ch va : Nat) (write : Bool) : Xlat :=
  match s.dmaResolve ch va 32 write with
  | .walk va =>
    let e1 := BitVec.ofNat 64 (s.load (l1Addr (s.reg (aTR_ROOT (s.dmaStarter ch))) va) 8)
    let e2 := BitVec.ofNat 64 (s.load (l2Addr e1 va) 8)
    if badEntry1 e1 || PTE1.V.get e1 == 0 || badEntry e2 || PTE2.V.get e2 == 0 then .fault 2 1 else entryCheck e2 va false write
  | x => x

/-- An error stops the channel at the failing instruction, with an error record where there is room, and 0x22 (R402). Accesses
already requested complete; what their reads return is not used, and a parked WAIT is withdrawn (DEDUCED, log 94). -/
def State.dmaError (s : State) (ch : DmaCh) (code cause addr : Nat) : State :=
  let pc := s.dmaPc ch
  let s := ((s.setDma ch dmaInError 0).setReg (aDMA_ERR ch) (BitVec.ofNat 64 (code + cause * 2 ^ 8 + pc * 2 ^ 16))).setReg
    (aDMA_ERRADDR ch) (BitVec.ofNat 64 (addr % 2 ^ 48))
  let s := (s.modDma ch fun d => { d with fetched := none, begun := false, move := none, page := none }).dmaForget ch (!·.isWrite)
  let s := (s.withdraw (.dma ch)).2
  let s := if s.fld (aDMA_CQBASE ch) DMA_CQBASE.LOG2N ≠ 0 ∧ s.cqRoom ch then
      match s.dmaPeek ch (s.cqPlace ch) true with
      | .ok pa _ vpn => s.cqWrite ch pa vpn (s.cqRecord ch code false 0 pc) false
      | _ => s
    else s
  if s.flag (aDMA_CTRL ch) DMA_CTRL.NOERRIRQ then s else s.dmaIrq ch

/-- An error of an instruction the channel has left behind: the channel stops at that instruction (R390, R393, R402). -/
def State.dmaErrorAt (s : State) (ch : DmaCh) (pc code cause addr : Nat) : State :=
  (s.setFld (aDMA_PC ch) DMA_PC.ADDR (pc / 32)).dmaError ch code cause addr

/-- Whether a channel has a program under way, stopped or not, that an error can still end (R390, R402). -/
def State.dmaLive (s : State) (ch : Nat) : Bool :=
  [dmaRunning, dmaWaiting, dmaStopping, dmaStopped].contains (s.dmaState ch) && (s.image (s.dmaSlot ch)).any (·.active)

/-! Going from instruction to instruction -/

/-- A RUNNING channel with nothing fetched asks for the instruction at DMA_PC (R382). -/
def State.dmaGo (s : State) (ch : DmaCh) : State :=
  let d := s.dma ch
  if s.dmaState ch ≠ dmaRunning ∨ d.fetched.isSome ∨ d.page.isSome ∨ s.dmaHas ch (·.isProgram) then s
  else match s.dmaResolve ch (s.dmaPc ch) 32 false with
    | .fault _ cause => s.dmaError ch 2 cause (s.dmaPc ch)
    | .walk va => s.dmaWalk ch va false 0
    | .ok pa _ vpn => s.send (.dma ch) pa (.read ((List.range 32).map (pa + ·))) .program [] vpn

/-- An instruction completes: the next one, or with STOP taken the channel is STOPPED (R382, R401). -/
def State.dmaNext (s : State) (ch : DmaCh) (pc : Nat) : State :=
  let s := (s.setFld (aDMA_PC ch) DMA_PC.ADDR (pc / 32)).modDma ch fun d =>
    { d with fetched := none, begun := false, move := none, page := none }
  if s.dmaState ch = dmaStopping then s.setDma ch dmaStopped 0
  else (s.setDma ch dmaRunning 0).dmaGo ch

/-- On past the instruction at DMA_PC. -/
def State.dmaAdvance (s : State) (ch : DmaCh) : State := s.dmaNext ch (s.dmaPc ch + 32)

/-- Opcode and fields of an instruction. -/
def dmaOp (ws : List Word) : Nat := wb (ws.getD 0 0) 7 0

/-- Whether an instruction is not of the form R381 gives. -/
def dmaBad (ws : List Word) : Bool :=
  let (w0, w1, w2, w3) := (ws.getD 0 0, ws.getD 1 0, ws.getD 2 0, ws.getD 3 0)
  let rest := w1 != 0 || w2 != 0 || w3 != 0
  match dmaOp ws with
  | 1 => wb w0 31 15 != 0 || wb w1 63 48 != 0 || wb w2 63 48 != 0 || w3 != 0 || (wb w0 10 10 == 1 && w1 != 0) ||
      (wb w0 11 11 == 1 && w2 != 0)
  | 2 => wb w0 15 8 != 0 || wb w0 31 28 != 0 || rest || wb w0 27 16 == 0
  | 3 | 6 | 8 => wb w0 63 8 != 0 || rest
  | 4 | 5 => wb w0 63 8 != 0 || wb w1 15 10 != 0 || wb w1 31 26 != 0 || w2 != 0 || w3 != 0
  | 7 => wb w0 63 9 != 0 || w2 != 0 || w3 != 0
  | _ => true

/-- The instruction at DMA_PC, where the channel may begin or go on with one of an opcode. -/
def State.dmaAt (s : State) (ch : Nat) (op : Nat) : Option (List Word) :=
  let d := s.dma ch
  let st := s.dmaState ch
  if d.page.isNone && (st == dmaRunning || (st == dmaStopping && d.begun)) then
    d.fetched.filter fun ws => dmaOp ws == op
  else none

/-- DMA_FETCH: an instruction arrives and is decoded, or the channel ends with FETCH or BAD_INSTR (R381, R382, R402). -/
def execDmaFetch (id : Nat) (s : State) : Out :=
  s.done (match s.txn id with
    | none => s
    | some x =>
      match x.src, x.purpose with
      | .dma ch, .program =>
        if !x.answered then s
        else
          let s := s.dmaTaken ch id
          if x.cancelled ∨ s.dmaState ch ≠ dmaRunning then s
          else if x.stage ≠ .performed ∨ !x.poisoned.isEmpty then s.dmaError ch 2 0 (s.dmaPc ch)
          else
            let ws := (List.range 4).map fun i => BitVec.ofNat 64 (field x.result (8 * i) 8)
            if dmaBad ws then s.dmaError ch 1 0 (s.dmaPc ch) else s.modDma ch fun d => { d with fetched := some ws }
      | _, _ => s)

/-! MOVE -/

/-- Address of unit i on a side. -/
def Move.readAt (m : Move) (i : Nat) : Nat := va48 (if m.sfix then m.src else m.src + i * m.size)
def Move.writeAt (m : Move) (i : Nat) : Nat := va48 (if m.dfix then m.dst else m.dst + i * m.size)

/-- Reads of a MOVE set out in ascending order, as many as may be (R386, R387). -/
def State.dmaReads : Nat → State → DmaCh → State
  | 0, s, _ => s
  | n + 1, s, ch =>
    match (s.dma ch).move with
    | none => s
    | some m =>
      if m.units ≤ m.nextRead then s
      else
        let va := m.readAt m.nextRead
        match s.dmaResolve ch va m.size false with
        | .fault vec cause => s.dmaError ch (if vec = 4 then 4 else 3) cause va
        | .walk va => s.dmaWalk ch va false 1
        | .ok pa _ vpn =>
          State.dmaReads n ((s.send (.dma ch) pa (.read ((List.range m.size).map (pa + ·))) (.unit m.nextRead va (s.dmaPc ch)) [] vpn).modDma ch
            fun d => { d with move := some { m with nextRead := m.nextRead + 1 } }) ch

/-- MOVE completes: SA and DA stand after the last unit of an incrementing side (R384). -/
def State.moveDone (s : State) (ch : DmaCh) (m : Move) : State :=
  ((s.setFld (aDMA_SA ch) DMA_SA.ADDR (m.readAt m.units)).setFld (aDMA_DA ch) DMA_SA.ADDR (m.writeAt m.units)).dmaAdvance ch

/-- MOVE: it begins, or goes on requesting (R384-R387). -/
def execMove (ch : DmaCh) (s : State) : Out :=
  s.done (match s.dmaAt ch 1 with
    | none => s
    | some ws =>
      let w0 := ws.getD 0 0
      let room (s : State) : Nat := 64 - (s.txns.filter fun x => x.src == .dma ch && !x.isWrite).length
      if (s.dma ch).begun then State.dmaReads (room s) s ch
      else
        let size := 2 ^ wb w0 14 12
        let src := if wb w0 10 10 = 1 then s.fld (aDMA_SA ch) DMA_SA.ADDR else wb (ws.getD 1 0) 47 0
        let dst := if wb w0 11 11 = 1 then s.fld (aDMA_DA ch) DMA_SA.ADDR else wb (ws.getD 2 0) 47 0
        let len := wb w0 63 32
        let m : Move := ⟨size, wb w0 8 8 == 1, wb w0 9 9 == 1, src, dst, len / size, 0, 0⟩
        if src % size ≠ 0 ∨ dst % size ≠ 0 ∨ len % size ≠ 0 then
          s.dmaError ch 5 0 (if src % size ≠ 0 then src else dst)
        else if len = 0 then s.moveDone ch m
        else
          let s := s.modDma ch fun d => { d with begun := true, move := some m }
          State.dmaReads (room s) s ch)

/-- A unit's read has returned: it is written, poisoned where its data was; a fixed destination takes the units in their order (R385-R387,
R389; DEDUCED, log 95). -/
def State.moveUnit (s : State) (ch : DmaCh) (x : Txn) (i : Nat) : State :=
  match (if x.cancelled then none else (s.dma ch).move) with
  | none => s.dmaTaken ch x.id
  | some m =>
    if x.stage ≠ .performed then (s.dmaTaken ch x.id).dmaError ch 3 0 (m.readAt i)
    else if (s.dma ch).page.isSome ∨ (m.dfix ∧ i ≠ m.written) then s
    else
      let va := m.writeAt i
      match s.dmaResolve ch va m.size true with
      | .walk va => s.dmaWalk ch va true 2
      | .fault _ cause =>
        let t := s.dmaTaken ch x.id
        (if s.dmaPartial ch va m.size then t.setFld (aIMEM_STAT (s.dmaStarter ch)) IMEM_STAT.ERR 1 else t).dmaError ch 4 cause va
      | .ok pa _ vpn =>
        let s := s.dmaTaken ch x.id
        let bad := x.poisoned.map fun a => a - x.addr
        let bytes := (List.range m.size).map fun k =>
          (pa + k, x.result.getD k 0, bad.any fun b => b / 8 == k / 8)
        let s := s.send (.dma ch) pa (.write bytes) (.unit i va (s.dmaPc ch)) [] vpn
        let s := s.incFld (aDMA_CNT ch) DMA_CNT.VALUE m.size
        let s := if x.poisoned.isEmpty then s
          else (s.setFld (aDMA_STAT ch) DMA_STAT.POISON 1).modDma ch fun d => { d with poison := true }
        let m := { m with written := m.written + 1 }
        if m.written = m.units then s.moveDone ch m
        else State.dmaReads 1 (s.modDma ch fun d => { d with move := some m }) ch

/-- DMA_READ_RESPONSE: the read of a MOVE's unit, or of a queue's head word, returns (R386, R389, R398). -/
def execDmaReadResponse (id : Nat) (s : State) : Out :=
  s.done (match s.txn id with
    | none => s
    | some x =>
      match x.src, x.purpose with
      | .dma ch, .unit i _ _ => if x.answered && !x.isWrite then s.moveUnit ch x i else s
      | .dma ch, .cqHead =>
        if !x.answered then s
        else
          let s := s.dmaTaken ch id
          if x.cancelled ∨ s.dmaState ch ≠ dmaWaiting then s
          else if x.stage ≠ .performed ∨ !x.poisoned.isEmpty then s.dmaError ch 9 0 x.addr
          else
            let s := s.setFld (aDMA_CQSEQ ch) DMA_CQSEQ.HEAD (ofBytes x.result)
            if s.cqRoom ch then s.setDma ch dmaRunning 0 else s
      | _, _ => s)

/-! Loops -/

/-- Active loops. -/
def State.dmaDepth (s : State) (ch : Nat) : Nat := s.fld (aDMA_STAT ch) DMA_STAT.DEPTH

/-- DMA_LOOP (R391). -/
def execDmaLoop (ch : DmaCh) (s : State) : Out :=
  s.done (match s.dmaAt ch 2 with
    | none => s
    | some ws =>
      let w0 := ws.getD 0 0
      let d := s.dmaDepth ch
      let pc := s.dmaPc ch
      if d = 4 then s.dmaError ch 6 0 0
      else if wb w0 63 32 = 0 then s.dmaNext ch (va48 (pc + 32 * (wb w0 27 16 + 2)))
      else
        let start := (pc / 32 + 1 + 2 ^ 43 - s.fld (aDMA_PROG ch) DMA_PROG.ADDR) % 2 ^ 43
        let s := s.setReg (aDMA_LC ch d) (BitVec.ofNat 64 (wb w0 63 32 + start % 2 ^ 32 * 2 ^ 32))
        (s.setFld (aDMA_STAT ch) DMA_STAT.DEPTH (d + 1)).dmaAdvance ch)

/-- ENDLOOP (R391). -/
def execEndloop (ch : DmaCh) (s : State) : Out :=
  s.done (match s.dmaAt ch 3 with
    | none => s
    | some _ =>
      let d := s.dmaDepth ch
      if d = 0 then s.dmaError ch 6 0 0
      else
        let r := aDMA_LC ch (d - 1)
        let n := s.fld r DMA_LC.COUNT - 1
        let s := s.setFld r DMA_LC.COUNT n
        if n ≠ 0 then s.dmaNext ch (va48 ((s.fld (aDMA_PROG ch) DMA_PROG.ADDR + s.fld r DMA_LC.SIDX) * 32))
        else (s.setFld (aDMA_STAT ch) DMA_STAT.DEPTH (d - 1)).dmaAdvance ch)

/-! Waits and signals -/

/-- A descriptor that names no object of the image: logged in the starter's cluster, and the channel ends with SYNC
(R393). -/
def State.dmaBadObject (s : State) (ch : DmaCh) (desc : Word) : State :=
  let c := s.dmaStarter ch
  let k := clusterOfCore c
  let n := s.fld (aSERR_CTL k) SERR_CTL.NEXT
  let s := (s.setReg (aSERR k n) 0).setReg (aSERR k n + 8)
    (BitVec.ofNat 64 (0x8000 + ch.val + SC.INDEX.get desc * 2 ^ 32 + s.dmaSlot ch * 2 ^ 48))
  let s := (s.setFld (aSERR_CTL k) SERR_CTL.NEXT (n + 1)).incFld (aSERR_CTL k) SERR_CTL.COUNT 1
  let s := s.logErr 0x0205 0x0C k 1 (((s.image (s.dmaSlot ch)).map (·.handle)).getD 0) 0 (SC.INDEX.get desc)
  s.dmaError ch 7 0 0

/-- DMA_WAIT: a wait as a thread's, with CORE a workload core of the image (R392). -/
def execDmaWait (ch : DmaCh) (s : State) : Out :=
  s.done (match s.dmaAt ch 4 with
    | none => s
    | some ws =>
      let sc := ws.getD 1 0
      let c := s.dmaStarter ch
      let park (obj : SyncObj) (kind : SyncKind) : State :=
        ((s.sendSync (.dma ch) c obj kind (s.dmaSlot ch) (BitVec.ofNat 48 (s.dmaPc ch)) 0).setDma ch dmaWaiting 1).modDma ch
          fun d => { d with begun := true }
      match s.scObj c sc with
      | none => s.dmaBadObject ch sc
      | some (.counter k i) =>
        if SC.WAIT_N.get sc = 0 then s.dmaAdvance ch
        else park (.counter k i) (.wait (SC.WAIT_N.get sc) (SC.MODE.get sc == 0))
      | some (.barrier u) => park (.barrier u) .barrierWait)

/-- DMA_SIGNAL: add to a counter, or the starter's arrival (R392). -/
def execDmaSignal (ch : DmaCh) (s : State) : Out :=
  s.done (match s.dmaAt ch 5 with
    | none => s
    | some ws =>
      let sc := ws.getD 1 0
      let c := s.dmaStarter ch
      match s.scObj c sc with
      | none => s.dmaBadObject ch sc
      | some obj =>
        let kind : SyncKind := match obj with
          | .counter _ _ => .add (SC.SIG_N.get sc)
          | .barrier _ => .arrive
        (s.sendSync (.dma ch) c obj kind (s.dmaSlot ch) (BitVec.ofNat 48 (s.dmaPc ch)) 0).dmaAdvance ch)

/-! FENCE, COMPLETE, HALT -/

/-- FENCE and HALT complete once every earlier write of the channel has been performed (R394, R396). -/
def State.dmaFence (s : State) (ch : DmaCh) (halt : Bool) : State :=
  if s.dmaHas ch (·.isWrite) then s.modDma ch fun d => { d with begun := true }
  else if halt then
    ((s.setFld (aDMA_PC ch) DMA_PC.ADDR (s.dmaPc ch / 32 + 1)).setDma ch dmaHalted 0).modDma ch fun d =>
      { d with fetched := none, begun := false }
  else s.dmaAdvance ch

/-- FENCE (R394). -/
def execFence (ch : DmaCh) (s : State) : Out :=
  s.done (match s.dmaAt ch 6 with
    | none => s
    | some _ => s.dmaFence ch false)

/-- HALT (R396). -/
def execHalt (ch : DmaCh) (s : State) : Out :=
  s.done (match s.dmaAt ch 8 with
    | none => s
    | some _ => s.dmaFence ch true)

/-- COMPLETE: write the next record, waiting for room (R395, R397, R398). -/
def execComplete (ch : DmaCh) (s : State) : Out :=
  s.done (match s.dmaAt ch 7 with
    | none => s
    | some ws =>
      if s.fld (aDMA_CQBASE ch) DMA_CQBASE.LOG2N = 0 then s.dmaError ch 9 0 0
      else if !s.cqRoom ch then s.setDma ch dmaWaiting 2
      else
        let va := s.cqPlace ch
        match s.dmaResolve ch va 32 true with
        | .walk va => (s.modDma ch fun d => { d with begun := true }).dmaWalk ch va true 3
        | .fault _ cause => s.dmaError ch 9 cause va
        | .ok pa _ vpn =>
          let irq := wb (ws.getD 0 0) 8 8 == 1
          (s.cqWrite ch pa vpn (s.cqRecord ch 0 irq (ws.getD 1 0).toNat (s.dmaPc ch)) irq).dmaAdvance ch)

/-- DMA_CQ_HEAD_POLL: a channel that waits on a full queue reads the head word again (R398). -/
def execDmaCqHeadPoll (ch : DmaCh) (s : State) : Out :=
  s.done (
    if s.dmaState ch ≠ dmaWaiting ∨ s.fld (aDMA_STAT ch) DMA_STAT.WHY ≠ 2 ∨
        s.dmaHas ch (fun x => match x.purpose with | .cqHead => true | _ => false) then s
    else
      let b := s.reg (aDMA_CQBASE ch)
      let va := va48 (DMA_CQBASE.BASE.get b * 32 + 32 * 2 ^ DMA_CQBASE.LOG2N.get b)
      match s.dmaResolve ch va 4 false with
      | .walk va => s.dmaWalk ch va false 3
      | .fault _ cause => s.dmaError ch 9 cause va
      | .ok pa _ vpn => s.send (.dma ch) pa (.read ((List.range 4).map (pa + ·))) .cqHead [] vpn)

/-- A write of a channel was refused where it arrived: of a record, or of a MOVE's unit (R402). -/
def State.dmaRefused (s : State) (ch : DmaCh) : Purpose → State
  | .record _ pc => s.dmaErrorAt ch pc 9 0 0
  | .unit _ va pc => s.dmaErrorAt ch pc 4 0 va
  | _ => s

/-- DMA_WRITE_ACK: a write of a channel has been performed: a completion interrupt may become pending, a FENCE or HALT
complete (R394-R396). -/
def execDmaWriteAck (id : Nat) (s : State) : Out :=
  s.done (match s.txn id with
    | none => s
    | some x =>
      match x.src with
      | .dma ch =>
        if !x.answered || !x.isWrite then s
        else
          let s := s.dmaTaken ch id
          let s := match x.purpose with
            | .record true _ => if x.stage == Stage.performed && !x.cancelled then s.dmaIrq ch else s
            | _ => s
          let live := s.dmaState ch == dmaRunning || s.dmaState ch == dmaStopping
          if x.stage = .denied ∧ !x.cancelled ∧ s.dmaLive ch then s.dmaRefused ch x.purpose
          else match (s.dma ch).fetched with
            | some ws =>
              if (s.dma ch).begun && live && dmaOp ws == 6 then s.dmaFence ch false
              else if (s.dma ch).begun && live && dmaOp ws == 8 then s.dmaFence ch true else s
            | none => s
      | _ => s)

/-- DMA_TIMEOUT: a request of a channel has no response within 2^20 hs: the channel ends, and a later response is discarded (R390,
R402). -/
def execDmaTimeout (id : Nat) (s : State) : Out :=
  s.done (match s.txn id with
    | none => s
    | some x =>
      match x.src with
      | .dma ch | .dmaWalker ch =>
        if x.cancelled then s
        else
          let s := s.modTxn id fun x => { x with cancelled := true }
          let pc := s.dmaPc ch
          if !s.dmaLive ch then s
          else match x.purpose with
            | .unit _ va pc => s.dmaErrorAt ch pc 8 0 va
            | .record _ pc' => s.dmaErrorAt ch pc' 8 0 pc'
            | .walk _ va _ _ _ => s.dmaError ch 8 0 va
            | _ => s.dmaError ch 8 0 pc
      | _ => s)

/-! Starting and stopping -/

/-- START is accepted (R378, R400). -/
def State.dmaStart (s : State) (ch : DmaCh) (starter : Nat) : State :=
  if [0, dmaStopped, dmaHalted, dmaInError].contains (s.dmaState ch) then
    let s := [aDMA_SA ch, aDMA_DA ch, aDMA_CNT ch, aDMA_ERR ch, aDMA_ERRADDR ch, aDMA_LC ch 0, aDMA_LC ch 1, aDMA_LC ch 2,
      aDMA_LC ch 3].foldl (fun s a => s.setReg a 0) s
    let s := s.setReg (aDMA_STAT ch) (DMA_STAT.STARTER.put (DMA_STAT.STATE.put
      (DMA_STAT.REJ.put 0 (s.fld (aDMA_STAT ch) DMA_STAT.REJ)) dmaRunning) starter)
    let s := (s.setFld (aDMA_PC ch) DMA_PC.ADDR (s.fld (aDMA_PROG ch) DMA_PROG.ADDR)).modDma ch fun _ => Dma.reset
    (s.dmaForget ch (!·.isWrite)).dmaGo ch
  else s.setFld (aDMA_STAT ch) DMA_STAT.REJ 1

/-- STOP (R401). At a WAIT the wait's withdrawal makes the channel STOPPED. -/
def State.dmaStop (s : State) (ch : DmaCh) : State :=
  let st := s.dmaState ch
  let why := s.fld (aDMA_STAT ch) DMA_STAT.WHY
  if st = dmaRunning ∧ (s.dma ch).begun ∨ (st = dmaWaiting ∧ why = 3) then s.setDma ch dmaStopping 0
  else if st = dmaRunning ∨ (st = dmaWaiting ∧ why = 2) then
    (s.setDma ch dmaStopped 0).modDma ch fun d => { d with fetched := none, begun := false, page := none }
  else if st = dmaWaiting then s.setDma ch dmaStopping 1
  else s

/-- RESUME (R400). -/
def State.dmaResume (s : State) (ch : DmaCh) : State :=
  if s.dmaState ch = dmaStopped then (s.setDma ch dmaRunning 0).dmaGo ch else s

/-- A write of DMA_CTRL: NTHREAD and NOERRIRQ, then what it commands. -/
def State.dmaCtrl (s : State) (ch : DmaCh) (starter : Nat) (v : Word) : State :=
  let s := s.setReg (aDMA_CTRL ch) (fieldsWrite DMA_CTRL (s.reg (aDMA_CTRL ch)) v)
  let s := if DMA_CTRL.START.get v = 1 then s.dmaStart ch starter else s
  let s := if DMA_CTRL.STOP.get v = 1 then s.dmaStop ch else s
  if DMA_CTRL.RESUME.get v = 1 then s.dmaResume ch else s

/-- A register of a channel written through a core's window (R377). -/
def State.dmaFromCore (s : State) (c : CoreId) (j : Nat) (f : State → DmaCh → Nat → State) : State :=
  match s.dmaWindow c j, s.boundTo c with
  | some ch, some (_, w) => if h : ch < 128 then f s ⟨ch, h⟩ w else s
  | _, _ => s

/-- A thread's write of channel j's window at an offset: a supervisor's, of a channel its core has; any other is discarded and raises
access violation (R102, R377). -/
def State.dmaFromThread (s : State) (c : CoreId) (t : Thr) (j o : Nat) (f : State → DmaCh → Nat → State) : State :=
  if !(s.thr c t).super ∨ s.fld (aDMA_MAP c) DMA_MAP.COUNT ≤ j then s.ctrlFault c t (coreBlk c + 0xA000 + j * 0x80 + o)
  else s.dmaFromCore c j f

/-- DMA_START (R400). -/
def execDmaStart (c : CoreId) (j : Nat) (t : Thr) (data : Word) (s : State) : Out :=
  s.done (s.dmaFromThread c t j 0 fun s ch w => s.dmaCtrl ch w (DMA_CTRL.START.put data 1))

/-- DMA_STOP (R401). -/
def execDmaStop (c : CoreId) (j : Nat) (t : Thr) (data : Word) (s : State) : Out :=
  s.done (s.dmaFromThread c t j 0 fun s ch w => s.dmaCtrl ch w (DMA_CTRL.STOP.put data 1))

/-- DMA_RESUME (R400). -/
def execDmaResume (c : CoreId) (j : Nat) (t : Thr) (data : Word) (s : State) : Out :=
  s.done (s.dmaFromThread c t j 0 fun s ch w => s.dmaCtrl ch w (DMA_CTRL.RESUME.put data 1))

/-- Whether DMA_PROG and DMA_CQBASE take writes (R399). -/
def State.dmaIdle (s : State) (ch : Nat) : Bool := !([dmaRunning, dmaWaiting, dmaStopping].contains (s.dmaState ch))

/-- A write of DMA_CQBASE (R398, R399). -/
def State.dmaCqbase (s : State) (ch : DmaCh) (v : Word) : State :=
  if s.dmaIdle ch then
    (s.setReg (aDMA_CQBASE ch) (fieldsWrite DMA_CQBASE (s.reg (aDMA_CQBASE ch)) v)).setReg (aDMA_CQSEQ ch) 0
  else s

/-- DMA_CQBASE_WRITE (R398, R399). -/
def execDmaCqbaseWrite (c : CoreId) (j : Nat) (t : Thr) (data : Word) (s : State) : Out :=
  s.done (s.dmaFromThread c t j 0x50 fun s ch _ => s.dmaCqbase ch data)

/-! Translations of channels -/

/-- Translations of a slot leave a die's cache, and what a walk under way for one has read is not used (R112, R407). -/
def State.dmaTrinv (s : State) (d : Nat) (slot : Nat) (vpn : Option Nat) : State :=
  let t := (tabGet [] s.dmaTlb d).filter fun (k, _) => !(k / 2 ^ 27 == slot && vpn.all (· == k % 2 ^ 27))
  let stale (x : Txn) : Bool := match x.src, x.purpose with
    | .dmaWalker ch, .walk _ va _ _ _ => ch.val / 32 == d && s.dmaSlot ch == slot && vpn.all (· == va / 2 ^ 21)
    | _, _ => false
  let s := { s with
    dmaTlb := tabSet [] s.dmaTlb d t
    txns := s.txns.map fun (x : Txn) => if stale x then { x with cancelled := true } else x }
  let s := (s.setFld (aDMA_TRINV d) DMA_TRINV.SLOT slot).setFld (aDMA_TRINV d) DMA_TRINV.BUSY 1
  let s := match vpn with
    | some v => s.setFld (aDMA_TRINV d) DMA_TRINV.VPN v
    | none => s
  s.dmaInvDone d

/-- DMA_TRINV_ALL (R407). -/
def execDmaTrinvAll (d : Die) (slot : Slot) (s : State) : Out := s.done (s.dmaTrinv d slot none)

/-- DMA_TRINV_ONE (R407). -/
def execDmaTrinvOne (d : Die) (slot : Slot) (vpn : Nat) (s : State) : Out := s.done (s.dmaTrinv d slot (some vpn))

/-- The error a channel's failed walk leads to, by what the walk was for. -/
def walkError (tag : Nat) : Nat := [2, 3, 4, 9].getD tag 9

/-- A read of a channel's walk has returned (R108-R111, R387, R407). -/
def State.dmaWalkStep (s : State) (x : Txn) (ch : DmaCh) (level va : Nat) (write : Bool) (tag : Nat) : State :=
  let s := s.dropTxn x.id
  let e : Word := BitVec.ofNat 64 (ofBytes x.result)
  let fail (cause : Nat) : State := s.dmaError ch (walkError tag) cause va
  if !([dmaRunning, dmaWaiting, dmaStopping].contains (s.dmaState ch)) then s
  else if x.cancelled then s.dmaGo ch
  else if x.stage ≠ .performed ∨ !x.poisoned.isEmpty then fail 0
  else if level = 1 then
    if badEntry1 e then fail 4
    else if PTE1.V.get e = 0 then fail 1
    else s.send (.dmaWalker ch) (l2Addr e va) (.read ((List.range 8).map (l2Addr e va + ·))) (.walk 2 va write false tag) [] none
  else if badEntry e then fail 4
  else if PTE2.V.get e = 1 then
    let (d, s) := s.draw
    let die := ch.val / 32
    let t := tlbFill 512 d.toNat (tabGet [] s.dmaTlb die) (dmaKey (s.dmaSlot ch) (va / 2 ^ 21)) e
    ({ s with dmaTlb := tabSet [] s.dmaTlb die t } : State).dmaGo ch
  else if PTE2.DEEP.get e = 1 then
    let s := s.modDma ch fun d => { d with page := some va }
    if s.dmaState ch = dmaRunning then s.setDma ch dmaWaiting 3 else s
  else fail 1

/-- PAGE_WALK_READ_DONE: a read of a walk returns; the walk goes on, fills the translation cache, or ends (R108-R111). -/
def execPageWalkReadDone (id : Nat) (s : State) : Out :=
  s.done (match s.txn id with
    | none => s
    | some x =>
      if !x.answered then s
      else match x.src, x.purpose with
        | .walker c t, .walk level va write fetch soft => s.walkStep x c t level va write fetch soft
        | .dmaWalker ch, .walk level va write _ tag => s.dmaWalkStep x ch level va write tag
        | _, _ => s)

end Sys2Proof.Machine
end

