-- ==== Sys2Proof/Machine/Flash.lean ====
section
/-! DEFINITION. The boot flash (R476): its bytes, programs and erases, the boot state records (R479), the service
records (R533, R534) and the last-gasp area (R55, R57). -/

namespace Sys2Proof.Machine

/-! Bytes -/

/-- One byte of the boot flash; an unlisted byte is erased and reads 0xFF (log 17). -/
def State.flashByte (s : State) (a : Nat) : Byte := tabGet 0xFF s.mgmt.flash a

/-- Bytes of the boot flash from an address. -/
def State.flashBytes (s : State) (a n : Nat) : List Byte := (List.range n).map fun i => s.flashByte (a + i)

/-- Program bytes: a program clears bits and sets none (log 17). -/
def State.flashProgram (s : State) (a : Nat) (bs : List Byte) : State :=
  s.modMgmt fun m => { m with
    flash := ((List.range bs.length).zip bs).foldl
      (fun f (i, b) => tabSet 0xFF f (a + i) (tabGet 0xFF f (a + i) &&& b)) m.flash }

/-- Erase a range. -/
def State.flashErase (s : State) (a n : Nat) : State :=
  s.modMgmt fun m => { m with flash := m.flash.filter fun c => decide (c.1 < a ∨ a + n ≤ c.1) }

/-- Bases of the areas (R476). -/
def bankBase (b : Nat) : Nat := b * 0x1F0_0000
def bankSize : Nat := 0x1F0_0000
def bootRecBase : Nat := 0x3E0_0000
def certBase : Nat := 0x3E8_0000
def svcBase : Nat := 0x3F0_0000
def lgBase : Nat := 0x3F8_0000
/-- Pages of 256 bytes in each of the record areas. -/
def areaPages : Nat := 2048

/-- The pages of an area that hold a programmed byte, in order. -/
def State.usedPages (s : State) (base : Nat) : List Nat :=
  s.mgmt.flash.foldr (fun c l =>
    if base ≤ c.1 ∧ c.1 < base + areaPages * 256 then
      (let p := (c.1 - base) / 256; if l.head? = some p then l else p :: l)
    else l) []

/-- A page of an area. -/
def State.page (s : State) (base p : Nat) : List Byte := s.flashBytes (base + p * 256) 256

/-- A record page: 252 bytes and their CRC-32. -/
def sealPage (bs : List Byte) : List Byte :=
  let b := (bs ++ zeros 252).take 252
  b ++ toBytes 4 (crc32 b)

/-- Whether a page carries a magic and a correct CRC. -/
def pageOk (magic : Nat) (bs : List Byte) : Bool :=
  field bs 0 4 == magic && field bs 0xFC 4 == crc32 (bs.take 252)

/-- The page after the newest one of an area, records going round it in ascending order: an erased page, or the first of a
sector that is erased for it. -/
def State.freshPage : Nat → State → Nat → Nat → State × Nat
  | 0, s, _, p => (s, p)
  | n + 1, s, base, p =>
    let p := p % areaPages
    if !(s.usedPages base).contains p then (s, p)
    else if p % 16 = 0 then (s.flashErase (base + p * 256) 4096, p)
    else State.freshPage n s base (p + 1)

/-- Append one page behind page `last` of an area. -/
def State.appendPage (s : State) (base : Nat) (last : Option Nat) (bs : List Byte) : State × Nat :=
  let (s, p) := State.freshPage 17 s base ((last.map (· + 1)).getD 0)
  (s.flashProgram (base + p * 256) bs, p)

/-! Boot state records (R479) -/

/-- A boot state record: SEQ, bank in force, bank on trial (0xFF none), tries, boot count. -/
structure BootRec where
  seq : Nat
  active : Nat
  trial : Nat
  tries : Nat
  count : Nat
deriving DecidableEq, Repr

/-- The record in force, with its page. -/
def State.bootRec (s : State) : Option (BootRec × Nat) :=
  (s.usedPages bootRecBase).foldl (fun best p =>
    let b := s.page bootRecBase p
    if pageOk 0x4253_5452 b then
      let r : BootRec := ⟨field b 4 4, field b 8 1, field b 9 1, field b 10 1, field b 12 4⟩
      match best with
      | some (q, _) => if q.seq < r.seq then some (r, p) else best
      | none => some (r, p)
    else best) none

/-- What the ROM takes where no record is valid (R480). -/
def State.bootRecOr (s : State) : BootRec := (s.bootRec.map (·.1)).getD ⟨0, 0, 0xFF, 0, 0⟩

/-- Append a boot state record; its SEQ is one above the one in force. -/
def State.putBootRec (s : State) (r : BootRec) : State :=
  (s.appendPage bootRecBase (s.bootRec.map (·.2)) (sealPage (toBytes 4 0x4253_5452 ++ toBytes 4 (s.bootRecOr.seq + 1) ++
    toBytes 1 r.active ++ toBytes 1 r.trial ++ toBytes 1 r.tries ++ toBytes 1 0 ++ toBytes 4 r.count))).1

/-- Whether a supply warning is on, so that programs and erases are held (R52). -/
def State.warned (s : State) : Bool := s.flag aSUPPLY_STAT SUPPLY_STAT.WARN

/-! Service records (R533) -/

/-- A service record as its slots show it: SEQ, type, first page, slots, content. -/
structure SvcRec where
  seq : Nat
  type : Nat
  page : Nat
  slots : Nat
  content : List Byte
deriving DecidableEq, Repr

/-- The valid records of the service-record area. -/
def State.svcRecs (s : State) : List SvcRec :=
  (s.usedPages svcBase).filterMap fun p =>
    let b := s.page svcBase p
    let n := field b 6 1
    let good (i : Nat) : Bool :=
      let q := s.page svcBase ((p + i) % areaPages)
      pageOk 0x5352_4543 q && field q 4 1 == field b 4 1 && field q 5 1 == i && field q 6 1 == n && field q 8 4 == field b 8 4
    if field b 5 1 = 0 ∧ 0 < n ∧ pageOk 0x5352_4543 b ∧ (List.range n).all good then
      some ⟨field b 8 4, field b 4 1, p, n,
        (List.range n).flatMap fun i => ((s.page svcBase ((p + i) % areaPages)).drop 12).take 240⟩
    else none

/-- The newest valid record of a type. -/
def State.svcNewest (s : State) (type : Nat) : Option SvcRec :=
  (s.svcRecs.filter (·.type = type)).foldl (fun best r => match best with
    | some b => if b.seq < r.seq then some r else best
    | none => some r) none

/-- The last record appended. -/
def State.svcLast (s : State) : Option SvcRec :=
  s.svcRecs.foldl (fun best r => match best with
    | some b => if b.seq < r.seq then some r else best
    | none => some r) none

/-- Write one record behind the last one. -/
def State.svcPut (s : State) (type slots : Nat) (content : List Byte) : State :=
  let last := s.svcLast
  let seq := (last.map (·.seq + 1)).getD 0
  let start := last.map fun r => (r.page + r.slots + areaPages - 1) % areaPages
  ((List.range slots).foldl (fun (r : State × Option Nat) i =>
    let bs := toBytes 4 0x5352_4543 ++ toBytes 1 type ++ toBytes 1 i ++ toBytes 1 slots ++ toBytes 1 0 ++ toBytes 4 seq ++
      ((content.drop (240 * i)).take 240)
    let (s, p) := r.1.appendPage svcBase r.2 (sealPage bs)
    (s, some p)) (s, start)).1

/-- Append a service record; of the sectors about to be erased the records still in force are appended again before it
(R534). During a supply warning it waits (R52). -/
def State.svcAppend (s : State) (type slots : Nat) (content : List Byte) : State :=
  if s.warned then s.modMgmt fun m => { m with svcWait := m.svcWait ++ [(type, slots, content)] } else
  let next := (s.svcLast.map fun r => (r.page + r.slots + areaPages - 1) % areaPages / 16 + 1).getD 0
  let ahead := (List.range 4).map fun i => (next + i) % 128
  let kept := ([1, 2, 3, 4, 5, 6, 7].filterMap s.svcNewest).filter fun r =>
    r.type ≠ type && (List.range r.slots).any fun i => ahead.contains ((r.page + i) % areaPages / 16)
  let s := s.forAll kept fun s r => s.svcPut r.type r.slots r.content
  s.svcPut type slots content

/-- Entries of a record of repairs, 16 bytes each: source kind, index, value. -/
def repairEntries (content : List Byte) : List (List Byte) :=
  ((List.range 15).map fun i => (content.drop (16 * i)).take 16).filter fun e => field e 0 1 != 0

/-- A repair enters the record of its type, which holds the newest 15 (R533, R534). -/
def State.svcRepair (s : State) (type kind index value : Nat) : State :=
  let old := ((s.svcNewest type).map fun r => repairEntries r.content).getD []
  let new := old ++ [toBytes 1 kind ++ toBytes 3 0 ++ toBytes 4 index ++ toBytes 8 value]
  s.svcAppend type 1 ((new.drop (new.length - 15)).flatMap id)

/-! The last-gasp area (R55, R57) -/

/-- Pages pre-erased, outside a sector whose erase was abandoned. -/
def State.lgFreePages (s : State) : List Nat :=
  let used := s.usedPages lgBase
  (List.range areaPages).filter fun p => !used.contains p

/-- LG_FREE follows the area. -/
def State.lgCount (s : State) : State :=
  s.setFld aSUPPLY_STAT SUPPLY_STAT.LG_FREE (areaPages - (s.usedPages lgBase).length)

/-- The next pre-erased page: behind the last used one where that is erased, else the first erased one. -/
def State.lgNext (s : State) : Option Nat :=
  let used := s.usedPages lgBase
  let n := (used.getLast?.map (· + 1)).getD 0
  if n < areaPages then some n else s.lgFreePages.head?

end Sys2Proof.Machine
end

