-- ==== Sys2Proof/Machine/CacheCtl.lean ====
section
/-! DEFINITION. The load port of the pinned instruction memory (R319-R321), cache control and failing ways (R328-R333),
and the slices of die memory: scrub and row sparing (R313, R523). -/

namespace Sys2Proof.Machine

/-! The load port -/

/-- A number entered into a list once. -/
def insertNat (l : List Nat) (n : Nat) : List Nat := if l.contains n then l else n :: l

/-- A word enters the pinned instruction memory at IMEM_PTR; WORD advances; failed storage leaves it poisoned (R311, R319, R320). -/
def State.imemWrite (s : State) (c : CoreId) (v : Word) : State :=
  let i := s.fld (aIMEM_PTR c) IMEM_PTR.WORD
  let failed := (s.imemBad c).contains i
  let s := s.modCore c fun q =>
    { q with
      imem := tabSet 0 q.imem i v
      imemPoison := if failed then insertNat q.imemPoison i else q.imemPoison.filter (· ≠ i) }
  let s := if failed then s.incFld (aCORE_ERR c) CORE_ERR.IMEM_UE 1 else s
  (s.setFld (aIMEM_PTR c) IMEM_PTR.WORD (i + 1)).incFld (aIMEM_STAT c) IMEM_STAT.WORDS 1

/-- A write of fewer than 8 bytes is discarded and sets ERR (R319). -/
def State.imemPartial (s : State) (c : CoreId) : State := s.setFld (aIMEM_STAT c) IMEM_STAT.ERR 1

/-- IMEM_DATA_WRITE: by source (R319). -/
def execImemDataWrite (c : CoreId) (src : RegSource) (size : Nat) (data : Word) (s : State) : Out :=
  s.done (match src with
    | .core c' t =>
      if c' ≠ c ∨ !(s.thr c t).super then s.ctrlFault c' t (coreBlk c + 0x7008)
      else if size ≠ 8 then (s.imemPartial c).ctrlFault c t (coreBlk c + 0x7008)
      else s.imemWrite c data
    | .dma ch =>
      if s.dmaStarter ch ≠ c then s
      else if size ≠ 8 then (s.imemPartial c).dmaError ch 4 0 (coreBlk c + 0x7008)
      else s.imemWrite c data
    | .mgmt | .debug => if size ≠ 8 then s.imemPartial c else s.imemWrite c data
    | .host _ | .config _ => s)

/-! Cache control -/

/-- A write of CCTL: with DC_EN going to 0 the side buffer is discarded, its fills in flight with it; fills of the cache in flight are
installed (R328-R330). -/
def State.cctlWrite (s : State) (c : CoreId) (v : Word) : State :=
  let on := s.dcOn c
  let s := s.setReg (aCCTL c) (fieldsWrite CCTL (s.reg (aCCTL c)) v)
  if on && !s.dcOn c then s.modCore c fun q => { q with side := [] } else s

/-- CCTL_WRITE: by a supervisor thread of the core, or by Ahnal or a debug path (R102, R328). -/
def execCctlWrite (c : CoreId) (src : RegSource) (data : Word) (s : State) : Out :=
  s.done (match src with
    | .core c' t => if c' = c ∧ (s.thr c t).super then s.cctlWrite c data else s.ctrlFault c' t (aCCTL c)
    | .mgmt | .debug => s.cctlWrite c data
    | .host _ | .dma _ | .config _ => s)

/-- The count of a way in CWAYCNT. -/
def wayCount (icache : Bool) (way : Nat) : Field :=
  let o := 8 * way + if icache then 32 else 0
  ⟨o + 7, o, .ro, 0, []⟩

/-- Content of the service record of disabled ways (R533). -/
def State.waysRecord (s : State) : List Byte :=
  (List.range 1152).map fun c => BitVec.ofNat 8 (s.dcDis c + s.icDis c * 16)

/-- CACHE_WAY_DISABLE: a way's count has reached WAYLIM. Its dirty bytes are written back, and it is invalidated and
disabled, recorded by Ahnal; with two ways left it stays in use and RETIRE_REQ sets (R333, R516, R533). -/
def execCacheWayDisable (c : CoreId) (icache : Bool) (way : Fin 4) (s : State) : Out :=
  s.done (
    let dis := if icache then s.icDis c else s.dcDis c
    if bit dis way then s
    else
      let lim := s.fld (aCWAY c) CWAY.WAYLIM
      let n := s.fld (aCWAYCNT c) (wayCount icache way)
      let s := s.setFld (aCWAYCNT c) (wayCount icache way) (Nat.max n lim)
      if ((List.range 4).filter fun w => !bit dis w).length ≤ 2 then s.setFld (aCWAY c) CWAY.RETIRE_REQ 1
      else
        let here (k : Nat) : Bool := k % 4 == way.val
        let s := if icache then
            s.modCore c fun q => { q with icache := { q.icache with lines := q.icache.lines.filter fun x => !here x.1 } }
          else s.dcMaint c none (fun k _ => here k) true true
        let s := s.setFld (aCWAY c) (if icache then CWAY.IC_WAYDIS else CWAY.DC_WAYDIS) (dis + 2 ^ way.val)
        (s.logErr 0x0507 0x01 c 1 0 (way.val + if icache then 4 else 0) 0).svcAppend 4 5 s.waysRecord)

/-! Slices -/

/-- Physical address of a byte of a slice (R99). -/
def sliceAddr (d sl o : Nat) : Nat := 0x1000_0000_0000 + d * 0x1000_0000 + o / 256 * 8192 + sl * 256 + o % 256

/-- SLICE_REPAIR_GO: replace a row; with no spare row left FAIL sets (R313, R523). -/
def State.sliceGo (s : State) (d sl : Nat) : State :=
  if s.flag (aSLICE_STAT d sl) SLICE_STAT.SWAP then s
  else if 41 ≤ s.fld (aSLICE_STAT d sl) SLICE_STAT.SPARE_USED then
    ((s.setFld (aSLICE_REPAIR d sl) SLICE_REPAIR.FAIL 1).logErr 0x0509 0x03 (d * 32 + sl) 1 0 0 0).alert ALERT_SRC.EXHAUST
  else s.setFld (aSLICE_STAT d sl) SLICE_STAT.SWAP 1

/-- SLICE_REPAIR_GO (R523). -/
def execSliceRepairGo (d : Die) (sl : Fin 32) (row : Nat) (s : State) : Out :=
  s.done ((s.setFld (aSLICE_REPAIR d sl) SLICE_REPAIR.ROW row).sliceGo d sl)

/-- The spare row is in use; poisoned words arrive in it still poisoned (R313, R523). -/
def State.sliceCopied (s : State) (d : Die) (sl : Fin 32) : State :=
  (if s.flag (aSLICE_STAT d sl) SLICE_STAT.SWAP then
      let row := s.fld (aSLICE_REPAIR d sl) SLICE_REPAIR.ROW
      let i := d.val * 32 + sl.val
      let s := (s.setFld (aSLICE_STAT d sl) SLICE_STAT.SWAP 0).incFld (aSLICE_STAT d sl) SLICE_STAT.SPARE_USED 1
      let s := ({ s with sliceReports := s.sliceReports.filter (· ≠ (i, row)) }.logErr 0x0504 0x03 i 1 0 0 row).alert ALERT_SRC.SPARE
      s.svcRepair 3 0x03 i row
    else s)

/-- SLICE_SCRUB: one pass over a row: corrected words are counted, words found bad are poisoned; a row with two of the former or one of
the latter is reported (R311, R523). -/
def execSliceScrub (d : Die) (sl : Fin 32) (row corrected : Nat) (poisoned : List Nat) (s : State) : Out :=
  s.doneMem (
    let bad := (poisoned.filter (· < 256)).map fun w => sliceAddr d sl (row % 2048 * 2048 + w * 8) / 8
    let fresh := bad.filter fun w => !s.poison.contains w
    let s := (s.incFld (aSLICE_STAT d sl) SLICE_STAT.CE corrected).incFld (aSLICE_STAT d sl) SLICE_STAT.UE fresh.length
    let at_ := (d.val * 32 + sl.val, row % 2048)
    let s := if (2 ≤ corrected ∨ fresh ≠ []) ∧ ¬ s.sliceReports.contains at_ then { s with sliceReports := s.sliceReports ++ [at_] } else s
    (s, ⟨false, [], fresh.map fun w => (w, true)⟩))

end Sys2Proof.Machine
end

