-- ==== Sys2Proof/Machine/Rings.lean ====
section
/-! DEFINITION. The host ports: link and host memory writes (R445, R456), MSI-X, the event ring (R453), replies (R463), the
checks of a packet (R459), the head of a ring (R451), doorbells and ring registers (R447-R450), claims (R452),
PORT_RESET and what acts as it (R454), D3hot and wake (R441, R567). -/

namespace Sys2Proof.Machine

/-! The link -/

/-- The eight rings of a port. -/
def rings : List Ring := [0, 1, 2, 3, 4, 5, 6, 7]
def ports : List Port := [0, 1]
/-- The other port. -/
def Port.other (p : Port) : Port := if p = 0 then 1 else 0

/-- Whether packets of the module leave on a port. -/
def PortSt.live (q : PortSt) : Bool := q.up && !q.d3

/-- Put a packet on a link that is up. -/
def State.emitUp (s : State) (p : Port) (t : Tlp) : State := if (s.port p).live then s.emit p t else s

/-- An MSI-X message: sent, or pending in the PBA while its vector is masked (R440). -/
def State.msix (s : State) (p : Port) (vec : Nat) : State :=
  if s.fld (aMSIX p vec 1) MSIX1.MASK = 1 then s.setReg (aPBA p) (s.reg (aPBA p) ||| BitVec.ofNat 64 (2 ^ vec))
  else s.emitUp p (.msix vec)

/-- A bit of AER's uncorrectable status sets (R440; PRESUMED, PCI Express): 12 poisoned packet received, 14 completion timeout,
15 Completer Abort, 20 Unsupported Request. -/
def State.aerSet (s : State) (p : Port) (i : Nat) : State :=
  s.modPort p fun q => { q with aer := q.aer ||| 2 ^ i }

/-- Class code and Device ID of a port's function (R440). -/
def classCode : Nat := 0x12_0000
def State.deviceId (s : State) : Nat := 0x4B10 + s.grade.val

/-- A configuration write of a port's function takes a listed value: 0 the size of BAR2 as a power of two, 1 and 2 the codes of the
largest payload and read request, 3 that of the completion timeout and 4 its disabling, 5 to 7 AER's status (W1C), mask and severity
(R15, R440; PRESUMED, PCI Express). -/
def State.cfgWrite (s : State) (p : Port) (n v : Nat) : State :=
  s.modPort p fun q =>
    match n with
    | 0 => if 30 ≤ v ∧ v ≤ 40 then { q with bar2Log2 := v } else q
    | 1 => if v ≤ 2 then { q with mps := v } else q
    | 2 => if v ≤ 5 then { q with mrrs := v } else q
    | 3 => if [0, 1, 2, 5, 6, 9, 10, 13, 14].contains v then { q with ctoCode := v } else q
    | 4 => { q with ctoOff := bit v 0 }
    | 5 => { q with aer := q.aer ^^^ (q.aer &&& v) }
    | 6 => { q with aerMask := v % 2 ^ 32 }
    | 7 => { q with aerSev := v % 2 ^ 32 }
    | _ => q

/-- A bit of ERR_SUM sets; a message where it was 0 and ERR_CTRL asks for one. -/
def State.errSum (s : State) (p : Port) (f : Field) (v : Nat) : State :=
  let old := s.fld (aERR_SUM p) f
  let s := s.setFld (aERR_SUM p) f (old ||| v)
  if s.fld (aERR_SUM p) f ≠ old ∧ s.flag (aERR_CTRL p) ERR_CTRL.EN then s.msix p (s.fld (aERR_CTRL p) ERR_CTRL.VEC) else s

/-- A write of the module to host memory; discarded and counted where the port cannot send it (R445). -/
def State.hostWrite (s : State) (p : Port) (a : Nat) (bs : List Byte) (poisoned : Bool) : State :=
  if (s.port p).live then s.emit p (.write a bs poisoned) else s.incFld (aERR_LINK p) ERR_LINK.WIN_DROPPED 1

/-- The listed sizes of a ring; an unlisted LOG2N gives no slot (R448). -/
def ringSize (log2n : Nat) : Nat := if 1 ≤ log2n ∧ log2n ≤ 12 then 2 ^ log2n else 0

/-- Bytes of a reply or event (R463). -/
def replyBytes (tag op status flags seq index detail : Nat) (result : List Byte) : List Byte :=
  toBytes 4 tag ++ toBytes 2 op ++ toBytes 1 status ++ toBytes 1 flags ++ toBytes 4 seq ++ toBytes 2 index ++
    toBytes 2 detail ++ (result ++ zeros 16).take 16

/-- PHASE of reply k of a ring of q slots (R448). -/
def ringPhase (k q : Nat) : Nat := (k / q + 1) % 2

/-! The event ring -/

/-- An event of the event table (R453): written, or discarded and counted in LOST. In D3hot it asserts WAKE (R567). -/
def State.event (s : State) (p : Port) (code status : Nat) (result : List Byte) : State :=
  let q := ringSize (s.fld (aEVT_CTRL p) CC_CTRL.LOG2N)
  let k := s.fld (aEVT_STAT p) EVT_STAT.SEQ
  let used := (k + 2 ^ 32 - (s.reg (aEVT_CONS p)).toNat % 2 ^ 32) % 2 ^ 32
  let s := if (s.port p).d3 then s.modPort p fun x => { x with wake := true } else s
  if s.flag (aEVT_CTRL p) CC_CTRL.EN ∧ used < q then
    let a := CR_BASE.ADDR.get (s.reg (aEVT_BASE p)) * 4096 + 32 * (k % q)
    let s := s.hostWrite p a (replyBytes 0 code status (ringPhase k q + 4) k 0 0 result) false
    let s := s.setFld (aEVT_STAT p) EVT_STAT.SEQ (k + 1)
    if s.flag (aEVT_CTRL p) CC_CTRL.IRQ_EN then s.msix p (s.fld (aEVT_CTRL p) CC_CTRL.VEC) else s
  else (s.incFld (aEVT_STAT p) EVT_STAT.LOST 1).errSum p ERR_SUM.EVT_LOST 1

/-- An event to the owner of an image. -/
def State.eventOwner (s : State) (im : Image) (code status : Nat) : State :=
  match im.owner with
  | some p => s.event p code status (toBytes 4 im.handle)
  | none => s

/-! Packets -/

/-- How a parameter is checked (R459, check 2): any value, a host or module address that is a multiple of 8, or a value up to a
bound. -/
inductive Arg where
  | any | aligned | upTo (n : Nat)
deriving DecidableEq, Repr

/-- Who may issue a command. -/
inductive Who where
  | either | owner | steward
deriving DecidableEq, Repr

/-- A row of the command reference: whether the state machine answers it, who may issue it, whether it names an image, and its
parameters by offset and size. -/
structure Cmd where
  sm : Bool
  who : Who
  takes : Bool
  args : List (Nat × Nat × Arg)
deriving DecidableEq, Repr

/-- The command reference. -/
def cmdSpec : Nat → Option Cmd
  | 0x0001 => some ⟨true, .either, false, [(0, 8, .aligned)]⟩
  | 0x0002 => some ⟨false, .either, false, [(0, 8, .aligned)]⟩
  | 0x0003 => some ⟨true, .either, false, []⟩
  | 0x0010 => some ⟨false, .either, false, [(0, 8, .any), (8, 8, .any), (0x10, 8, .aligned), (0x18, 1, .upTo 1)]⟩
  | 0x0011 | 0x0012 | 0x0013 | 0x0014 => some ⟨false, .owner, true, []⟩
  | 0x0015 => some ⟨false, .either, true, []⟩
  | 0x0016 => some ⟨false, .either, true, [(0, 8, .aligned)]⟩
  | 0x0020 => some ⟨false, .owner, true, [(0, 8, .aligned), (8, 8, .aligned), (0x10, 8, .aligned), (0x18, 1, .upTo 3)]⟩
  | 0x0021 => some ⟨false, .owner, true, [(0, 8, .aligned), (8, 8, .aligned), (0x10, 8, .any)]⟩
  | 0x0022 => some ⟨false, .owner, true, [(0, 4, .any), (4, 1, .upTo 2), (8, 8, .any), (0x10, 8, .any)]⟩
  | 0x0030 => some ⟨false, .either, false, [(0, 8, .aligned), (8, 4, .any), (0x10, 8, .aligned), (0x18, 4, .any)]⟩
  | 0x0031 => some ⟨false, .steward, false, [(0, 8, .aligned), (8, 8, .any)]⟩
  | 0x0040 => some ⟨false, .owner, true, [(0, 2, .any), (2, 1, .upTo 15)]⟩
  | 0x0041 => some ⟨false, .owner, true, [(0, 2, .any), (2, 1, .upTo 15), (3, 1, .upTo 1)]⟩
  | 0x0042 | 0x0043 =>
    some ⟨false, .owner, true, [(0, 2, .any), (2, 1, .upTo 3), (3, 1, .upTo 3), (8, 8, .any), (0x10, 8, .any), (0x18, 8, .aligned)]⟩
  | 0x0044 => some ⟨false, .owner, true, [(0, 8, .any), (8, 8, .any), (0x10, 1, .upTo 2), (0x11, 1, .upTo 15)]⟩
  | 0x0050 => some ⟨false, .steward, false, [(0, 1, .upTo 2)]⟩
  | 0x0051 => some ⟨false, .either, false, [(0, 1, .upTo 1)]⟩
  | 0x0060 => some ⟨false, .either, false, [(0, 1, .upTo 1), (8, 8, .aligned)]⟩
  | 0x0061 => some ⟨false, .either, false, [(0, 8, .any), (8, 8, .any), (0x10, 8, .aligned), (0x18, 1, .upTo 1)]⟩
  | _ => none

/-- Fields of a packet (R457). -/
def pkOp (pk : List Byte) : Nat := field pk 0 2
def pkFlag (pk : List Byte) (i : Nat) : Bool := bit (field pk 2 1) i
def pkTag (pk : List Byte) : Nat := field pk 4 4
def pkHandle (pk : List Byte) : Nat := field pk 8 4
def pkWait (pk : List Byte) : Word := BitVec.ofNat 64 (field pk 0x10 8)
def pkSignal (pk : List Byte) : Word := BitVec.ofNat 64 (field pk 0x18 8)
def pkArg (pk : List Byte) (o n : Nat) : Nat := field pk (0x20 + o) n

/-- The row of a packet, PERSIST delete and SPARE_STATUS with OP 1 being issued by whom their own rules say. -/
def pkSpec (pk : List Byte) : Option Cmd :=
  (cmdSpec (pkOp pk)).map fun c =>
    if pkOp pk = 0x0022 ∧ pkArg pk 4 1 = 2 then { c with who := .either, takes := false }
    else if pkOp pk = 0x0060 ∧ pkArg pk 0 1 = 1 then { c with who := .steward } else c

/-- Whether a descriptor has a bit outside the fields of SC0-SC3. -/
def scReserved (d : Word) : Bool := fieldsWrite SC 0 d != d

/-- Check 2 of R459: whether a packet is of the form of R457 and its row. -/
def pkForm (c : Cmd) (pk : List Byte) : Bool :=
  let desc (d : Word) (on : Bool) : Bool := !(scReserved d || (d != 0 && !on) || (!c.takes && on))
  let args := if pkOp pk = 0x0010 then
      (if pkArg pk 0x18 1 = 1 then pkArg pk 0 8 < 2 ^ 32 else pkArg pk 0 8 % 8 == 0) else true
  let used (i : Nat) : Bool := c.args.any fun (o, n, _) => o ≤ i && i < o + n
  field pk 3 1 == 0 && field pk 0x0C 4 == 0 && decide (field pk 2 1 < 32) && !(c.sm && pkFlag pk 3) &&
    desc (pkWait pk) (pkFlag pk 0) && desc (pkSignal pk) (pkFlag pk 1) && (c.takes || pkHandle pk == 0) &&
    !(pkFlag pk 1 && SC.KIND.get (pkSignal pk) == 1) && args &&
    (c.args.all fun (o, n, k) => match k with
      | .any => true
      | .aligned => pkArg pk o n % 8 == 0
      | .upTo m => decide (pkArg pk o n ≤ m)) &&
    (List.range 32).all fun i => used i || pkArg pk i 1 == 0

/-- The image a handle names (R458). -/
def State.byHandle (s : State) (h : Nat) : Option (Slot × Image) :=
  match s.images[h % 16] with
  | some im => if im.handle = h then some (Fin.ofNat 16 h, im) else none
  | none => none

/-- The sync object a descriptor of a packet names for an image (R459, check 8). -/
def State.descObj (s : State) (slot : Nat) (im : Image) (d : Word) : Option SyncObj :=
  if SC.KIND.get d = 1 then
    (if SC.INDEX.get d < im.barriers.2 then some (.barrier (im.barriers.1 + SC.INDEX.get d)) else none)
  else match im.core (SC.CORE.get d) with
    | none => none
    | some q =>
      let k := clusterOfCore q
      if SC.INDEX.get d < s.fld (aSALLOC k slot) SALLOC.COUNT then
        some (.counter k (s.fld (aSALLOC k slot) SALLOC.BASE + SC.INDEX.get d)) else none

/-- Commands served in Winter (R40) and in fatal state (R505). -/
def winterServes : List Nat := [0x0001, 0x0002, 0x0016, 0x0030, 0x0060, 0x0051, 0x0050]
def fatalServes (pk : List Byte) : Bool :=
  [0x0001, 0x0002, 0x0016, 0x0030, 0x0061, 0x0003].contains (pkOp pk) || (pkOp pk == 0x0060 && pkArg pk 0 1 == 0)

/-- The checks of R459 in order: the packet with LAST resolved (R460), or status and detail of the first failure. DESIGN CHOICE: the
refusals of R40 apply while STATE is 2, not while it is 0b11 on the way into or out of Winter (log 25). -/
def State.packetCheck (s : State) (p : Port) (r : Ring) (pk : List Byte) : List Byte ⊕ (Nat × Nat) :=
  match pkSpec pk with
  | none => .inr (0x22, 0x0001)
  | some c =>
    let deep := pkOp pk = 0x0022 ∨ ((pkOp pk = 0x0010 ∨ pkOp pk = 0x0061) ∧ pkArg pk 0x18 1 = 1)
    let handoff := pkOp pk = 0x0051 ∧ pkArg pk 0 1 = 0
    let winter := s.fld aPWR_STATE PWR_STATE.STATE = 2 ∧ ¬ winterServes.contains (pkOp pk)
    if !pkForm c pk then .inr (0x22, 0x0002)
    else if deep ∧ !s.deepPresent then .inr (0x20, 0)
    else if (c.who = .steward ∨ handoff) ∧ s.mgmt.steward ≠ p then .inr (0x23, 0)
    else if !c.takes then (if winter then .inr (0x10, 0x0005) else .inl pk)
    else
      let h := if pkHandle pk = 0xFFFF_FFFF then ((s.port p).rings[r]).last else some (pkHandle pk)
      match h.bind fun h => (s.byHandle h).map fun x => (h, x) with
      | none => .inr (0x22, 0x0003)
      | some (h, slot, im) =>
        if c.who = .owner ∧ im.owner ≠ some p then .inr (0x21, 0)
        else if winter then .inr (0x10, 0x0005)
        else if (pkFlag pk 0 ∧ (s.descObj slot im (pkWait pk)).isNone) ∨ (pkFlag pk 1 ∧ (s.descObj slot im (pkSignal pk)).isNone) then
          .inr (0x22, 0x0004)
        else .inl (putField pk 8 4 h)

/-! Replies -/

/-- A ring's hidden state. -/
def State.ring (s : State) (p : Port) (r : Ring) : RingSt := (s.port p).rings[r]
def State.modRing (s : State) (p : Port) (r : Ring) (f : RingSt → RingSt) : State :=
  s.modPort p fun q => { q with rings := q.rings.set r (f q.rings[r]) }

/-- Whether a pair takes packets and replies (R450). -/
def State.pairOn (s : State) (p : Port) (r : Ring) : Bool := s.flag (aCR_CTRL p r) CR_CTRL.EN && s.flag (aCC_CTRL p r) CC_CTRL.EN

/-- CR_STAT.OUT: accepted packets of the ring without a final reply. -/
def State.outStat (s : State) (p : Port) (r : Ring) : State :=
  s.setFld (aCR_STAT p r) CR_STAT.OUT (s.claimed.filter fun q => q.port == p && q.ring == r && !q.orphan).length

/-- A reply is written to a pair's completion ring, and MSI-X follows; one due to a disabled pair is discarded and counted
(R448, R450, R463). -/
def State.replyTo (s : State) (p : Port) (r : Ring) (index : Nat) (pk : List Byte) (kind status detail : Nat) (result : List Byte)
    (syncErr orphan : Bool) : State :=
  let q := ringSize (s.fld (aCC_CTRL p r) CC_CTRL.LOG2N)
  if orphan || !s.pairOn p r || q == 0 then s.incFld (aCC_DROP p r) CC_DROP.DROPPED 1
  else
    let k := s.fld (aCC_STAT p r) CC_STAT.SEQ
    let flags := ringPhase k q + kind * 2 + b2n syncErr * 8
    let s := s.hostWrite p (CR_BASE.ADDR.get (s.reg (aCC_BASE p r)) * 4096 + 32 * (k % q))
      (replyBytes (pkTag pk) (pkOp pk) status flags k index detail result) false
    let s := s.setFld (aCC_STAT p r) CC_STAT.SEQ (k + 1)
    if s.flag (aCC_CTRL p r) CC_CTRL.IRQ_EN && !pkFlag pk 2 then s.msix p (s.fld (aCC_CTRL p r) CC_CTRL.VEC) else s

/-- The signal descriptor of a packet fires (R461); whether it is a sync error. -/
def State.hostSignal (s : State) (p : Port) (r : Ring) (pk : List Byte) : Bool × State :=
  if !pkFlag pk 1 then (false, s)
  else match s.byHandle (pkHandle pk) with
    | none => (false, s)
    | some (slot, im) =>
      match s.descObj slot im (pkSignal pk) with
      | some (.counter k i) =>
        let n := SC.SIG_N.get (pkSignal pk)
        if 2 ^ 32 ≤ s.counter k i + n then
          (true, s.syncLog ⟨0, .ring p r, 0xC000 + p.val, .counter k i, .add n, slot, 0, 0⟩ 2 (s.counter k i) n)
        else (false, s.setCounter k i (s.counter k i + n))
      | _ => (false, s)

/-- Completion slots free and unreserved (R449). -/
def State.slotsFree (s : State) (p : Port) (r : Ring) (need : Nat) : Bool :=
  let w := s.reg (aCC_STAT p r)
  let used := (CC_STAT.SEQ.get w + 2 ^ 32 - CC_STAT.CONSUMED.get w) % 2 ^ 32 + (s.ring p r).reserved
  decide (used + need ≤ ringSize (s.fld (aCC_CTRL p r) CC_CTRL.LOG2N))

/-! The head of a ring -/

/-- CR_STAT.STATE. -/
def State.ringState (s : State) (p : Port) (r : Ring) (st : Nat) : State := s.setFld (aCR_STAT p r) CR_STAT.STATE st

/-- The head packet is accepted: HEAD advances (R451, step 5). -/
def State.popHead (s : State) (p : Port) (r : Ring) : State :=
  (s.setFld (aCR_STAT p r) CR_STAT.HEAD (s.fld (aCR_STAT p r) CR_STAT.HEAD + 1)).modRing p r fun q =>
    { q with ahead := q.ahead.drop 1, waitPassed := false, parked := false, toClaim := false, again := false }

/-- The head packet of a ring goes as far as it can through the steps of R451, and the next behind it. -/
def State.ringGo : Nat → State → Port → Ring → State
  | 0, s, _, _ => s
  | n + 1, s, p, r =>
    let q := s.ring p r
    if !s.pairOn p r || s.fld (aCR_STAT p r) CR_STAT.STATE == 5 || q.toClaim || q.parked || q.again then s
    else match q.ahead with
      | [] => s.ringState p r 1
      | (index, pk) :: rest =>
        if pkFlag pk 4 && s.fld (aCR_STAT p r) CR_STAT.OUT != 0 && !q.waitPassed then s.ringState p r 2
        else match (if q.waitPassed then .inl pk else s.packetCheck p r pk) with
          | .inr (status, detail) =>
            if !s.slotsFree p r 1 then s.ringState p r 4
            else State.ringGo n ((s.popHead p r).replyTo p r index pk 0 status detail [] false false) p r
          | .inl pk =>
            let s := s.modRing p r fun q => { q with ahead := (index, pk) :: rest }
            let wait : Option (SyncObj × SyncKind × Nat) :=
              if q.waitPassed || !pkFlag pk 0 then none
              else match s.byHandle (pkHandle pk) with
                | none => none
                | some (slot, im) => match s.descObj slot im (pkWait pk) with
                  | some (.counter k i) =>
                    if SC.WAIT_N.get (pkWait pk) = 0 then none
                    else some (.counter k i, .wait (SC.WAIT_N.get (pkWait pk)) (SC.MODE.get (pkWait pk) == 0), slot.val)
                  | some (.barrier u) => some (.barrier u, .barrierWait, slot.val)
                  | none => none
            match wait with
            | some (obj, kind, slot) =>
              ((s.sendSync (.ring p r) 1152 obj kind slot 0 0).modRing p r fun q => { q with parked := true }).ringState p r 3
            | none =>
              let need := if (pkSpec pk).any (·.sm) then 1 else 1 + b2n (pkFlag pk 3)
              if !s.slotsFree p r need then (s.modRing p r fun q => { q with waitPassed := true }).ringState p r 4
              else if s.flag (aFATAL_STAT 0) FATAL_STAT.FATAL && !fatalServes pk then
                let (bad, s) := (s.popHead p r).hostSignal p r pk
                State.ringGo n (s.replyTo p r index pk 0 0x3F 0 [] bad false) p r
              else (s.modRing p r fun q => { q with toClaim := true }).ringState p r 1

/-- Let a ring go on. -/
def State.advanceRing (s : State) (p : Port) (r : Ring) : State := State.ringGo 9 s p r

/-- The final reply of a packet: its signal fires, the reply is written, and the ring goes on (R451, R455, R461). -/
def State.finalTo (s : State) (p : Port) (r : Ring) (index : Nat) (pk : List Byte) (orphan : Bool) (status detail : Nat)
    (result : List Byte) : State :=
  let (bad, s) := s.hostSignal p r pk
  let s := if orphan then s else s.modRing p r fun q => { q with reserved := q.reserved - 1 }
  ((s.replyTo p r index pk 0 status detail result bad orphan).outStat p r).advanceRing p r

/-- A claimed command. -/
def State.claim? (s : State) (k : Nat) : Option Claimed := s.claimed.find? (·.id = k)

/-- The final reply of a claimed command. -/
def State.finalReply (s : State) (k : Nat) (status detail : Nat) (result : List Byte) : State :=
  match s.claim? k with
  | none => s
  | some q =>
    ({ s with claimed := s.claimed.filter (·.id ≠ k) } : State).finalTo q.port q.ring q.index q.packet q.orphan status detail result

/-- The slot that a claimed command's handle names; none where it names no image. -/
def Claimed.slot (q : Claimed) : Nat := pkHandle q.packet % 16

/-- A claimed command of an opcode, where Ahnal may begin it: the commands for one image run one at a time, in the order in
which it claimed them; a START that its image carries out, and a STOP that waits for the invocation's end, let the later ones go on
(R467). -/
def State.cmdReady (s : State) (k op : Nat) : Option Claimed :=
  match s.claim? k with
  | none => none
  | some q =>
    let takes (q : Claimed) : Bool := (pkSpec q.packet).any (·.takes)
    if pkOp q.packet = op ∧ !q.begun ∧
        !((s.claimed.takeWhile (·.id ≠ k)).any fun e =>
          takes e && takes q && !(e.begun && (pkOp e.packet == 0x0011 || pkOp e.packet == 0x0012)) && e.slot == q.slot) then some q else none

/-! Fetching, doorbells, ring registers -/

/-- A ring enters ERROR (R447). -/
def State.ringError (s : State) (p : Port) (r : Ring) (code : Nat) : State :=
  ((s.ringState p r 5).setFld (aCR_STAT p r) CR_STAT.ERR code).errSum p ERR_SUM.RING (2 ^ r.val)

/-- A read of host memory by the module failed: it is counted (R446). -/
def State.hostReadFailed (s : State) (p : Port) : HostData → State
  | .data _ => s
  | .unsupported | .aborted => (s.incFld (aERR_HOST p) ERR_HOST.UR_CA 1).errSum p ERR_SUM.HOST 1
  | .timeout => ((s.incFld (aERR_HOST p) ERR_HOST.CTO 1).aerSet p 14).errSum p ERR_SUM.HOST 1
  | .poisoned => ((s.incFld (aERR_HOST p) ERR_HOST.POISONED 1).aerSet p 12).errSum p ERR_SUM.HOST 1

/-- Whether a packet read again is the one that was read, its handle resolved (R460). -/
def samePacket (old new : List Byte) : Bool :=
  putField new 8 4 (pkHandle old) == old && (pkHandle new == pkHandle old || pkHandle new == 0xFFFF_FFFF)

/-- The head packet has been read again: one that the host has written anew goes through the steps of R451 from the first, the wait of
the one before it withdrawn (R447). -/
def State.headAgain (s : State) (p : Port) (r : Ring) (i : Nat) (bs : List Byte) : State :=
  if (s.ring p r).ahead.head?.any fun x => samePacket x.2 bs then s.modRing p r fun q => { q with again := false }
  else ((s.withdraw (.ring p r)).2).modRing p r fun q =>
    { q with ahead := [(i, bs)], waitPassed := false, parked := false, toClaim := false, again := false }

/-- PACKET_FETCH: the next packet of a ring, up to 8 ahead of HEAD, arrives, or the head again, and the head goes on (R447, R450,
R451). -/
def execPacketFetch (p : Port) (r : Ring) (bytes : HostData) (s : State) : Out :=
  s.done (
    let q := s.ring p r
    let w := s.reg (aCR_STAT p r)
    let i := (CR_STAT.HEAD.get w + if q.again then 0 else q.ahead.length) % 65536
    if !s.pairOn p r || CR_STAT.STATE.get w == 5 || decide (8 ≤ q.ahead.length) || i == CR_STAT.TAIL.get w || !(s.port p).live then s
    else match bytes with
      | .data bs => (if q.again then s.headAgain p r i bs else s.modRing p r fun q => { q with ahead := q.ahead ++ [(i, bs)] }).advanceRing p r
      | x => (s.hostReadFailed p x).ringError p r 2)

/-- Whether TAIL is further ahead of HEAD than the ring holds (R447). -/
def State.overrun (s : State) (p : Port) (r : Ring) : Bool :=
  let w := s.reg (aCR_STAT p r)
  decide (2 ^ s.fld (aCR_CTRL p r) CR_CTRL.LOG2N < (CR_STAT.TAIL.get w + 65536 - CR_STAT.HEAD.get w) % 65536)

/-- A doorbell of a command ring: packets read ahead are read again, the head in its place where it has begun its steps (R447). -/
def State.ringBell (s : State) (p : Port) (r : Ring) (n : Nat) : State :=
  let s := s.setFld (aCR_STAT p r) CR_STAT.TAIL n
  if !s.flag (aCR_CTRL p r) CR_CTRL.EN || s.fld (aCR_STAT p r) CR_STAT.STATE == 5 then s
  else if s.overrun p r then s.ringError p r 1
  else s.modRing p r fun q =>
    let begun := q.parked || q.waitPassed || q.toClaim
    { q with ahead := if begun then q.ahead.take 1 else [], again := begun }

/-- A host's write of BAR0: in D3hot it is not taken (R441). -/
def State.fromHost (s : State) (p : Port) (t : State) : Out := s.done (if (s.port p).d3 then s else t)

/-- DB_CR (R447). -/
def execDbCr (p : Port) (r : Ring) (n : BitVec 16) (s : State) : Out := s.fromHost p (s.ringBell p r n.toNat)

/-- DB_CC: replies consumed; a held packet may go on (R448, R449). -/
def State.ccBell (s : State) (p : Port) (r : Ring) (n : Nat) : State :=
  (s.setFld (aCC_STAT p r) CC_STAT.CONSUMED n).advanceRing p r

/-- DB_CC (R448). -/
def execDbCc (p : Port) (r : Ring) (n : BitVec 32) (s : State) : Out := s.fromHost p (s.ccBell p r n.toNat)

/-- DB_EVT (R453). -/
def execDbEvt (p : Port) (n : BitVec 32) (s : State) : Out := s.fromHost p (s.setReg (aEVT_CONS p) (n.setWidth 64))

/-- The wait of a ring's head is withdrawn (R364, R454). -/
def State.ringWithdraw (s : State) (p : Port) (r : Ring) : State :=
  if (s.ring p r).parked then ((s.withdraw (.ring p r)).2).modRing p r fun q => { q with parked := false } else s

/-- Acceptance on a pair stops: its waits are withdrawn, what it read ahead is dropped, and replies due to it will be discarded
(R450, R455). -/
def State.pairOff (s : State) (p : Port) (r : Ring) : State :=
  let s := (s.ringWithdraw p r).modRing p r fun q =>
    { q with ahead := [], waitPassed := false, toClaim := false, again := false, reserved := 0 }
  ({ s with claimed := s.claimed.map fun q => if q.port = p ∧ q.ring = r then { q with orphan := true } else q } : State).outStat p r

/-- The written control word: while the ring is enabled only its other fields change (R450). -/
def ctrlWord (fs : List Field) (old new : Word) : Word :=
  let w := fieldsWrite fs old new
  if CR_CTRL.EN.get old = 1 then CR_CTRL.LOG2N.put w (CR_CTRL.LOG2N.get old) else w

/-- CR_CTRL: enabling returns a ring in ERROR to RUNNING with HEAD = TAIL; an unlisted LOG2N is an error (R450). -/
def State.crCtrl (s : State) (p : Port) (r : Ring) (v : Word) : State :=
  let old := s.reg (aCR_CTRL p r)
  let s := s.setReg (aCR_CTRL p r) (ctrlWord CR_CTRL old v)
  let was := CR_CTRL.EN.get old == 1
  let now := s.flag (aCR_CTRL p r) CR_CTRL.EN
  if was && !now then (s.pairOff p r).ringState p r 0
  else if !was && now then
    let s := if s.fld (aCR_STAT p r) CR_STAT.ERR = 0 then s
      else (s.setFld (aCR_STAT p r) CR_STAT.ERR 0).setFld (aCR_STAT p r) CR_STAT.HEAD (s.fld (aCR_STAT p r) CR_STAT.TAIL)
    let s := s.ringState p r 1
    if ringSize (s.fld (aCR_CTRL p r) CR_CTRL.LOG2N) = 0 then s.ringError p r 3
    else if s.overrun p r then s.ringError p r 1 else s
  else s

/-- CC_CTRL (R450). -/
def State.ccCtrl (s : State) (p : Port) (r : Ring) (v : Word) : State :=
  let old := s.reg (aCC_CTRL p r)
  let s := s.setReg (aCC_CTRL p r) (ctrlWord CC_CTRL old v)
  let now := s.flag (aCC_CTRL p r) CC_CTRL.EN
  if CR_CTRL.EN.get old = 1 ∧ !now then s.pairOff p r else s

/-- CR_BASE: ignored while the ring is enabled; else HEAD and TAIL become 0 (R450). -/
def State.crBase (s : State) (p : Port) (r : Ring) (v : Word) : State :=
  if s.flag (aCR_CTRL p r) CR_CTRL.EN then s
  else ((s.setReg (aCR_BASE p r) (fieldsWrite CR_BASE 0 v)).setFld (aCR_STAT p r) CR_STAT.HEAD 0).setFld (aCR_STAT p r) CR_STAT.TAIL 0

/-- CC_BASE: SEQ and CONSUMED become 0 (R448). -/
def State.ccBase (s : State) (p : Port) (r : Ring) (v : Word) : State :=
  if s.flag (aCC_CTRL p r) CC_CTRL.EN then s else (s.setReg (aCC_BASE p r) (fieldsWrite CR_BASE 0 v)).setReg (aCC_STAT p r) 0

/-- EVT_BASE and EVT_CTRL, as of a completion ring (R453). -/
def State.evtBase (s : State) (p : Port) (v : Word) : State :=
  if s.flag (aEVT_CTRL p) CC_CTRL.EN then s
  else ((s.setReg (aEVT_BASE p) (fieldsWrite CR_BASE 0 v)).setFld (aEVT_STAT p) EVT_STAT.SEQ 0).setReg (aEVT_CONS p) 0
def State.evtCtrl (s : State) (p : Port) (v : Word) : State :=
  s.setReg (aEVT_CTRL p) (ctrlWord CC_CTRL (s.reg (aEVT_CTRL p)) v)

/-- CR_BASE_WRITE (R450). -/
def execCrBaseWrite (p : Port) (r : Ring) (v : Word) (s : State) : Out := s.fromHost p (s.crBase p r v)

/-- CC_BASE_WRITE (R450). -/
def execCcBaseWrite (p : Port) (r : Ring) (v : Word) (s : State) : Out := s.fromHost p (s.ccBase p r v)

/-- CR_CTRL_WRITE (R450). -/
def execCrCtrlWrite (p : Port) (r : Ring) (v : Word) (s : State) : Out := s.fromHost p (s.crCtrl p r v)

/-- CC_CTRL_WRITE (R450). -/
def execCcCtrlWrite (p : Port) (r : Ring) (v : Word) (s : State) : Out := s.fromHost p (s.ccCtrl p r v)

/-! Claims -/

/-- Ahnal accepts firmware commands; in recovery the ROM accepts FW_UPDATE (R452, R486). -/
def State.serves (s : State) (pk : List Byte) : Bool :=
  let m := s.activeMc
  s.fld (aBOOT_STAT m) BOOT_STAT.PHASE == 4 || (s.fld (aBOOT_STAT m) BOOT_STAT.PHASE == 0xE && pkOp pk == 0x0031)

/-- The head packet of a ring that has reached step 5; a ring in ERROR takes none (R450). -/
def State.atClaim (s : State) (p : Port) (r : Ring) (sm : Bool) : Option (Nat × List Byte) :=
  let q := s.ring p r
  if q.toClaim && !q.again && s.fld (aCR_STAT p r) CR_STAT.STATE != 5 then q.ahead.head?.filter fun x => (pkSpec x.2).any (·.sm == sm) else none

/-- FW_CLAIM: Ahnal claims the firmware command at the head: HEAD advances, its slots are reserved, and an acceptance reply is
written where asked for (R449, R451, R452). -/
def execFwClaim (p : Port) (r : Ring) (s : State) : Out :=
  s.done (match s.atClaim p r false with
    | none => s
    | some (index, pk) =>
      if !s.serves pk then s
      else
        let (id, s) := s.fresh
        let s := (s.popHead p r).modRing p r fun q => { q with reserved := q.reserved + 1 }
        let s := if pkFlag pk 3 then s.replyTo p r index pk 1 0x01 0 [] false false else s
        let s := ({ s with claimed := s.claimed ++ [⟨id, p, r, index, pk, false, false⟩] } : State).outStat p r
        s.advanceRing p r)

/-- FW_CLAIM_TIMEOUT: a firmware command not claimed in 180 us is answered INTERNAL, FW_DOWN (R452). -/
def execFwClaimTimeout (p : Port) (r : Ring) (s : State) : Out :=
  s.done (match s.atClaim p r false with
    | none => s
    | some (index, pk) =>
      let (bad, s) := (s.popHead p r).hostSignal p r pk
      (s.replyTo p r index pk 0 0x3F 0x000B [] bad false).advanceRing p r)

/-! Commands of the state machine -/

/-- Identification words that other state gives: ID_DEV, PORT_STAT (R440-R442). -/
def State.idDev (s : State) (p : Port) : Word :=
  BitVec.ofNat 64 (s.grade.val + 0xB0 * 2 ^ 8 + s.mgmt.moduleId % 8 * 2 ^ 16 + b2n s.deepPresent * 2 ^ 19 +
    gradeCores s.grade * 2 ^ 20 + p.val * 2 ^ 32 + b2n s.mgmt.bootSel * 2 ^ 33)
def State.portStat (s : State) (p : Port) : Word :=
  let w := s.reg (aPORT_STAT p)
  let w := PORT_STAT.STEWARD.put w (b2n (s.mgmt.steward == p))
  let w := PORT_STAT.OTHER_UP.put w (b2n (s.port (Port.other p)).up)
  PORT_STAT.WARN.put (PORT_STAT.PSTATE.put w (s.fld aPWR_STATE PWR_STATE.STATE)) (s.fld aSUPPLY_STAT SUPPLY_STAT.WARN)

/-- The words FEAT0 and FEAT2 (R182). -/
def feat0Word : Word := fieldsReset FEAT0
def feat2Word : Word := fieldsReset FEAT2

/-- Boot count since manufacture (R479). -/
def State.bootCount (s : State) : Nat := s.bootRecOr.count

/-- The record IDENTIFY writes (R473). -/
def State.identity (s : State) (p : Port) : List Byte :=
  toBytes 8 (s.idDev p).toNat ++ toBytes 8 (s.reg (aID_SERIAL p)).toNat ++ toBytes 8 (s.reg (aID_FW p)).toNat ++
    toBytes 8 feat0Word.toNat ++ toBytes 8 feat2Word.toNat ++ toBytes 8 (s.portStat p).toNat ++ toBytes 4 s.bootCount ++ zeros 12

/-- IDENTIFY (R473). -/
def execIdentify (p : Port) (r : Ring) (s : State) : Out :=
  s.done (match s.atClaim p r true with
    | none => s
    | some (index, pk) =>
      if pkOp pk ≠ 0x0001 then s
      else
        let s := (s.popHead p r).hostWrite p (pkArg pk 0 8) (s.identity p) false
        (s.replyTo p r index pk 0 0 0 [] false false).advanceRing p r)

/-- PORT_RESET, after its reply where a packet gave it (R454). -/
def State.portReset (s : State) (p : Port) : State :=
  let s := s.forAll rings fun s r =>
    let s := s.pairOff p r
    [aCR_BASE p r, aCR_CTRL p r, aCR_STAT p r, aCC_BASE p r, aCC_CTRL p r, aCC_STAT p r, aCC_DROP p r].foldl
      (fun s a => s.setReg a (resetAt a)) (s.modRing p r fun q => { RingSt.reset with last := q.last })
  [aEVT_BASE p, aEVT_CTRL p, aEVT_STAT p, aEVT_CONS p, aBAR2_BASE p, aHW_BASE p].foldl (fun s a => s.setReg a (resetAt a)) s

/-- PORT_RESET: by the packet at the head of a ring, or by PORT_CTRL.RESET (R454). -/
def execPortReset (p : Port) (pkt : Option Ring) (s : State) : Out :=
  s.done (match pkt with
    | none => s.portReset p
    | some r =>
      match s.atClaim p r true with
      | none => s
      | some (index, pk) =>
        if pkOp pk ≠ 0x0003 then s
        else
          let s := s.forAll rings fun s r => s.ringWithdraw p r
          ((s.popHead p r).replyTo p r index pk 0 0 0 [] false false).portReset p)

/-! Links -/

/-- A link goes down: it acts as PORT_RESET (R454, R456). -/
def State.linkLost (s : State) (p : Port) : State :=
  if !(s.port p).up then s
  else
    let s := ({ s with bar2 := s.bar2.filter (·.1 ≠ p) }.portReset p).modPort p fun q => { q with up := false, downLong := false }
    let s := (s.setFld (aPORT_STAT p) PORT_STAT.LANES 0).setFld (aPORT_STAT p) PORT_STAT.SPEED 0
    (s.incFld (aERR_LINK p) ERR_LINK.DOWN 1).errSum p ERR_SUM.LINK 1

/-- LINK_DOWN (R456). -/
def execLinkDown (p : Port) (s : State) : Out := s.done (s.linkLost p)

/-- LINK_UP: after training, with PWR_GOOD high, the port's PERST signal high and boot at step 3 or later (R456, R482, R562). -/
def execLinkUp (p : Port) (lanes speed : Nat) (s : State) : Out :=
  s.done (
    if (s.port p).up || (s.port p).perst || s.power != .on || s.fld (aBOOT_STAT 0) BOOT_STAT.PHASE == 0 then s
    else
      let s := s.modPort p fun q => { q with up := true, downLong := false }
      (s.setFld (aPORT_STAT p) PORT_STAT.LANES lanes).setFld (aPORT_STAT p) PORT_STAT.SPEED speed)

/-- Whether a port's link has been down for more than 100 ms: how long it has been down is a free value, asked until it is so
once (R456; log 19). -/
def State.downLong (s : State) (p : Port) : Bool × State :=
  let q := s.port p
  if q.up then (false, s)
  else if q.downLong then (true, s)
  else
    let (d, s) := s.draw
    let long := d.getLsbD 0
    (long, s.modPort p fun q => { q with downLong := long })

/-- D3HOT_ENTRY: the rings are disabled as PORT_RESET disables them (R441). -/
def execD3hotEntry (p : Port) (s : State) : Out :=
  s.done (
    let s := s.forAll rings fun s r =>
      let s := s.pairOff p r
      ((s.setFld (aCR_CTRL p r) CR_CTRL.EN 0).setFld (aCC_CTRL p r) CC_CTRL.EN 0).ringState p r 0
    (s.setFld (aEVT_CTRL p) CC_CTRL.EN 0).modPort p fun q => { q with d3 := true })

/-- RETURN_TO_D0: WAKE is released (R567). -/
def execReturnToD0 (p : Port) (s : State) : Out :=
  s.done (s.modPort p fun q => { q with d3 := false, wake := false })

/-- FUNCTION_LEVEL_RESET (R440, R454). -/
def execFunctionLevelReset (p : Port) (s : State) : Out := s.done (s.portReset p)

/-- PERST_ASSERT: ignored while PWR_GOOD is low; a PORT_RESET, the link down, WAKE released, D0, the function's configuration at reset
(R440, R562, R567). -/
def execPerstAssert (p : Port) (s : State) : Out :=
  s.done (
    if !s.pins.pwrGood then s
    else ((s.linkLost p).portReset p).modPort p fun q =>
      { PortSt.reset with up := q.up, downLong := q.downLong, rings := q.rings, out := q.out })

/-- PERST_DEASSERT: the port may train its link (R482, R562). -/
def execPerstDeassert (p : Port) (s : State) : Out :=
  s.done (if !s.pins.pwrGood then s else s.modPort p fun q => { q with perst := false })

end Sys2Proof.Machine
end

