-- ==== Sys2Proof/Machine/Paging.lean ====
section
/-! DEFINITION. Pages: the entries Ahnal writes (R106, R107), frames (R434), page-in (R111, R433, R436, R437), page-out
(R112, R435), the operations of the flash channels (R431, R435, R438) and their spare blocks (R439). -/

namespace Sys2Proof.Machine

/-- One operation that may write memory after another. -/
def andThen (r : State × MemUpd) (f : State → State × MemUpd) : State × MemUpd :=
  let (s, u) := f r.1
  (s, r.2.then u)

/-- A list of operations that may write memory, in order. -/
def State.eachMem {α : Type} (s : State) (l : List α) (f : State → α → State × MemUpd) : State × MemUpd :=
  l.foldl (fun r a => andThen r fun s => f s a) (s, .none)

/-- Change the deep tier's state. -/
def State.modDeep (s : State) (f : Deep → Deep) : State := { s with deep := f s.deep }

/-! Entries -/

/-- Physical address of a page's level-2 entry (R107). -/
def Image.pteAddr (im : Image) (vpn : Nat) : Option Nat :=
  (tabFind im.ptUsed (vpn / 2 ^ 15)).map fun t => t + vpn % 2 ^ 15 * 8

/-- The region of tier near, middle or deep that holds a virtual page, and the page's place in it. -/
def Image.regionOf (im : Image) (vpn : Nat) : Option (Region × Nat) :=
  (im.regions.find? fun r => decide (r.tier ≤ 2 ∧ r.base / 2 ^ 21 ≤ vpn ∧ vpn < (r.base + r.size) / 2 ^ 21)).map fun r =>
    (r, vpn - r.base / 2 ^ 21)

/-- The entry of a page of a region: present at a physical page, or to be paged in (R107, R433). -/
def State.pteWord (s : State) (r : Region) (page : Option Nat) : Nat :=
  r.perm % 8 * 2 + r.attrs % 2 * 16 + r.attrs / 4 % 2 * 64 + match page with
    | some g => 1 + g * 2 ^ 21 + b2n (s.ilv.contains g) * 32
    | none => 128

/-- Write 8 bytes of a page table. -/
def State.putTable (s : State) (a v : Nat) : State × MemUpd := s.writeHome (runOf a (toBytes 8 v))

/-- Write a page's entry. -/
def State.putPte (s : State) (im : Image) (r : Region) (vpn : Nat) (page : Option Nat) : State × MemUpd :=
  match im.pteAddr vpn with
  | some a => s.putTable a (s.pteWord r page)
  | none => (s, .none)

/-- A page's entry as memory holds it. -/
def State.pte (s : State) (im : Image) (vpn : Nat) : Word :=
  match im.pteAddr vpn with
  | some a => BitVec.ofNat 64 (s.load a 8)
  | none => 0

/-! Physical pages -/

/-- Pages of 2 MiB by number: near tier of a die, firmware's 16 GiB (R89, R90). -/
def diePages : Nat := 2 ^ 17
def firmwarePage (g : Nat) : Bool := decide (0x7E000 ≤ g ∧ g < 0x80000)

/-- The owner of a page or die-memory unit (R90, R92). -/
def State.ownerOf (s : State) (g : Nat) : Nat :=
  if firmwarePage g then (if g < 0x7F000 then 2 else 1) else tabGet 0 s.owner g
def State.setOwner (s : State) (g o : Nat) : State := { s with owner := tabSet 0 s.owner g o }

/-- A page changes hands, unless it is out of service (R418). -/
def State.giveOwner (s : State) (g o : Nat) : State := if s.ownerOf g = 1 then s else s.setOwner g o

/-- Whether a page is counted as an image's, present or not yet (R73, R433). -/
def State.reservedPage (s : State) (g : Nat) : Bool :=
  s.loadedSlots.any fun k => (s.image k).any fun im => im.regions.any fun r => decide (r.tier ≤ 1) && r.pages.contains g

/-- Whether a page is free. -/
def State.freePage (s : State) (g : Nat) : Bool := s.ownerOf g == 0 && !s.reservedPage g

/-- The frame reserve: 1,024 pages at the top of Ahnal's area (R434). -/
def frameReserve : List Nat := (List.range 1024).map (0x7FC00 + ·)

/-- A frame: a free near-tier page of a die, of any die, or of the reserve (R434). -/
def State.takeFrame (s : State) (die : Nat) : Option Nat :=
  let near (d : Nat) := ((List.range diePages).find? fun p => s.freePage (d * diePages + p)).map (d * diePages + ·)
  let held (g : Nat) : Bool := s.deep.frames.any fun f => f.2.2 == g
  (([die, 0, 1, 2, 3].filterMap near).head?).or (frameReserve.find? fun g => !held g)

/-- Units of a poison list leave it. -/
def State.plistDrop (s : State) (n lo count : Nat) : State :=
  let hit (u : Nat) : Bool := decide (lo ≤ u ∧ u < lo + count)
  if (s.tier n).plist.any hit then
    (s.modTier n fun t => { t with plist := t.plist.filter fun u => !hit u }).plistStat n
  else s

/-- The poison marks of a page clear, every byte of it being written (R417, R429). -/
def State.clearBad (s : State) (g : Nat) : State :=
  if g < 4 * diePages then
    let d := g / diePages
    let p := g % diePages
    if s.ilv.contains g then
      s.forAll (List.range 64) fun s c => s.plistDrop (s.ncOf c) ((p * 131072 + d * 32768) / 64) 512
    else s.forAll (List.range 16) fun s c => s.plistDrop (s.ncOf (d * 16 + c)) (p * 2048) 2048
  else
    let q := g - 4 * diePages
    let d := q / 2 ^ 18
    let p := q % 2 ^ 18
    s.forAll (List.range 4) fun s c => s.modTier (68 + d * 4 + c) fun t =>
      { t with midBad := t.midBad.filter fun u => !decide (p * 16384 ≤ u ∧ u < (p + 1) * 16384) }

/-- What a page holds, by offset, bytes other than 0. -/
def State.pageContent (s : State) (g : Nat) : List (Nat × Byte) :=
  (s.mem.filter fun c => c.1 / 2 ^ 21 == g).map fun c => (c.1 % 2 ^ 21, c.2)

/-- The units of a 4 KiB range of a near-tier page enter the poison lists of their channels (R437). -/
def State.listRange (s : State) (g r : Nat) : State :=
  s.forAll (List.range 64) fun s i =>
    let a := g * 2 ^ 21 + r * 4096 + 64 * i
    match homeOf s.ilv a with
    | .near n => s.plistAdd (s.ncOf n) ((nearChan s.ilv a).2 / 64)
    | _ => s

/-- A page is filled: zeros, and bytes by offset. -/
def State.fillPage (s : State) (g : Nat) (content : List (Nat × Byte)) : State × MemUpd :=
  (s.clearBad g, ⟨false, ((s.mem.filter fun c => c.1 / 2 ^ 21 == g).map fun c => (c.1, 0)) ++
    content.map (fun c => (g * 2 ^ 21 + c.1, c.2)), []⟩)

/-! Flash channels -/

/-- The operations of a flash channel. -/
def State.flashOps (s : State) (f : Nat) : List FlashOp := tabGet [] s.deep.ops f
def State.setOps (s : State) (f : Nat) (l : List FlashOp) : State :=
  { s with deep := { s.deep with ops := tabSet [] s.deep.ops f l } }

/-- Whether an operation is still under way on some channel. -/
def State.flashBusy (s : State) (o : FlashOp) : Bool := s.deep.ops.any fun x => x.2.contains o

/-- Whether an operation is a page-in's read. -/
def FlashOp.reads : FlashOp → Bool
  | .pageIn _ _ => true
  | _ => false

/-- An operation starts on each of the 32 channels; a read runs behind earlier reads and before programs (R436). -/
def State.startOps (s : State) (o : FlashOp) : State :=
  s.forAll (List.range 32) fun s f =>
    let l := s.flashOps f
    s.setOps f (if o.reads then l.filter (·.reads) ++ o :: l.filter (!·.reads) else l ++ [o])

/-- An operation is dropped. -/
def State.dropOps (s : State) (o : FlashOp) : State :=
  { s with deep := { s.deep with
      ops := s.deep.ops.filterMap fun x => let l := x.2.filter (· ≠ o); if l = [] then none else some (x.1, l) } }

/-! Page-in -/

/-- What a waiter waits for: its image's slot and the page. -/
def State.pageWanted (s : State) : Waiter → Option (Nat × Nat)
  | .thread c t => match (s.thr c t).stall with
    | .pageIn va => (s.boundTo c).map fun b => (b.1, va / 2 ^ 21)
    | _ => none
  | .dma ch => (s.dma ch).page.map fun va => (s.dmaSlot ch, va / 2 ^ 21)
  | .ring _ _ => none

/-- Whether a page's page-out has begun and its frame still holds it (R436). -/
def State.leaving (s : State) (slot vpn : Nat) : Bool := s.deep.pageOuts.contains (slot, vpn)

/-- The frame of a page. -/
def State.frameOf (s : State) (slot vpn : Nat) : Option Nat :=
  (s.deep.frames.find? fun f => f.1 == slot && f.2.1 == vpn).map (·.2.2)

/-- The read of a written deep page starts. -/
def State.startRead (s : State) (slot vpn : Nat) : State :=
  if (tabFind s.deep.pages (dmaKey slot vpn)).isSome ∧ !s.leaving slot vpn then
    ({ s with deep := { s.deep with unread := tabDel s.deep.unread (dmaKey slot vpn) } } : State).startOps
      (.pageIn (Fin.ofNat 16 slot) vpn)
  else s

/-- PAGE_IN_REPORT: a core or channel reports the page it waits on; reports of one page lead to one page-in (R111, R433,
R436). -/
def execPageInReport (who : Waiter) (s : State) : Out :=
  s.done (match s.pageWanted who with
    | none => s
    | some (slot, vpn) =>
      let same (e : PageIn) : Bool := e.slot.val == slot && e.vpn == vpn
      if (s.deep.pageIns.any fun e => same e && e.waiters.contains who) then s
      else
        let s := match who with
          | .thread c _ => s.incFld (aTR_STAT c) TR_STAT.PAGE_INS 1
          | _ => s
        if s.deep.pageIns.any same then
          s.modDeep fun d => { d with
            pageIns := d.pageIns.map fun e => if same e then { e with waiters := e.waiters ++ [who] } else e }
        else
          ({ s with deep := { s.deep with pageIns := s.deep.pageIns ++ [⟨Fin.ofNat 16 slot, vpn, [who]⟩] } } : State).startRead slot vpn)

/-- Those who wait on a page go on: the access is made again; an uncorrectable read releases a thread with poisoned data
(R111, R437). -/
def State.releasePage (s : State) (e : PageIn) (ok : Bool) : State :=
  let s := { s with deep := { s.deep with pageIns := s.deep.pageIns.filter (· ≠ e) } }
  s.forAll e.waiters fun s who =>
    if s.pageWanted who ≠ some (e.slot.val, e.vpn) then s
    else match who with
      | .thread c t => s.modThr c t fun th => if ok then th.wake else th.pendImprecise 0x0A th.pc th.priv
      | .dma ch =>
        let s := s.modDma ch fun d => { d with page := none }
        if s.dmaState ch = dmaWaiting then (s.setDma ch dmaRunning 0).dmaGo ch
        else if s.dmaState ch = dmaStopping ∧ (s.dma ch).fetched = none then s.setDma ch dmaStopped 0
        else s
      | .ring _ _ => s

/-- The die of the first core or channel that waits on a page. -/
def PageIn.die (e : PageIn) : Nat :=
  match e.waiters.head? with
  | some (.thread c _) => dieOfCore c
  | some (.dma ch) => ch.val / 32
  | _ => 0

/-- Whether a page-in needs an eviction that cannot be made now. -/
def State.blocked (s : State) (e : PageIn) : Bool :=
  s.warned && !s.leaving e.slot e.vpn && (s.takeFrame e.die).isNone &&
    ((s.image e.slot).bind (·.regionOf e.vpn)).any (·.1.tier == 2)

/-- PAGE_IN_DONE: the page is made present: a near or middle page filled with zeros, a deep page in a frame with its content,
or reinstated while its page-out has not ended; its entry is written, and those who wait are released. What stayed
uncorrectable is not written, and is listed as poisoned. It is the oldest report that need not wait. With no frame left it waits for
a page-out; where the deep tier is read-only the invocation ends FAULTED (R111, R433, R434, R436, R437, R439). -/
def execPageInDone (slot : Slot) (vpn : Nat) (s : State) : Out :=
  s.doneMem (match s.deep.pageIns.find? fun e => !s.blocked e with
    | none => (s, .none)
    | some e =>
      if e.slot ≠ slot ∨ e.vpn ≠ vpn then (s, .none)
      else match s.image slot with
        | none => ({ s with deep := { s.deep with pageIns := s.deep.pageIns.filter (· ≠ e) } }, .none)
        | some im =>
          match im.regionOf vpn with
          | none => (s, .none)
          | some (r, i) =>
            if PTE2.V.get (s.pte im vpn) = 1 then (s.releasePage e true, .none)
            else if r.tier ≤ 1 then
              let g := r.pages.getD i 0
              andThen (andThen (s.fillPage g []) fun s => s.putPte im r vpn (some g)) fun s =>
                ((s.giveOwner g (16 + slot.val)).releasePage e true, .none)
            else if s.leaving slot vpn then
              match s.frameOf slot vpn with
              | some g =>
                let s := (s.dropOps (.pageOut slot vpn))
                let s := { s with deep := { s.deep with pageOuts := s.deep.pageOuts.filter (· ≠ (slot.val, vpn)) } }
                andThen (s.putPte im r vpn (some g)) fun s => (s.releasePage e true, .none)
              | none => (s, .none)
            else if s.flashBusy (.pageIn slot vpn) then (s, .none)
            else match s.takeFrame e.die with
              | none =>
                if s.deep.readOnly then
                  ({ s with deep := { s.deep with pageIns := s.deep.pageIns.filter (· ≠ e) } }.modImage slot fun i =>
                    if i.ending = Ending.none then { i with ending := .faulted } else i, .none)
                else (s, .none)
              | some g =>
                let lost := tabGet [] s.deep.unread (dmaKey slot vpn)
                let content := (tabGet [] s.deep.pages (dmaKey slot vpn)).filter fun x => !lost.contains (x.1 / 4096)
                andThen (andThen (s.fillPage g content) fun s => s.putPte im r vpn (some g)) fun s =>
                  let s := (if firmwarePage g then s else s.giveOwner g (16 + slot.val)).forAll lost fun s r => s.listRange g r
                  let s := { s with deep := { s.deep with frames := s.deep.frames ++ [(slot.val, vpn, g)], unread := tabDel s.deep.unread (dmaKey slot vpn) } }
                  (s.releasePage e lost.isEmpty, .none))

/-! Page-out -/

/-- A page's translations are invalidated in every core of its image and in the channels of its dies (R112). -/
def State.invalidate (s : State) (im : Image) (slot vpn : Nat) : State :=
  let s := s.forAll im.bindPhys fun s c => s.trInvOne (Fin.ofNat 1152 c) vpn
  s.forAll ((im.bindPhys.map dieOfCore).dedup) fun s d =>
    s.dmaTrinv (Fin.ofNat 4 d) (Fin.ofNat 16 slot) (some vpn)

/-- Whether an invalidation of an image's translations is still under way (R112). -/
def State.invBusy (s : State) (im : Image) : Bool :=
  im.bindPhys.any (fun c => s.flag (aTR_INV c) TR_INV.BUSY) || im.bindPhys.any fun c => s.flag (aDMA_TRINV (dieOfCore c)) DMA_TRINV.BUSY

/-- Whether a page-in waits for a frame that only an eviction can free (R434). -/
def State.wantsFrame (s : State) (e : PageIn) : Bool :=
  !s.leaving e.slot e.vpn && (s.takeFrame e.die).isNone && ((s.image e.slot).bind (·.regionOf e.vpn)).any (·.1.tier == 2)

/-- Whether a page of an image is pinned, so that it is never paged out (R113). -/
def State.pinnedPage (s : State) (slot vpn : Nat) : Bool :=
  ((s.image slot).bind (·.regionOf vpn)).any fun x => x.1.attrs % 2 == 1

/-- PAGE_OUT: where more page-ins wait for a frame than are being freed, the deep page held longest in one, and not pinned: its entry is
written with V = 0, its translations are invalidated, and the programs that copy it start; during a supply warning it waits (R52, R112,
R113, R434, R435). -/
def execPageOut (slot : Slot) (vpn : Nat) (s : State) : Out :=
  s.doneMem (
    match (s.deep.frames.find? fun f => !s.leaving f.1 f.2.1 && !s.pinnedPage f.1 f.2.1), s.image slot with
    | some (k, v, _), some im =>
      if k ≠ slot.val ∨ v ≠ vpn ∨ s.warned ∨ s.deep.readOnly ∨
        (s.deep.pageIns.filter (s.wantsFrame ·)).length ≤ s.deep.pageOuts.length then (s, .none)
      else match im.regionOf vpn with
        | none => (s, .none)
        | some (r, _) =>
          andThen (s.putPte im r vpn none) fun s =>
            let s := s.invalidate im slot vpn
            let s := { s with deep := { s.deep with pageOuts := s.deep.pageOuts ++ [(slot.val, vpn)] } }
            (s.startOps (.pageOut slot vpn), .none)
    | _, _ => (s, .none))

/-- A page-out has ended: the new copy is current, its frame is free, and a fault that waited on it goes on (R435, R436). -/
def State.pageOutDone (s : State) (slot : Slot) (vpn : Nat) : State :=
  match s.frameOf slot vpn with
  | none => s
  | some g =>
    let s := { s with deep := { s.deep with
        pages := tabIns s.deep.pages (dmaKey slot vpn) (s.pageContent g)
        frames := s.deep.frames.filter fun f => !(f.1 == slot.val && f.2.1 == vpn)
        pageOuts := s.deep.pageOuts.filter (· ≠ (slot.val, vpn)) } }
    let s := if firmwarePage g then s else s.giveOwner g 0
    if (s.deep.pageIns.any fun e => e.slot == slot && e.vpn == vpn) then s.startRead slot vpn else s

/-- A demand-paged page without RES is discarded at the end of an invocation: its entry asks for a page-in, its page is free
(R113, R435). -/
def State.discardPages (s : State) (slot : Slot) (im : Image) : State × MemUpd :=
  s.eachMem (im.regions.filter fun r => decide (r.tier ≤ 2) && r.attrs % 2 == 0 && r.attrs / 4 % 2 == 0) fun s r =>
    s.eachMem (List.range (r.size / 2 ^ 21)) fun s i =>
      let vpn := r.base / 2 ^ 21 + i
      let e := s.pte im vpn
      let s := match s.frameOf slot vpn with
        | some g => if firmwarePage g then s else s.giveOwner g 0
        | none => s
      let s := (s.dropOps (.pageOut slot vpn)).dropOps (.pageIn slot vpn)
      let s := { s with deep := { s.deep with
          pageOuts := s.deep.pageOuts.filter (· ≠ (slot.val, vpn))
          frames := s.deep.frames.filter fun f => !(f.1 == slot.val && f.2.1 == vpn) } }
      if PTE2.V.get e = 0 then (s, .none)
      else
        let s := s.invalidate im slot vpn
        let s := if firmwarePage (PTE2.PPA.get e) then s else s.giveOwner (PTE2.PPA.get e) 0
        s.putPte im r vpn none

/-! Completion of flash operations -/

/-- An object's new version is current, and the PERSIST that saved it is answered (R438). -/
def State.saveDone (s : State) (obj : Nat) : State :=
  let s := s.modDeep fun d => { d with
    objects := d.objects.map fun o => if o.obj = obj then
      { o with current := (o.writing.map (·.1)).or o.current, writing := none } else o }
  match s.claimed.find? fun q => q.begun && pkOp q.packet == 0x0022 && pkArg q.packet 0 4 == obj with
  | some q => s.finalReply q.id 0 0 []
  | none => s

/-- FLASH_OP_COMPLETE: the operation that an open channel runs completes. Codewords of a read that needed retry or stayed uncorrectable
are counted, the latter as 4 KiB ranges of the page's stripe; a program that fails is made again in another block. A page-out
copies the page only once no old translation is in use (R49, R112, R431, R435, R437-R439). -/
def execFlashOpComplete (f : Fin 32) (ok : Bool) (retried : Nat) (bad : List (Fin 16)) (s : State) : Out :=
  s.done (match (if s.deep.closed.contains f.val then [] else s.flashOps f) with
    | [] => s
    | o :: rest =>
      match o with
      | .pageIn slot vpn =>
        let s := ((s.setOps f rest).incFld (aFC_STAT f) FC_STAT.RETRY (min 16 retried)).incFld (aFC_STAT f) FC_STAT.UE bad.dedup.length
        s.modDeep fun d => { d with
          unread := tabSet [] d.unread (dmaKey slot vpn)
            (tabGet [] d.unread (dmaKey slot vpn) ++ bad.dedup.map fun c => f.val * 16 + c.val) }
      | .pageOut slot vpn =>
        if !ok || (s.image slot).any (s.invBusy ·) then s
        else
          let s := s.setOps f rest
          if s.flashBusy o then s else s.pageOutDone slot vpn
      | .save obj =>
        if !ok then s
        else
          let s := s.setOps f rest
          if s.flashBusy o then s else s.saveDone obj)

/-- FLASH_SPARES_LOW: the spare blocks of a channel fall: below 2 percent the steward is warned, at 0 the deep tier becomes
read-only (R439). -/
def execFlashSparesLow (f : Fin 32) (pct : Nat) (s : State) : Out :=
  s.done (
    if !s.deepPresent then s
    else
      let s := s.setFld (aFC_STAT f) FC_STAT.SPARE_PCT pct
      let s := if pct < 2 then s.event s.mgmt.steward 0xE004 0 (toBytes 1 f ++ toBytes 1 pct) else s
      if pct = 0 then { s with deep := { s.deep with readOnly := true } } else s)

end Sys2Proof.Machine
end

