-- ==== Sys2Proof/Machine/Images.lean ====
section
/-! DEFINITION. Images and their invocations: what an image holds, floors (R27, R31, R33, R36), sections and start records
(R195, R472), the beginning and the end of an invocation (R86, R197, R467, R468), STOP (R469), breach (R34, R88) and
stall detection (R513-R515). -/

namespace Sys2Proof.Machine

/-! What an image holds -/

/-- Cluster of a router, router of a cluster (R7, R85). -/
def clusterOfRouter (r : Nat) : Nat := (r / 6 / 6 * 2 + r % 6 / 3) * 18 + r / 6 % 6 * 3 + r % 6 % 3
def routerOf (k : Nat) : Nat := clusterY k * 6 + clusterX k

/-- Physical cores, clusters, dies, DMA channels and channel-directory entries of an image. -/
def Image.coreIds (im : Image) : List CoreId := im.bindPhys.map (Fin.ofNat 1152 ·)
def Image.coreClusters (im : Image) : List Nat := (im.bindPhys.map clusterOfCore).dedup
def Image.coreDies (im : Image) : List Nat := (im.bindPhys.map dieOfCore).dedup
def State.imageDmas (s : State) (slot : Nat) : List DmaCh :=
  (List.finRange 128).filter fun ch => s.flag (aDMA_OWN ch) DMA_OWN.V && s.dmaSlot ch == slot
def State.imageChannels (s : State) (slot : Nat) : List Nat :=
  (List.range 32768).filter fun e => s.flag (aDIR0 e) DIR0.V && s.fld (aDIR0 e) DIR0.SLOT == slot

/-- The ports that an image's reserved traffic crosses: router x 32 + port, crossbars from 0x1000. -/
def Image.portKeys (im : Image) : List Nat :=
  (im.quotas.map (fun (x : Nat × Nat) => x.1) ++ im.weights.map (fun (x : Nat × Nat) => x.1) ++
    im.attach.map fun (x : Nat × Nat) => x.1 / 2 * 32 + 5 + x.1 % 2).dedup

/-- The rails of a Guaranteed image: clusters of its cores and of the routers its traffic crosses, and their dies (R27). -/
def Image.railClusters (im : Image) : List Nat :=
  (im.bindPhys.map clusterOfCore ++ im.portKeys.filterMap fun p => if p < 0x1000 then some (clusterOfRouter (p / 32)) else none).dedup
def Image.rails (im : Image) : List Nat :=
  if im.floor = 0 then []
  else im.railClusters ++ ((im.railClusters.map (· / 18) ++
    im.portKeys.filterMap fun p => if p < 0x1000 then none else some ((p - 0x1000) / 64)).dedup.map (72 + ·))

/-! Floors -/

/-- Counts a window of 256 crystal cycles shows at a floor with its guard band (R28): the floor x 1.03 x 10.24, rounded up. -/
def needCount (floor : Nat) : Nat := ceilDiv (floor * 105472) 10000

/-- The highest floor on a rail: of the invocations under way, or of those begun (R27, R33). -/
def State.railFloor (s : State) (r : Nat) (begun : Bool) : Nat :=
  (List.range 16).foldl (fun f k => match s.image k with
    | some im =>
      let on := if begun then im.state == .running || im.state == .stopping else im.active
      if on && im.rails.contains r then Nat.max f im.floor else f
    | none => f) 0

/-- Ahnal writes FLOOR of rails; a ceiling below it becomes 0 (R27, R36). -/
def State.writeFloors (s : State) (rs : List Nat) : State :=
  s.forAll rs fun s r =>
    let f := s.railFloor r false
    let s := s.setFld (aGOV_SET r) GOV_SET.FLOOR f
    if s.fld (aGOV_SET r) GOV_SET.CEIL < f then s.setFld (aGOV_SET r) GOV_SET.CEIL 0 else s

/-- Ahnal writes BFLOOR of rails and clears BREACH (R33). -/
def State.armFloors (s : State) (rs : List Nat) : State :=
  s.forAll rs fun s r =>
    let s := (s.setFld (aGOV_SET r) GOV_SET.BFLOOR (s.railFloor r true)).setFld (aGOV_STAT r) GOV_STAT.BREACH 0
    { s with breachWin := tabDel s.breachWin r }

/-! Sections (R472) -/

/-- The entries of the section table. -/
def sectionsOf (bs : List Byte) : List (List Byte) :=
  (List.range (field bs 0x40 4)).map fun i => (bs.drop (field bs 0x38 8 + 32 * i)).take 32

/-- Content of a section. -/
def secType (e : List Byte) : Nat := field e 0 1
def secBytes (bs e : List Byte) : List Byte := (bs.drop (field e 8 8)).take (field e 0x10 8)

/-- Consecutive records of n bytes. -/
def chunks (n : Nat) (bs : List Byte) : List (List Byte) :=
  (List.range (bs.length / n)).map fun i => (bs.drop (n * i)).take n

/-- The start records of an image, and that of a workload core (R195). -/
def startRecs (bs : List Byte) : List (List Byte) :=
  ((sectionsOf bs).filter fun e => secType e == 6).flatMap fun e => chunks 112 (secBytes bs e)
def startRec (bs : List Byte) (w : Nat) : Option (List Byte) :=
  ((startRecs bs).find? fun r => field r 0 2 == w).or ((startRecs bs).find? fun r => field r 0 2 == 0xFFFF)

/-! The beginning of an invocation -/

/-- A core at START: threads started or NOT_STARTED, registers at their START values, tiles EMPTY, caches empty, queues
open, breakpoints off (R137, R197, R222, R278, R331, R343, R535). Its pinned memory, translations and irregularity log
stand (R317). -/
def State.startCore (s : State) (im : Image) (c : CoreId) (w : Nat) : State :=
  let r := (startRec im.bytes w).getD []
  let th (t : Thr) : Thread :=
    let o := 0x10 + t.val * 24
    let on := if im.static then bit (field r 3 1) t.val else t.val == 0
    if on then Thread.start (BitVec.ofNat 64 (field r o 8)) (BitVec.ofNat 64 (field r (o + 8) 8)) (BitVec.ofNat 64 w)
      (BitVec.ofNat 64 im.k) (if im.static then BitVec.ofNat 64 t.val else 0) (field r (o + 0x10) 4) (field r (o + 0x14) 4)
      (if im.static then bit (field r 2 1) t.val else true)
    else Thread.reset
  let s := s.modCore c fun q =>
    { Core.reset with
      imem := q.imem, imemPoison := q.imemPoison, tlb := q.tlb, irlog := q.irlog, nextKey := q.nextKey
      thr := Vector.ofFn th
      next := some 0
      dtbase := DTBASE.OFFSET.put 0 (field r 4 4 / 1024) }
  let s := [aCCTL c, aCSTAT c, aTR_STAT c, aMX_STAT c, aVX_STAT c, aMX_BUSYHS c, aVX_BUSYHS c,
      aDBG_BP c 0, aDBG_BP c 1, aDBG_BP c 2, aDBG_BP c 3].foldl (fun s a => s.setReg a (resetAt a)) s
  (s.forAll queues fun s q => s.setReg (aQCNT c q) 0).setFld (aIMEM_STAT c) IMEM_STAT.WORDS 0

/-- The DMA channels, counters, barriers and message channels of an image at START (R340, R343, R359, R365, R380). -/
def State.startObjects (s : State) (slot : Nat) (im : Image) : State :=
  let s := s.forAll (s.imageDmas slot) fun s ch =>
    ((([aDMA_CTRL ch, aDMA_STAT ch, aDMA_PROG ch, aDMA_PC ch, aDMA_SA ch, aDMA_DA ch, aDMA_LC ch 0, aDMA_LC ch 1, aDMA_LC ch 2,
      aDMA_LC ch 3, aDMA_CQBASE ch, aDMA_CQSEQ ch, aDMA_ERR ch, aDMA_ERRADDR ch, aDMA_CNT ch]).foldl
      (fun s a => s.setReg a (resetAt a)) s).modDma ch fun _ => Dma.reset).dmaForget ch fun _ => true
  let s := s.forAll im.coreClusters fun s k =>
    let b := s.fld (aSALLOC k slot) SALLOC.BASE
    s.forAll (List.range (s.fld (aSALLOC k slot) SALLOC.COUNT)) fun s i =>
      let obj : SyncObj := .counter k (b + i)
      let s : State := { s with
        parked := s.parked.filter (·.obj ≠ obj), inputs := s.inputs.filter (·.obj ≠ obj), sync := s.sync.filter (·.obj ≠ obj) }
      (s.setFld (aSCNT k (b + i)) SCNT.VALUE 0).parkStat obj
  let s := s.forAll (List.range im.barriers.2) fun s i =>
    let u := im.barriers.1 + i
    let s : State := { s with parked := s.parked.filter (·.obj ≠ .barrier u), sync := s.sync.filter (·.obj ≠ .barrier u) }
    (((s.setFld (aBU1 u) BU1.PHASE 0).setMask (aARR u) fun _ => false).setMask (aMASK u) fun j => im.bind.contains j).parkStat
      (.barrier u)
  let es := s.imageChannels slot
  let s : State := { s with
    msgs := s.msgs.filter fun m => m.slot ≠ slot
    tokens := s.tokens.filter fun k => !es.contains k.dir }
  s.forAll es fun s e => s.setReg (aDIR1 e) (DIR1.AVAIL.put 0 (s.fld (aDIR0 e) DIR0.CRED))

/-- The published bounds of an invocation no longer bind: its owner is told once per invocation (R34, R46, R88, R430). -/
def State.breachBy (s : State) (slot : Nat) (im : Image) (kind index data0 : Nat) : State :=
  if im.floor = 0 ∨ im.breach ∨ (im.state ≠ .running ∧ im.state ≠ .stopping) then s
  else
    let s := s.modImage slot fun i => { i with breach := true }
    (s.logErr 0x0303 kind index 1 im.handle 0 data0).eventOwner im 0xE001 0x32

/-- Whether an image has a page on the channels of a memory domain (R46). -/
def Image.onDomain (im : Image) (ilv : List Nat) (n : Nat) : Bool :=
  im.regions.any fun r => decide (n < 8) && r.tier == n / 4 && (r.die == n % 4 || (n / 4 == 0 && r.pages.any ilv.contains))

/-- While a memory domain coasts, a Guaranteed image with pages on its channels counts as breached (R46). -/
def State.coastBreach (s : State) (n k : Nat) : State :=
  match s.image k with
  | some im => if im.onDomain s.ilv n then s.breachBy k im 0x08 n 0 else s
  | none => s

/-- The invocation begins: floors armed, everything of the image at its START state, threads started, the owner told (R33,
R86, R197); a memory domain that coasts breaches it at once (R46). -/
def State.begin (s : State) (slot : Slot) (im : Image) : State :=
  let s := s.setImage slot (some { im with
    state := .running, windows := 0, ending := .none, firstFault := none, breach := false, probe := none })
  let s := s.armFloors im.rails
  let s := s.forAll (im.coreIds.zip (List.range im.k)) fun s (c, w) => s.startCore im c w
  let s := (s.startObjects slot im).eventOwner im 0xE006 0
  s.forAll ((List.range 8).filter fun n => s.flag (aCLKD_STAT n) CLKD_STAT.COAST) fun s n => s.coastBreach n slot

/-- Whether every affected rail of an image shows its need count (R28, R86). -/
def State.floorsMet (s : State) (im : Image) : Bool :=
  im.rails.all fun r => decide (needCount (s.fld (aGOV_SET r) GOV_SET.FLOOR) ≤ s.fld (aGOV_STAT r) GOV_STAT.PACE)

/-- INVOCATION_BEGIN: within 64 windows every affected rail shows its need count (R86). -/
def execInvocationBegin (slot : Slot) (s : State) : Out :=
  s.done (match s.image slot with
    | some im => if im.state = .starting ∧ im.windows ≤ 64 ∧ s.floorsMet im then s.begin slot im else s
    | none => s)

/-! The end of an invocation -/

/-- The image returns to LOADED and its floors are withdrawn; the reply of START, then those of STOP (R33, R466-R469, R475,
R567). -/
def State.endInvocation (s : State) (slot : Slot) (im : Image) (status detail : Nat) : State :=
  let (w, v) := im.firstFault.getD (0xFFFF, 0)
  let result := toBytes 4 im.invocations ++ toBytes 2 w ++ toBytes 1 v ++ toBytes 1 (b2n im.breach)
  let begun := im.state == .running || im.state == .stopping
  let s := s.setImage slot (some { im with
    state := .loaded, startCmd := none, stopCmds := [], ending := .none, probe := none, windows := 0
    lastStatus := status, lastDetail := detail, lastResult := result })
  let s := s.writeFloors im.rails
  let s := if begun then s.armFloors im.rails else s
  let s := match im.startCmd with
    | some k => s.finalReply k status detail result
    | none => s
  let s := s.forAll im.stopCmds fun s k => s.finalReply k 0 0 []
  match im.owner with
  | some p => if (s.port p).d3 && begun then s.modPort p fun q => { q with wake := true } else s
  | none => s

/-- Every thread of a core that has not locked up is halted and its state reset; its part ends (R199, R331, R343, R469). -/
def State.stopCore (s : State) (c : CoreId) : State :=
  if (s.core c).lock ≠ 0 then s.partCheck c
  else
    let s := s.forAll threads fun s t => (s.withdraw (.thread c t)).2
    let s := (s.closeAll c).modCore c fun q =>
      { q with thr := .replicate 4 Thread.reset, mx := Core.reset.mx, vx := Core.reset.vx }
    if (s.core c).partEnd.isSome then s else (s.modCore c fun q => { q with partEnd := some none }).flushCore c

/-- STOP of an image's cores and channels (R401, R403, R469). -/
def State.stopImage (s : State) (slot : Slot) (im : Image) : State :=
  let s := s.forAll im.coreIds fun s c => s.stopCore c
  s.forAll (s.imageDmas slot) fun s ch => s.dmaStop ch

/-- Whether every part has ended with its write-backs performed, and every channel has stopped (R199, R331, R403). -/
def State.ended (s : State) (slot : Slot) (im : Image) : Bool :=
  im.coreIds.all (fun c => (s.core c).partEnd.isSome) &&
  !(s.txns.any fun x => x.isWrite && !x.answered && x.src.core?.any fun c => im.coreIds.contains c) &&
  (s.imageDmas slot).all fun ch => [0, dmaStopped, dmaHalted, dmaInError].contains (s.dmaState ch)

/-- Status and detail of an invocation's end (R468). -/
def Image.outcome (im : Image) : Nat × Nat :=
  match im.ending with
  | .stopped => (0x00, 0x000A)
  | .stalled => (0x31, 0)
  | .faulted => (0x30, 0)
  | .none => if im.firstFault.isSome then (0x30, 0) else (0, 0)

/-- INVOCATION_END: where Ahnal ends it FAULTED its cores and channels stop; once every part has ended and every channel has
stopped, tiles are EMPTY, pages without RES are discarded, and START is answered (R113, R213, R222, R403, R468). -/
def execInvocationEnd (slot : Slot) (s : State) : Out :=
  s.doneMem (match s.image slot with
    | none => (s, .none)
    | some im =>
      if im.state ≠ .running ∧ im.state ≠ .stopping then (s, .none)
      else
        let s := if im.ending = Ending.faulted ∧ im.state = .running then
            (s.stopImage slot im).modImage slot fun i => { i with state := .stopping }
          else if im.firstFault.isSome ∧ im.coreIds.all (fun c => (s.core c).partEnd.isSome) then
            s.forAll (s.imageDmas slot) fun s ch => s.dmaStop ch
          else s
        if !s.ended slot im then (s, .none)
        else
          let im := (s.image slot).getD im
          let s := s.forAll im.coreIds fun s c => s.modCore c fun q => { q with tt := [], zt := [], reuse := [] }
          andThen (s.discardPages slot im) fun s => (s.endInvocation slot im im.outcome.1 im.outcome.2, .none))

/-- A claimed command of an opcode that names a loaded image; one whose image has gone is answered NO_IMAGE. -/
def State.onImage (s : State) (k op : Nat) (f : Claimed → Slot → Image → State × MemUpd) : State × MemUpd :=
  match s.cmdReady k op with
  | none => (s, .none)
  | some q =>
    match s.byHandle (pkHandle q.packet) with
    | none => (s.finalReply k 0x22 0x0003 [], .none)
    | some (slot, im) => f q slot im

/-- The command has begun and is answered later. -/
def State.claimBegun (s : State) (k : Nat) : State :=
  { s with claimed := s.claimed.map fun q => if q.id = k then { q with begun := true } else q }

/-- STOP (R467, R469). -/
def execStop (k : Nat) (s : State) : Out :=
  s.doneMem (s.onImage k 0x0012 fun _ slot im =>
    match im.state with
    | .loaded => (s.finalReply k 0 0x0006 [], .none)
    | .starting => ((s.endInvocation slot im 0 0x000A).finalReply k 0 0 [], .none)
    | .running =>
      let s := s.modImage slot fun i => { i with
        state := .stopping, stopCmds := i.stopCmds ++ [k], ending := if i.ending = Ending.none then .stopped else i.ending }
      ((s.claimBegun k).stopImage slot im, .none)
    | .stopping => ((s.claimBegun k).modImage slot fun i => { i with stopCmds := i.stopCmds ++ [k] }, .none))

/-- START_FLOOR_TIMEOUT: 64 windows have passed and a rail has not met its need count: the floors are cleared, and START is
answered REFUSED_LATENCY (R86). -/
def execStartFloorTimeout (slot : Slot) (s : State) : Out :=
  s.done (match s.image slot with
    | some im =>
      if im.state = .starting ∧ 64 ≤ im.windows ∧ (64 < im.windows ∨ s.floorsMet im = false) then s.endInvocation slot im 0x13 0 else s
    | none => s)

/-! Breach -/

/-- A breach on a rail (R34). -/
def State.breachOf (s : State) (slot : Nat) (im : Image) (r : Nat) : State :=
  s.breachBy slot im (if r < 72 then 0x0C else 0) (if r < 72 then r else 0) r

/-- GUARANTEE_BREACH: BREACH of a rail has set (R34). -/
def execGuaranteeBreach (rail : Fin 76) (s : State) : Out :=
  s.done (
    if !s.flag (aGOV_STAT rail) GOV_STAT.BREACH then s
    else s.forAll s.loadedSlots fun s k => match s.image k with
      | some im => if im.rails.contains rail.val then s.breachOf k im rail else s
      | none => s)

/-! Stall detection -/

/-- Whether a thread is quiescent (R513). -/
def Thread.quiescent (th : Thread) : Bool :=
  match th.st with
  | .notStarted | .exited | .faulted => true
  | .stalled =>
    (match th.stall with
      | .flagZero _ | .parked | .emptyQueue _ | .credit => true
      | _ => false) && th.takeable.isNone && (HSCD.EN.get th.hscd == 0 || HSCD.COUNT.get th.hscd == 0)
  | _ => false

/-- CORE_ACT.QUIET (R513). -/
def State.quiet (s : State) (c : Nat) : Bool := threads.all fun t => (s.thr c t).quiescent

/-- Whether an image is quiet (R404, R515). -/
def State.imageQuiet (s : State) (slot : Slot) (im : Image) : Bool :=
  im.bindPhys.all (s.quiet ·) &&
  !(im.bindPhys.any fun c => threads.any fun t => (s.thr c t).st == .halted) &&
  (s.imageDmas slot).all (fun ch => [0, dmaStopped, dmaHalted, dmaInError].contains (s.dmaState ch) ||
    (s.dmaState ch == dmaWaiting && (s.parked.any (·.who == .dma ch) || s.inputs.any (·.who == .dma ch)))) &&
  (s.imageChannels slot).all (fun e => s.fld (aDIR1 e) DIR1.OUT == 0) &&
  !(s.msgs.any fun m => m.slot == slot.val) &&
  !(s.deep.pageIns.any fun e => e.slot == slot) &&
  !(s.claimed.any fun q => pkHandle q.packet == im.handle && im.startCmd != some q.id && !im.stopCmds.contains q.id) &&
  ([0, 1] : List Port).all fun p => rings.all fun r =>
    let q := s.ring p r
    !((q.parked || q.toClaim || q.waitPassed) && q.ahead.head?.any fun x => pkHandle x.2 == im.handle)

/-- ACT of every bound core. -/
def State.acts (s : State) (im : Image) : List Nat := im.bindPhys.map fun c => s.fld (aCORE_ACT c) CORE_ACT.ACT

/-- DRAIN_PROBE: the image is checked, ACT read, and drain markers sent (R515, steps 1 and 2). -/
def execDrainProbe (slot : Slot) (s : State) : Out :=
  s.done (match s.image slot with
    | some im =>
      if im.state = .running ∧ im.probe = none ∧ s.imageQuiet slot im then
        s.modImage slot fun i => { i with probe := some (s.acts im) }
      else s
    | none => s)

/-- DRAIN_MARKERS_RETURNED: still quiet with no ACT changed, the invocation ends STALLED; else the probe is dropped (R515,
steps 3 and 4). -/
def execDrainMarkersReturned (slot : Slot) (s : State) : Out :=
  s.done (match s.image slot with
    | some im =>
      match im.probe with
      | none => s
      | some acts =>
        if im.state = .running ∧ s.imageQuiet slot im ∧ s.acts im = acts then
          let s := s.modImage slot fun i => { i with
            probe := none, state := .stopping, ending := if i.ending = Ending.none then .stalled else i.ending }
          (s.logErr 0x0304 0 0 1 im.handle 0 0).stopImage slot im
        else s.modImage slot fun i => { i with probe := none }
    | none => s)

end Sys2Proof.Machine
end

