-- ==== Sys2Proof/Machine/CtrlRead.lean ====
section
/-! DEFINITION. What a read of control space returns (R14, R100): a register's word by its map, or the word that other state
gives: thread and tile state, status registers, the irregularity log, DMA windows, the error log, the fuse block. -/

namespace Sys2Proof.Machine

/-- Word `i` of a byte string. -/
def wordOf (bs : List Byte) (i : Nat) : Word := BitVec.ofNat 64 (field bs (8 * i) 8)

/-- Bytes of an error-log entry (R501). -/
def LogEntry.bytes (e : LogEntry) : List Byte :=
  toBytes 4 e.seq ++ toBytes 2 e.code ++ toBytes 1 e.kind ++ toBytes 1 0 ++ toBytes 4 e.index ++ toBytes 4 e.count ++
    toBytes 4 e.handle ++ toBytes 4 e.data1 ++ toBytes 8 e.data0

/-- Entry n of the error log. -/
def State.logEntry (s : State) (n : Nat) : Option LogEntry :=
  s.mgmt.errlog[(s.fld (aERRLOG_CTRL 0) ERRLOG_CTRL.NEXT + 2047 - n) % 1024]?

/-- DBG_STAT (R535). -/
def haltCode : HaltReason → Nat
  | .none => 0 | .request => 1 | .breakpoint => 2 | .step => 3
def Core.dbgStat (q : Core) : Word :=
  BitVec.ofNat 64 (threads.foldl (fun v t =>
    let th := q.thr[t]
    v + b2n (th.st == .halted) * 2 ^ t.val + (if th.st == .halted then haltCode th.halt else 0) * 2 ^ (4 + 2 * t.val) +
      b2n (th.haltReq && (th.st == .running || th.st == .ready || th.st == .stalled)) * 2 ^ (12 + t.val)) 0)

/-- MX_STAT and VX_STAT (R278). -/
def unitStat (e : Eng) (w : Word) : Word :=
  let now := e.running.or (e.ending.map (·.1))
  let w := MX_STAT.BUSY.put (MX_STAT.QUEUED.put w (b2n e.queued.isSome)) (b2n now.isSome)
  MX_STAT.THREAD.put w ((now.map (·.thr.val)).getD 0)

/-- The irregularity log's word (R188). -/
def Core.irlWord (q : Core) (o : Nat) : Word :=
  let e := tabGet (0, 0) q.irlog (o / 16)
  if o % 16 = 0 then e.1 else e.2

/-- A word of a per-core control block (R100, R215, R278, R375, R377, R535). -/
def State.coreWord (s : State) (c o : Nat) : Word :=
  let q := s.core c
  let t : Thr := Fin.ofNat 4 (o / 8)
  if o = 0 then q.tstate else if o = 8 then q.threadFault else if o = 0x10 then q.dtbase
  else if 0x40 ≤ o ∧ o < 0x60 then q.thr[t].tstatus
  else if 0x60 ≤ o ∧ o < 0x80 then q.thr[t].tsbp
  else if 0x80 ≤ o ∧ o < 0xA0 then q.thr[t].excInfo
  else if o = 0x100 then q.lock
  else if 0x1040 ≤ o ∧ o < 0x1060 then q.thr[t].trFault
  else if 0x3000 ≤ o ∧ o < 0x3040 then q.queues[(Fin.ofNat 8 (o / 8) : Fin 8)].stat
  else if 0x4000 ≤ o ∧ o < 0x4020 then featWord s.grade (o / 8 % 4)
  else if 0x4080 ≤ o ∧ o < 0x4180 then q.irlWord (o - 0x4080)
  else if 0x6000 ≤ o ∧ o < 0x6080 then q.tdesc (o / 8 % 16)
  else if 0x6080 ≤ o ∧ o < 0x60C0 then q.zstate (o / 8 % 8)
  else if 0x60C0 ≤ o ∧ o < 0x60E0 then q.thr[t].tlprog
  else if o = 0x60E0 then q.heldBits
  else if o = 0x6100 then unitStat q.mx (s.reg (aMX_STAT c))
  else if o = 0x6108 then unitStat q.vx (s.reg (aVX_STAT c))
  else if o = 0x8008 then q.dbgStat
  else if 0xA000 ≤ o ∧ o < 0xB000 then
    match s.dmaWindow c ((o - 0xA000) / 0x80) with
    | some ch => (match dmaSpec 1 (o % 0x80) with
      | some fs => fieldsRead fs (s.reg (dmaBlk ch + o % 0x80))
      | none => 0)
    | none => 0
  else if o = 0xC008 then CORE_ACT.QUIET.put (s.reg (aCORE_ACT c)) (b2n (s.quiet c))
  else match coreSpec o with
    | some fs => fieldsRead fs (s.reg (coreBlk c + o))
    | none => 0

/-- A word of a management complex's block (R476, R481, R493, R494, R501); all but BOOT_STAT is common to both. -/
def State.mgmtWord (s : State) (m o : Nat) : Word :=
  if 0x1_0000 ≤ o ∧ o < 0x1_8000 then
    ((s.logEntry ((o - 0x1_0000) / 32)).map fun e => wordOf e.bytes (o % 32 / 8)).getD 0
  else if 0x3_0000 ≤ o ∧ o < 0x3_00C0 then wordOf (s.mgmt.keyDigests.getD ((o - 0x3_0000) / 64) []) (o % 64 / 8)
  else if 0x3_0140 ≤ o ∧ o < 0x3_0160 then wordOf s.mgmt.idPub ((o - 0x3_0140) / 8)
  else if 0x3_01C0 ≤ o ∧ o < 0x3_0200 then wordOf s.mgmt.signOut ((o - 0x3_01C0) / 8)
  else if 0x4_0100 ≤ o ∧ o < 0x4_0200 then wordOf s.mgmt.bfBuf ((o - 0x4_0100) / 8)
  else match mgmtSpec o with
    | some fs => fieldsRead fs (s.reg (mgmtBlk (if o = 0 then m else 0) + o))
    | none => 0

/-- NC_PLIST: the entry that IDX names (R437). -/
def State.plistWord (s : State) (n : Nat) : Word :=
  let w := s.reg (ncBlk n + 0x28)
  match (s.tier n).plist[NC_PLIST.IDX.get w]? with
  | some u => NC_PLIST.UNIT.put (NC_PLIST.VALID.put w 1) u
  | none => NC_PLIST.UNIT.put (NC_PLIST.VALID.put w 0) 0

/-- Controller of a near-tier block by offset in its die block. -/
def ncAt (d o : Nat) : Nat := if o < 0x5_0000 then d * 16 + (o - 0x4_0000) / 0x1000 else 64 + d

/-- The word at an address of control space, a multiple of 8. -/
def State.ctrlRead (s : State) (a : Nat) : Word :=
  let o := a - ctrlBase
  if o < 0x0480_0000 then s.coreWord (o / 0x1_0000) (o % 0x1_0000)
  else if 0x0800_2000 ≤ o ∧ o < 0x0800_2380 ∧ 0x10 ≤ o % 0x40 then
    (if o % 0x40 < 0x30 then
      BitVec.ofNat 64 ((fieldsRead CLKD_OPP (s.reg a)).toNat % 2 ^ 32 + (fieldsRead CLKD_OPP (s.reg (a + 4))).toNat % 2 ^ 32 * 2 ^ 32)
    else 0)
  else if 0x0A00_0000 ≤ o ∧ o < 0x0A40_0000 ∧ 0x4_0000 ≤ o % 0x10_0000 ∧ o % 0x10_0000 < 0x5_1000 ∧ o % 0x1000 = 0x28 then
    s.plistWord (ncAt ((o - 0x0A00_0000) / 0x10_0000) (o % 0x10_0000))
  else if 0x0D00_0000 ≤ o ∧ o < 0x0D20_0000 ∧ o % 0x10_0000 = 0 then s.idDev (Fin.ofNat 2 (o / 0x10_0000))
  else if 0x0D00_0000 ≤ o ∧ o < 0x0D20_0000 ∧ o % 0x10_0000 = 0x1000 then s.portStat (Fin.ofNat 2 (o / 0x10_0000))
  else if 0x0E00_0000 ≤ o ∧ o < 0x0E02_0000 then
    (if o % 0x1000 = 0 ∧ s.deepPresent then
      FC_STAT.PAUSED.put (FC_STAT.BUSY.put (s.reg a) (b2n (s.flashOps (o % 0x2_0000 / 0x1000) != []))) (b2n s.warned)
    else 0)
  else if 0x0F00_0000 ≤ o ∧ o < 0x0F20_0000 then s.mgmtWord ((o - 0x0F00_0000) / 0x10_0000) (o % 0x10_0000)
  else match specAt a with
    | some fs => fieldsRead fs (s.reg a)
    | none => 0

/-- Whether an address of control space lies in a block that R100 lists. -/
def ctrlPopulated (a : Nat) : Bool :=
  let o := a - ctrlBase
  decide (ctrlBase ≤ a) && decide (o < 0x0480_0000 ∨ (0x0800_0000 ≤ o ∧ o < 0x0801_0000) ∨ (0x0900_0000 ≤ o ∧ o < 0x0948_0000) ∨
    (0x0A00_0000 ≤ o ∧ o < 0x0A40_0000) ∨ (0x0B00_0000 ≤ o ∧ o < 0x0B04_0000) ∨ (0x0C00_0000 ≤ o ∧ o < 0x0C08_0000) ∨
    (0x0D00_0000 ≤ o ∧ o < 0x0D20_0000) ∨ (0x0E00_0000 ≤ o ∧ o < 0x0E02_0000) ∨ (0x0F00_0000 ≤ o ∧ o < 0x0F20_0000))

/-- Bytes of control space from an address. -/
def State.ctrlBytes (s : State) (a n : Nat) : List Byte :=
  (List.range n).map fun i => BitVec.ofNat 8 ((s.ctrlRead ((a + i) / 8 * 8)).toNat / 2 ^ (8 * ((a + i) % 8)))

end Sys2Proof.Machine
end

