-- ==== Sys2Proof/Machine/Perform.lean ====
section
/-! DEFINITION. Accesses at their homes: the region protection table (R490-R492), and reads, writes and atomics of memory as
a home performs them (R119-R122, R311, R417, R429). -/

namespace Sys2Proof.Machine

/-! Region protection -/

/-- The class of a source (R491): 0 MGMT, 1 FABRIC, 2 HOST, 3 DEBUG. -/
def Source.cls : Source → Nat
  | .debug => 3
  | _ => 1

/-- The permission field of a class. -/
def rptField (cls : Nat) : Field := [RPT1.MGMT, RPT1.FABRIC, RPT1.HOST, RPT1.DEBUG].getD cls RPT1.MGMT

/-- The permissions of the lowest-numbered entry that covers an address (R491). -/
def State.rptPerm (s : State) (pa cls : Nat) : Option Nat :=
  ((List.range 64).find? fun i => s.flag (aRPT0 0 i) RPT0.V && decide (s.fld (aRPT0 0 i) RPT0.BASE ≤ pa / 4096) &&
    decide (pa / 4096 ≤ s.fld (aRPT1 0 i) RPT1.LIMIT)).map fun i => s.fld (aRPT1 0 i) (rptField cls)

/-- Whether the table denies an access to an address (R491). -/
def State.rptDenies (s : State) (pa cls : Nat) (write : Bool) : Bool :=
  match s.rptPerm pa cls with
  | some p => if write then p != 3 else p == 0
  | none => false

/-- A denial is logged in RPT_VIOL (R492). -/
def State.rptLog (s : State) (pa cls : Nat) (write : Bool) : State :=
  let s := if s.flag (aRPT_VIOL 0) RPT_VIOL.VALID then s else
    (((s.setFld (aRPT_VIOL 0) RPT_VIOL.ADDR pa).setFld (aRPT_VIOL 0) RPT_VIOL.CLASS cls).setFld (aRPT_VIOL 0) RPT_VIOL.WRITE
      (b2n write)).setFld (aRPT_VIOL 0) RPT_VIOL.VALID 1
  s.incFld (aRPT_VIOL 0) RPT_VIOL.COUNT 1

/-- Whether an operation writes. -/
def MemOp.writes : MemOp → Bool
  | .read _ => false
  | _ => true

/-- The table's check of an access (R492): the first address it denies. -/
def State.rptCheck (s : State) (x : Txn) : Option Nat :=
  (x.op.addrs x.addr).find? fun a => s.rptDenies a x.src.cls x.op.writes

/-! Memory at its home -/

/-- The value an atomic leaves (R119). -/
def atomicNew (op : AtomicOp) (n old v cmp : Nat) : Nat :=
  let v := v % 2 ^ (8 * n)
  let lt (signed : Bool) (a b : Nat) : Bool := if signed then decide (sext (8 * n) a < sext (8 * n) b) else decide (a < b)
  match op with
  | .add => (old + v) % 2 ^ (8 * n)
  | .fadd => (fp32.write RMode.rne ((fp32.value old).add (fp32.value v)).1).1
  | .min sg => if lt sg v old then v else old
  | .max sg => if lt sg old v then v else old
  | .fmin => (fp32.write RMode.rne ((fp32.value old).minMax false (fp32.value v))).1
  | .fmax => (fp32.write RMode.rne ((fp32.value old).minMax true (fp32.value v))).1
  | .swap => v
  | .cas => if old = cmp % 2 ^ (8 * n) then v else old

/-- A write error of failed storage is counted at its home (R311). -/
def State.countFailed (s : State) (as : List Nat) : State :=
  s.forAll (((as.map (· / 8)).dedup).filter fun w => s.failed.contains w) fun s w =>
    match homeOf s.ilv (w * 8) with
    | .coreMem c => s.incFld (aCORE_ERR c) CORE_ERR.CMEM_UE 1
    | .slice d i => s.incFld (aSLICE_STAT d i) SLICE_STAT.UE 1
    | _ => s

/-- The access has been performed, with its answer. -/
def State.performed (s : State) (id : Nat) (bytes : List Byte) (bad : List Nat) : State :=
  s.modTxn id fun x => { x with stage := .performed, result := bytes, poisoned := bad }

/-- An access to memory is performed; `bad`: bytes that read as poison beside those of their home (R119-R122, R311, R416,
R417, R429). -/
def State.performMem (s : State) (x : Txn) (bad : Nat → Bool) : State × MemUpd :=
  let poisoned (as : List Nat) : List Nat := as.filter fun a => bad a || s.badByte a
  match x.op with
  | .read as =>
    let t := s.performed x.id (as.map (memByte s.mem)) (poisoned as)
    (if s.overtakes x then t.modTxn x.id fun x => { x with cancelled := true } else t, .none)
  | .write ws => (((s.writeHome ws).1.countFailed (ws.map (·.1))).performed x.id [] [], (s.writeHome ws).2)
  | .atomic op n v cmp _ =>
    let as := (List.range n).map (x.addr + ·)
    let old := s.bytes x.addr n
    if (poisoned as).isEmpty then
      let r := s.writeHome (runOf x.addr (toBytes n (atomicNew op n (ofBytes old) v cmp)))
      ((r.1.countFailed as).performed x.id old [], r.2)
    else (s.performed x.id [] (poisoned as), .none)

/-- A denied access does not reach its home and ends by the rule of its class (R492). -/
def State.deny (s : State) (x : Txn) (pa : Nat) : State :=
  (s.rptLog pa x.src.cls x.op.writes).modTxn x.id fun x => { x with stage := .denied }

end Sys2Proof.Machine
end

