-- ==== Sys2Proof/Machine/Tiers.lean ====
section
/-! DEFINITION. The controllers of the near and middle tiers: requests, link retry (R412-R416, R428, R429), poison lists
(R417, R418), patrol scrub and row repair (R419, R420), calibration (R421-R423), channel sparing (R425-R427) and device
temperature (R413, R430). -/

namespace Sys2Proof.Machine

/-! Controllers by key -/

/-- Registers of the controller with a key (TierCtl.key). -/
def tierBase (k : Nat) : Nat := if k < 68 then ncBlk k else mcBlk (k - 68)
def aTIER_CTRL (k : Nat) : Nat := tierBase k
def aTIER_STAT (k : Nat) : Nat := tierBase k + 0x08
def aTIER_ERR (k : Nat) : Nat := tierBase k + 0x10
def aTIER_CAL (k : Nat) : Nat := tierBase k + 0x18
def aTIER_SCRUB (k : Nat) : Nat := tierBase k + 0x20
def aTIER_REPAIR (k : Nat) : Nat := tierBase k + 0x30

/-- RETRAIN, and the unit fields, which differ between the tiers. -/
def tierRetrain (k : Nat) : Field := if k < 68 then NC_STAT.RETRAIN else MC_STAT.RETRAIN
def tierPos (k : Nat) : Field := if k < 68 then NC_SCRUB.POS else MC_SCRUB.POS
def tierUnit (k : Nat) : Field := if k < 68 then NC_REPAIR.UNIT else MC_REPAIR.UNIT

/-- Source kind and index of a controller in the error log (R501). -/
def tierKind (k : Nat) : Nat := if k < 68 then 0x04 else 0x05
def tierIndex (k : Nat) : Nat := if k < 68 then k else k - 68

/-- The controller that serves a home. -/
def State.tierAt (s : State) : Home → Option Nat
  | .near n => some (s.ncOf n)
  | .middle m => some (68 + m)
  | _ => none

/-- Whether a controller is trained for service, and no burst stops its channel (R422). -/
def State.tierServes (s : State) (k : Nat) : Bool := s.flag (aTIER_STAT k) NC_STAT.READY && (s.tier k).burst.isNone

/-- Whether a request waits at a controller. -/
def State.tierWaiting (s : State) (k : Nat) : Bool :=
  s.txns.any fun x => s.tierAt x.home == some k && match x.stage with
    | .sent | .taken _ => true
    | _ => false

/-! Calibration -/

/-- A burst is called: it runs in this window, or waits for the next one where the window's burst is taken (R422). -/
def State.callBurst (s : State) (k : Nat) (b : BurstCall) : State :=
  let t := s.tier k
  if t.burst.isNone && !t.burstTaken then
    (s.modTier k fun t => { t with burst := some b, burstTaken := true }).incFld (aTIER_CAL k) NC_CAL.BURSTS 1
  else if t.burst == some b || t.calls.contains b then s
  else (s.modTier k fun t => { t with calls := t.calls ++ [b] }).incFld (aTIER_CAL k) NC_CAL.DEFER 1

/-- Whether calls for bursts are heard (R422); a controller that is not trained trains without it. -/
def State.bursts (s : State) (k : Nat) : Bool :=
  s.flag (aTIER_CTRL k) NC_CTRL.BURST_EN || !s.flag (aTIER_STAT k) NC_STAT.READY

/-- A full retrain is scheduled (R423). -/
def State.retrain (s : State) (k : Nat) : State :=
  if (s.tier k).retrainLeft ≠ 0 then s
  else (s.modTier k fun t => { t with retrainLeft := 32 }).setFld (aTIER_STAT k) (tierRetrain k) 1

/-- Bursts that a lane margin or CRC failures call (R422). -/
def State.callMargin (s : State) (k : Nat) : State :=
  if s.flag (aTIER_CTRL k) NC_CTRL.BURST_EN && decide (s.fld (aTIER_STAT k) NC_STAT.MARGIN < s.fld (aTIER_CTRL k) NC_CTRL.MARGIN_LIM)
  then s.callBurst k .margin else s
def State.callCrc (s : State) (k : Nat) : State :=
  if s.flag (aTIER_CTRL k) NC_CTRL.BURST_EN && decide (s.fld (aTIER_CTRL k) NC_CTRL.CRC_LIM ≤ (s.tier k).crcWindow)
  then s.callBurst k .crc else s

/-- The shadow sampler of a lane has measured its eye: the margin is kept, and with TRACK_EN the lane's data sampler moves one step
toward the centre where it has drifted two. MARGIN is the smallest of the lanes (R421). -/
def State.track (s : State) (k lane : Nat) (eye : Int) (margin : Byte) : State :=
  let at_ := (tabGet (0, 0, 0) (s.tier k).lanes lane).2.1
  let to_ := if !s.flag (aTIER_CTRL k) NC_CTRL.TRACK_EN then at_
    else if at_ + 2 ≤ eye then at_ + 1 else if eye ≤ at_ - 2 then at_ - 1 else at_
  let lanes := tabIns (s.tier k).lanes lane (eye, to_, margin.toNat)
  let s := s.modTier k fun t => { t with lanes := lanes }
  (s.setFld (aTIER_STAT k) NC_STAT.MARGIN (lanes.foldl (fun m x => min m x.2.2.2) 255)).callMargin k

/-- A controller is trained and opens (R42, R427, R481). The repairs that its devices still allow are theirs to report. -/
def State.trainTier (s : State) (k : Nat) : State :=
  let (v, s) := s.draw
  let s := s.modTier k fun t => { t with retrainLeft := 0, lastTemp := s.fld (aTIER_STAT k) NC_STAT.DTEMP }
  ((s.setFld (aTIER_STAT k) NC_STAT.REPAIR_LEFT v.toNat).setFld (aTIER_STAT k) (tierRetrain k) 0).setFld (aTIER_STAT k) NC_STAT.READY 1

/-! Requests -/

/-- The addresses of an access that lie in the unit of its first byte. -/
def Txn.inUnit (x : Txn) (n : Nat) (a : Nat) : Bool := ((x.op.addrs x.addr).head?.map (· / n)) == some (a / n)

/-- What a controller counts of a read burst as its devices report it; an uncorrectable unit enters the poison list (R416). -/
def State.burstFound (s : State) (k : Nat) (a : Nat) : BurstCheck → State
  | .clean => s
  | .corrected => s.incFld (aTIER_ERR k) NC_ERR.CE 1
  | .uncorrectable => (s.incFld (aTIER_ERR k) NC_ERR.UE 1).plistAdd k ((nearChan s.ilv a).2 / 64)

/-- A request is taken and performed on its channel, once it may be and while no burst runs; what a read returns is also what a lane's
shadow sampler sees (R412, R416, R421, R422, R428). Whether a middle-tier burst fails its code is TIER_ATTEMPT_FAIL's. -/
def State.tierRequest (s : State) (id : Nat) (found : BurstCheck) (lane : Nat) (eye : Int) (margin : Byte) : State × MemUpd :=
  (match s.txn id with
    | none => (s, .none)
    | some x =>
      match s.tierAt x.home, x.stage with
      | some k, .sent | some k, .taken _ =>
        if !s.tierServes k || !s.mayPerform x then (s, .none)
        else match s.rptCheck x with
          | some a => (s.deny x a, .none)
          | none =>
            let reads := match x.op with
              | .write _ => false
              | _ => true
            let found := if reads && (decide (k < 68) || found != .uncorrectable) then found else .clean
            let bad := fun a => found == BurstCheck.uncorrectable && x.inUnit 64 a
            let r := (s.burstFound k x.addr found).performMem x bad
            (if reads then r.1.track k lane eye margin else r.1, r.2)
      | _, _ => (s, .none))

/-- Bytes whose value the manual leaves unknown (R414). -/
def State.unknownBytes (s : State) (as : List Nat) : State × List (Nat × Byte × Bool) :=
  as.foldl (fun r a => let (v, t) := r.1.draw; (t, r.2 ++ [(a, v.setWidth 8, true)])) (s, [])

/-- The units that addresses touch, as addresses. -/
def unitsOf (n : Nat) (as : List Nat) : List Nat := ((as.map (· / n)).dedup).flatMap fun u => (List.range n).map (u * n + ·)

/-- A request ends without its data (R49, R414, R429). A read, or an atomic, returns poison and leaves what is stored; a write
leaves its units unknown and listed. -/
def State.poisonEnd (s : State) (x : Txn) : State × MemUpd :=
  let as := x.op.addrs x.addr
  match x.op with
  | .write _ =>
    let (s, ws) := s.unknownBytes (unitsOf 64 as)
    ((s.writeHome ws).1.performed x.id [] [], (s.writeHome ws).2)
  | _ => (s.performed x.id (as.map fun _ => 0) as, .none)

/-- A request ends after its eighth attempt; the burst of the middle tier that failed gets the poison pattern (R414, R429). -/
def State.endRequest (s : State) (x : Txn) (k byte : Nat) : State × MemUpd :=
  let s := (s.incFld (aTIER_ERR k) NC_ERR.EXH 1).retrain k
  let u := (midPkg ((x.op.addrs x.addr).getD byte x.addr)).2 / 32
  let s := if k < 68 then s else
    (s.incFld (aTIER_ERR k) NC_ERR.UE 1).modTier k fun t => { t with midBad := u :: t.midBad.filter (· ≠ u) }
  s.poisonEnd x

/-- A burst fails its link CRC or its code: the controller tries again, after the fourth failure with a recovery burst where the window
has one left; the eighth ends the request (R414, R429). The middle tier has no write CRC (R430). -/
def State.tierAttemptFail (s : State) (id byte : Nat) : State × MemUpd :=
  (match s.txn id with
    | none => (s, .none)
    | some x =>
      let write := match x.op with
        | .write _ => true
        | _ => false
      let fail (k n : Nat) : State × MemUpd :=
        if !s.tierServes k || !s.mayPerform x || (s.rptCheck x).isSome || (write && decide (68 ≤ k)) then (s, .none)
        else
          let s := ((s.incFld (aTIER_ERR k) NC_ERR.CRC 1).modTier k fun t => { t with crcWindow := t.crcWindow + 1 }).callCrc k
          if n = 7 then s.endRequest x k byte
          else
            let s := s.modTxn id fun x => { x with stage := .taken (n + 1) }
            let s := if n = 3 ∧ s.flag (aTIER_CTRL k) NC_CTRL.BURST_EN ∧ !(s.tier k).burstTaken then s.callBurst k (.recovery id) else s
            (s, .none)
      match s.tierAt x.home, x.stage with
      | some k, .sent => fail k 0
      | some k, .taken n => fail k n
      | _, _ => (s, .none))

/-- TIER_REFRESH: a refresh command; during a burst it is postponed, 8 at most (R413). -/
def execTierRefresh (n : TierCtl) (s : State) : Out :=
  s.done (
    let k := (TierCtl.key n)
    if (s.tier k).burst.isSome then s.modTier k fun t => { t with postponed := min 8 (t.postponed + 1) } else s)

/-! Windows and bursts -/

/-- The next burst called for starts where the window has had none; without BURST_EN only the switch to a spare does. -/
def State.nextBurst (s : State) (k : Nat) : State :=
  let t := s.tier k
  match t.calls.find? fun b => s.bursts k || b == .spareSwitch with
  | some b =>
    if t.burst.isNone && !t.burstTaken then (s.modTier k fun t => { t with calls := t.calls.filter (· ≠ b) }).callBurst k b else s
  | none => s

/-- CALIBRATION_WINDOW: a window of 50 us begins: its burst is free again, for the calls that waited, a step of a full
retrain, or a margin below its limit (R422, R423). -/
def execCalibrationWindow (n : TierCtl) (s : State) : Out :=
  s.done (
    let k := (TierCtl.key n)
    let s := (s.modTier k fun t => { t with burstTaken := false, crcWindow := 0 }).nextBurst k
    let s := if (s.tier k).retrainLeft ≠ 0 && s.bursts k then s.callBurst k .retrain else s
    s.callMargin k)

/-- Pages that a channel alone kept out of service return: to their image, or to the free ones (R418). -/
def State.restorePages (s : State) (n : Nat) : State :=
  let rest := s.withdrawn.filter (·.2 ≠ n)
  let back := (s.withdrawn.filter (·.2 = n)).filter fun x => !rest.any (·.1 == x.1)
  ({ s with withdrawn := rest } : State).forAll back fun s x =>
    s.setOwner x.1 ((((List.range 16).find? fun i => (s.image i).any fun im => im.regions.any fun r =>
      decide (r.tier ≤ 1) && r.pages.contains x.1).map (16 + ·)).getD 0)

/-- What a burst has done when it ends: a row is repaired, a step of a full retrain made, or a spare switched in (R420, R423,
R425). -/
def State.burstDone (s : State) (k : Nat) : BurstCall → State
  | .repair unit =>
    let s := (s.setFld (aTIER_REPAIR k) NC_REPAIR.BUSY 0).modTier k fun t =>
      { t with softRepairs := t.softRepairs ++ [unit], reports := t.reports.filter fun u => Config.tierRow k u != Config.tierRow k unit }
    let s := (s.logErr 0x0505 (tierKind k) (tierIndex k) 1 0 0 unit).alert ALERT_SRC.SPARE
    s.svcRepair 3 (tierKind k) (tierIndex k) unit
  | .retrain =>
    let left := (s.tier k).retrainLeft - 1
    let s := s.modTier k fun t => { t with retrainLeft := left }
    if left = 0 then
      let s := ((s.incFld (aTIER_CAL k) NC_CAL.FULL 1).setFld (aTIER_STAT k) (tierRetrain k) 0).setFld (aTIER_STAT k) NC_STAT.READY 1
      s.modTier k fun t => { t with lastTemp := s.fld (aTIER_STAT k) NC_STAT.DTEMP }
    else s
  | .spareSwitch =>
    let d := k / 16
    let s := ((s.setFld (aNS_SUBST d) NS_SUBST.ACTIVE 1).setFld (aNS_SUBST d) NS_SUBST.BUSY 0).setFld (aTIER_CTRL k) NC_CTRL.MODE 2
    ((s.logErr 0x0506 0x04 k 1 0 0 0).alert ALERT_SRC.SPARE).restorePages k
  | _ => s

/-- The burst of a controller ends, the postponed refreshes are made, and a call that waited goes on where this window has had no burst
(R413, R414, R422). -/
def State.burstEnd (s : State) (k : Nat) : State :=
  match (s.tier k).burst with
  | none => s
  | some b => ((s.modTier k fun t => { t with burst := none, postponed := 0 }).burstDone k b).nextBurst k

/-- NC_REQ_FULL (R423). -/
def execNcReqFull (n : TierCtl) (s : State) : Out := s.done (s.retrain (TierCtl.key n))

/-- DEVICE_TEMPERATURE_CHANGE: DTEMP and HOT follow the hotter device; a change of 8 degrees since the last full retrain
schedules one (R413, R423, R430). -/
def execDeviceTemperatureChange (n : TierCtl) (temp : Nat) (s : State) : Out :=
  s.done (
    let k := (TierCtl.key n)
    let s := (s.setFld (aTIER_STAT k) NC_STAT.DTEMP temp).setFld (aTIER_STAT k) NC_STAT.HOT (b2n (decide (85 < temp)))
    let old := (s.tier k).lastTemp
    if old + 8 ≤ temp ∨ temp + 8 ≤ old then s.retrain k else s)

/-! Scrub, repair, poison lists -/

/-- Units of a controller's offset space. -/
def tierUnits (k : Nat) : Nat := if k < 68 then 2 ^ 28 else 2 ^ 31

/-- A row is reported to Ahnal, once. -/
def State.reportRow (s : State) (k unit : Nat) : State :=
  s.modTier k fun t =>
    if t.reports.any fun u => Config.tierRow k u == Config.tierRow k unit then t else { t with reports := t.reports ++ [unit] }

/-- What a scrub pass has found in a row: its second corrected unit, or an uncorrectable one, is reported (R419). -/
def State.rowFound (s : State) (k unit : Nat) : BurstCheck → State
  | .clean => s
  | .corrected =>
    let row := Config.tierRow k unit
    let n := tabGet 0 (s.tier k).rowSeen row + 1
    let s := s.modTier k fun t => { t with rowSeen := tabIns t.rowSeen row n }
    if 2 ≤ n then s.reportRow k unit else s
  | .uncorrectable => s.reportRow k unit

/-- PATROL_SCRUB: the unit at POS is read while no request waits; an uncorrectable one enters the poison list, or in the
middle tier gets its poison pattern; rows that need repair are reported (R416, R419, R430). -/
def execPatrolScrub (n : TierCtl) (found : BurstCheck) (s : State) : Out :=
  s.done (
    let k := (TierCtl.key n)
    if !s.flag (aTIER_CTRL k) NC_CTRL.SCRUB_EN || !s.tierServes k || s.tierWaiting k then s
    else
      let pos := s.fld (aTIER_SCRUB k) (tierPos k)
      let s := match found with
        | .clean => s
        | .corrected => s.incFld (aTIER_ERR k) NC_ERR.CE 1
        | .uncorrectable =>
          let s := s.incFld (aTIER_ERR k) NC_ERR.UE 1
          if k < 68 then s.plistAdd k pos
          else s.modTier k fun t => { t with midBad := [2 * pos, 2 * pos + 1] ++ t.midBad.filter (· / 2 ≠ pos) }
      let s := (s.rowFound k pos found).setFld (aTIER_SCRUB k) (tierPos k) (pos + 1)
      if pos + 1 = tierUnits k then
        (s.incFld (aTIER_SCRUB k) NC_SCRUB.PASSES 1).modTier k fun t => { t with rowSeen := [] }
      else s)

/-- A row repair begins: with none left it sets FAIL and changes nothing; else it is made within one burst (R420). -/
def State.repairGo (s : State) (k : Nat) : State :=
  if s.flag (aTIER_REPAIR k) NC_REPAIR.BUSY then s
  else if s.fld (aTIER_STAT k) NC_STAT.REPAIR_LEFT = 0 then
    (s.setFld (aTIER_REPAIR k) NC_REPAIR.FAIL 1).modTier k fun t => { t with repairFails := t.repairFails + 1 }
  else
    let s := s.setFld (aTIER_STAT k) NC_STAT.REPAIR_LEFT (s.fld (aTIER_STAT k) NC_STAT.REPAIR_LEFT - 1)
    let s := s.setFld (aTIER_REPAIR k) NC_REPAIR.BUSY 1
    let b := BurstCall.repair (s.fld (aTIER_REPAIR k) (tierUnit k))
    if s.bursts k then s.callBurst k b else s.modTier k fun t => { t with calls := t.calls ++ [b] }

/-- NC_REPAIR_GO (R420). -/
def execNcRepairGo (n : TierCtl) (unit : Nat) (s : State) : Out :=
  s.done ((s.setFld (aTIER_REPAIR (TierCtl.key n)) (tierUnit (TierCtl.key n)) unit).repairGo (TierCtl.key n))

/-- NC_PLIST_ADD: Ahnal enters a unit in a poison list (R417, R437). -/
def execNcPlistAdd (n : TierCtl) (unit : Nat) (s : State) : Out :=
  s.done (match n with
    | .near k => if unit < 2 ^ 28 then s.plistAdd k unit else s
    | .middle _ => s)

/-- The page that holds a unit of a near-tier channel (R94, R95). -/
def State.pageOfUnit (s : State) (k unit : Nat) : Nat :=
  let d := if k < 64 then k / 16 else k - 64
  let o := unit * 64
  let p := o / 131072
  if s.ilv.contains (d * diePages + p) then o % 131072 / 32768 * diePages + p else d * diePages + p

/-- Pages are withdrawn: they go out of service, and the invocations of their images end FAULTED (R418, R427). -/
def State.withdrawPages (s : State) (pages : List Nat) : State :=
  let hit := (List.range 16).filter fun k => pages.any fun g => s.ownerOf g == 16 + k
  let s := s.forAll (pages.filter fun g => !firmwarePage g) fun s g => s.setOwner g 1
  s.forAll hit fun s k => match s.image k with
    | some im =>
      if im.active then
        (s.modImage k fun i => if i.ending = Ending.none then { i with ending := .faulted } else i).logErr 0x0302 0 0 1 im.handle 0 0
      else s
    | none => s

/-- POISON_LIST_FULL: a unit would enter a full list: it is not recorded, and its page is withdrawn (R418). -/
def execPoisonListFull (n : TierCtl) (unit : Nat) (s : State) : Out :=
  s.done (match n with
    | .middle _ => s
    | .near k =>
      if (s.tier k).plist.length < 2048 ∨ (s.tier k).plist.contains unit then s
      else
        let g := s.pageOfUnit k unit
        let s := (s.logErr 0x0204 0x04 k 1 0 0 (unit * 64)).withdrawPages [g]
        if firmwarePage g ∨ s.withdrawn.contains (g, k.val) then s else { s with withdrawn := s.withdrawn ++ [(g, k.val)] })

/-! Sparing -/

/-- Steps 1 and 2 of R425 begin: the spare trains and mirrors the writes of the channel. A spare in use serves no other
channel (R427). -/
def State.substCopy (s : State) (d : Nat) : State :=
  if s.flag (aNS_SUBST d) NS_SUBST.BUSY ∨ s.flag (aNS_SUBST d) NS_SUBST.ACTIVE then s
  else
    let n := d * 16 + s.fld (aNS_SUBST d) NS_SUBST.CH
    let old := tabGet n s.spareOf d
    let s := if s.mirrored old then s.setFld (aTIER_CTRL old) NC_CTRL.MODE 0 else s
    let s := (s.setFld (aNS_SUBST d) NS_SUBST.BUSY 1).setFld (aNS_SUBST d) NS_SUBST.COPIED 0
    let s := (({ s with spareOf := tabIns s.spareOf d n } : State).modTier (64 + d) fun t => { t with plist := [] }).plistStat (64 + d)
    let s := s.trainTier (64 + d)
    let s := s.setFld (aTIER_CTRL (64 + d)) NC_CTRL.EN 1
    s.setFld (aTIER_CTRL n) NC_CTRL.MODE 1

/-- NS_SUBST_COPY (R425, R427). -/
def execNsSubstCopy (d : Die) (ch : Fin 16) (rate : Nat) (s : State) : Out :=
  s.done (
    if s.flag (aNS_SUBST d) NS_SUBST.BUSY ∨ s.flag (aNS_SUBST d) NS_SUBST.ACTIVE then s
    else
      let s := s.setFld (aNS_SUBST d) NS_SUBST.CH ch
      let s := if NS_SUBST.COPY_RATE.isListed rate then s.setFld (aNS_SUBST d) NS_SUBST.COPY_RATE rate else s
      s.substCopy d)

/-- SPARE_COPY_UNIT: the next unit is copied while no request waits; a listed unit becomes listed in the spare. Where the
spare fails, the sparing is abandoned (R425-R427). -/
def execSpareCopyUnit (d : Die) (ok : Bool) (s : State) : Out :=
  s.done (
    let n := tabGet 0 s.spareOf d
    let i := s.fld (aNS_SUBST d) NS_SUBST.COPIED
    if !s.flag (aNS_SUBST d) NS_SUBST.BUSY || decide (2 ^ 28 ≤ i) || s.tierWaiting n || !s.tierServes n then s
    else if !ok then
      ((s.setFld (aNS_SUBST d) NS_SUBST.BUSY 0).setFld (aTIER_CTRL n) NC_CTRL.MODE 0).modTier (64 + d) fun t => { t with spareBad := true }
    else
      let s := if (s.tier n).plist.contains i then s.plistEnter (64 + d) i else s.plistLeave (64 + d) i
      let s := s.setFld (aNS_SUBST d) NS_SUBST.COPIED (i + 1)
      if i + 1 = 2 ^ 28 then s.setFld (aNS_SUBST d) NS_SUBST.BUSY 0 else s)

/-- Step 3 of R425: ignored until every unit is copied. -/
def State.substSwitch (s : State) (d : Nat) : State :=
  if !s.flag (aNS_SUBST d) NS_SUBST.BUSY && !s.flag (aNS_SUBST d) NS_SUBST.ACTIVE && s.fld (aNS_SUBST d) NS_SUBST.COPIED == 2 ^ 28 then
    (s.setFld (aNS_SUBST d) NS_SUBST.BUSY 1).callBurst (tabGet 0 s.spareOf d) .spareSwitch
  else s

/-- Whether a near-tier channel must be retired (R420, R519). -/
def State.sparingDue (s : State) (k : Nat) : Bool :=
  let f (f : Field) : Nat := s.fld (aTIER_ERR k) f
  s.flag (aTIER_STAT k) NC_STAT.PLIST_HIGH || decide (4 ≤ (s.tier k).repairFails) || decide (1024 ≤ f NC_ERR.UE) ||
    decide ((s.tier k).exhMark + 16 ≤ f NC_ERR.EXH)

/-- Whether a die has no spare left: it is in use, or has failed (R427). -/
def State.noSpare (s : State) (d : Nat) : Bool := s.flag (aNS_SUBST d) NS_SUBST.ACTIVE || (s.tier (64 + d)).spareBad

/-- NS_SUBST_SWITCH (R425). -/
def execNsSubstSwitch (d : Die) (s : State) : Out := s.done (s.substSwitch d)

/-- MIDDLE_HOT: while a package is hot, the Guaranteed images with a region on it count as breached (R430). -/
def execMiddleHot (m : Fin 16) (s : State) : Out :=
  s.done (
    if !s.flag (aTIER_STAT (68 + m)) NC_STAT.HOT then s
    else s.forAll s.loadedSlots fun s k => match s.image k with
      | some im => if im.regions.any fun r => r.tier == 1 && r.die == m.val / 4 then s.breachBy k im 0x05 m 0 else s
      | none => s)

end Sys2Proof.Machine
end

