-- ==== Sys2Proof/Machine/Spares.lean ====
section
/-! DEFINITION. Spares and wear: retired cores and their substitutes (R9, R519-R521), the wear scan (R517, R518), the poll of
the error counters (R501), spare wires (R522), and the record of SPARE_STATUS (R524). -/

namespace Sys2Proof.Machine

/-! Cores -/

/-- State of a physical core (R524): 0 active, 1 spare, 2 retired, 3 worn, 4 absent. -/
def State.coreStatus (s : State) (c : Nat) : Nat := tabGet (if c < gradeCores s.grade then 0 else 1) s.mgmt.coreState c
def State.setCoreStatus (s : State) (c v : Nat) : State :=
  s.modMgmt fun m => { m with coreState := tabIns m.coreState c v }

/-- The active-core indices of the grade, and the one a physical core holds (R9). -/
def State.activeMap (s : State) : List Nat := s.mgmt.coreMap.take (gradeCores s.grade)
def State.indexOf (s : State) (c : Nat) : Option Nat := s.activeMap.findIdx? (· = c)

/-- Whether a core is in service (R22, R518). -/
def State.inService (s : State) (c : Nat) : Bool := (s.indexOf c).isSome

/-- The good spares, and the one that replaces a core: of its cluster, else of its die, else of any die, lowest id first
(R520). -/
def State.spares (s : State) : List Nat := (List.range 1152).filter fun c => s.coreStatus c == 1
def State.goodSpare (s : State) (c : Nat) : Option Nat :=
  let l := s.spares
  ((l.find? fun e => clusterOfCore e == clusterOfCore c).or (l.find? fun e => dieOfCore e == dieOfCore c)).or l.head?

/-- Whether an active-core index is bound to a loaded image. -/
def State.bound (s : State) (a : Nat) : Bool := s.loadedSlots.any fun k => (s.image k).any fun im => im.bind.contains a

/-- The entries of cores and the active-core map, as offsets 0x0100-0x11FF of R524 lay them out. -/
def State.coreMapBytes (s : State) : List Byte :=
  ((List.range 1152).flatMap fun c => toBytes 2 (min 4095 (tabGet 0 s.mgmt.scanned c) + s.coreStatus c * 4096)) ++
    (List.range 1024).flatMap fun a => toBytes 2 ((s.activeMap[a]?).getD 0xFFFF)

/-- The core map goes to a service record (R520, R533). -/
def State.recordMap (s : State) : State := s.svcAppend 1 19 s.coreMapBytes

/-- A spare takes over an active-core index (R9, R520). -/
def State.substitute (s : State) (a spare : Nat) : State :=
  let s := (s.setCoreStatus spare 0).modMgmt fun m => { m with
    coreMap := listSet m.coreMap a spare, pendingSub := m.pendingSub.filter (· ≠ a) }
  s.recordMap.logErr 0x0502 0x01 spare 1 0 0 a

/-- A core is retired: an unbound index is substituted at once, a bound one at the next START of its image or its UNLOAD;
with no good spare left it stays in service, worn (R519-R521). -/
def State.retire (s : State) (c : Nat) : State :=
  let done (s : State) : State :=
    let s := (s.setCoreStatus c 2).modMgmt fun m => { m with retired := m.retired + 1 }
    ((s.logErr 0x0501 0x01 c 1 0 0 0).alert ALERT_SRC.SPARE).recordMap
  match s.coreStatus c, s.indexOf c with
  | 1, _ => done s
  | 0, some a =>
    if s.spares.length ≤ s.mgmt.pendingSub.length then
      (((s.setCoreStatus c 3).logErr 0x0509 0x01 c 1 0 0 0).alert ALERT_SRC.EXHAUST).recordMap
    else
      let s := done s
      if s.bound a then s.modMgmt fun m => { m with pendingSub := m.pendingSub ++ [a] }
      else match s.goodSpare c with
        | some e => s.substitute a e
        | none => s
  | _, _ => s

/-- Whether a core's counters ask that it be retired (R333, R519). -/
def State.retireDue (s : State) (c : Nat) : Bool :=
  let f (f : Field) : Nat := s.fld (aCORE_ERR c) f
  decide (4 ≤ f CORE_ERR.CMEM_UE + f CORE_ERR.IMEM_UE) ||
  decide (tabGet 0 s.mgmt.lastScan c + 256 ≤ f CORE_ERR.CMEM_CE + f CORE_ERR.IMEM_CE) ||
  s.flag (aCWAY c) CWAY.RETIRE_REQ

/-! The wear scan -/

/-- The power limit holds (R29). -/
def State.powerLimited (s : State) : Bool := decide (s.fld aGOV_LIMITS GOV_LIMITS.PLIMIT < s.fld aSUPPLY_STAT SUPPLY_STAT.PIN)

/-- The replicas of a rail by id: cores 0-1151, routers from 1152, die rails from 1224, four each (R22, R24). -/
def railReplicas (r : Nat) : List Nat :=
  if r < 72 then ((List.range 16).map fun j => r / 18 * 288 + r % 18 * 16 + j) ++ [1152 + r]
  else (List.range 4).map fun q => 1224 + (r - 72) * 4 + q
def replicaRail (i : Nat) : Nat := if i < 1152 then clusterOfCore i else if i < 1224 then i - 1152 else 72 + (i - 1224) / 4

/-- PACEMAX of a rail: the lowest pace of its router and its cores in service, or of its four replicas (R518). -/
def State.newPacemax (s : State) (r : Nat) : Option Nat :=
  ((railReplicas r).filter fun i => 1152 ≤ i || s.inService i).foldl (fun b i => match tabFind s.mgmt.scanned i, b with
    | some p, some q => some (min p q)
    | some p, none => some p
    | none, b => b) none

/-- WEAR_SCAN_TIMER: 24 hours since the last scan, or an hour since a cluster was skipped (R517). -/
def execWearScanTimer (s : State) : Out := s.done (s.modMgmt fun m => { m with wearTimer := true })

/-- A SPARE_STATUS of OP 1 that waits for its scan. -/
def State.scanAsked (s : State) : Option Nat :=
  (s.claimed.find? fun q => q.begun && pkOp q.packet == 0x0060 && pkArg q.packet 0 1 == 1).map (·.id)

/-- WEAR_SCAN: the FMC counts of replicas over 256 crystal cycles at 0.900 V: pace and PACEMAX follow, cores that meet a
criterion are retired, and the scan is recorded; hot or power-limited rails are skipped, a supply warning ends the scan
(R517-R520, R533). -/
def execWearScan (results : List (Nat × Nat)) (s : State) : Out :=
  s.done (
    if (!s.mgmt.wearTimer && s.scanAsked.isNone) || s.warned then s
    else
      let use := results.filter fun x => decide (x.1 < 1240) && !s.powerLimited &&
        !s.flag (aGOV_STAT (replicaRail x.1)) GOV_STAT.HOT
      let s := s.modMgmt fun m => { m with
        wearTimer := false, scans := m.scans + 1
        scanned := use.foldl (fun t x => tabIns t x.1 (x.2 * 25 / 256)) m.scanned }
      let rails := (use.map fun x => replicaRail x.1).dedup
      let s := s.forAll rails fun s r => match s.newPacemax r with
        | some p => s.modMgmt fun m => { m with pacemax := tabIns m.pacemax r p }
        | none => s
      let s := s.forAll ((use.map (·.1)).filter (· < 1152)) fun s c =>
        if tabGet 0 s.mgmt.scanned c < 927 ∨ s.retireDue c then s.retire c else s
      let s := s.forAll (List.range 1152) fun s c => s.modMgmt fun m => { m with
        lastScan := tabIns m.lastScan c (s.fld (aCORE_ERR c) CORE_ERR.CMEM_CE + s.fld (aCORE_ERR c) CORE_ERR.IMEM_CE) }
      let s := s.forAll (List.range 68) fun s k => s.modTier k fun t => { t with exhMark := s.fld (aTIER_ERR k) NC_ERR.EXH }
      let s := s.logErr 0x0508 0 0 1 0 0 0
      let s := s.svcAppend 7 1 ((List.range 76).flatMap fun r => toBytes 2 (tabGet 0 s.mgmt.pacemax r))
      match s.scanAsked with
      | some k => s.finalReply k 0 0 []
      | none => s)

/-! The error counters -/

/-- One hardware error counter: register, field, and the event, source kind and index that Ahnal records (R501). -/
structure ErrCounter where
  addr : Nat
  fld : Field
  code : Nat
  kind : Nat
  index : Nat
deriving DecidableEq, Repr

/-- The hardware error counters of every block (R501). A sync error is an event of its own, recorded when it happens (R361). -/
def errCounters : List ErrCounter :=
  ((List.range 1152).flatMap fun c =>
    [⟨aCORE_ERR c, CORE_ERR.CMEM_CE, 0x0101, 0x01, c⟩, ⟨aCORE_ERR c, CORE_ERR.IMEM_CE, 0x0101, 0x01, c⟩,
      ⟨aCORE_ERR c, CORE_ERR.CMEM_UE, 0x0201, 0x01, c⟩, ⟨aCORE_ERR c, CORE_ERR.IMEM_UE, 0x0201, 0x01, c⟩] ++
    (CWAYCNT.map fun f => ⟨aCWAYCNT c, f, 0x0102, 0x01, c⟩)) ++
  ((List.range 72).flatMap fun k =>
    (List.range 4).map fun p => ⟨aLINK_REP k p, LINK_REP.RESENT, 0x0103, 0x02, routerOf k * 32 + p⟩) ++
  ((List.range 128).flatMap fun i =>
    [⟨aSLICE_STAT (i / 32) (i % 32), SLICE_STAT.CE, 0x0101, 0x03, i⟩,
      ⟨aSLICE_STAT (i / 32) (i % 32), SLICE_STAT.UE, 0x0201, 0x03, i⟩]) ++
  ((List.range 84).flatMap fun k =>
    [⟨aTIER_ERR k, NC_ERR.CE, 0x0104, tierKind k, tierIndex k⟩, ⟨aTIER_ERR k, NC_ERR.UE, 0x0201, tierKind k, tierIndex k⟩,
      ⟨aTIER_ERR k, NC_ERR.EXH, 0x0202, tierKind k, tierIndex k⟩]) ++
  ((List.range 32).flatMap fun f =>
    [⟨aFC_STAT f, FC_STAT.RETRY, 0x0105, 0x06, f⟩, ⟨aFC_STAT f, FC_STAT.UE, 0x0201, 0x06, f⟩])

/-- One counter is read: an increase is recorded as one entry. -/
def State.pollOne (s : State) (e : ErrCounter) : State :=
  let key := e.addr * 64 + e.fld.lo
  let now := s.fld e.addr e.fld
  let old := tabGet 0 s.mgmt.lastPoll key
  if now = old then s
  else
    let s := s.modMgmt fun m => { m with lastPoll := tabSet 0 m.lastPoll key now }
    s.logErr e.code e.kind e.index (if old < now then now - old else now) 0 0 now

/-- Whether Ahnal runs on the managing complex (R481, R510). -/
def State.ahnal (s : State) : Bool :=
  s.power == .on && (s.fld (aBOOT_STAT s.activeMc) BOOT_STAT.PHASE == 3 || s.fld (aBOOT_STAT s.activeMc) BOOT_STAT.PHASE == 4)

/-- An uncorrectable error in a line: a clean line is discarded; of a dirty one the dirty bytes hit are bad from now on, and clean ones
no longer valid (R332). -/
def Line.spoil (l : Line) (bytes : BitVec 64) : Option Line :=
  if l.dirty = 0 then none
  else some { l with bad := l.bad ||| (bytes &&& l.dirty), valid := l.valid &&& ~~~(bytes &&& ~~~l.dirty) }

/-- A cache finds an error in an enabled way: it is counted against the way, and an uncorrectable one spoils the line (R332). -/
def State.cacheError (s : State) (c : CoreId) (icache : Bool) (set way : Nat) (corrected : Bool) (bytes : BitVec 64) : State :=
  if bit (if icache then s.icDis c else s.dcDis c) way then s
  else
    let s := s.incFld (aCWAYCNT c) (wayCount icache way) 1
    if corrected then s
    else if icache then s.modCore c fun q => { q with icache := q.icache.put set way none }
    else s.modCore c fun q => { q with dcache := q.dcache.put set way ((q.dcache.at set way).bind (·.spoil bytes)) }

/-- What an error found does: a corrected word is counted, an uncorrectable one is poisoned and counted; storage that has failed stays
so (R311, R318, R332). -/
def State.hwError (s : State) : HwError → State × MemUpd
  | .coreWord c true w ok =>
    let s := if ok then s else s.modCore c fun q => { q with imemPoison := insertNat q.imemPoison (w % 8192) }
    (s.incFld (aCORE_ERR c) (if ok then CORE_ERR.IMEM_CE else CORE_ERR.IMEM_UE) 1, .none)
  | .coreWord c false w ok =>
    (s.incFld (aCORE_ERR c) (if ok then CORE_ERR.CMEM_CE else CORE_ERR.CMEM_UE) 1,
      if ok then .none else ⟨false, [], [(coreMemBase c / 8 + w % 65536, true)]⟩)
  | .sliceWord d sl w ok =>
    (s.incFld (aSLICE_STAT d sl) (if ok then SLICE_STAT.CE else SLICE_STAT.UE) 1,
      if ok then .none else ⟨false, [], [(sliceAddr d sl (w % 524288 * 8) / 8, true)]⟩)
  | .cacheLine c icache set way ok bytes => (s.cacheError c icache set way ok bytes, .none)
  | .storage w => ({ s with failed := insertNat s.failed w }, .none)
  | .imemStorage c w => ({ s with imemFailed := if s.imemFailed.contains (c.val, w % 8192) then s.imemFailed else (c.val, w % 8192) :: s.imemFailed }, .none)
  | .unreadable c => ({ s with unreadable := insertNat s.unreadable c }, .none)

/-- The counters are read, and cores whose counters ask for it are retired (R501, R519). -/
def State.poll (s : State) : State :=
  if !s.ahnal then s
  else (s.forAll errCounters (·.pollOne ·)).forAll (List.range 1152) fun s c =>
    if s.coreStatus c == 0 && s.retireDue c then s.retire c else s

/-- The active complex advances its heartbeat, by how much since the last look is left open (R510). -/
def State.beat (s : State) : State :=
  if !s.ahnal then s
  else
    let (v, s) := s.draw
    s.setFld (aMGMT_ROLE 0) MGMT_ROLE.HB ((s.fld (aMGMT_ROLE 0) MGMT_ROLE.HB + 1 + v.toNat % (2 ^ 32 - 1)) % 2 ^ 32)

/-- ERROR_COUNTER_POLL: what errors storage has shown takes effect, Ahnal reads the counters, and its heartbeat has advanced (R311,
R332, R501, R510; log 115). -/
def execErrorCounterPoll (found : List HwError) (s : State) : Out :=
  s.doneMem (andThen (s.eachMem found fun s e => s.hwError e) fun s => (s.poll.beat, .none))

/-! The record of SPARE_STATUS -/

/-- Entries of the error log in order of age, the 64 most recent. -/
def State.recentLog (s : State) : List Byte :=
  let l := ((s.mgmt.errlog.take 64).reverse.flatMap (·.bytes))
  l ++ zeros (2048 - l.length)

/-- The record of SPARE_STATUS with OP 0 (R524). -/
def State.spareRecord (s : State) : List Byte :=
  let most (l : List Nat) : Nat := l.foldl max 0
  let ns := (List.range 4).foldl (fun v d => v + b2n (s.flag (aNS_SUBST d) NS_SUBST.ACTIVE) * 2 ^ d) 0
  let used := most ((List.range 288).map fun i => s.fld (aLINK_REP (i / 4) (i % 4)) LINK_REP.USED)
  let rows := most ((List.range 128).map fun i => s.fld (aSLICE_STAT (i / 32) (i % 32)) SLICE_STAT.SPARE_USED)
  let pct := if s.deepPresent then (List.range 32).foldl (fun v f => min v (s.fld (aFC_STAT f) FC_STAT.SPARE_PCT)) 255 else 0xFF
  toBytes 2 s.spares.length ++ toBytes 2 s.mgmt.retired ++ toBytes 2 s.mgmt.pendingSub.length ++
    toBytes 2 ((List.range 1152).filter fun c => s.coreStatus c == 3).length ++ toBytes 4 s.mgmt.scans ++
    toBytes 1 ns ++ toBytes 1 used ++ toBytes 1 rows ++ toBytes 1 pct ++ zeros 48 ++
    ((List.range 76).flatMap fun r => toBytes 2 (tabGet 0 s.mgmt.pacemax r)) ++ zeros 40 ++
    s.coreMapBytes ++ s.recentLog

end Sys2Proof.Machine
end

