-- ==== Sys2Proof/Machine/Service.lean ====
section
/-! DEFINITION. Faults of the module and its service: the dump (R507-R509), fatal errors (R504-R506), the management complexes
(R510-R512), links (R522), failed near-tier channels (R427), thermal warnings (R525, R526), and the sideband (R503,
R529-R532). -/

namespace Sys2Proof.Machine

/-! The dump -/

/-- Base of the dump area (R90). -/
def dumpBase : Nat := 0xFC_0000_0000
def dumpPages : List Nat := (List.range 4096).map (0x7E000 + ·)

/-- Bytes of memory as a dump copies them, from an address to an offset; poison travels with them. -/
def State.copied (s : State) (o a n : Nat) : List (Nat × Byte × Bool) :=
  (List.range n).map fun i => (o + i, memByte s.mem (a + i), s.badByte (a + i))

/-- The tile context of a core in the layout of TCTXS (R253). -/
def Core.tileContext (q : Core) : List Byte :=
  q.contextHeader ++ (List.range 24).flatMap fun i =>
    let rows := if q.held i then (List.range (q.rowsOf i)).flatMap fun r => (q.rowOf i r ++ zeros 64).take 64 else []
    rows ++ zeros (2048 - rows.length)

/-- Whether a core has a record: in service, and not gated (R507). -/
def State.recorded (s : State) (c : Nat) : Bool := s.inService c && !s.flag (aGOV_SET (clusterOfCore c)) GOV_SET.GATE

/-- The core record of a core at an offset (R507). -/
def State.coreRecord (s : State) (o c : Nat) : List (Nat × Byte × Bool) :=
  let q := s.core c
  runOf o (s.ctrlBytes (coreBlk c) 0x1_0000) ++
    (threads.flatMap fun t =>
      let th := q.thr[t]
      runOf (o + 0x1_0000 + t.val * 0x800) (th.frame th.pc th.excInfo (TR_FAULT.VA.get th.trFault))) ++
    runOf (o + 0x2_0000) q.tileContext ++
    ((List.range 8192).flatMap fun i => (runOf (o + 0x3_0000 + 8 * i) (toBytes 8 (tabGet 0 q.imem i).toNat)).map
      fun x => (x.1, x.2.1, q.imemPoison.contains i)) ++
    s.copied (o + 0x8_0000) (coreMemBase c) 0x8_0000

/-- Offset of a core's record. -/
def coreRecordAt (c : Nat) : Nat := 0x100_0000 + c * 0x10_0000

/-- The logs of the dump. -/
def State.dumpLogs (s : State) : List Byte :=
  ((List.range 1024).flatMap fun n => ((s.logEntry n).map (·.bytes)).getD (zeros 32)) ++
    (List.range 72).flatMap fun k => s.ctrlBytes (clusterBlk k + 0x900) 256

/-- The control-space snapshot: offset, block and size of each part. -/
def snapshotParts : List (Nat × Nat × Nat) :=
  [(0, powerBlk, 0x1_0000)] ++ ((List.range 72).map fun k => (0x1_0000 + k * 0x1_0000, clusterBlk k, 0x1_0000)) ++
    ((List.range 4).map fun d => (0x50_0000 + d * 0x10_0000, dieBlk d, 0x10_0000)) ++
    [(0x90_0000, barrierBlk 0, 0x4_0000), (0x94_0000, dirEntry 0, 0x8_0000)] ++
    ((List.range 2).map fun p => (0xA0_0000 + p * 0x10_0000, bar0 p, 0x10_0000)) ++
    ((List.range 2).map fun m => (0xC0_0000 + m * 0x10_0000, mgmtBlk m, 0x10_0000)) ++ [(0xE0_0000, flashBlk 0, 0x2_0000)]

/-- The dump header (R507): kind, the entry of the cause, sections written, lockup entries. -/
def State.dumpHeader (s : State) (kind : Nat) (cause : Option LogEntry) (sections lockups : Nat) : List Byte :=
  toBytes 4 0x504D_5544 ++ toBytes 2 1 ++ toBytes 1 kind ++ toBytes 1 1 ++ toBytes 4 s.mgmt.dumps ++ toBytes 4 s.bootCount ++
    ((cause.map (·.bytes)).getD (zeros 32)) ++ toBytes 8 sections ++ toBytes 2 lockups ++ zeros 198

/-- Everything a fatal dump holds, by offset (R507). -/
def State.dumpCells (s : State) : List (Nat × Byte × Bool) :=
  runOf 0 (s.dumpHeader 1 s.mgmt.errlog.head? 0xF 0) ++ runOf 0x1_0000 s.dumpLogs ++
    (snapshotParts.flatMap fun x => runOf (0x10_0000 + x.1) (s.ctrlBytes x.2.1 x.2.2)) ++
    (((List.range 1152).filter s.recorded).flatMap fun c => s.coreRecord (coreRecordAt c) c) ++
    (List.range 4).flatMap fun d => s.copied (0x4900_0000 + d * 0x800_0000) (0x1000_0000_0000 + d * 0x1000_0000) 0x800_0000

/-- The dump is written to the near-tier dump area, the rest of which reads 0 (R504 step 4). -/
def State.dumpNear (s : State) : State × MemUpd :=
  let cells := s.dumpCells
  andThen (s.eachMem dumpPages fun s g => s.fillPage g []) fun s =>
    let (s, u) := s.writeHome (cells.map fun x => (dumpBase + x.1, x.2))
    (s.setFld (aFATAL_STAT 0) FATAL_STAT.DUMP_DONE 1, u)

/-- The dump is written to the deep tier, in the F grades (R504 step 5). -/
def State.dumpDeep (s : State) : State :=
  let cells := s.dumpCells
  if s.deepPresent then
    (s.modDeep fun d => { d with
      mirror := some (cells.foldl (fun m x => memSet m x.1 x.2.1) []) }).setFld (aFATAL_STAT 0) FATAL_STAT.MIRROR_DONE 1
  else s

/-! Fatal errors -/

/-- FATAL_N asserted, FATAL and its alert set (R504 step 1). -/
def State.fatalMark (s : State) (code : Nat) : State :=
  let s := (s.setFld (aFATAL_STAT 0) FATAL_STAT.FATAL 1).setFld (aFATAL_STAT 0) FATAL_STAT.CAUSE code
  { s with pins := { s.pins with fatal := true } }.alert ALERT_SRC.FATAL

/-- Every core stops issue and every DMA channel stops requesting; parked waits stand as they are (R504 step 2). -/
def State.freeze (s : State) : State :=
  let s := s.forAll (s.cores.map (·.1)) fun s c => s.modCore c fun q => { q with
    thr := q.thr.map fun th => match th.st with
      | .running | .ready | .stalled => { th with st := .halted, halt := .request, haltReq := false }
      | _ => th }
  s.forAll (List.finRange 128) fun s ch =>
    if s.dmaState ch = dmaRunning ∨ s.dmaState ch = dmaWaiting ∨ s.dmaState ch = dmaStopping then s.setDma ch dmaStopped 0 else s

/-- Every invocation ends FAULTED; what else is claimed and not served in fatal state is answered INTERNAL (R504 step 3,
R505). -/
def State.endAll (s : State) : State :=
  let s := s.forAll (List.finRange 16) fun s k => match s.image k with
    | some im => if im.active then s.endInvocation k im 0x30 0 else s
    | none => s
  s.forAll (s.claimed.filter fun q => !fatalServes q.packet) fun s q => s.finalReply q.id 0x3F 0 []

/-- A fatal event (R504-R506): logged; the first one asserts FATAL_N, stops the cores and channels, ends every invocation, and
leaves a dump where one can be made. Without Ahnal only the first step is made (R512). -/
def State.fatal (s : State) (code kind index data1 data0 : Nat) : State × MemUpd :=
  let was := s.flag (aFATAL_STAT 0) FATAL_STAT.FATAL
  if code = 0x0404 then (if was then (s, .none) else (s.fatalMark code, .none))
  else
    let s := s.logErr code kind index 1 0 data1 data0
    if was then (s, .none)
    else
      let s := ((s.fatalMark code).freeze).endAll
      if code = 0x0403 then
        (if s.deepPresent then ((s.modMgmt fun m => { m with dumps := m.dumps + 1 }).dumpDeep, .none)
        else
          let s := s.setFld (aFATAL_STAT 0) FATAL_STAT.NO_DUMP 1
          (s.svcAppend 5 1 ((s.mgmt.errlog.head?.map (·.bytes)).getD [] ++ toBytes 8 (s.reg (aFATAL_STAT 0)).toNat), .none))
      else
        let s := s.modMgmt fun m => { m with dumps := m.dumps + 1 }
        andThen s.dumpNear fun s => (s.dumpDeep, .none)

/-- FATAL_ERROR: an event of class 0x04 (R499, R504). -/
def execFatalError (cause : ErrCode) (source : ErrSource) (s : State) : Out :=
  s.doneMem (if [0x0401, 0x0402, 0x0403, 0x0404].contains cause.toNat ∧ s.power = .on then
    s.fatal cause.toNat source.kind.toNat source.index 0 0 else (s, .none))

/-- CHANNEL_FAILED: a channel that must be retired on a die without a spare: the die's pages and every device-wide quad are
withdrawn for good; on CD3 it is fatal (R427, R519). -/
def execChannelFailed (n : TierCtl) (s : State) : Out :=
  s.doneMem (match n with
    | .middle _ => (s, .none)
    | .near k =>
      let d := if k.val < 64 then k.val / 16 else k.val - 64
      let pages := ((List.range diePages).map (d * diePages + ·)) ++ s.ilv.filter fun g => g / diePages != d
      if !s.noSpare d || !s.sparingDue k then (s, .none) else
      let s := (s.setFld (aTIER_STAT k) NC_STAT.READY 0).withdrawPages pages
      let s := { s with withdrawn := s.withdrawn.filter fun x => x.1 / diePages != d && !s.ilv.contains x.1 }
      if d = 3 then s.fatal 0x0403 0x04 k 0 0 else (s, .none))

/-! Lockups -/

/-- Ahnal's reset of a core: its disabled ways are in use again and their counts begin anew (R333, R533). -/
def State.resetWays (s : State) (c : CoreId) : State :=
  let off := s.dcDis c + s.icDis c
  let s := (s.setReg (aCWAY c) (CWAY.WAYLIM.put (resetAt (aCWAY c)) (s.fld (aCWAY c) CWAY.WAYLIM))).setReg (aCWAYCNT c) 0
  if off = 0 then s else s.svcAppend 4 5 s.waysRecord

/-- LOCKUP_SERVICE: once the invocation of a locked core has ended, Ahnal writes its record and a lockup entry, clears VALID,
resets the core, and retires it where the reason asks for it (R213, R343, R509, R519). -/
def execLockupService (c : CoreId) (s : State) : Out :=
  s.doneMem (
    let q := s.core c
    let im := (s.boundTo c).bind fun b => s.image b.1
    if q.lock = 0 ∨ im.any (·.active) ∨ !s.ahnal then (s, .none)
    else
      let vec := q.lock.toNat / 2 ^ 8 % 64
      let reason := q.lock.toNat / 2 ^ 16 % 16
      let head := s.bytes dumpBase 0x500
      let old := field head 0 4 == 0x504D_5544
      let count := if old then field head 0x38 2 else 0
      let cause := s.mgmt.errlog.find? fun e => e.code == 0x0301 && e.index == c.val
      let entry := toBytes 2 c ++ toBytes 1 reason ++ toBytes 1 vec ++ toBytes 4 ((im.map (·.handle)).getD 0) ++
        toBytes 4 ((cause.map (·.seq)).getD 0) ++ zeros 4
      let head := if old then (if field head 6 1 = 1 then head else putField head 6 1 2)
        else s.dumpHeader 2 cause 4 0 ++ zeros 0x400
      let head := if count < 64 then
          putField head 0x38 2 (count + 1) |>.take (0x100 + count * 16) |> (· ++ entry) |> fun h => h ++ (head.drop h.length)
        else head
      let s' := s
      andThen (s.writeHome (runOf dumpBase head ++ (s'.coreRecord (dumpBase + coreRecordAt c) c))) fun s =>
        let s := s.setFld aLOCKUP_STAT LOCKUP_STAT.VALID 0
        let s := { s with pins := { s.pins with lockup := false } }
        let s := s.resetWays c
        let s := s.modCore c fun q => { Core.reset with
          imem := q.imem, imemPoison := q.imemPoison, irlog := q.irlog, queues := q.queues, partEnd := q.partEnd, nextKey := q.nextKey }
        (if reason = 2 ∨ reason = 4 ∨ reason = 6 then s.retire c else s, .none))

/-! Management complexes -/

/-- The active complex stops and is back in its boot ROM: a standby takes over, or the module is fatal without Ahnal (R510-R512). -/
def State.mgmtLost (s : State) : State × MemUpd :=
  let m := s.activeMc
  let s := s.setFld (aBOOT_STAT m) BOOT_STAT.PHASE 0
  if s.flag (aMGMT_ROLE 0) MGMT_ROLE.STANDBY_UP then (s, .none) else s.fatal 0x0404 0x0A m 0 0

/-- HEARTBEAT_TIMEOUT: HB has stood still for 10 ms (R510). -/
def execHeartbeatTimeout (s : State) : Out := s.doneMem (if s.ahnal then s.mgmtLost else (s, .none))

/-- Claimed commands other than START of a running invocation and STOP of one that ends are answered FW_RESTART; a LOAD_IMAGE
so ended leaves no image (R470). -/
def State.fwRestart (s : State) : State :=
  let keep := s.loadedSlots.flatMap fun k => match s.image k with
    | some im => if im.state = .running ∨ im.state = .stopping then im.startCmd.toList else []
    | none => []
  let s := s.forAll (s.claimed.filter fun q => !keep.contains q.id) fun s q => s.finalReply q.id 0x3F 0x000C []
  let s := s.forAll (List.finRange 16) fun s k => match s.image k with
    | some im =>
      if im.state = .starting then
        (s.setImage k (some { im with state := .loaded, startCmd := none, windows := 0 })).writeFloors im.rails
      else s.modImage k fun i => { i with stopCmds := [] }
    | none => s
  { s with loading := none, mgmt := { s.mgmt with powerCmd := none } }

/-- MANAGEMENT_TAKEOVER: the standby becomes active; both hosts are told, and the takeover is logged (R470, R510). -/
def execManagementTakeover (s : State) : Out :=
  s.done (
    if !s.flag (aMGMT_ROLE 0) MGMT_ROLE.STANDBY_UP || s.ahnal || s.power != .on then s
    else
      let m := 1 - s.activeMc
      let s := ((s.setFld (aMGMT_ROLE 0) MGMT_ROLE.ACTIVE m).setFld (aMGMT_ROLE 0) MGMT_ROLE.TAKEOVER 1).setFld
        (aMGMT_ROLE 0) MGMT_ROLE.STANDBY_UP 0
      let s := (s.setFld (aBOOT_STAT m) BOOT_STAT.PHASE 4).fwRestart
      let s := s.forAll ([0, 1] : List Port) fun s p => s.event p 0xE005 0x3F (toBytes 4 (s.fld (aID_FW p) ID_FW.VERSION))
      (s.alert ALERT_SRC.MGMT).logErr 0x0607 0x0A m 1 0 0 0)

/-! Links -/

/-- FLIT_RESEND: a flit failed its check on a wire: it is resent and counted; at WIRE_LIM a spare wire takes the wire's place,
and with none left the link has failed, which is fatal. The flit has been sent `sends` times; a ninth send fails the link as well (R522;
log 116). -/
def execFlitResend (k : Cluster) (rp : Fin 4) (wire sends : Nat) (s : State) : Out :=
  s.doneMem (
    let a := aLINK_REP k rp
    let w := wire % 1024
    let key := (k.val * 4 + rp.val) * 1024 + w
    let n := tabGet 0 s.wires key + 1
    let port := routerOf k * 32 + rp.val
    if s.flag a LINK_REP.FAILED then (s, .none)
    else if 8 ≤ sends then (s.setFld a LINK_REP.FAILED 1).fatal 0x0402 0x02 port 0 w
    else
      let s := s.incFld a LINK_REP.RESENT 1
      if n < s.fld a LINK_REP.WIRE_LIM then ({ s with wires := tabIns s.wires key n }, .none)
      else if 32 ≤ s.fld a LINK_REP.USED then (s.setFld a LINK_REP.FAILED 1).fatal 0x0402 0x02 port 0 w
      else
        let s := { s with wires := tabDel s.wires key }
        let s := (s.incFld a LINK_REP.USED 1).setFld a LINK_REP.LAST_WIRE w
        (((s.logErr 0x0503 0x02 port 1 0 0 w).alert ALERT_SRC.SPARE).svcRepair 2 0x02 port w, .none))

/-! Sensors -/

/-- A sensor's reading (R525). -/
def State.setSensor (s : State) (d n : Nat) (temp : BitVec 16) (failed : Bool) : State :=
  (s.setFld (aSENSOR d n) SENSOR.TEMP temp.toNat).setFld (aSENSOR d n) SENSOR.FAILED (b2n failed)

/-- The readings of sensors that pass their self-check. -/
def State.validTemps (s : State) (d : Nat) (ns : List Nat) : List Int :=
  (ns.filter fun n => !s.flag (aSENSOR d n) SENSOR.FAILED).map fun n => sext 16 (s.fld (aSENSOR d n) SENSOR.TEMP)

/-- The highest of some readings. -/
def hottest : List Int → Option Int
  | [] => none
  | t :: l => some (l.foldl max t)

/-- DIE_THERM follows the sensors of its die (R525). -/
def State.dieTherm (s : State) (d : Nat) : State :=
  match hottest (s.validTemps d (List.range 80)) with
  | some t => (s.setFld (aDIE_THERM d) DIE_THERM.TMAX (wrap 16 t)).setFld (aDIE_THERM d) DIE_THERM.WARN (b2n (decide (840 ≤ t)))
  | none => s

/-- THERMAL_WARNING: a sensor has reached 105 degrees (R526). -/
def execThermalWarning (d : Die) (n : Fin 80) (temp : BitVec 16) (s : State) : Out :=
  s.done (
    if s.flag (aSENSOR d n) SENSOR.FAILED ∨ sext 16 temp.toNat < 840 then s
    else
      let s := (s.setSensor d n temp false).dieTherm d
      (s.logErr 0x0603 0x09 (d.val * 80 + n.val) 1 0 0 temp.toNat).alert ALERT_SRC.THERMAL)

/-! The sideband -/

/-- Whether the module answers on SMBus: from READY, not after a trip, nor in a fatal state that ends with its first step
(R528, R529). -/
def State.smbusUp (s : State) : Bool := s.power == .on && s.fld (aBOOT_STAT s.activeMc) BOOT_STAT.PHASE == 4

/-- An answer on SMBus. -/
def State.smbAnswer (s : State) (bs : List Byte) : State := s.modMgmt fun m => { m with smbReply := bs }

/-- SMBUS_ALERT_RESPONSE: while ALERT_N is asserted the module answers with its own address; ALERT_N stands (R503, R529). -/
def execSmbusAlertResponse (s : State) : Out :=
  s.done (if s.smbusUp && s.pins.alert then s.smbAnswer (toBytes 1 (0x60 + s.mgmt.moduleId % 8)) else s)

/-- SET_ENDPOINT_ID (R530). -/
def execSetEndpointId (eid : Byte) (s : State) : Out :=
  s.done (
    if !s.smbusUp then s
    else if eid = 0 ∨ eid = 0xFF then s.smbAnswer [0x02]
    else (s.modMgmt fun m => { m with eid := eid }).smbAnswer [0x00, 0x00, eid, 0x00])

/-- SET_EVENT_RECEIVER: events go to the receiver named, those held so far first (R531). -/
def execSetEventReceiver (receiver : Byte) (s : State) : Out :=
  s.done (
    if !s.smbusUp then s
    else (s.modMgmt fun m => { m with
      receiver := some receiver, smbOut := m.smbOut ++ m.held, held := [] }).smbAnswer [0x00])

/-- POLL_FOR_PLATFORM_EVENT_MESSAGE: the oldest event held is handed over (R531). -/
def execPollForPlatformEventMessage (s : State) : Out :=
  s.done (
    if !s.smbusUp then s
    else match s.mgmt.held with
      | e :: l => (s.modMgmt fun m => { m with held := l }).smbAnswer (0x00 :: e.bytes)
      | [] => s.smbAnswer [0x00])

/-- SET_STATE_EFFECTER_STATES: the alert-enable effecter writes the ALERT_EN bits marked for change; a state other than 1 or 2
changes nothing (R503, R532). -/
def execSetStateEffecterStates (states : List (Option Byte)) (s : State) : Out :=
  s.done (
    if !s.smbusUp then s
    else if states.any fun x => x.any fun v => v != 1 && v != 2 then s.smbAnswer [0x81]
    else
      let w := ((List.range 7).zip states).foldl (fun w x => match x.2 with
        | some v => (⟨x.1, x.1, .rw, 0, []⟩ : Field).put w (b2n (v == 1))
        | none => w) (s.reg (aALERT_EN 0))
      ((s.setReg (aALERT_EN 0) w).alertPin).smbAnswer [0x00])

/-- GET_STATE_EFFECTER_STATES: the present ALERT_EN bits (R532). -/
def execGetStateEffecterStates (s : State) : Out :=
  s.done (
    if !s.smbusUp then s
    else s.smbAnswer ([0x00, 0x07] ++ (List.range 7).map fun i => if (s.reg (aALERT_EN 0)).getLsbD i then 1 else 2))

end Sys2Proof.Machine
end

