-- ==== Sys2Proof/Machine/Power.lean ====
section
/-! DEFINITION. Pace, power and clocks: the governor (R21-R36), the frequency-measuring counters (R24, R25), power states
(R37-R41), the clock domains (R42-R50), supply supervision (R51-R57), the thermal trip (R527, R528), and main power
(R552-R556). -/

namespace Sys2Proof.Machine

/-! The governor -/

/-- Whether a replica counts: an ungated core in service, a router, or a die-rail replica (R22). -/
def State.replicaOn (s : State) (i : Nat) : Bool :=
  if i < 1152 then s.recorded i else true

/-- The lowest replica count of a rail in a window (R22, R23). -/
def State.lowestCount (s : State) (counts : List Nat) (r : Nat) : Nat :=
  match ((railReplicas r).filter s.replicaOn).map fun i => counts.getD i 0 with
  | [] => 0
  | x :: l => l.foldl min x

/-- The sensors of a rail: four of its cluster, or all of its die (R29, R525). -/
def railSensors (r : Nat) : Nat × List Nat :=
  if r < 72 then (r / 18, (List.range 4).map (4 * (r % 18) + ·)) else (r - 72, List.range 80)

/-- TEMP and HOT of a rail; a cluster all of whose sensors have failed counts as hot (R29, R525). -/
def State.railTherm (s : State) (r : Nat) : State :=
  match hottest (s.validTemps (railSensors r).1 (railSensors r).2) with
  | some t => (s.setFld (aGOV_STAT r) GOV_STAT.TEMP (wrap 16 t)).setFld (aGOV_STAT r) GOV_STAT.HOT
      (b2n (decide ((s.fld aGOV_LIMITS GOV_LIMITS.TLIMIT * 8 : Nat) ≤ t)))
  | none => s.setFld (aGOV_STAT r) GOV_STAT.HOT 1

/-- The autumn count: the highest floor of the admitted Guaranteed workloads, or 900 MH/s (R38). -/
def State.autumnCount (s : State) : Nat :=
  let h := (List.range 16).foldl (fun h k => match s.image k with
    | some im => max h im.floor
    | none => h) 0
  needCount (if h = 0 then 900 else h)

/-- Whether the power state is Autumn, or Winter (R37-R39). -/
def State.pstate (s : State) : Nat := s.fld aPWR_STATE PWR_STATE.STATE

/-- Breach is judged against the armed floor of a rail (R32). -/
def State.judgeBreach (s : State) (r p : Nat) (blocked : Bool) : State :=
  let b := s.fld (aGOV_SET r) GOV_SET.BFLOOR
  if b = 0 then { s with breachWin := tabDel s.breachWin r }
  else
    let n := if blocked && decide (p < needCount b) then tabGet 0 s.breachWin r + 1 else 0
    let s := { s with breachWin := tabSet 0 s.breachWin r n }
    if p * 100 < b * 1024 ∨ 8 ≤ n then s.setFld (aGOV_STAT r) GOV_STAT.BREACH 1 else s

/-- One loop at the end of a window (R29, R30, R32). -/
def State.govLoop (s : State) (r p : Nat) : State :=
  let g := aGOV_STAT r
  let need := needCount (s.fld (aGOV_SET r) GOV_SET.FLOOR)
  let hot := s.flag g GOV_STAT.HOT
  let limited := s.powerLimited
  let autumn := s.pstate == 1
  let rail := s.fld g GOV_STAT.RAIL
  -- counts x 100, since a ceiling of CEIL MH/s is CEIL x 10.24 counts
  let want := max (need * 100) (s.fld (aGOV_SET r) GOV_SET.CEIL * 1024)
  let want := if s.warned && need == 0 then 0 else want
  let want := if autumn then max (need * 100) (s.autumnCount * 100) else want
  let want := if hot then need * 100 else want
  let want := if limited && need == 0 then 0 else want
  let want := if limited then min want (need * 100) else want
  let s := s.setFld g GOV_STAT.FORCED (b2n ((s.warned && need == 0) || autumn || limited))
  let canRise := decide (rail < 60) && !hot && !limited
  if p < need then
    let s := if canRise then (s.setFld g GOV_STAT.RAIL (rail + 1)).setFld g GOV_STAT.BLOCKED 0
      else (s.setFld g GOV_STAT.BLOCKED 1).incFld g GOV_STAT.BLOCKED_WIN 1
    s.judgeBreach r p (!canRise)
  else
    let s := (s.setFld g GOV_STAT.BLOCKED 0).setFld g GOV_STAT.BLOCKED_WIN 0
    let s := if p * 100 < want ∧ canRise then s.setFld g GOV_STAT.RAIL (rail + 1)
      else if want * 102 ≤ p * 10000 ∧ need * 102 ≤ p * 100 ∧ 0 < rail then s.setFld g GOV_STAT.RAIL (rail - 1)
      else s
    s.judgeBreach r p false

/-- GOV_WINDOW_END: the replica counts of the window by replica id (R24), the sensors' readings, and the input power: every
loop steps its rail, and judges breach; with EN = 0 every rail is held at 0.750 V, and in Winter the governor is stopped (R21-R23, R28-R32, R35,
R38, R39, R525). -/
def execGovWindowEnd (counts : List Nat) (sensors : List SensorReading) (pin : Nat) (s : State) : Out :=
  s.done (
    if s.power != .on then s
    else
      let s := s.setFld aSUPPLY_STAT SUPPLY_STAT.PIN (min pin 4095)
      let s := s.forAll sensors fun s x => s.setSensor x.die x.n x.temp x.failed
      let s := s.forAll (List.range 4) (·.dieTherm ·)
      let s := s.forAll (List.range 16) fun s k => s.modImage k fun i =>
        if i.state = .starting then { i with windows := i.windows + 1 } else i
      s.forAll (List.range 76) fun s r =>
        let p := s.lowestCount counts r
        let s := (s.railTherm r).setFld (aGOV_STAT r) GOV_STAT.PACE p
        if !s.flag aGOV_CTRL GOV_CTRL.EN then s.setFld (aGOV_STAT r) GOV_STAT.RAIL 30
        else if s.pstate = 2 then s
        else s.govLoop r p)

/-! Frequency-measuring counters -/

/-- FMC_START: ignored while BUSY = 1 (R24). -/
def State.fmcGo (s : State) (m : Nat) : State :=
  if s.flag (aFMC_RESULT m) FMC_RESULT.BUSY then s
  else s.setReg (aFMC_RESULT m) (FMC_RESULT.BUSY.put 0 1)
def execFmcStart (m : Fin 2) (s : State) : Out := s.done (s.fmcGo m)

/-- FMC_DONE: the gate of N reference cycles has closed (R24). -/
def execFmcDone (m : Fin 2) (count : Nat) (s : State) : Out :=
  s.done (
    if s.flag (aFMC_RESULT m) FMC_RESULT.BUSY then
      s.setReg (aFMC_RESULT m) (FMC_RESULT.DONE.put (FMC_RESULT.COUNT.put 0 count) 1)
    else s)

/-- FMC_TIMEOUT: the reference has stopped; what COUNT holds is left open (R25). -/
def execFmcTimeout (m : Fin 2) (s : State) : Out :=
  s.done (
    if s.flag (aFMC_RESULT m) FMC_RESULT.BUSY then
      let (v, s) := s.draw
      s.setReg (aFMC_RESULT m) (FMC_RESULT.TIMEOUT.put (FMC_RESULT.DONE.put (FMC_RESULT.COUNT.put 0 v.toNat) 1) 1)
    else s)

/-! Power states -/

/-- GATE of a cluster: ignored while a core of the cluster is bound to a loaded image; the tile files lose power. -/
def State.setGate (s : State) (k : Nat) (on : Bool) : State :=
  let cores := (List.range 16).map fun j => k / 18 * 288 + k % 18 * 16 + j
  if cores.any fun c => (s.boundTo c).isSome then s
  else
    let s := s.setFld (aGOV_SET k) GOV_SET.GATE (b2n on)
    if on then s.forAll cores fun s c => s.modCore c fun q => { q with tt := [], zt := [], reuse := [] } else s

/-- A change of power state begins; ignored while one is in progress (R41). DESIGN CHOICE: a request of the state in force does nothing
(log 27). -/
def State.powerReq (s : State) (target : Nat) : State :=
  if s.pstate = 3 ∨ s.pstate = target then s
  else (s.modMgmt fun m => { m with powerTarget := some (target + 4 * s.pstate) }).setFld aPWR_STATE PWR_STATE.STATE 3

/-- PWR_REQ_SUMMER, PWR_REQ_AUTUMN, PWR_REQ_WINTER: a write of REQ (R38-R41). -/
def execPwrReqSummer (s : State) : Out := s.done (s.powerReq 0)
def execPwrReqAutumn (s : State) : Out := s.done (s.powerReq 1)
def execPwrReqWinter (s : State) : Out := s.done (s.powerReq 2)

/-- POWER_STATE_REACHED: the new state holds: in Autumn the clusters with no bound core are gated, in Summer none is; a wake
from Winter schedules a full retrain of every channel; POWER_STATE is answered (R37, R38, R41, R423). -/
def execPowerStateReached (s : State) : Out :=
  s.done (match s.mgmt.powerTarget with
    | none => s
    | some t =>
      let s := (s.modMgmt fun m => { m with powerTarget := none }).setFld aPWR_STATE PWR_STATE.STATE (t % 4)
      let s := if t % 4 = 2 then s else s.forAll (List.range 72) fun s k => s.setGate k (t % 4 == 1)
      let s := if t / 4 = 2 then s.forAll ((List.range 84).filter fun k => s.flag (aTIER_STAT k) NC_STAT.READY) (·.retrain ·) else s
      match s.mgmt.powerCmd with
      | some k => (s.modMgmt fun m => { m with powerCmd := none }).finalReply k 0 0 []
      | none => s)

/-! Clock domains -/

/-- A domain's sequencer. -/
def State.modClk (s : State) (n : Dom) (f : ClkSeq → ClkSeq) : State := { s with clk := s.clk.set n (f s.clk[n]) }

/-- The sequencer goes to an operating point: the supply first where the frequency rises (R43). -/
def State.seqStart (s : State) (n : Dom) (opp : Nat) : State :=
  let freq (k : Nat) : Nat := s.fld (aCLKD_OPP n k) CLKD_OPP.FREQ
  let rising := decide (freq (s.fld (aCLKD_STAT n) CLKD_STAT.CUR_OPP) < freq opp)
  let s := s.modClk n fun q => { q with target := some opp, rising := rising, second := false, held := none }
  let s := s.setFld (aCLKD_STAT n) CLKD_STAT.SEQ_BUSY 1
  if rising then s else s.setFld (aCLKD_STAT n) CLKD_STAT.LOCK 0

/-- A write of OPP: one that names an unusable entry is ignored, one during a sequence is held (R44). -/
def State.oppWrite (s : State) (n : Dom) (opp : Nat) : State :=
  if !s.flag (aCLKD_OPP n opp) CLKD_OPP.VALID then s
  else
    let s := s.setFld (aCLKD_CTRL n) CLKD_CTRL.OPP opp
    if s.flag (aCLKD_STAT n) CLKD_STAT.SEQ_BUSY then s.modClk n fun q => { q with held := some opp } else s.seqStart n opp

/-- CLKD_OPP_WRITE (R43, R44). -/
def execClkdOppWrite (n : Dom) (opp : Fin 8) (s : State) : Out := s.done (s.oppWrite n opp)

/-- The loop has relocked at an operating point. -/
def State.relocked (s : State) (n : Dom) (opp : Nat) : State :=
  (s.setFld (aCLKD_STAT n) CLKD_STAT.CUR_OPP opp).setFld (aCLKD_STAT n) CLKD_STAT.LOCK (s.fld (aCLKD_CTRL n) CLKD_CTRL.LOOP_EN)

/-- CLKD_SEQ_STEP_DONE: the supply monitor confirms the new voltage, or the loop has relocked; after the second of the two the
sequence is complete, and a held write is acted on (R43, R44). -/
def execClkdSeqStepDone (n : Dom) (s : State) : Out :=
  s.done (
    let q := s.clk[n]
    match q.target with
    | none => s
    | some opp =>
      let volt := s.fld (aCLKD_OPP n opp) CLKD_OPP.VOLT
      let lock := q.rising == q.second
      if lock && s.flag (aCLKD_STAT n) CLKD_STAT.COAST then s
      else
        let s := if lock then s.relocked n opp else s.modClk n fun q => { q with supply := volt }
        if !q.second then
          let s := s.modClk n fun q => { q with second := true }
          if q.rising then s.setFld (aCLKD_STAT n) CLKD_STAT.LOCK 0 else s
        else
          let s := (s.modClk n fun q => { q with target := none, second := false, held := none }).setFld
            (aCLKD_STAT n) CLKD_STAT.SEQ_BUSY 0
          match q.held with
          | some o => s.seqStart n o
          | none => s)

/-- A write of SRC; a new value starts a switch (R47). -/
def State.srcWrite (s : State) (n : Dom) (src : Bool) : State :=
  let old := s.flag (aCLKD_CTRL n) CLKD_CTRL.SRC
  let s := s.setFld (aCLKD_CTRL n) CLKD_CTRL.SRC (b2n src)
  if old == src then s else s.setFld (aCLKD_STAT n) CLKD_STAT.SWITCHING 1

/-- CLKD_SRC_WRITE (R47). -/
def execClkdSrcWrite (n : Dom) (src : Bool) (s : State) : Out := s.done (s.srcWrite n src)

/-- The domains fed by the crystal, and whether it has stopped (R46, R50). -/
def crystalDoms : List Dom := [0, 1, 2, 3, 4, 5, 6, 7, 8, 9, 12, 13]
def State.crystalLost (s : State) : Bool := crystalDoms.any fun n => s.flag (aCLKD_STAT n) CLKD_STAT.COAST

/-- CLKD_SWITCH_DONE: a low phase has been seen on both clocks; a switch away from or onto a stopped clock does not complete
(R47). -/
def execClkdSwitchDone (n : Dom) (s : State) : Out :=
  s.done (
    if !s.flag (aCLKD_STAT n) CLKD_STAT.SWITCHING || !s.flag (aCLKD_CTRL n) CLKD_CTRL.LOOP_EN || s.crystalLost then s
    else (s.setFld (aCLKD_STAT n) CLKD_STAT.SEL (s.fld (aCLKD_CTRL n) CLKD_CTRL.SRC)).setFld (aCLKD_STAT n) CLKD_STAT.SWITCHING 0)

/-- The flash channels of a domain (the table of clocked edges); none of any other. -/
def flashOf (n : Nat) : List Nat := if n = 8 then List.range 16 else if n = 9 then (List.range 16).map (16 + ·) else []

/-- Once its domain has relocked a flash controller has identified its dies again, and what was abandoned is made anew (R49). -/
def State.flashReopen (s : State) (n : Nat) : State :=
  s.forAll ((flashOf n).filter s.deep.closed.contains) fun s f =>
    (s.modDeep fun d => { d with closed := d.closed.filter (· ≠ f) }).setFld (aFC_STAT f) FC_STAT.READY 1

/-- CLKD_LOOP_LOCK: an enabled loop locks; a coast ends, and flash channels that wait for it reopen (R46, R49). -/
def execClkdLoopLock (n : Dom) (s : State) : Out :=
  s.done (
    if s.flag (aCLKD_CTRL n) CLKD_CTRL.LOOP_EN then
      ((s.setFld (aCLKD_STAT n) CLKD_STAT.LOCK 1).setFld (aCLKD_STAT n) CLKD_STAT.COAST 0).flashReopen n
    else s)

/-- A domain's loop coasts (R46). -/
def State.coast (s : State) (n : Dom) : State :=
  ((s.setFld (aCLKD_STAT n) CLKD_STAT.COAST 1).setFld (aCLKD_STAT n) CLKD_STAT.COAST_SEEN 1).setFld (aCLKD_STAT n) CLKD_STAT.LOCK 0

/-- CLOCK_SOURCE_LOST: an enabled loop coasts; on a port whose PERST is high the link goes down (R46, R562). -/
def execClockSourceLost (n : Dom) (s : State) : Out :=
  s.done (
    if !s.flag (aCLKD_CTRL n) CLKD_CTRL.LOOP_EN then s
    else
      let s := (s.coast n).logErr 0x0605 0x08 n 1 0 0 0
      let s := s.forAll s.loadedSlots fun s k => s.coastBreach n k
      if n = 10 then (if (s.port 0).perst then s else s.linkLost 0)
      else if n = 11 then (if (s.port 1).perst then s else s.linkLost 1)
      else s)

/-- CRYSTAL_STOPPED: every crystal-fed domain coasts, and the module has a fatal error (R50). -/
def execCrystalStopped (s : State) : Out :=
  s.doneMem (
    if s.power != .on then (s, .none)
    else (s.forAll crystalDoms (·.coast ·)).fatal 0x0401 0x00 0 0 0)

/-- Requests in flight through a memory domain end poisoned, and its controllers retrain before they reopen (R49). -/
def State.memDomainReset (s : State) (n : Nat) : State × MemUpd :=
  let ks := if n < 4 then (List.range 16).map (n * 16 + ·) ++ [64 + n] else (List.range 4).map (68 + (n - 4) * 4 + ·)
  let hit := s.txns.filter fun x => (s.tierAt x.home).any ks.contains && (match x.stage with
    | .sent | .taken _ => true
    | _ => false)
  andThen (s.eachMem hit fun s x => s.poisonEnd x) fun s =>
    (s.forAll ks fun s k =>
      if s.flag (aTIER_STAT k) NC_STAT.READY then
        ((s.setFld (aTIER_STAT k) NC_STAT.READY 0).modTier k fun t => { t with burst := none, calls := [], retrainLeft := 0 }).retrain k
      else s, .none)

/-- DOMAIN_WATCHDOG_EXPIRY: a switch or a sequencer step has not completed: the domain is reset, and what it carried ends
(R49, R510, R511). Operations of a flash domain are abandoned, not done, and made anew after it has relocked. -/
def execDomainWatchdogExpiry (n : Dom) (s : State) : Out :=
  s.doneMem (
    let st := aCLKD_STAT n
    if !s.flag st CLKD_STAT.SWITCHING && !s.flag st CLKD_STAT.SEQ_BUSY then (s, .none)
    else
      let seen := s.fld st CLKD_STAT.COAST_SEEN
      let s := (s.setReg (aCLKD_CTRL n) (fieldsReset CLKD_CTRL)).setReg st
        (CLKD_STAT.WDOG_RESET.put (CLKD_STAT.COAST_SEEN.put (fieldsReset CLKD_STAT) seen) 1)
      let s := (s.modClk n fun _ => ClkSeq.reset).logErr 0x0606 0x08 n 1 0 0 0
      if n.val < 8 then s.memDomainReset n
      else if n = 10 then (s.linkLost 0, .none)
      else if n = 11 then (s.linkLost 1, .none)
      else if n = 12 ∨ n = 13 then
        let m := n.val - 12
        if m = s.activeMc then (if s.ahnal then s.mgmtLost else (s, .none))
        else ((s.setFld (aMGMT_ROLE 0) MGMT_ROLE.STANDBY_UP 0).setFld (aBOOT_STAT m) BOOT_STAT.PHASE 0, .none)
      else (s.forAll ((flashOf n).filter fun f => s.flag (aFC_STAT f) FC_STAT.READY) fun s f =>
        (s.modDeep fun d => { d with closed := d.closed ++ [f] }).setFld (aFC_STAT f) FC_STAT.READY 0, .none))

/-! Loss of power -/

/-- A register of fused or supervisor state that no reset of the fabric reaches (R54, R483, R493). -/
def keptRegs : List Nat :=
  [aSUPPLY_EVT, aKEY_STAT 0, aRB_CTR 0, aBF_PROT 0, aID_SERIAL 0, aID_SERIAL 1]

/-- What a kept register holds after a reset: fuses and supply events. -/
def State.keptWord (s : State) (a : Nat) : Word :=
  if a = aSUPPLY_EVT then SUPPLY_EVT.WARN_SEEN.put (SUPPLY_EVT.WARN_COUNT.put (s.reg a) 0) 0
  else if a = aKEY_STAT 0 then s.reg a
  else if a = aRB_CTR 0 then RB_CTR.VALUE.put 0 (s.fld a RB_CTR.VALUE)
  else if a = aBF_PROT 0 then BF_PROT.CERT_WP.put 0 (s.fld a BF_PROT.CERT_WP)
  else s.reg a

/-- The module with every block reset. The boot flash, the deep tier's complete objects, fuses, the core map and straps, the
supervisor's events, and what has gone out on the links stand. -/
def State.blank (s : State) : State :=
  let t : State := { State.reset with
    pending := s.pending, grade := s.grade, failed := s.failed, imemFailed := s.imemFailed, unreadable := s.unreadable
    deep := { Deep.reset with
      objects := s.deep.objects.map fun o => { o with writing := none }, mirror := s.deep.mirror, readOnly := s.deep.readOnly }
    pins := { s.pins with alert := false, fatal := false, lockup := false }
    power := s.power
    ports := s.ports.map fun q => { PortSt.reset with out := q.out, perst := q.perst }
    mgmt := { Mgmt.reset with
      flash := s.mgmt.flash, idPub := s.mgmt.idPub, keyDigests := s.mgmt.keyDigests, romVersion := s.mgmt.romVersion
      pacemax := s.mgmt.pacemax, scanned := s.mgmt.scanned, scans := s.mgmt.scans, retired := s.mgmt.retired
      coreState := s.mgmt.coreState, coreMap := s.mgmt.coreMap, moduleId := s.mgmt.moduleId, bootSel := s.mgmt.bootSel
      steward := s.mgmt.steward, lgConsumed := s.mgmt.lgConsumed, dumps := s.mgmt.dumps
      hardRepairs := s.mgmt.hardRepairs }
    nextId := s.nextId, free := s.free }
  let t := t.forAll keptRegs fun t a => t.setReg a (s.keptWord a)
  t.forAll (List.range 32) fun t f =>
    (t.setFld (aFC_STAT f) FC_STAT.SPARE_PCT (s.fld (aFC_STAT f) FC_STAT.SPARE_PCT)).setFld (aFC_STAT f) FC_STAT.WEAR
      (s.fld (aFC_STAT f) FC_STAT.WEAR)

/-- The contents of core, die, near-tier and middle-tier memory are lost. -/
def MemUpd.lost : MemUpd := ⟨true, [], []⟩

/-- A range of the boot flash is left indeterminate (R489). -/
def State.flashUnknown (s : State) (a n : Nat) : State :=
  s.forAll (List.range n) fun s i =>
    let (v, s) := s.draw
    s.modMgmt fun m => { m with flash := tabSet 0xFF m.flash (a + i) (v.setWidth 8) }

/-- Start and size of the range that an operation of BF_CMD writes. -/
def bfRange (op a : Nat) : Nat × Nat :=
  if op = 2 then (a / 256 * 256, 256) else if op = 3 then (a / 4096 * 4096, 4096)
  else if op = 4 then (a / 65536 * 65536, 65536) else (a, 0)

/-- A boot-flash program or erase in progress is abandoned (R489); one that a supply warning holds has not begun (R52). -/
def State.bfAbandon (s : State) : State :=
  match s.mgmt.bfPending with
  | some (op, a) => if op = 1 ∨ s.flag (aBF_CMD 0) BF_CMD.PAUSED then s else s.flashUnknown (bfRange op a).1 (bfRange op a).2
  | none => s

/-- A boot-flash operation does its work: a read fills the buffer, a program or an erase writes (R476). -/
def State.bfApply (s : State) (op a : Nat) : State :=
  if op = 1 then s.modMgmt fun m => { m with bfBuf := s.flashBytes (a / 256 * 256) 256 }
  else if op = 2 then s.flashProgram (a / 256 * 256) s.mgmt.bfBuf
  else s.flashErase (bfRange op a).1 (bfRange op a).2

/-- A boot-flash operation already begun completes (R52, R555). -/
def State.bfFinish (s : State) : State :=
  match s.mgmt.bfPending with
  | some (op, a) => if s.flag (aBF_CMD 0) BF_CMD.PAUSED then s else s.bfApply op a
  | none => s

/-! Supply -/

/-- SUPPLY_WARNING: the input falls below the warning level: the alert and the event are raised, rails without a floor go to
0.600 V, and no new program or erase begins (R52, R503). -/
def execSupplyWarning (vin : Nat) (s : State) : Out :=
  s.done (
    if s.power != .on || s.warned || decide (5730 < vin) then s
    else
      let s := (s.setFld aSUPPLY_STAT SUPPLY_STAT.VIN vin).setFld aSUPPLY_STAT SUPPLY_STAT.WARN 1
      let s := (s.setFld aSUPPLY_EVT SUPPLY_EVT.WARN_SEEN 1).incFld aSUPPLY_EVT SUPPLY_EVT.WARN_COUNT 1
      let s := (s.setFld aSUPPLY_STAT SUPPLY_STAT.ELASTIC_FORCED 1).alert ALERT_SRC.SUPPLY
      let s := if s.flag aGOV_CTRL GOV_CTRL.EN ∧ s.pstate ≠ 2 then s.forAll (List.range 76) fun s r =>
          if s.fld (aGOV_SET r) GOV_SET.FLOOR = 0 then
            (s.setFld (aGOV_STAT r) GOV_STAT.RAIL 0).setFld (aGOV_STAT r) GOV_STAT.FORCED 1 else s
        else s
      s.logErr 0x0601 0 0 1 0 0 vin)

/-- SUPPLY_WARNING_CLEAR: the forcing ends and paused writes resume, Ahnal's waiting service records among them (R52, R53). -/
def execSupplyWarningClear (vin : Nat) (s : State) : Out :=
  s.done (
    if s.power != .on || !s.warned || decide (vin < 5820) then s
    else
      let s := (s.setFld aSUPPLY_STAT SUPPLY_STAT.VIN vin).setFld aSUPPLY_STAT SUPPLY_STAT.WARN 0
      let s := (s.setFld aSUPPLY_STAT SUPPLY_STAT.ELASTIC_FORCED 0).setFld (aBF_CMD 0) BF_CMD.PAUSED 0
      let s := (s.setFld (aALERT_SRC 0) ALERT_SRC.SUPPLY 0).alertPin
      (s.forAll s.mgmt.svcWait fun s r => (s.modMgmt fun m => { m with svcWait := m.svcWait.drop 1 }).svcAppend r.1 r.2.1 r.2.2).logErr
        0x0602 0 0 1 0 0 vin)

/-- Running invocations in the order of their START. -/
def State.runningByStart (s : State) : List Image :=
  let l := s.loadedSlots.filterMap fun k => (s.image k).filter (·.active)
  (s.claimed.filterMap fun q => l.find? fun im => im.startCmd == some q.id) ++ l.filter fun im =>
    !s.claimed.any fun q => im.startCmd == some q.id

/-- The last-gasp record (R55, R57). DESIGN CHOICE: the owning-port byte of an invocation no port owns is 0xFF (log 28). -/
def State.lastGaspRecord (s : State) (cause : Nat) (samples : List (BitVec 16)) : List Byte :=
  let runs := ((s.runningByStart.take 8).flatMap fun im =>
    toBytes 4 im.handle ++ toBytes 1 ((im.owner.map (·.val)).getD 0xFF) ++ toBytes 1 (b2n im.elastic) ++ toBytes 2 (b2n im.breach))
  sealPage (toBytes 4 0x4C47_5350 ++ toBytes 2 1 ++ toBytes 1 cause ++ toBytes 1 s.pstate ++ toBytes 4 s.bootCount ++
    toBytes 4 (s.fld aSUPPLY_EVT SUPPLY_EVT.WARN_COUNT) ++
    ((List.range 16).flatMap fun i => toBytes 2 (samples.getD i 0).toNat) ++
    ((List.range 4).flatMap fun d => toBytes 2 (s.fld (aDIE_THERM d) DIE_THERM.TMAX)) ++
    ((List.range 72).flatMap fun r => toBytes 1 (s.fld (aGOV_STAT r) GOV_STAT.RAIL)) ++
    runs ++ zeros (64 - runs.length) ++
    ((List.range 14).flatMap fun n => toBytes 2 ((s.reg (aCLKD_STAT n)).toNat % 65536)) ++ zeros 32)

/-- The last gasp: rails and PHYs off, programs in progress abandoned, the record written where a pre-erased page is left, and
the module reset; it stays so until the input qualifies (R54-R56, R489). Before main power an excursion restarts the
qualification (R56). What the next boot finds of it stands in SUPPLY_EVT. -/
def State.lastGasp (s : State) (cause : Nat) (samples : List (BitVec 16)) : State × MemUpd :=
  if s.power = .qualified ∨ s.power = .cooling then ({ s with power := .aux }, .none)
  else if s.power ≠ .on then (s, .none)
  else
    let page := s.lgNext
    let rec_ := s.lastGaspRecord cause samples
    let s := s.bfAbandon
    let s := match page with
      | some p => s.flashProgram (lgBase + p * 256) rec_
      | none => s
    let s := s.blank
    let s := s.setFld aSUPPLY_EVT (if cause = 1 then SUPPLY_EVT.UV_RESET else SUPPLY_EVT.OV_RESET) 1
    let s := s.setFld aSUPPLY_EVT (if page.isSome then SUPPLY_EVT.LG_WRITTEN else SUPPLY_EVT.LG_MISSED) 1
    ({ s with power := .lastGasp, pins := { s.pins with pwrGood := false } }, .lost)

/-- UNDERVOLTAGE_RESET, OVERVOLTAGE_RESET (R54). -/
def execUndervoltageReset (samples : List (BitVec 16)) (s : State) : Out := s.doneMem (s.lastGasp 1 samples)
def execOvervoltageReset (samples : List (BitVec 16)) (s : State) : Out := s.doneMem (s.lastGasp 2 samples)

/-! Main power -/

/-- Main power comes up with PWR_EN high and the input qualified; after a trip once the sensors have cooled (R528, R554). -/
def State.powerUp (s : State) : State :=
  if !s.pins.pwrEn then { s with power := .qualified }
  else if s.pins.thermtrip then { s with power := .cooling }
  else { s with power := .on, pins := { s.pins with pwrGood := true } }

/-- RESTART_QUALIFIED: the input has stayed in range for the restart qualification time (R56, R554, R556). -/
def execRestartQualified (s : State) : Out :=
  s.done (if s.power = .aux ∨ s.power = .lastGasp then s.powerUp else s)

/-- AUX_POWER_START: the input rises through 40 V (R553). -/
def execAuxPowerStart (s : State) : Out := s.done (if s.power = .off then { s with power := .aux } else s)

/-- AUX_POWER_LOSS: the input falls below 36 V: every output is released, the latch of THERMTRIP_N with them (R553, R556,
R566). -/
def execAuxPowerLoss (s : State) : Out :=
  s.doneMem (
    let t := s.bfAbandon.blank
    ({ t with power := .off, pins := { t.pins with thermtrip := false, pwrGood := false } }, .lost))

/-- PWR_EN_RISE (R554, R556). -/
def execPwrEnRise (s : State) : Out :=
  s.done (
    let s := { s with pins := { s.pins with pwrEn := true } }
    if s.power = .qualified then s.powerUp else s)

/-- PWR_EN_FALL: the module powers down; programs already begun complete; a last gasp or a trip completes first (R505, R555,
R556). -/
def execPwrEnFall (s : State) : Out :=
  s.doneMem (
    let off (s : State) : State := { s with pins := { s.pins with pwrEn := false, pwrGood := false } }
    match s.power with
    | .on =>
      let t := s.bfFinish.blank
      (off { t with power := .qualified }, .lost)
    | .cooling | .tripped => (off { s with power := .qualified }, .none)
    | _ => (off s, .none))

/-- TRIP_COOLDOWN: every sensor reads below 95 degrees (R528, R554). -/
def execTripCooldown (s : State) : Out :=
  s.done (if s.power = .cooling then { s with power := .on, pins := { s.pins with pwrGood := true } } else s)

/-- THERMAL_TRIP: a trip comparator has reached 115 degrees: rails and PHYs go off, THERMTRIP_N asserts, and Ahnal writes a
service record; nothing is served until PWR_EN is cycled (R500, R527, R528). -/
def execThermalTrip (d : Die) (n : Fin 80) (temp : BitVec 16) (s : State) : Out :=
  s.doneMem (
    if s.power ≠ .on ∨ sext 16 temp.toNat < 920 then (s, .none)
    else
      let last := s.fld (aSENSOR d n) SENSOR.TEMP
      let t := s.bfAbandon.blank.svcAppend 6 1 (toBytes 1 d ++ toBytes 1 n ++ toBytes 2 temp.toNat ++ toBytes 2 last)
      ({ t with power := .tripped, pins := { t.pins with thermtrip := true, pwrGood := false } }, .lost))

end Sys2Proof.Machine
end

