-- ==== Sys2Proof/Machine/Boot.lean ====
section
/-! DEFINITION. Boot (R476-R489), the region protection table's lock (R490), fuses, keys and the key engine (R493, R494), the boot
flash controller, and FW_UPDATE (R487). -/

namespace Sys2Proof.Machine

/-! Firmware images -/

/-- Fields of a firmware header (R477). -/
def fwSlot (h : List Byte) : Nat := field h 6 1
def fwSvn (h : List Byte) : Nat := field h 7 1
def fwLen (h : List Byte) : Nat := field h 0x10 4
def fwProt (h : List Byte) : Nat := field h 0x18 4
def fwClk (h : List Byte) : Nat := field h 0x1C 4

/-- The largest body (R477). -/
def fwMaxLen : Nat := 0x1EF_FE00

/-- The bytes of a header that R477 does not list. -/
def fwZeros (h : List Byte) : Bool :=
  field h 0x0D 1 / 16 == 0 && field h 0x0E 2 == 0 && ((h.drop 0xC0).take 0x140).all (· == 0)

/-- Why a firmware image does not verify; 0 where it does; `ok` says that every flash read succeeded (R478). -/
def State.fwReason (s : State) (img : List Byte) (ok : Bool := true) : Nat :=
  let h := img.take 512
  let body := (img.drop 512).take (fwLen h)
  let k := fwSlot h
  let pub := (h.drop 0x20).take 32
  if field h 0 4 ≠ 0x4148_4E4C ∨ field h 4 2 ≠ 1 ∨ !fwZeros h then 0x01
  else if fwMaxLen < fwLen h ∨ field h 0x14 4 % 8 ≠ 0 ∨ fwLen h ≤ field h 0x14 4 ∨ fwLen h < fwProt h + 1024 ∨
      fwLen h < fwClk h + 672 then 0x02
  else if body.length ≠ fwLen h ∨ Config.sha512 body ≠ (h.drop 0x40).take 64 then 0x03
  else if !bit (s.fld (aKEY_STAT 0) KEY_STAT.PROGRAMMED) k ∨ s.mgmt.keyDigests[k]? ≠ some (Config.sha512 pub) then 0x04
  else if bit (s.fld (aKEY_STAT 0) KEY_STAT.REVOKED) k then 0x05
  else if !Config.ed25519Valid pub (h.take 0x80) ((h.drop 0x80).take 64) then 0x06
  else if fwSvn h < s.fld (aRB_CTR 0) RB_CTR.VALUE then 0x07
  else if !ok then 0x08
  else if 0xB0 < field h 0x0C 1 then 0x09
  else 0

/-- The image a bank holds: header and as much body as it names; of a header without the magic no body is read. -/
def State.bankImage (s : State) (b : Nat) : List Byte :=
  let h := s.flashBytes (bankBase b) 512
  if field h 0 4 = 0x4148_4E4C then h ++ s.flashBytes (bankBase b + 512) (min (fwLen h) fwMaxLen) else h

/-- Whether an image's verification ends well; of a rejected bank the reason is kept (R478). -/
def State.fwVerify (s : State) (m b : Nat) (ok : Bool) : Bool × State :=
  let r := s.fwReason (s.bankImage b) ok
  if r = 0 then (true, s) else (false, s.setFld (aBOOT_STAT m) BOOT_STAT.REASON r)

/-- The fields of BOOT_STAT that name the booted image. -/
def State.bootedStat (s : State) (m b : Nat) (img : List Byte) : State :=
  ((s.setFld (aBOOT_STAT m) BOOT_STAT.BANK b).setFld (aBOOT_STAT m) BOOT_STAT.SLOT (fwSlot img)).setFld
    (aBOOT_STAT m) BOOT_STAT.SVN (fwSvn img)

/-! The primary ROM -/

/-- Straps are sampled, and the trip of the last power cycle is seen (R528, R532, R565). -/
def State.bootFuses (s : State) : State :=
  let s := s.modMgmt fun m => { m with steward := if m.bootSel then 1 else 0 }
  if s.pins.thermtrip then
    let d := ((s.svcNewest 6).map fun r => field r.content 0 1).getD 0
    { s with pins := { s.pins with thermtrip := false } }.setFld (aDIE_THERM (d % 4)) DIE_THERM.TRIP_SEEN 1
  else s

/-- The firmware measures a source against the crystal over 256 cycles with the FMC of CD0; what it counts is the clock's, a free
value here (R24, R48). -/
def State.measure (s : State) (src : Nat) : Nat × State :=
  let (v, s) := s.draw
  let s := s.setReg (aFMC_CTRL 0) (FMC_CTRL.GATE_N.put (FMC_CTRL.SRC_A.put 0 src) 256)
  (v.toNat % 2 ^ 32, s.setReg (aFMC_RESULT 0) (FMC_RESULT.DONE.put (FMC_RESULT.COUNT.put 0 v.toNat) 1))

/-- A domain is switched from the crystal to its loop at a frequency in MHz: the loop locks, both clocks are measured, and SRC is
written only where each shows at least 90 percent of its expected count: 256 of the crystal, and frequency / 16 x 256 / 25 of the domain
(R42, R48). -/
def State.loopOn (s : State) (n freq : Nat) : State :=
  let s := (s.setFld (aCLKD_CTRL n) CLKD_CTRL.LOOP_EN 1).setFld (aCLKD_STAT n) CLKD_STAT.LOCK 1
  let (old, s) := s.measure 0x00
  let (new, s) := s.measure (0x10 + n)
  if 256 * 9 ≤ old * 10 ∧ freq * 256 * 9 ≤ new * 4000 then
    (s.setFld (aCLKD_CTRL n) CLKD_CTRL.SRC 0).setFld (aCLKD_STAT n) CLKD_STAT.SEL 0
  else s

/-- The clock section is applied to a domain (R42-R44, R481 step 6). -/
def State.clockSection (s : State) (img : List Byte) (n : Dom) : State :=
  let o := 512 + fwClk img + 48 * n.val
  let s := s.forAll (List.range 8) fun s k => s.setReg (aCLKD_OPP n k)
    (fieldsWrite (CLKD_OPP.within n) (s.reg (aCLKD_OPP n k)) (BitVec.ofNat 64 (field img (o + 4 * k) 4)))
  let k := field img (o + 32) 1 % 8
  let s := if s.flag (aCLKD_OPP n k) CLKD_OPP.VALID then
      ((s.setFld (aCLKD_CTRL n) CLKD_CTRL.OPP k).setFld (aCLKD_STAT n) CLKD_STAT.CUR_OPP k).modClk n fun q =>
        { q with supply := s.fld (aCLKD_OPP n k) CLKD_OPP.VOLT }
    else s
  s.loopOn n (s.fld (aCLKD_OPP n k) CLKD_OPP.FREQ)

/-- The protection section is written to the table, which is then locked (R481 step 6, R490). -/
def State.protSection (s : State) (img : List Byte) : State :=
  let o := 512 + fwProt img
  let s := s.forAll (List.range 64) fun s i =>
    (s.setReg (aRPT0 0 i) (fieldsRead RPT0 (BitVec.ofNat 64 (field img (o + 16 * i) 8)))).setReg (aRPT1 0 i)
      (fieldsRead RPT1 (BitVec.ofNat 64 (field img (o + 16 * i + 8) 8)))
  s.setFld (aRPT_LOCK 0) RPT_LOCK.LOCK 1

/-- Base of Ahnal's area of the near tier, and of the part of CD0's die memory that the boot uses (R90, R481). -/
def ahnalBase : Nat := 0xFE_0000_0000
def stagingBase : Nat := 0x1000_0000_0000
def stagingSize : Nat := 0x200_0000

/-- The boot record chosen and written, with the candidate banks in order and the bank on trial (R480). -/
def State.chooseBank (s : State) : List Nat × Option Nat × State :=
  let rec_ := s.bootRecOr
  if rec_.trial ≠ 0xFF ∧ 0 < rec_.tries then
    ([rec_.trial, rec_.active], some rec_.trial, s.putBootRec { rec_ with tries := 0, count := rec_.count + 1 })
  else ([rec_.active, 1 - rec_.active], none, s.putBootRec { rec_ with count := rec_.count + 1 })

/-- The bank read into die memory, its clock and protection sections applied, the flash protected, the watchdog armed, and
Ahnal started (R481 steps 5 and 6). -/
def State.startFirmware (s : State) (b : Nat) (trial fallback : Bool) : State × MemUpd :=
  let img := s.bankImage b
  let s := (s.bootedStat 0 b img).setFld (aBOOT_STAT 0) BOOT_STAT.TRIAL (b2n trial)
  let s := s.setFld (aBOOT_STAT 0) BOOT_STAT.FALLBACK (b2n fallback)
  let s := s.forAll ([0, 1, 2, 3, 4, 5, 6, 7, 8, 9, 12, 13] : List Dom) fun s n => s.clockSection img n
  let s := (s.protSection img).setFld (aBF_PROT 0) (if b = 0 then BF_PROT.MARCH_WP else BF_PROT.SEPT_WP) 1
  let s := s.setFld (aBF_PROT 0) BF_PROT.LOCK 1
  let s := s.forAll [0, 1] fun s p =>
    (s.setFld (aID_FW p) ID_FW.VERSION (field img 8 4)).setFld (aID_FW p) ID_FW.BANK b
  let s := s.modMgmt fun m => { m with fwImage := img, booted := some b, trial := trial, wdogArmed := true, wearTimer := true }
  let s := s.setFld (aBOOT_STAT 0) BOOT_STAT.PHASE 3
  (s, .ofBytes stagingBase (s.flashBytes (bankBase b) bankSize))

/-- PWR_GOOD_BOOT: steps 1 to 6 of boot; with no bank that verifies, recovery (R480, R481, R486, R490). The boot state record is
programmed first, so the boot waits for the end of a supply warning (R52). `unread` lists the banks of which a flash read fails. -/
def execPwrGoodBoot (unread : List Nat) (s : State) : Out :=
  s.doneMem (
    if s.power ≠ .on ∨ s.fld (aBOOT_STAT 0) BOOT_STAT.PHASE ≠ 0 ∨ s.mgmt.booted.isSome ∨ s.warned then (s, .none)
    else
      let s := (s.bootFuses.loopOn 10 1000).loopOn 11 1000
      let (banks, trial, s) := s.chooseBank
      let pick := banks.foldl (fun (r : Option (Nat × Nat) × Nat × State) b =>
        if r.1.isSome then r
        else
          let v := r.2.2.fwVerify 0 b (!unread.contains b)
          (if v.1 then some (b, r.2.1) else none, r.2.1 + 1, v.2)) (none, 0, s)
      match pick.1 with
      | some (b, i) => pick.2.2.startFirmware b (i == 0 && trial.isSome) (i != 0)
      | none =>
        let s := pick.2.2.setFld (aBOOT_STAT 0) BOOT_STAT.PHASE 0xE
        ({ s with pins := { s.pins with fatal := true } }, .none))

/-! Ahnal's start -/

/-- The newest service records of types 1 to 4 are applied; a substitution still owed is made, no index being bound (R520, R534). -/
def State.applyRecords (s : State) : State :=
  let s := match s.svcNewest 1 with
    | some r => s.modMgmt fun m => { m with
        coreState := (List.range 1152).map fun c => (c, field r.content (2 * c) 2 / 4096)
        coreMap := (List.range (gradeCores s.grade)).map fun a => field r.content (2304 + 2 * a) 2 }
    | none => s
  let s := s.forAll (((s.svcNewest 2).map fun r => repairEntries r.content).getD []) fun s e =>
    let a := aLINK_REP (clusterOfRouter (field e 4 4 / 32)) (field e 4 4 % 4)
    (s.incFld a LINK_REP.USED 1).setFld a LINK_REP.LAST_WIRE (field e 8 8)
  let s := s.forAll (((s.svcNewest 3).map fun r => repairEntries r.content).getD []) fun s e =>
    if field e 0 1 = 0x03 then
      s.incFld (aSLICE_STAT (field e 4 4 / 32 % 4) (field e 4 4 % 32)) SLICE_STAT.SPARE_USED 1
    else
      let row := (field e 4 4 + (if field e 0 1 = 0x04 then 0 else 68), field e 8 8)
      if s.mgmt.hardRepairs.contains row then s else s.modMgmt fun m => { m with hardRepairs := m.hardRepairs ++ [row] }
  let s := match s.svcNewest 4 with
    | some r => s.forAll (List.range 1152) fun s c =>
        (s.setFld (aCWAY c) CWAY.DC_WAYDIS (field r.content c 1 % 16)).setFld (aCWAY c) CWAY.IC_WAYDIS (field r.content c 1 / 16)
    | none => s
  s.forAll (List.range (gradeCores s.grade)) fun s a =>
    let c := (s.mgmt.coreMap[a]?).getD a
    if s.coreStatus c = 2 then (match s.goodSpare c with
      | some e => s.substitute a e
      | none => s) else s

/-- Near and middle tiers are enabled and trained; the flash controllers of the F grades open (R4, R42, R481). -/
def State.trainAll (s : State) : State :=
  let s := s.forAll ((List.range 84).filter fun k => decide (k < 64 ∨ 68 ≤ k)) fun s k =>
    (s.setFld (aTIER_CTRL k) NC_CTRL.EN 1).trainTier k
  if s.deepPresent then
    s.forAll (List.range 32) fun s f =>
      let s := (s.setFld (aFC_STAT f) FC_STAT.READY 1).setFld (aFC_STAT f) FC_STAT.DIES 0xF
      if s.fld (aFC_STAT f) FC_STAT.SPARE_PCT ≠ 0 then s
      else
        let (v, s) := s.draw
        s.setFld (aFC_STAT f) FC_STAT.SPARE_PCT (1 + v.toNat % 100)
  else s

/-- New last-gasp records enter the error log; with fewer than 8 erased pages left the consumed ones are erased; LG_FREE
follows (R55, R57, R489). -/
def State.readLastGasp (s : State) : State :=
  let fresh := (s.usedPages lgBase).filter fun p => !s.mgmt.lgConsumed.contains p
  let s := s.forAll fresh fun s p =>
    let b := s.page lgBase p
    let s := s.modMgmt fun m => { m with lgConsumed := m.lgConsumed ++ [p] }
    if pageOk 0x4C47_5350 b then s.logErr 0x0608 0 0 1 0 (field b 6 1) (field b 8 4) else s
  let s := if s.lgFreePages.length < 8 then
      (s.flashErase lgBase (areaPages * 256)).modMgmt fun m => { m with lgConsumed := [] }
    else s
  s.lgCount

/-- What Ahnal writes of the boot to flash and fuses before READY (R484). -/
def State.commitBoot (s : State) : State :=
  let b := s.mgmt.booted.getD 0
  let h := s.mgmt.fwImage
  let s := if s.mgmt.trial ∨ s.flag (aBOOT_STAT 0) BOOT_STAT.FALLBACK then
      s.putBootRec { s.bootRecOr with active := b, trial := 0xFF, tries := 0 }
    else s
  let s := if bit (field h 0x0D 1) 0 ∧ s.fld (aRB_CTR 0) RB_CTR.VALUE < fwSvn h then
      s.setFld (aRB_CTR 0) RB_CTR.VALUE (min 128 (fwSvn h)) else s
  s.forAll [0, 1, 2] fun s k =>
    let left := s.fld (aKEY_STAT 0) KEY_STAT.PROGRAMMED &&& (7 - (s.fld (aKEY_STAT 0) KEY_STAT.REVOKED ||| 2 ^ k) % 8)
    if bit (field h 0x0D 1) (k + 1) ∧ k ≠ fwSlot h ∧ left ≠ 0 then
      s.setFld (aKEY_STAT 0) KEY_STAT.REVOKED (s.fld (aKEY_STAT 0) KEY_STAT.REVOKED ||| 2 ^ k)
    else s

/-- AHNAL_READY: step 7 of boot, once the boot's wear scan is done: repairs applied, tiers trained, Ahnal moved to its area,
staging zeroed, last-gasp records read, the governor enabled, Summer, READY. Its programming of flash and fuses waits for the end of a
supply warning (R37, R52, R57, R90, R420, R481, R484, R489, R517, R528, R534). -/
def execAhnalReady (s : State) : Out :=
  s.doneMem (
    let h := s.mgmt.fwImage
    if s.power ≠ .on ∨ s.fld (aBOOT_STAT 0) BOOT_STAT.PHASE ≠ 3 ∨ s.mgmt.wearTimer ∨ s.warned then (s, .none)
    else
      let s := s.applyRecords.trainAll.readLastGasp
      let s := match (List.range 4).find? fun d => s.flag (aDIE_THERM d) DIE_THERM.TRIP_SEEN, s.svcNewest 6 with
        | some d, some r => s.logErr 0x0604 0x09 (d * 80 + field r.content 1 1) 1 0 0 (field r.content 2 2)
        | some d, none => s.logErr 0x0604 0x09 (d * 80) 1 0 0 0
        | none, _ => s
      let s := (s.setFld aGOV_CTRL GOV_CTRL.EN 1).setFld aPWR_STATE PWR_STATE.STATE 0
      let s := s.commitBoot
      let s := (s.forAll [0, 1] fun s p => s.setFld (aID_FW p) ID_FW.READY 1).setFld (aBOOT_STAT 0) BOOT_STAT.PHASE 4
      (s, (MemUpd.ofBytes ahnalBase h).then (.ofBytes stagingBase (zeros stagingSize))))

/-- CONFIRM: the boot watchdog stops; Ahnal writes it once step 7 is complete (R484). -/
def State.confirm (s : State) : State :=
  if s.fld (aBOOT_STAT 0) BOOT_STAT.PHASE = 4 then s.modMgmt fun m => { m with wdogArmed := false } else s
def execBootConfirm (s : State) : Out := s.done s.confirm

/-- A boot reset: every block but supply supervision, SUPPLY_EVT and the boot state records; PWR_GOOD stays, both links go down
(R483). -/
def State.bootReset (s : State) : State × MemUpd :=
  let t := s.bfFinish.blank
  let t := (t.setReg aSUPPLY_STAT (s.reg aSUPPLY_STAT)).setReg aSUPPLY_EVT (s.reg aSUPPLY_EVT)
  let t := if t.warned then t.alert ALERT_SRC.SUPPLY else t
  (t, .lost)

/-- BOOT_WATCHDOG_EXPIRY: 4 s without CONFIRM (R483). -/
def execBootWatchdogExpiry (s : State) : Out :=
  s.doneMem (
    if s.power = .on ∧ s.mgmt.wdogArmed then (s.bootReset.1.setFld (aBOOT_STAT 0) BOOT_STAT.WDOG 1, s.bootReset.2)
    else (s, .none))

/-- STANDBY_BOOT: the standby verifies the booted bank for itself and starts in standby, or stays down with its reason
(R485). A complex that has lost management rejoins so (R511). -/
def execStandbyBoot (ok : Bool) (s : State) : Out :=
  s.doneMem (
    let m := 1 - s.activeMc
    match s.mgmt.booted with
    | some b =>
      if !s.ahnal ∨ s.flag (aMGMT_ROLE 0) MGMT_ROLE.STANDBY_UP ∨ s.fld (aBOOT_STAT m) BOOT_STAT.PHASE = 0xF then (s, .none)
      else
        let v := s.fwVerify m b ok
        if v.1 then
          let s := (v.2.bootedStat m b (s.bankImage b)).setFld (aBOOT_STAT m) BOOT_STAT.PHASE 3
          (s.setFld (aMGMT_ROLE 0) MGMT_ROLE.STANDBY_UP 1,
            if s.loadedSlots.isEmpty then .ofBytes 0x1000_2000_0000 (s.flashBytes (bankBase b) bankSize) else .none)
        else (v.2.setFld (aBOOT_STAT m) BOOT_STAT.PHASE 0xF, .none)
    | none => (s, .none))

/-! Fuses, the key engine, the table's lock -/

/-- RPT_LOCK_WRITE: once 1, ignored until reset (R490). -/
def State.rptLock (s : State) (data : Word) : State :=
  if s.flag (aRPT_LOCK 0) RPT_LOCK.LOCK then s else s.setFld (aRPT_LOCK 0) RPT_LOCK.LOCK (RPT_LOCK.LOCK.get data)
def execRptLockWrite (data : Word) (s : State) : Out := s.done (s.rptLock data)

/-- SIGN_GO: a write of SIGN_CTL (R494). -/
def State.signGo (s : State) (data : Word) : State :=
  let a := aSIGN_CTL 0
  let n := SIGN_CTL.LEN.get data
  let s := if SIGN_CTL.LEN.isListed n then s.setFld a SIGN_CTL.LEN n else s
  let s := if SIGN_CTL.ERR.get data = 1 then s.setFld a SIGN_CTL.ERR 0 else s
  if SIGN_CTL.GO.get data = 1 ∧ !s.flag a SIGN_CTL.BUSY then s.setFld a SIGN_CTL.BUSY 1 else s
def execSignGo (data : Word) (s : State) : Out := s.done (s.signGo data)

/-- SIGN_DONE: the signature of the message stands in SIGN_OUT, or the message could not be read (R494). -/
def execSignDone (s : State) : Out :=
  s.done (
    if !s.flag (aSIGN_CTL 0) SIGN_CTL.BUSY then s
    else
      let a := (s.reg (aSIGN_MSG 0)).toNat % 2 ^ 48
      let n := s.fld (aSIGN_CTL 0) SIGN_CTL.LEN
      let s := s.setFld (aSIGN_CTL 0) SIGN_CTL.BUSY 0
      if n = 0 ∨ ((List.range n).any fun i => s.badByte (a + i) || s.rptDenies (a + i) 0 false) then
        s.setFld (aSIGN_CTL 0) SIGN_CTL.ERR 1
      else s.modMgmt fun m => { m with signOut := Config.identitySign (s.bytes a n) })

/-- RB_CTR_GO: a write of RB_CTR; fuses are not blown during a supply warning (R489, R493). -/
def State.rbGo (s : State) (data : Word) : State :=
  let a := aRB_CTR 0
  let n := RB_CTR.TARGET.get data
  let s := if RB_CTR.TARGET.isListed n then s.setFld a RB_CTR.TARGET n else s
  let s := if RB_CTR.FAIL.get data = 1 then s.setFld a RB_CTR.FAIL 0 else s
  let n := s.fld a RB_CTR.TARGET
  if RB_CTR.GO.get data = 1 ∧ !s.flag a RB_CTR.BUSY ∧ !s.warned ∧ s.fld a RB_CTR.VALUE < n then
    (s.setFld a RB_CTR.BUSY 1).modMgmt fun m => { m with fuseTarget := some n }
  else s
def execRbCtrGo (data : Word) (s : State) : Out := s.done (s.rbGo data)

/-- KEY_REVOKE: the REVOKED fuses of the slots marked are to be blown (R493). -/
def State.keyRevoke (s : State) (mask : Nat) : State := s.modMgmt fun m => { m with fuseRevoke := m.fuseRevoke ||| mask % 8 }
def execKeyRevoke (mask : BitVec 3) (s : State) : Out := s.done (s.keyRevoke mask.toNat)

/-- FUSE_BLOW_DONE: the fuses under way are blown; of an advance that fails, how many fuses did blow is left open (R493). -/
def execFuseBlowDone (ok : Bool) (s : State) : Out :=
  s.done (
    let a := aRB_CTR 0
    let s := match s.mgmt.fuseTarget with
      | none => s
      | some n =>
        let s := (s.setFld a RB_CTR.BUSY 0).modMgmt fun m => { m with fuseTarget := none }
        if ok then s.setFld a RB_CTR.VALUE n
        else
          let (v, s) := s.draw
          let old := s.fld a RB_CTR.VALUE
          (s.setFld a RB_CTR.FAIL 1).setFld a RB_CTR.VALUE (old + v.toNat % (n - old))
    let s := if ok then
        s.setFld (aKEY_STAT 0) KEY_STAT.REVOKED (s.fld (aKEY_STAT 0) KEY_STAT.REVOKED ||| s.mgmt.fuseRevoke)
      else s
    s.modMgmt fun m => { m with fuseRevoke := 0 })

/-! The boot flash controller -/

/-- Whether a program or an erase at an address hits a protected range (R476, R481, R494). -/
def State.bfProtected (s : State) (op a : Nat) : Bool :=
  let lo := (bfRange op a).1
  let hi := lo + (bfRange op a).2
  let hits (f : Field) (b n : Nat) : Bool := s.flag (aBF_PROT 0) f && decide (lo < b + n ∧ b < hi)
  op != 1 && (hits BF_PROT.MARCH_WP 0 bankSize || hits BF_PROT.SEPT_WP bankSize bankSize || hits BF_PROT.CERT_WP certBase 0x8_0000)

/-- A write of OP starts an operation; ignored while BUSY. A program or an erase begun during a supply warning is held (R52,
R476, R489). -/
def State.bfStart (s : State) (op a : Nat) : State :=
  let c := aBF_CMD 0
  if s.flag c BF_CMD.BUSY then s
  else
    let s := (s.setFld c BF_CMD.ADDR a).setFld c BF_CMD.OP op
    if s.bfProtected op a then s.setFld c BF_CMD.DENIED 1
    else
      let s := (s.setFld c BF_CMD.BUSY 1).setFld c BF_CMD.PAUSED (b2n (op != 1 && s.warned))
      s.modMgmt fun m => { m with bfPending := some (op, a) }

/-- BF_READ, BF_PROGRAM, BF_ERASE_4K, BF_ERASE_64K (R476, R489). -/
def execBfRead (addr : BitVec 26) (s : State) : Out := s.done (s.bfStart 1 addr.toNat)
def execBfProgram (addr : BitVec 26) (s : State) : Out := s.done (s.bfStart 2 addr.toNat)
def execBfErase4k (addr : BitVec 26) (s : State) : Out := s.done (s.bfStart 3 addr.toNat)
def execBfErase64k (addr : BitVec 26) (s : State) : Out := s.done (s.bfStart 4 addr.toNat)

/-- BF_OP_DONE: the operation has done its work, or the device reports failure, which leaves a page or sector it wrote
indeterminate; one held by a supply warning has not begun (R476, R489). -/
def execBfOpDone (ok : Bool) (s : State) : Out :=
  s.done (match s.mgmt.bfPending with
    | none => s
    | some (op, a) =>
      if s.flag (aBF_CMD 0) BF_CMD.PAUSED then s
      else
        let s := if ok then s.bfApply op a else s.bfAbandon.setFld (aBF_CMD 0) BF_CMD.ERR 1
        (s.setFld (aBF_CMD 0) BF_CMD.BUSY 0).modMgmt fun m => { m with bfPending := none })

/-- BF_PROT_WRITE: ignored once LOCK is 1 (R481). -/
def State.bfProt (s : State) (data : Word) : State :=
  if s.flag (aBF_PROT 0) BF_PROT.LOCK then s
  else s.forAll [BF_PROT.MARCH_WP, BF_PROT.SEPT_WP, BF_PROT.LOCK] fun s f => s.setFld (aBF_PROT 0) f (f.get data)
def execBfProtWrite (data : Word) (s : State) : Out := s.done (s.bfProt data)

/-! FW_UPDATE -/

/-- An image is written to a bank, which is erased first (R487 step 3). -/
def State.writeBank (s : State) (b : Nat) (img : List Byte) : State :=
  (s.flashErase (bankBase b) bankSize).flashProgram (bankBase b) (img.take (512 + fwLen img))

/-- The package verified: it is written and armed for trial; in recovery it becomes the March bank, and the module boots
(R486, R487). -/
def State.takePackage (s : State) (k : Nat) (img : List Byte) : State × MemUpd :=
  if s.fld (aBOOT_STAT 0) BOOT_STAT.PHASE = 0xE then
    let s := (s.writeBank 0 img).putBootRec { s.bootRecOr with active := 0, trial := 0xFF, tries := 0 }
    (s.finalReply k 0 0 [0]).bootReset
  else
    let b := 1 - s.mgmt.booted.getD 0
    let s := (s.writeBank b img).putBootRec { s.bootRecOr with trial := b, tries := 1 }
    (s.finalReply k 0 0 [0], .none)

/-- A program, an erase or a read-back of the bank fails: the bank is indeterminate, the record in force stands (R487, R488). -/
def State.bankFails (s : State) (k : Nat) : State :=
  let b := if s.fld (aBOOT_STAT 0) BOOT_STAT.PHASE = 0xE then 0 else 1 - s.mgmt.booted.getD 0
  (s.flashUnknown (bankBase b) bankSize).finalReply k 0x3F 0 [8]

/-- FW_UPDATE: waits during a supply warning; `ok` says that the bank was erased, programmed and read back (R487-R489). -/
def execFwUpdate (k : Nat) (bytes : HostData) (ok : Bool) (s : State) : Out :=
  s.doneMem (match s.cmdReady k 0x0031 with
    | none => (s, .none)
    | some q =>
      if s.warned then (s, .none)
      else if fwMaxLen + 512 < pkArg q.packet 8 8 then (s.finalReply k 0x22 0x0007 [2], .none)
      else match bytes with
        | .data bs =>
          if bs.length ≠ pkArg q.packet 8 8 then (s.finalReply k 0x22 0x0008 [0], .none)
          else
            let r := s.fwReason bs
            if r = 0 then (if ok then s.takePackage k bs else (s.bankFails k, .none)) else (s.finalReply k 0x22 0x0002 [BitVec.ofNat 8 r], .none)
        | _ => ((s.hostReadFailed q.port bytes).finalReply k 0x22 0x0008 [0], .none))

end Sys2Proof.Machine
end

