-- ==== Sys2Proof/Machine/Spdm.lean ====
section
/-! DEFINITION. Attestation: the SPDM 1.3 responder of each endpoint (R495-R498) and ATTEST. The message formats are those of
DMTF DSP0274 (log 20). -/

namespace Sys2Proof.Machine

/-! Certificates and measurements -/

/-- Size of the DER item at an address of the boot flash; none where none begins there. -/
def State.derSize (s : State) (a : Nat) : Option Nat :=
  let n := (s.flashByte (a + 1)).toNat
  if s.flashByte a ≠ 0x30 then none
  else if n < 0x80 then some (2 + n)
  else if n = 0x81 then some (3 + (s.flashByte (a + 2)).toNat)
  else if n = 0x82 then some (4 + (s.flashByte (a + 2)).toNat * 256 + (s.flashByte (a + 3)).toNat)
  else none

/-- The certificates of the certificate area, up to three, root first (R494). -/
def State.certificates (s : State) : List (List Byte) :=
  ((List.range 3).foldl (fun (r : Option Nat × List (List Byte)) _ => match r.1 with
    | none => r
    | some a => match s.derSize a with
      | some n => (some (a + n), r.2 ++ [s.flashBytes a n])
      | none => (none, r.2)) (some certBase, [])).2

/-- The chain of slot 0 (R494, R496). -/
def State.certChain (s : State) : List Byte :=
  let body := Config.sha512 (s.certificates.headD []) ++ s.certificates.flatMap id
  toBytes 2 (body.length + 4) ++ toBytes 2 0 ++ body

/-- The measurements of the module's present state, in ascending order: index, value type, digest (R497, R498). -/
def State.measurements (s : State) : List (Nat × Nat × List Byte) :=
  [(1, 0, Config.sha512 s.mgmt.romVersion), (2, 1, Config.sha512 s.mgmt.fwImage),
    (3, 2, Config.sha512 (s.ctrlBytes (aRPT0 0 0) 1024))] ++
  s.loadedSlots.filterMap fun k => (s.image k).map fun im => (0x10 + k, 1, Config.sha512 im.bytes)

/-- One measurement block. -/
def measBlock (m : Nat × Nat × List Byte) : List Byte :=
  toBytes 1 m.1 ++ toBytes 1 1 ++ toBytes 2 (m.2.2.length + 3) ++ toBytes 1 m.2.1 ++ toBytes 2 m.2.2.length ++ m.2.2

/-! Messages -/

/-- A message of version 1.3. -/
def spdmMsg (code p1 p2 : Nat) (body : List Byte) : List Byte := toBytes 1 0x13 ++ toBytes 1 code ++ toBytes 1 p1 ++ toBytes 1 p2 ++ body

/-- An ERROR response. -/
def spdmError (code data : Nat) : List Byte := spdmMsg 0x7F code data []
def spdmInvalid : List Byte := spdmError 0x01 0
def spdmUnexpected : List Byte := spdmError 0x04 0

/-- A message to be signed: the prefix of version 1.3, the context, and the digest of the transcript. -/
def spdmSigned (context transcript : List Byte) : List Byte :=
  let prefix_ : List Byte := [0x64, 0x6D, 0x74, 0x66, 0x2D, 0x73, 0x70, 0x64, 0x6D, 0x2D, 0x76, 0x31, 0x2E, 0x33, 0x2E, 0x2A]
  prefix_ ++ prefix_ ++ prefix_ ++ prefix_ ++ zeros (36 - context.length) ++ context ++ Config.sha512 transcript

/-- The contexts "responder-challenge_auth signing" and "responder-measurements signing". -/
def ctxResponder : List Byte := [0x72, 0x65, 0x73, 0x70, 0x6F, 0x6E, 0x64, 0x65, 0x72, 0x2D]
def ctxSigning : List Byte := [0x20, 0x73, 0x69, 0x67, 0x6E, 0x69, 0x6E, 0x67]
def ctxChallenge : List Byte := ctxResponder ++
  [0x63, 0x68, 0x61, 0x6C, 0x6C, 0x65, 0x6E, 0x67, 0x65, 0x5F, 0x61, 0x75, 0x74, 0x68] ++ ctxSigning
def ctxMeasurements : List Byte := ctxResponder ++
  [0x6D, 0x65, 0x61, 0x73, 0x75, 0x72, 0x65, 0x6D, 0x65, 0x6E, 0x74, 0x73] ++ ctxSigning

/-- A nonce of 32 bytes (log 7). -/
def State.nonce (s : State) : List Byte × State :=
  let (a, s) := s.draw
  let (b, s) := s.draw
  let (c, s) := s.draw
  let (d, s) := s.draw
  (toBytes 8 a.toNat ++ toBytes 8 b.toNat ++ toBytes 8 c.toNat ++ toBytes 8 d.toNat, s)

/-- Change an endpoint's connection. -/
def State.modSpdm (s : State) (e : Endpoint) (f : Spdm → Spdm) : State :=
  s.modMgmt fun m => { m with spdm := m.spdm.set e (f m.spdm[e]) }

/-- A message of request code `code` that the connection allows now: version 1.3 agreed, and capabilities and algorithms as far
as the request needs them. -/
def State.spdmCheck (s : State) (e : Endpoint) (req : List Byte) (len : Nat) (caps algs : Bool) : Option (List Byte) :=
  let c := s.mgmt.spdm[e]
  if !c.version || (caps && !c.caps) || (algs && !c.algs) then some spdmUnexpected
  else if field req 0 1 ≠ 0x13 then some (spdmError 0x41 0)
  else if req.length < len then some spdmInvalid
  else none

/-- GET_VERSION starts a connection; version 1.3 only (R496). -/
def State.spdmVersion (s : State) (e : Endpoint) (req : List Byte) : List Byte × State :=
  if req.length < 4 ∨ field req 0 1 ≠ 0x10 then (spdmError 0x41 0, s)
  else
    let resp : List Byte := [0x10, 0x04, 0, 0, 0, 1, 0x00, 0x13]
    (resp, s.modSpdm e fun _ => { Spdm.reset with version := true, vca := req ++ resp })

/-- GET_CAPABILITIES: CERT, CHAL and MEAS with signatures, CTExponent 14, 4,096 bytes (R496). -/
def State.spdmCaps (s : State) (e : Endpoint) (req : List Byte) : List Byte × State :=
  match s.spdmCheck e req 20 false false with
  | some r => (r, s)
  | none =>
    let resp := spdmMsg 0x61 0 0 (toBytes 1 0 ++ toBytes 1 14 ++ toBytes 2 0 ++ toBytes 4 0x16 ++ toBytes 4 4096 ++ toBytes 4 4096)
    (resp, s.modSpdm e fun c => { c with caps := true, vca := c.vca ++ req ++ resp })

/-- NEGOTIATE_ALGORITHMS: Ed25519 and SHA-512 where the requester offers them (R496). -/
def State.spdmAlgs (s : State) (e : Endpoint) (req : List Byte) : List Byte × State :=
  match s.spdmCheck e req 32 true false with
  | some r => (r, s)
  | none =>
    let sel (o n v : Nat) : Nat := field req o n &&& v
    let meas := sel 6 1 1
    let resp := spdmMsg 0x63 0 0 (toBytes 2 36 ++ toBytes 1 meas ++ toBytes 1 0 ++ toBytes 4 (meas * 8) ++
      toBytes 4 (sel 8 4 0x400) ++ toBytes 4 (sel 12 4 0x4) ++ zeros 16)
    if sel 8 4 0x400 = 0 ∨ sel 12 4 0x4 = 0 then (spdmInvalid, s)
    else (resp, s.modSpdm e fun c => { c with algs := true, vca := c.vca ++ req ++ resp })

/-- GET_DIGESTS: the digest of the chain of slot 0 (R496). -/
def State.spdmDigests (s : State) (e : Endpoint) (req : List Byte) : List Byte × State :=
  match s.spdmCheck e req 4 true true with
  | some r => (r, s)
  | none =>
    let resp := spdmMsg 0x01 1 1 (Config.sha512 s.certChain)
    (resp, s.modSpdm e fun c => { c with certs := c.certs ++ req ++ resp })

/-- GET_CERTIFICATE: a part of the chain of slot 0 (R494, R496). -/
def State.spdmCert (s : State) (e : Endpoint) (req : List Byte) : List Byte × State :=
  match s.spdmCheck e req 8 true true with
  | some r => (r, s)
  | none =>
    let chain := s.certChain
    let o := field req 4 2
    let n := min (field req 6 2) (min 4088 (chain.length - o))
    if field req 2 1 ≠ 0 ∨ chain.length ≤ o then (spdmInvalid, s)
    else
      let resp := spdmMsg 0x02 0 0 (toBytes 2 n ++ toBytes 2 (chain.length - o - n) ++ (chain.drop o).take n)
      (resp, s.modSpdm e fun c => { c with certs := c.certs ++ req ++ resp })

/-- CHALLENGE: the key engine signs the transcript (R494, R496). -/
def State.spdmChallenge (s : State) (e : Endpoint) (req : List Byte) : List Byte × State :=
  match s.spdmCheck e req 44 true true with
  | some r => (r, s)
  | none =>
    let kind := field req 3 1
    if field req 2 1 ≠ 0 ∨ (kind ≠ 0 ∧ kind ≠ 1 ∧ kind ≠ 0xFF) then (spdmInvalid, s)
    else
      let ms := if kind = 1 then s.measurements.take 3 else s.measurements
      let summary := if kind = 0 then [] else Config.sha512 (ms.flatMap measBlock)
      let (nonce, s) := s.nonce
      let resp := spdmMsg 0x03 0 1 (Config.sha512 s.certChain ++ nonce ++ summary ++ toBytes 2 0 ++ (req.drop 36).take 8)
      let c := s.mgmt.spdm[e]
      (resp ++ Config.identitySign (spdmSigned ctxChallenge (c.vca ++ c.certs ++ req ++ resp)),
        s.modSpdm e fun c => { c with certs := [] })

/-- GET_MEASUREMENTS: one index, all of them, or their number; each answer describes one state of the module (R497, R498). -/
def State.spdmMeas (s : State) (e : Endpoint) (req : List Byte) : List Byte × State :=
  let sign := bit (field req 2 1) 0
  match s.spdmCheck e req (if sign then 45 else 12) true true with
  | some r => (r, s)
  | none =>
    let op := field req 3 1
    let ms := if op = 0 then [] else if op = 0xFF then s.measurements else s.measurements.filter (·.1 = op)
    if (op ≠ 0 ∧ ms.isEmpty) ∨ (sign ∧ field req 36 1 ≠ 0) then (spdmInvalid, s)
    else
      let (nonce, s) := s.nonce
      let rec_ := ms.flatMap measBlock
      let resp := spdmMsg 0x60 (if op = 0 then s.measurements.length else 0) 0 (toBytes 1 ms.length ++ toBytes 3 rec_.length ++ rec_ ++
        nonce ++ toBytes 2 0 ++ (req.drop (if sign then 37 else 4)).take 8)
      let c := s.mgmt.spdm[e]
      let log := c.meas ++ req ++ resp
      if sign then
        (resp ++ Config.identitySign (spdmSigned ctxMeasurements (c.vca ++ log)), s.modSpdm e fun c => { c with meas := [] })
      else (resp, s.modSpdm e fun c => { c with meas := log })

/-- The seven requests, and ERROR UnsupportedRequest for every other (R496). -/
def State.spdmAnswer (s : State) (e : Endpoint) (req : List Byte) : List Byte × State :=
  let k := field req 1 1
  if k = 0x84 then s.spdmVersion e req else if k = 0xE1 then s.spdmCaps e req else if k = 0xE3 then s.spdmAlgs e req
  else if k = 0x81 then s.spdmDigests e req else if k = 0x82 then s.spdmCert e req else if k = 0x83 then s.spdmChallenge e req
  else if k = 0xE0 then s.spdmMeas e req else (spdmError 0x07 k, s)

/-- Whether an endpoint is reached: SMBus, or a port whose link is up in D0, with Ahnal ready (R481, R495). -/
def State.endpointUp (s : State) (e : Endpoint) : Bool :=
  s.smbusUp && (if h : e.val < 2 then (s.port ⟨e.val, h⟩).up && !(s.port ⟨e.val, h⟩).d3 else true)

/-- A request over MCTP is answered on its endpoint. -/
def State.spdmOver (s : State) (e : Endpoint) (code : Nat) (req : List Byte) : State :=
  if !s.endpointUp e ∨ field req 1 1 ≠ code then s
  else
    let r := s.spdmAnswer e req
    let s := r.2.modSpdm e fun c => { c with sent := r.1 }
    if e = 2 then s.smbAnswer r.1 else s

/-- The requests of R496. -/
def execGetVersion (e : Endpoint) (req : List Byte) (s : State) : Out := s.done (s.spdmOver e 0x84 req)
def execGetCapabilities (e : Endpoint) (req : List Byte) (s : State) : Out := s.done (s.spdmOver e 0xE1 req)
def execNegotiateAlgorithms (e : Endpoint) (req : List Byte) (s : State) : Out := s.done (s.spdmOver e 0xE3 req)
def execGetDigests (e : Endpoint) (req : List Byte) (s : State) : Out := s.done (s.spdmOver e 0x81 req)
def execGetCertificate (e : Endpoint) (req : List Byte) (s : State) : Out := s.done (s.spdmOver e 0x82 req)
def execChallenge (e : Endpoint) (req : List Byte) (s : State) : Out := s.done (s.spdmOver e 0x83 req)
def execGetMeasurements (e : Endpoint) (req : List Byte) (s : State) : Out := s.done (s.spdmOver e 0xE0 req)

/-- SPDM_UNSUPPORTED_REQUEST: any other request code (R496). -/
def execSpdmUnsupportedRequest (e : Endpoint) (req : List Byte) (s : State) : Out :=
  s.done (
    let k := field req 1 1
    if [0x84, 0xE1, 0xE3, 0x81, 0x82, 0x83, 0xE0].contains k then s else s.spdmOver e k req)

/-- ATTEST: an SPDM message without MCTP framing, on the connection of the issuing port's endpoint; the response goes to the
host's buffer (R495). -/
def execAttest (k : Nat) (bytes : HostData) (s : State) : Out :=
  s.done (match s.cmdReady k 0x0030 with
    | none => s
    | some q => match bytes with
      | .data bs =>
        if bs.length ≠ pkArg q.packet 8 4 then s.finalReply k 0x22 0x0008 []
        else
          let e : Endpoint := Fin.ofNat 3 q.port.val
          let r := s.spdmAnswer e bs
          let s := r.2.modSpdm e fun c => { c with sent := r.1 }
          (s.hostWrite q.port (pkArg q.packet 0x10 8) (r.1.take (pkArg q.packet 0x18 4)) false).finalReply k 0 0 (toBytes 4 r.1.length)
      | _ => (s.hostReadFailed q.port bytes).finalReply k 0x22 0x0008 [])

end Sys2Proof.Machine
end

