-- ==== Sys2Proof/Machine/Declare.lean ====
section
/-! DEFINITION. What an image declares: header (R66), declaration records (R67), sections (R472), start records (R195), and the
checks of admission that do not depend on placement or on what is free: form (R68, R104, R196, R339, R574), power state, format,
class rules (R63, R64) and the channel graph (R70, R71). -/

namespace Sys2Proof.Machine

/-! Refusals -/

/-- Why an image is refused: the final status, and the fields of the refusal record (R85, R575). -/
structure Refuse where
  status : Nat
  check : Nat
  kind : Nat
  rec_ : Nat
  index : Nat
  needed : Nat
  avail : Nat
  cycle : List Nat
deriving DecidableEq, Repr

/-- The refusal record (R85). -/
def Refuse.bytes (r : Refuse) : List Byte :=
  toBytes 1 r.check ++ toBytes 1 r.kind ++ toBytes 2 r.rec_ ++ toBytes 4 r.index ++ toBytes 8 r.needed ++ toBytes 8 r.avail ++
    toBytes 1 2 ++ toBytes 1 0 ++ toBytes 2 r.cycle.length ++ toBytes 4 0 ++
    ((List.range 8).flatMap fun i => toBytes 2 (r.cycle.getD i 0xFFFF)) ++ zeros 16

/-- A breach of form at a byte offset of the image (R574, R575). -/
def badForm (rec_ off : Nat) : Refuse := ⟨0x22, 1, 0x25, rec_, off, 0, 0, []⟩

/-- A breach of a class rule (R64). -/
def badClass (rec_ off : Nat) : Refuse := ⟨0x13, 4, 0x21, rec_, off, 0, 0, []⟩

/-- The first refusal of a list of checks. -/
def firstOf (l : List (Option Refuse)) : Option Refuse := l.findSome? id

/-! The declaration -/

/-- Fields of the header (R66). -/
def hdrElastic (bs : List Byte) : Bool := field bs 6 1 == 1
def hdrStatic (bs : List Byte) : Bool := field bs 7 1 == 1
def hdrFloor (bs : List Byte) : Nat := field bs 8 2
def hdrK (bs : List Byte) : Nat := field bs 0x0A 2
def hdrRecs (bs : List Byte) : Nat := field bs 0x0C 4
def hdrRecOff (bs : List Byte) : Nat := field bs 0x30 8
def hdrLimits (bs : List Byte) : List Nat := (List.range 4).map fun i => field bs (0x44 + 4 * i) 4

/-- The declaration records, with their indices; those of a type. -/
def recordsOf (bs : List Byte) : List (Nat × List Byte) :=
  (List.range (hdrRecs bs)).map fun i => (i, (bs.drop (hdrRecOff bs + 32 * i)).take 32)
def recordsAs (bs : List Byte) (type : Nat) : List (Nat × List Byte) := (recordsOf bs).filter fun r => field r.2 0 1 == type

/-- Offset of a record in the image. -/
def recAt (bs : List Byte) (i : Nat) : Nat := hdrRecOff bs + 32 * i

/-- A REGION: tier, attributes, home die, base, size, id. -/
def regTier (r : List Byte) : Nat := field r 2 1
def regAttr (r : List Byte) : Nat := field r 3 1
def regDie (r : List Byte) : Nat := field r 4 1
def regBase (r : List Byte) : Nat := field r 8 8
def regSize (r : List Byte) : Nat := field r 0x10 8
def regId (r : List Byte) : Nat := field r 0x18 2

/-- A CHANNEL: sender, its thread, kind, receiver or group, queue, in-flight limit, rate. -/
def chSrc (r : List Byte) : Nat := field r 2 2
def chThr (r : List Byte) : Nat := field r 4 1
def chKind (r : List Byte) : Nat := field r 5 1
def chDst (r : List Byte) : Nat := field r 6 2
def chQueue (r : List Byte) : Nat := field r 8 1
def chInfl (r : List Byte) : Nat := field r 9 1
def chRate (r : List Byte) : Nat := field r 0x0C 4

/-- A QUEUE: core, queue, reader, combining, elements, contributions. -/
def quCore (r : List Byte) : Nat := field r 2 2
def quQueue (r : List Byte) : Nat := field r 4 1
def quReader (r : List Byte) : Nat := field r 5 1
def quComb (r : List Byte) : Nat := field r 6 1
def quElems (r : List Byte) : Nat := field r 7 1
def quNper (r : List Byte) : Nat := field r 8 2

/-- A FLOW: endpoints, RD, rate. -/
def flSrcCore (r : List Byte) : Nat := field r 2 2
def flSrcReg (r : List Byte) : Nat := field r 4 2
def flDstCore (r : List Byte) : Nat := field r 6 2
def flDstReg (r : List Byte) : Nat := field r 8 2
def flRd (r : List Byte) : Bool := field r 0x0A 1 == 1
def flRate (r : List Byte) : Nat := field r 0x0C 4

/-- Members of a group, its GROUP records together (R67). -/
def groupMembers (bs : List Byte) (g : Nat) : List Nat :=
  (((recordsAs bs 5).filter fun r => field r.2 2 2 == g).flatMap fun r =>
    (List.range (field r.2 4 1)).map fun i => field r.2 (8 + 2 * i) 2).dedup
def groupIds (bs : List Byte) : List Nat := ((recordsAs bs 5).map fun r => field r.2 2 2).dedup

/-- What the SYNC records ask: the most of each (log 21). -/
def syncAsk (bs : List Byte) (o n : Nat) : Nat := (recordsAs bs 7).foldl (fun m r => max m (field r.2 o n)) 0

/-- Destination cores of a channel. -/
def chTargets (bs : List Byte) (r : List Byte) : List Nat := if chKind r = 2 then groupMembers bs (chDst r) else [chDst r]

/-- The QUEUE record of a core's queue. -/
def queueRec (bs : List Byte) (w q : Nat) : Option (Nat × List Byte) :=
  (recordsAs bs 4).find? fun r => quCore r.2 == w && quQueue r.2 == q

/-- Inbound channels of a queue, and contribution channels into it, by record index (R339). -/
def inboundOf (bs : List Byte) (w q : Nat) : List Nat :=
  ((recordsAs bs 3).filter fun r => chKind r.2 != 1 && chQueue r.2 == q && (chTargets bs r.2).contains w).map (·.1)
def contribOf (bs : List Byte) (w q : Nat) : List Nat :=
  ((recordsAs bs 3).filter fun r => chKind r.2 == 1 && chQueue r.2 == q && chDst r.2 == w).map (·.1)

/-! Check 1: form -/

/-- Whether every byte outside the fields used is 0. -/
def onlyUsed (r : List Byte) (used : List (Nat × Nat)) : Bool :=
  (List.range r.length).all fun i => field r i 1 == 0 || used.any fun u => decide (u.1 ≤ i ∧ i < u.1 + u.2)

/-- Whether a record is valid by itself (R67, R68, R104, R574). -/
def recordOk (k : Nat) (r : List Byte) : Bool :=
  let f (o n : Nat) : Nat := field r o n
  match f 0 1 with
  | 1 =>
    onlyUsed r ([(0, 1), (2, 2), (4, 2), (6, 1)] ++ if f 6 1 = 3 then [(7, 1)] else []) &&
      decide (f 2 2 ≤ f 4 2 ∧ f 4 2 < k ∧ f 6 1 ≤ 3 ∧ (f 6 1 = 2 → f 4 2 - f 2 2 < 16) ∧ (f 6 1 = 3 → f 7 1 ≤ 71))
  | 2 =>
    let unit := if regTier r = 3 then 2 ^ 16 else 2 ^ 21
    onlyUsed r [(0, 1), (2, 1), (3, 1), (4, 1), (8, 8), (0x10, 8), (0x18, 2)] &&
      decide (regTier r ≤ 3 ∧ regAttr r < 8 ∧ (regTier r ≠ 0 → bit (regAttr r) 1 = false) ∧ regDie r ≤ 3 ∧ regSize r ≠ 0 ∧
        regSize r % unit = 0 ∧ regBase r % unit = 0 ∧ (regTier r ≠ 3 → regBase r + regSize r ≤ 0xEFFF_FFE0_0000) ∧
        regId r ≤ 0xFFEF)
  | 3 =>
    onlyUsed r [(0, 1), (2, 2), (4, 1), (5, 1), (6, 2), (8, 1), (9, 1), (0x0C, 4)] &&
      decide (chSrc r < k ∧ chThr r ≤ 3 ∧ chKind r ≤ 2 ∧ (if chKind r = 2 then chDst r ≤ 63 else chDst r < k) ∧ chQueue r ≤ 7)
  | 4 =>
    onlyUsed r [(0, 1), (2, 2), (4, 1), (5, 1), (6, 1), (7, 1), (8, 2)] &&
      decide (quCore r < k ∧ quQueue r ≤ 7 ∧ quReader r ≤ 3 ∧ quComb r ≤ 2 ∧
        (if quComb r = 0 then quElems r = 0 ∧ quNper r = 0 else 1 ≤ quElems r ∧ quElems r ≤ 14))
  | 5 =>
    onlyUsed r [(0, 1), (2, 2), (4, 1), (8, 2 * f 4 1)] &&
      decide (f 2 2 ≤ 63 ∧ 1 ≤ f 4 1 ∧ f 4 1 ≤ 12) && (List.range (f 4 1)).all fun i => decide (f (8 + 2 * i) 2 < k)
  | 6 =>
    let core (x : Nat) : Bool := decide (x = 0xFFFF ∨ x < k)
    let one (a b : Nat) : Bool := (a == 0xFFFF) != (b == 0xFFFF)
    onlyUsed r [(0, 1), (2, 2), (4, 2), (6, 2), (8, 2), (0x0A, 1), (0x0C, 4)] &&
      core (flSrcCore r) && core (flDstCore r) && one (flSrcCore r) (flSrcReg r) && one (flDstCore r) (flDstReg r) &&
      (flSrcReg r == 0xFFFF || flDstReg r == 0xFFFF) &&
      decide (f 0x0A 1 ≤ 1 ∧ (f 0x0A 1 = 1 → flSrcReg r = 0xFFFF ∧ flDstReg r = 0xFFFF))
  | 7 => onlyUsed r [(0, 1), (2, 2), (4, 1), (5, 1)] && decide (f 2 2 ≤ 256 ∧ f 4 1 ≤ 64 ∧ f 5 1 ≤ 32)
  | _ => false

/-- Form of the header (R66). -/
def headerForm (bs : List Byte) : Option Refuse :=
  let n := bs.length
  let bad (c : Bool) (o : Nat) : Option Refuse := if c then some (badForm 0xFFFF o) else none
  firstOf [bad (decide (n < 128) || field bs 0 4 != 0x494C_4853) 0, bad (decide (1 < field bs 6 1)) 6,
    bad (decide (1 < field bs 7 1)) 7, bad (decide (hdrK bs = 0 ∨ 1024 < hdrK bs)) 0x0A,
    bad (decide (hdrRecOff bs % 32 ≠ 0 ∨ n < hdrRecOff bs + 32 * hdrRecs bs)) 0x30,
    bad (decide (n < field bs 0x38 8 + 32 * field bs 0x40 4)) 0x38, bad (!((bs.drop 0x54).take 44).all (· == 0)) 0x54]

/-- A record refused for its form. -/
def badRec (bs : List Byte) (i : Nat) : Refuse := badForm i (recAt bs i)

/-- The first of a list of records that meets a condition against an earlier one. -/
def clash (bs : List Byte) (l : List (Nat × List Byte)) (f : List Byte → List Byte → Bool) : Option Refuse :=
  (l.find? fun r => l.any fun e => decide (e.1 < r.1) && f e.2 r.2).map fun r => badRec bs r.1

/-- Rules between records (R68, R339, R574). -/
def recordsForm (bs : List Byte) : Option Refuse :=
  let recs := recordsOf bs
  let regs := recordsAs bs 2
  let chans := recordsAs bs 3
  let qus := recordsAs bs 4
  let known (x : Nat) : Bool := x == 0xFFFF || x == 0xFFF0 || x == 0xFFF1 || regs.any fun r => regId r.2 == x
  let bad (l : List (Nat × List Byte)) (f : Nat × List Byte → Bool) : Option Refuse := (l.find? f).map fun r => badRec bs r.1
  firstOf [bad recs fun r => !recordOk (hdrK bs) r.2,
    clash bs regs fun a b => regId a == regId b,
    clash bs regs fun a b => regTier a != 3 && regTier b != 3 &&
      decide (regBase a < regBase b + regSize b ∧ regBase b < regBase a + regSize a),
    clash bs qus fun a b => quCore a == quCore b && quQueue a == quQueue b,
    clash bs chans fun a b => chSrc a == chSrc b && chThr a == chThr b && chKind a == chKind b && chDst a == chDst b &&
      chQueue a == chQueue b,
    bad chans fun r => (chTargets bs r.2).isEmpty || (chTargets bs r.2).any fun w => (queueRec bs w (chQueue r.2)).isNone,
    bad (recordsAs bs 6) fun r => !known (flSrcReg r.2) || !known (flDstReg r.2),
    bad qus fun r =>
      let n := (inboundOf bs (quCore r.2) (quQueue r.2)).length
      let m := (contribOf bs (quCore r.2) (quQueue r.2)).length
      if quComb r.2 = 0 then decide (32 < n ∨ 0 < m) else decide (0 < n ∨ quNper r.2 ≠ m)]

/-- Cores a section names; the permissions of a region (R472). -/
def secCores (e : List Byte) (w : Nat) : Bool := decide (field e 4 2 ≤ w ∧ w ≤ field e 6 2)
def permEntries (bs : List Byte) : List (List Byte) :=
  ((sectionsOf bs).filter fun e => secType e == 7).flatMap fun e => chunks 8 (secBytes bs e)
def permOf (bs : List Byte) (rid : Nat) : Nat :=
  ((permEntries bs).find? fun p => field p 0 2 == rid).elim 5 fun p => field p 2 1

/-- Handle declarations of a section, with their offsets in the image. -/
def handlesOf (bs e : List Byte) : List (Nat × List Byte) :=
  (List.range (field e 0x10 8 / 24)).map fun i => (field e 8 8 + 24 * i, (bs.drop (field e 8 8 + 24 * i)).take 24)

/-- Whether a handle declaration is valid by itself (R115, R472). -/
def handleOk (bs : List Byte) (d : List Byte) : Bool :=
  let kind := field d 1 1
  let x := field d 4 2
  let region := (recordsAs bs 2).find? fun r => regId r.2 == x
  let size : Option Nat := match kind with
    | 1 => region.bind fun r => if regTier r.2 = 3 then none else some (regSize r.2)
    | 2 => region.bind fun r => if regTier r.2 = 3 then some (regSize r.2) else none
    | 3 => if x < hdrK bs then some 0x8_0000 else none
    | 4 => if x = 0 then some (2 ^ 44) else none
    | 5 => if x = 0 then some 0x1_0000 else none
    | _ => none
  onlyUsed d [(0, 1), (1, 1), (2, 1), (4, 2), (8, 8), (0x10, 8)] && decide (field d 0 1 ≤ 63 ∧ field d 2 1 < 8) &&
    size.any fun n => decide (0 < field d 0x10 8 ∧ field d 0x10 8 ≤ 2 ^ 38 ∧ field d 8 8 + field d 0x10 8 ≤ n)

/-- Whether two sections have a target in common. -/
def secMeet (a b : List Byte) : Bool :=
  let cores := decide (field a 4 2 ≤ field b 6 2 ∧ field b 4 2 ≤ field a 6 2)
  let range := decide (field a 0x18 8 < field b 0x18 8 + field b 0x10 8 ∧ field b 0x18 8 < field a 0x18 8 + field a 0x10 8)
  secType a == secType b && (match secType a with
    | 1 => field a 2 2 == field b 2 2 && range
    | 2 | 3 => cores && range
    | 5 => cores
    | _ => false)

/-- Whether a section entry is valid by itself (R472). -/
def sectionOk (bs e : List Byte) : Bool :=
  let size := field e 0x10 8
  let dest := field e 0x18 8
  let inside := decide (field e 8 8 + size ≤ bs.length)
  let cores := decide (field e 4 2 ≤ field e 6 2 ∧ field e 6 2 < hdrK bs)
  let used (l : List (Nat × Nat)) : Bool := onlyUsed e ([(0, 1), (8, 8), (0x10, 8)] ++ l)
  inside && match secType e with
    | 1 => used [(2, 2), (0x18, 8)] && (recordsAs bs 2).any fun r => regId r.2 == field e 2 2 && decide (dest + size ≤ regSize r.2)
    | 2 => used [(4, 4), (0x18, 8)] && cores && decide (dest + size ≤ 0x8_0000)
    | 3 => used [(4, 4), (0x18, 8)] && cores && decide (dest + size ≤ 0x1_0000)
    | 4 => used [(4, 4)] && cores && decide (size % 24 = 0)
    | 5 => used [(4, 4)] && cores && decide (size = 512)
    | 6 => used [] && decide (size % 112 = 0)
    | 7 => used [] && decide (size % 8 = 0)
    | _ => false

/-- Whether a thread's entry of a start record is valid (R195, R196). -/
def startEntryOk (bs r : List Byte) (t : Nat) : Bool :=
  let o := 0x10 + 24 * t
  let on := if hdrStatic bs then bit (field r 3 1) t else t == 0
  let sp := field r (o + 0x10) 4
  let lim := field r (o + 0x14) 4
  if on then
    decide (field r o 8 % 8 = 0 ∧ sp % 256 = 0 ∧ sp ≤ 0x8_0000 ∧ lim % 256 = 0 ∧ lim < sp) &&
      (!hdrStatic bs || decide (0xEFFF_FFE0_0000 ≤ field r o 8 ∧ field r o 8 ≤ 0xEFFF_FFE0_FFF8))
  else ((r.drop o).take 24).all (· == 0)

/-- Whether a start record is valid (R195, R196). -/
def startOk (bs r : List Byte) : Bool :=
  decide ((field r 0 2 < hdrK bs ∨ field r 0 2 = 0xFFFF) ∧ field r 2 1 < 16 ∧ field r 2 1 % 2 = 1 ∧ field r 3 1 < 16 ∧
    field r 3 1 % 2 = 1 ∧ (hdrStatic bs = false → field r 3 1 = 1) ∧ field r 4 4 % 1024 = 0 ∧ field r 4 4 < 0x8_0000 ∧
    field r 8 8 = 0) && (List.range 4).all (startEntryOk bs r)

/-- Form of the sections (R196, R472). -/
def sectionsForm (bs : List Byte) : Option Refuse :=
  let l := (List.range (field bs 0x40 4)).zip (sectionsOf bs)
  let at_ (i : Nat) : Refuse := badForm 0xFFFF (field bs 0x38 8 + 32 * i)
  let hs := l.flatMap fun x => if secType x.2 = 4 then (handlesOf bs x.2).map fun d => (x.2, d) else []
  let same (a b : List Byte × Nat × List Byte) : Bool := decide (a.2.1 < b.2.1) && field a.2.2 0 1 == field b.2.2 0 1 &&
    decide (field a.1 4 2 ≤ field b.1 6 2 ∧ field b.1 4 2 ≤ field a.1 6 2)
  let ps := l.flatMap fun x => if secType x.2 = 7 then
      (List.range (field x.2 0x10 8 / 8)).map fun i => (field x.2 8 8 + 8 * i, (bs.drop (field x.2 8 8 + 8 * i)).take 8) else []
  let ss := l.flatMap fun x => if secType x.2 = 6 then
      (List.range (field x.2 0x10 8 / 112)).map fun i => (field x.2 8 8 + 112 * i, (bs.drop (field x.2 8 8 + 112 * i)).take 112) else []
  let permOk (p : List Byte) : Bool := onlyUsed p [(0, 2), (2, 1)] && decide (field p 2 1 < 8) &&
    (recordsAs bs 2).any fun r => regId r.2 == field p 0 2
  firstOf [(l.find? fun x => !sectionOk bs x.2).map fun x => at_ x.1,
    (l.find? fun x => l.any fun e => decide (e.1 < x.1) && secMeet e.2 x.2).map fun x => at_ x.1,
    (hs.find? fun x => !handleOk bs x.2.2 || hs.any fun e => same e x).map fun x => badForm 0xFFFF x.2.1,
    (ps.find? fun x => !permOk x.2 || ps.any fun e => decide (e.1 < x.1) && field e.2 0 2 == field x.2 0 2).map fun x =>
      badForm 0xFFFF x.1,
    (ss.find? fun x => !startOk bs x.2).map fun x => badForm 0xFFFF x.1,
    if (List.range (hdrK bs)).all fun w => (startRec bs w).isSome then none else some (badForm 0xFFFF 0x38)]

/-- Check 1 (R72). -/
def checkForm (bs : List Byte) : Option Refuse := firstOf [headerForm bs, recordsForm bs, sectionsForm bs]

/-! Checks 2 to 6 -/

/-- Check 2: power state (R38, R40). -/
def State.checkPower (s : State) (bs : List Byte) : Option Refuse :=
  if s.pstate = 2 then some ⟨0x10, 2, 0x23, 0xFFFF, 2, 0, 0, []⟩
  else if s.pstate = 1 ∧ !hdrElastic bs then some ⟨0x13, 2, 0x23, 0xFFFF, 1, 0, 0, []⟩
  else none

/-- Check 3: format version and required features. -/
def State.checkFormat (s : State) (bs : List Byte) : Option Refuse :=
  if field bs 4 2 ≠ 1 then some ⟨0x14, 3, 0x24, 0xFFFF, 0xFFFF_FFFF, field bs 4 2, 1, []⟩
  else (List.range 4).findSome? fun i =>
    let missing := (BitVec.ofNat 64 (field bs (0x10 + 8 * i) 8) &&& ~~~ featWord s.grade i).toNat
    if missing = 0 then none else some ⟨0x14, 3, 0x24, 0xFFFF, i, missing, 0, []⟩

/-- Class rules (R63, R64). -/
def checkClass (bs : List Byte) : Option Refuse :=
  let chans := recordsAs bs 3
  let rule (l : List (Nat × List Byte)) (f : List Byte → Bool) : Option Refuse :=
    (l.find? fun r => !f r.2).map fun r => badClass r.1 (recAt bs r.1)
  if hdrElastic bs then
    firstOf [if hdrFloor bs = 0 then none else some (badClass 0xFFFF 8), rule chans fun r => chInfl r == 0]
  else
    let hs := ((sectionsOf bs).filter fun e => secType e == 5).flatMap fun e =>
      (List.range 64).map fun i => (field e 8 8 + 8 * i, BitVec.ofNat 64 (field bs (field e 8 8 + 8 * i) 8))
    firstOf [if 900 ≤ hdrFloor bs ∧ hdrFloor bs ≤ 1900 then none else some (badClass 0xFFFF 8),
      rule (recordsOf bs) fun r => match field r 0 1 with
        | 2 => bit (regAttr r) 0 && regTier r != 2
        | 3 => decide (1 ≤ chInfl r ∧ chInfl r ≤ 4)
        | _ => true,
      (hs.find? fun h => HENT.V.get h.2 == 1 &&
        decide (HENT.HANDLER.get h.2 * 8 < 0xEFFF_FFE0_0000 ∨ 0xEFFF_FFE0_FFF8 < HENT.HANDLER.get h.2 * 8)).map fun h =>
          badClass 0xFFFF h.1]

/-- Check 4: loaded images, then class rules (R60, R72). -/
def State.checkLoaded (s : State) (bs : List Byte) : Option Refuse :=
  if 16 ≤ s.loadedSlots.length then some ⟨0x10, 4, 0x0B, 0xFFFF, 0, 1, 0, []⟩ else checkClass bs

/-- Edges of the channel graph: record index, sending pair, reading pair (pairs as core x 4 + thread). -/
def graphEdges (bs : List Byte) : List (Nat × Nat × Nat) :=
  (recordsAs bs 3).flatMap fun r => (chTargets bs r.2).filterMap fun w =>
    (queueRec bs w (chQueue r.2)).map fun q => (r.1, chSrc r.2 * 4 + chThr r.2, w * 4 + quReader q.2)

/-- Pairs from which a pair is reached in 0, 1, 2, ... edges. -/
def levelsTo (es : List (Nat × Nat × Nat)) : Nat → List Nat → List Nat → List (List Nat)
  | 0, _, _ => []
  | n + 1, seen, front =>
    if front.isEmpty then []
    else
      let next := (((es.filter fun e => front.contains e.2.2).map fun e => e.2.1).dedup).filter fun v => !(seen ++ front).contains v
      front :: levelsTo es n (seen ++ front) next

/-- The lowest sequence of channels that leads down the levels from some pairs. -/
def descend (es : List (Nat × Nat × Nat)) : List (List Nat) → List Nat → List Nat
  | [], _ => []
  | l :: ls, cur =>
    let here := es.filter fun e => cur.contains e.2.1 && l.contains e.2.2
    match here.map (·.1) with
    | [] => []
    | i :: is =>
      let c := is.foldl min i
      c :: descend es ls ((here.filter fun e => e.1 == c).map fun e => e.2.2)

/-- The shortest cycle through a channel, lowest in its sequence of indices (R71). -/
def cycleThrough (es : List (Nat × Nat × Nat)) (c : Nat) : Option (List Nat) :=
  match es.find? fun e => e.1 == c with
  | none => none
  | some e =>
    let levels := levelsTo es 4097 [] [e.2.1]
    let to_ := (es.filter fun x => x.1 == c).map fun x => x.2.2
    (levels.findIdx? fun l => l.any to_.contains).map fun i =>
      c :: descend es (levels.take i).reverse (to_.filter fun v => (levels.getD i []).contains v)

/-- Check 5: the channel graph has no cycle (R70, R71). DESIGN CHOICE: the record index of its refusal is 0xFFFF (log 29). -/
def checkGraph (bs : List Byte) : Option Refuse :=
  let es := graphEdges bs
  (((recordsAs bs 3).map (·.1)).findSome? fun c => cycleThrough es c).map fun l => ⟨0x11, 5, 0x31, 0xFFFF, 0, 0, 0, l⟩

/-- Check 6: no deep region and no demand paging in N grades; no deep region while the deep tier is read-only (R4, R439). -/
def State.checkDeep (s : State) (bs : List Byte) : Option Refuse :=
  if s.deepPresent && !s.deep.readOnly then none
  else ((recordsAs bs 2).find? fun r => regTier r.2 == 2 || (!s.deepPresent && regTier r.2 != 3 && !bit (regAttr r.2) 0)).map fun r =>
    ⟨0x10, 6, 0x04, r.1, 0, ((recordsAs bs 2).filter fun r => regTier r.2 == 2).foldl (fun n r => n + regSize r.2) 0, 0, []⟩

end Sys2Proof.Machine
end

