-- ==== Sys2Proof/Machine/Place.lean ====
section
/-! DEFINITION. Placement and the timing promise: routes (R78, R355, R410, R411), the loads a Guaranteed image puts on ports, tiers
and message slots (R69, R75-R77), and the published bounds (R81-R85). -/

namespace Sys2Proof.Machine

/-! Routes -/

/-- Mesh coordinates of a router (R85). -/
def routerX (r : Nat) : Nat := r % 6
def routerY (r : Nat) : Nat := r / 6

/-- Die of a router. -/
def routerDie (r : Nat) : Nat := routerY r / 6 * 2 + routerX r / 3

/-- Key of a router port, of a crossbar port (R85; crossbars from 0x1000, log 22). -/
def rKey (r port : Nat) : Nat := r * 32 + port
def xKey (d port : Nat) : Nat := 0x1000 + d * 64 + port

/-- A leg of traffic: the output ports it crosses, and how many die-to-die links. -/
structure Leg where
  ports : List Nat
  dies : Nat
deriving DecidableEq, Repr

/-- One leg after another. -/
def Leg.app (a b : Leg) : Leg := ⟨a.ports ++ b.ports, a.dies + b.dies⟩

/-- A leg of ports alone. -/
def Leg.via (ports : List Nat) : Leg := ⟨ports, 0⟩

/-- The dimension-order route from router to router: along x, then along y (R78). -/
def meshLeg (a b : Nat) : Leg :=
  let (xa, ya, xb, yb) := (routerX a, routerY a, routerX b, routerY b)
  let xs := if xa ≤ xb then (List.range (xb - xa)).map fun i => rKey (ya * 6 + xa + i) 0
    else (List.range (xa - xb)).map fun i => rKey (ya * 6 + xa - i) 1
  let ys := if ya ≤ yb then (List.range (yb - ya)).map fun i => rKey ((ya + i) * 6 + xb) 2
    else (List.range (ya - yb)).map fun i => rKey ((ya - i) * 6 + xb) 3
  ⟨xs ++ ys, (if xa / 3 = xb / 3 then 0 else 1) + if ya / 6 = yb / 6 then 0 else 1⟩

/-- Router of a core, and its core port there. -/
def coreRouter (c : Nat) : Nat := routerOf (clusterOfCore c)
def corePort (c : Nat) : Nat := rKey (coreRouter c) (16 + inCluster c)

/-- Edge router i of a die (R410). -/
def edgeRouter (d i : Nat) : Nat :=
  let ro := if d < 2 then 0 else 5
  let co := if d % 2 = 0 then 0 else 2
  let row := if i < 3 then ro else if ro = 0 then i - 2 else i - 3
  let col := if i < 3 then i else co
  (d / 2 * 6 + row) * 6 + d % 2 * 3 + col

/-- Whether a router is an edge router. -/
def isEdge (r : Nat) : Bool := (List.range 8).any fun i => edgeRouter (routerDie r) i == r

/-- The router where traffic for die memory enters its die (R78). -/
def entryRouter (r d : Nat) : Nat :=
  let clamp (v lo : Nat) (n : Nat) : Nat := min (max v lo) (lo + n - 1)
  clamp (routerY r) (d / 2 * 6) 6 * 6 + clamp (routerX r) (d % 2 * 3) 3

/-- A place that memory traffic goes to: a core, an edge router's attachment, or a slice of die memory. -/
inductive End where
  | core (c : Nat)
  | edge (r : Nat)
  | slice (d s : Nat)
deriving DecidableEq, Repr

/-- The leg from a core's router to a place (R69, R78). -/
def legTo (c : Nat) : End → Leg
  | .core e => (meshLeg (coreRouter c) (coreRouter e)).app (.via [corePort e])
  | .edge r => (meshLeg (coreRouter c) r).app (.via [rKey r 5])
  | .slice d s =>
    let e := entryRouter (coreRouter c) d
    (meshLeg (coreRouter c) e).app (.via [rKey e 4, xKey d (32 + s)])

/-- The leg from a place to a core (R69, R78). -/
def legFrom (c : Nat) : End → Leg
  | .core e => (meshLeg (coreRouter e) (coreRouter c)).app (.via [corePort c])
  | .edge r => ((Leg.via [rKey r 6]).app (meshLeg r (coreRouter c))).app (.via [corePort c])
  | .slice d _ =>
    let e := entryRouter (coreRouter c) d
    ((Leg.via [xKey d (clusterOfRouter e % 18)]).app (meshLeg e (coreRouter c))).app (.via [corePort c])

/-- Places over which a region's traffic spreads, each with the tier channel or package it loads: 0-63 near-tier channels, 64-79
middle-tier packages (R76-R78, R410). -/
def regionEnds (r : List Byte) : List (End × Option Nat) :=
  let d := regDie r
  match regTier r with
  | 0 => (if bit (regAttr r) 1 then List.range 64 else (List.range 16).map (16 * d + ·)).map fun c =>
      (.edge (edgeRouter (c / 16) (c % 16 / 2)), some c)
  | 1 => (List.range 4).map fun j => (.edge (edgeRouter d (2 * j + 1)), some (64 + 4 * d + j))
  | 3 => (List.range 32).map fun s => (.slice d s, none)
  | _ => []

/-- Places of the region id that a FLOW names, a host window among them (R67, R411). -/
def flowEnds (bs : List Byte) (rid : Nat) : List (End × Option Nat) :=
  if rid = 0xFFF0 then [(.edge (edgeRouter 0 0), none)]
  else if rid = 0xFFF1 then [(.edge (edgeRouter 2 0), none)]
  else (((recordsAs bs 2).find? fun r => regId r.2 == rid).map fun r => regionEnds r.2).getD []

/-! Loads -/

/-- A load: the record it comes of, the port or tier key, and its rate in units of 1/64,000 MB/s. -/
structure Load where
  rec_ : Nat
  key : Nat
  rate : Nat
deriving DecidableEq, Repr

/-- Units of a load in one MB/s. -/
def loadUnit : Nat := 64000

/-- Legs of a FLOW with the part of its rate each carries, as one over a number, and the tier keys it loads (R69). -/
def flowLegs (bs : List Byte) (phys : List Nat) (r : List Byte) : List (Leg × Nat) × List (Nat × Nat) :=
  let at_ (w : Nat) : Nat := phys.getD w 0
  if flSrcReg r = 0xFFFF ∧ flDstReg r = 0xFFFF then
    let a := at_ (flSrcCore r)
    let b := at_ (flDstCore r)
    ((legTo a (.core b), 1) :: (if flRd r then [(legTo b (.core a), 1)] else []), [])
  else
    let read := flSrcCore r == 0xFFFF
    let es := flowEnds bs (if read then flSrcReg r else flDstReg r)
    let c := at_ (if read then flDstCore r else flSrcCore r)
    (es.flatMap fun e => (legTo c e.1, es.length) :: (if read then [(legFrom c e.1, es.length)] else []),
      es.filterMap fun e => e.2.map fun k => (k, es.length))

/-- Routes of a CHANNEL's messages: to each target, by the root for a group (R82, R355). -/
def channelRoutes (bs : List Byte) (phys : List Nat) (r : List Byte) : List Leg :=
  let at_ (w : Nat) : Nat := phys.getD w 0
  let src := at_ (chSrc r)
  if chKind r = 2 then
    let ms := chTargets bs r
    let root := coreRouter (at_ (ms.foldl min (ms.headD 0)))
    ms.map fun m => ((meshLeg (coreRouter src) root).app (meshLeg root (coreRouter (at_ m)))).app (.via [corePort (at_ m)])
  else [legTo src (.core (at_ (chDst r)))]

/-- Ports that a CHANNEL's messages cross, each once (R355). -/
def channelPorts (bs : List Byte) (phys : List Nat) (r : List Byte) : List Nat :=
  ((channelRoutes bs phys r).flatMap (·.ports)).dedup

/-- What a Guaranteed image loads: ports by key, and tiers by key (R69, R75-R77). -/
def portLoads (bs : List Byte) (phys : List Nat) : List Load :=
  ((recordsAs bs 6).flatMap fun r => (flowLegs bs phys r.2).1.flatMap fun l =>
    l.1.ports.map fun p => ⟨r.1, p, flRate r.2 * loadUnit / l.2⟩) ++
  (recordsAs bs 3).flatMap fun r => (channelPorts bs phys r.2).map fun p => ⟨r.1, p, chRate r.2 * (loadUnit * 128 / 1000)⟩
def tierLoads (bs : List Byte) (phys : List Nat) : List Load :=
  (recordsAs bs 6).flatMap fun r => (flowLegs bs phys r.2).2.map fun k => ⟨r.1, k.1, flRate r.2 * loadUnit / k.2⟩

/-- Sums by key. -/
def sumLoads (l : List Load) : Tab Nat := l.foldl (fun t x => tabIns t x.key (tabGet 0 t x.key + x.rate)) []

/-- The quota that loads make at a floor: the sum of the shares, rounded up; the share of a rate of b MB/s is b / (2 x floor), on
ports and on attachments alike (R75, R76). -/
def quotaOf (floor rate : Nat) : Nat := ceilDiv rate (2 * floor * loadUnit)

/-- Whether a key is of an attachment port. -/
def isAttach (p : Nat) : Bool := decide (p < 0x1000 ∧ (p % 32 = 5 ∨ p % 32 = 6))

/-- What admission grants a Guaranteed image: quotas of ports, quotas of attachments by router x 2 + direction, in-flight limits
by port, tier rates in load units (R75-R77, R81). -/
structure Grant where
  quotas : Tab Nat
  attach : Tab Nat
  weights : Tab Nat
  rates : Tab Nat
deriving DecidableEq, Repr

/-- The grant of an image on physical cores; an Elastic image has none (R64). -/
def grantOf (bs : List Byte) (phys : List Nat) : Grant :=
  if hdrElastic bs then ⟨[], [], [], []⟩
  else
    let q := (sumLoads (portLoads bs phys)).map fun x => (x.1, quotaOf (hdrFloor bs) x.2)
    { quotas := q.filter fun x => !isAttach x.1
      attach := (q.filter fun x => isAttach x.1).map fun x => (x.1 / 32 * 2 + (x.1 % 32 - 5), x.2)
      weights := sumLoads ((recordsAs bs 3).flatMap fun r => (channelPorts bs phys r.2).map fun p => ⟨r.1, p, chInfl r.2⟩)
      rates := sumLoads (tierLoads bs phys) }

/-- Totals over the images loaded, but for one slot, and a new grant. -/
def State.total (s : State) (f : Image → Tab Nat) (but : Option Nat) (new : Tab Nat) (key : Nat) : Nat :=
  (s.loadedSlots.filter fun k => some k ≠ but).foldl (fun n k => n + ((s.image k).map fun im => tabGet 0 (f im) key).getD 0) 0 +
    tabGet 0 new key

/-! Bounds -/

/-- Totals of quotas, attachment quotas and in-flight limits by port (R75, R76, R81). -/
structure Totals where
  q : List (Tab Nat)
  qa : List (Tab Nat)
  w : List (Tab Nat)
deriving DecidableEq, Repr

/-- The sum of tables at a key. -/
def sumAt (ts : List (Tab Nat)) (k : Nat) : Nat := ts.foldl (fun n t => n + tabGet 0 t k) 0

/-- The totals of the images loaded but for one slot, with a new grant. -/
def State.totals (s : State) (but : Option Nat) (g : Grant) : Totals :=
  let ims := (s.loadedSlots.filter fun k => some k ≠ but).filterMap s.image
  ⟨g.quotas :: ims.map (·.quotas), g.attach :: ims.map (·.attach), g.weights :: ims.map (·.weights)⟩

/-- The term of a data port in handshakes (R81). -/
def Totals.dataTerm (t : Totals) (p : Nat) : Nat :=
  if isAttach p then 5 + ceilDiv (255 + sumAt t.qa (p / 32 * 2 + (p % 32 - 5))) 4 else 68 + sumAt t.q p

/-- The message bound of a route in handshakes (R82). -/
def Totals.msgBound (t : Totals) (l : Leg) : Nat := l.ports.foldl (fun n p => n + 5 + sumAt t.w p) 100 + 32 * l.dies

/-- The read bound of a core from a place, in handshakes (R82). -/
def Totals.readBound (t : Totals) (c : Nat) (e : End) : Nat :=
  let l := (legTo c e).app (legFrom c e)
  l.ports.foldl (fun n p => n + t.dataTerm p) 70 + 32 * l.dies + match e with
    | .core _ => 16
    | .slice _ _ => 24
    | .edge _ => 0

/-- Largest of some values with a mark, the first of the largest. -/
def largest (l : List (Nat × Nat)) : Option (Nat × Nat) :=
  l.foldl (fun b x => match b with
    | some y => if y.1 < x.1 then some x else b
    | none => some x) none

/-- Handshakes at a floor and nanoseconds, as whole nanoseconds (R81). -/
def toNs (floor hs ns : Nat) : Nat := ceilDiv (hs * 1000) floor + ns

/-- The bounds of an image: message ns, hs and record, near, middle, die and remote read bounds in ns with the region records of
the first three, largest W and Q; 0xFFFFFFFF where one does not apply (R82, R85). -/
structure Bounds where
  msgNs : Nat
  msgHs : Nat
  msgRec : Nat
  tier : List (Nat × Nat)
  remote : Nat
  maxW : Nat
  maxQ : Nat
deriving DecidableEq, Repr

/-- A bound that does not apply (R85). -/
def noBound : Nat := 0xFFFF_FFFF

/-- The published bounds of an image on physical cores (R81-R85). DESIGN CHOICE: an image that is Elastic or has no channel names
record 0xFFFF, and an Elastic image's largest W and Q are 0 (log 33). -/
def boundsOf (bs : List Byte) (phys : List Nat) (g : Grant) (t : Totals) : Bounds :=
  if hdrElastic bs then ⟨noBound, noBound, 0xFFFF, List.replicate 3 (noBound, 0xFFFF), noBound, 0, 0⟩
  else
    let floor := hdrFloor bs
    let msgs := largest ((recordsAs bs 3).flatMap fun r => (channelRoutes bs phys r.2).map fun l => (t.msgBound l, r.1))
    let tier (k ns : Nat) : Nat × Nat :=
      match largest (((recordsAs bs 2).filter fun r => regTier r.2 == k).flatMap fun r =>
          (regionEnds r.2).flatMap fun e => phys.map fun c => (t.readBound c e.1, r.1)) with
      | some x => (toNs floor x.1 ns, x.2)
      | none => (noBound, 0xFFFF)
    let remote := largest (((sectionsOf bs).filter fun e => secType e == 4).flatMap fun e => (handlesOf bs e).flatMap fun d =>
      if field d.2 1 1 ≠ 3 then []
      else ((List.range (hdrK bs)).filter fun w => secCores e w && w != field d.2 4 2).map fun w =>
        (t.readBound (phys.getD w 0) (.core (phys.getD (field d.2 4 2) 0)), 0))
    { msgNs := (msgs.map fun x => toNs floor x.1 0).getD noBound
      msgHs := (msgs.map (·.1)).getD noBound
      msgRec := (msgs.map (·.2)).getD 0xFFFF
      tier := [tier 0 1800, tier 1 2600, tier 3 0]
      remote := (remote.map fun x => toNs floor x.1 0).getD noBound
      maxW := (g.weights.map fun x => sumAt t.w x.1).foldl max 0
      maxQ := (g.quotas.map fun x => sumAt t.q x.1).foldl max 0 }

/-- Nanoseconds of the four bounds that have limits, with their records (R66, R84). -/
def Bounds.limited (b : Bounds) : List (Nat × Nat) := (b.msgNs, b.msgRec) :: b.tier

/-- The bounds record (R85). -/
def boundsRecord (handle : Nat) (bs : List Byte) (b : Bounds) : List Byte :=
  toBytes 4 handle ++ toBytes 2 (hdrFloor bs) ++ toBytes 1 (field bs 6 1) ++ toBytes 1 1 ++ toBytes 4 b.msgNs ++ toBytes 4 b.msgHs ++
    toBytes 2 b.msgRec ++ toBytes 2 0 ++ (b.tier.flatMap fun x => toBytes 4 x.1) ++ toBytes 4 b.remote ++
    (if hdrElastic bs then toBytes 4 noBound ++ toBytes 4 noBound else toBytes 4 25000 ++ toBytes 4 200000) ++
    toBytes 2 b.maxW ++ toBytes 2 b.maxQ ++ zeros 16

/-- The bounds of a loaded image now (R84, R475). -/
def State.boundsNow (s : State) (im : Image) : Bounds :=
  let g : Grant := ⟨im.quotas, im.attach, im.weights, im.rates⟩
  boundsOf im.bytes im.bindPhys g (s.totals none ⟨[], [], [], []⟩)

end Sys2Proof.Machine
end

