-- ==== Sys2Proof/Machine/Admit.lean ====
section
/-! DEFINITION. Admission: capacities and runs (R73), candidate placements (R72), floors (R74), quotas and rates (R75-R77), bounds
(R84), and what an admitted image is given (R107, R115-R118, R337-R340, R355, R376). -/

namespace Sys2Proof.Machine

/-! Runs -/

/-- The lowest run of `len` consecutive free numbers below `n`, and the longest free run. -/
def freeRun (free : Nat → Bool) (n len : Nat) : Option Nat :=
  (List.range (n + 1 - len)).find? fun b => (List.range len).all fun i => free (b + i)
def longestRun (free : Nat → Bool) (n : Nat) : Nat :=
  ((List.range n).foldl (fun (r : Nat × Nat) i => if free i then (r.1 + 1, max r.2 (r.1 + 1)) else (0, r.2)) (0, 0)).2

/-- Bytes of a page. -/
def pageSize : Nat := 2 ^ 21

/-! Check 7 -/

/-- Pages taken so far by the image under admission, and its regions. -/
structure Taking where
  near : List Nat
  middle : List Nat
  die : List Nat
  regions : List Region
deriving DecidableEq, Repr

/-- The first `n` free pages of a list. -/
def State.pick (s : State) (taken : List Nat) (l : List Nat) (ok : Nat → Bool) (n : Nat) : Option (List Nat) :=
  let free := (l.filter fun g => s.freePage g && !taken.contains g && ok g).take n
  if free.length = n then some free else none

/-- The near-tier pages of a die; those of its middle tier. -/
def nearPages (d : Nat) : List Nat := (List.range diePages).map (d * diePages + ·)
def middlePages (d : Nat) : List Nat := (List.range (2 ^ 18)).map (0x8_0000 + d * 2 ^ 18 + ·)

/-- Free pages of a list. -/
def State.freeCount (s : State) (l : List Nat) : Nat := (l.filter s.freePage).length

/-- Pages of a region. -/
def regPages (r : List Byte) : Nat := regSize r / pageSize

/-- A region as admitted. -/
def regionOfRec (bs : List Byte) (r : Nat × List Byte) (pages : List Nat) : Region where
  index := r.1
  tier := regTier r.2
  attrs := regAttr r.2
  die := regDie r.2
  base := regBase r.2
  size := regSize r.2
  rid := regId r.2
  pages := pages
  perm := permOf bs (regId r.2)

/-- Sum of a measure over the REGION records that meet a condition. -/
def regSum (bs : List Byte) (f : List Byte → Bool) (g : List Byte → Nat) : Nat :=
  (recordsAs bs 2).foldl (fun n r => if f r.2 then n + g r.2 else n) 0

/-- Whether the interleave quad of a position is whole: its four pages are free and not taken (R96). -/
def State.wholeQuad (s : State) (taken : List Nat) (p : Nat) : Bool :=
  (List.range 4).all fun e => s.freePage (e * diePages + p) && !taken.contains (e * diePages + p)

/-- The near-tier pages of a die in the order in which die-local allocations take them: those whose quad is no longer whole
first, so that no quad is broken that a device-wide region could still need (R73, R96; log 23). -/
def State.nearOrder (s : State) (taken : List Nat) (d : Nat) : List Nat :=
  (nearPages d).filter (fun g => !s.wholeQuad taken (g % diePages)) ++ (nearPages d).filter fun g => s.wholeQuad taken (g % diePages)

/-- Near-tier pages of a region: die-local pages of its home die, or whole interleave quads (R73, R96; log 23). -/
def State.takeNear (s : State) (bs : List Byte) (t : Taking) (r : Nat × List Byte) : Except Refuse Taking :=
  let d := regDie r.2
  let wide := bit (regAttr r.2) 1
  let quads (x : List Byte) : Nat := ceilDiv (regPages x) 4
  if wide then
    let l := (((List.range diePages).reverse).filter (s.wholeQuad t.near)).take (quads r.2)
    if l.length = quads r.2 then
      let pages := l.flatMap fun p => (List.range 4).map fun e => e * diePages + p
      .ok { t with near := t.near ++ pages, regions := t.regions ++ [regionOfRec bs r pages] }
    else .error ⟨0x10, 7, 0x02, r.1, 4, regSum bs (fun x => regTier x == 0 && bit (regAttr x) 1) fun x => quads x * 4 * pageSize,
      ((List.range diePages).filter (s.wholeQuad [])).length * 4 * pageSize, []⟩
  else match s.pick t.near (s.nearOrder t.near d) (fun g => !s.ilv.contains g) (regPages r.2) with
    | some pages => .ok { t with near := t.near ++ pages, regions := t.regions ++ [regionOfRec bs r pages] }
    | none => .error ⟨0x10, 7, 0x02, r.1, d,
        regSum bs (fun x => regTier x == 0 && (bit (regAttr x) 1 || regDie x == d)) fun x =>
          if bit (regAttr x) 1 then quads x * pageSize else regSize x,
        s.freeCount (nearPages d) * pageSize, []⟩

/-- Middle-tier pages of a region (R73). -/
def State.takeMiddle (s : State) (bs : List Byte) (t : Taking) (r : Nat × List Byte) : Except Refuse Taking :=
  let d := regDie r.2
  match s.pick t.middle (middlePages d) (fun _ => true) (regPages r.2) with
  | some pages => .ok { t with middle := t.middle ++ pages, regions := t.regions ++ [regionOfRec bs r pages] }
  | none => .error ⟨0x10, 7, 0x03, r.1, d, regSum bs (fun x => regTier x == 1 && regDie x == d) regSize,
      s.freeCount (middlePages d) * pageSize, []⟩

/-- Bytes of the deep tier that are free (R73, R438). -/
def State.deepFree (s : State) : Nat :=
  let used := (s.loadedSlots.filterMap s.image).foldl (fun n im =>
    (im.regions.filter (·.tier = 2)).foldl (fun n r => n + r.size) n) 0
  let objs := s.deep.objects.foldl (fun n o => n + (o.current.map (·.length)).getD 0 + (o.writing.map (·.1.length)).getD 0) 0
  if s.deepPresent then 2 ^ 43 - used - objs else 0

/-- A deep region takes no page yet (R73). -/
def State.takeDeep (s : State) (bs : List Byte) (t : Taking) (r : Nat × List Byte) : Except Refuse Taking :=
  let sum := t.regions.foldl (fun n x => if x.tier = 2 then n + x.size else n) (regSize r.2)
  if sum ≤ s.deepFree then .ok { t with regions := t.regions ++ [regionOfRec bs r []] }
  else .error ⟨0x10, 7, 0x04, r.1, 0, regSum bs (fun x => regTier x == 2) regSize, s.deepFree, []⟩

/-- Key of a 64 KiB unit of die memory in the owner map. -/
def dieUnit (d u : Nat) : Nat := (0x1000_0000_0000 + d * 0x1000_0000) / 2 ^ 16 + u

/-- A die-memory region: at its declared offset where that range is free, else at the lowest that fits (R116). -/
def State.takeDie (s : State) (bs : List Byte) (t : Taking) (r : Nat × List Byte) : Except Refuse Taking :=
  let d := regDie r.2
  let n := regSize r.2 / 2 ^ 16
  let free (u : Nat) : Bool := decide (u < 2048) && s.ownerOf (dieUnit d u) == 0 && !t.die.contains (dieUnit d u)
  let here := regBase r.2 / 2 ^ 16
  let at_ := if (List.range n).all fun i => free (here + i) then some here else freeRun free 2048 n
  match at_ with
  | some u => .ok { t with
      die := t.die ++ (List.range n).map fun i => dieUnit d (u + i)
      regions := t.regions ++ [regionOfRec bs r [u * 2 ^ 16]] }
  | none => .error ⟨0x10, 7, 0x05, r.1, d, regSum bs (fun x => regTier x == 3 && regDie x == d) regSize,
      ((List.range 2048).filter fun u => s.ownerOf (dieUnit d u) == 0).length * 2 ^ 16, []⟩

/-- The regions of a tier in order of their records. -/
def State.takeTier (bs : List Byte) (tier : Nat) (f : Taking → Nat × List Byte → Except Refuse Taking) (t : Taking) :
    Except Refuse Taking :=
  ((recordsAs bs 2).filter fun r => regTier r.2 == tier).foldlM f t

/-- Free entries of the channel directory; free barrier units. -/
def State.freeDirs (s : State) : List Nat := (List.range 32768).filter fun e => !s.flag (aDIR0 e) DIR0.V
def State.unitFree (s : State) (u : Nat) : Bool := !s.flag (aBU0 u) BU0.V

/-- Index of the SYNC record that asks most of a resource. -/
def syncRec (bs : List Byte) (o n : Nat) : Nat :=
  (((recordsAs bs 7).find? fun r => field r.2 o n == syncAsk bs o n).map (·.1)).getD 0xFFFF

/-- Check 7: capacities that do not depend on placement (R73). -/
def State.checkCapacity (s : State) (bs : List Byte) : Except Refuse Taking := do
  let t ← State.takeTier bs 0 (s.takeNear bs) ⟨[], [], [], []⟩
  let t ← State.takeTier bs 1 (s.takeMiddle bs) t
  let t ← State.takeTier bs 2 (s.takeDeep bs) t
  let need := (recordsAs bs 3).length
  if s.freeDirs.length < need then throw ⟨0x10, 7, 0x06, 0xFFFF, 0, need, s.freeDirs.length, []⟩
  if (freeRun s.unitFree 64 (syncAsk bs 4 1)).isNone then
    throw ⟨0x10, 7, 0x09, syncRec bs 4 1, 0, syncAsk bs 4 1, longestRun s.unitFree 64, []⟩
  State.takeTier bs 3 (s.takeDie bs) t

/-! Check 8: placement -/

/-- Unbound active cores, by active-core index. -/
def State.unbound (s : State) : List Nat := (List.range (gradeCores s.grade)).filter fun a => !s.bound a

/-- Sets of cores that a PLACE may use, in the order of the search from cluster b (R67, R72; log 23). -/
def placeSets (r : List Byte) (b : Nat) : List (Nat → Bool) :=
  match field r 6 1 with
  | 3 => [fun c => clusterOfCore c == field r 7 1]
  | 2 => (List.range 72).map fun i => fun c => clusterOfCore c == (b + i) % 72
  | 1 => (List.range 4).map fun i => fun c => dieOfCore c == (b / 18 + i) % 4
  | _ => [fun _ => true]

/-- The first of some free cores go to workload cores. -/
def assign (ws : List Nat) (asg : Tab Nat) (free : List Nat) : Tab Nat × List Nat :=
  ((ws.zip free).foldl (fun t x => tabIns t x.1 x.2) asg, free.filter fun a => !(free.take ws.length).contains a)

/-- The cores of a PLACE are placed in the first set that serves. -/
def State.placeOne (s : State) (b : Nat) (r : List Byte) (asg : Tab Nat) (free : List Nat) : Option (Tab Nat × List Nat) :=
  let ws := (List.range (field r 4 2 + 1 - field r 2 2)).map (field r 2 2 + ·)
  let todo := ws.filter fun w => (tabFind asg w).isNone
  (placeSets r b).findSome? fun p =>
    let here := free.filter fun a => p (s.physOf a)
    if (ws.filterMap (tabFind asg ·)).all (fun a => p (s.physOf a)) ∧ todo.length ≤ here.length then
      let x := assign todo asg here
      some (x.1, free.filter fun a => !(here.take todo.length).contains a)
    else none

/-- PLACE records in the order in which the search serves them: explicit clusters, then one cluster, one die, anywhere. -/
def placeOrder (bs : List Byte) : List (Nat × List Byte) :=
  [3, 2, 1, 0].flatMap fun m => (recordsAs bs 1).filter fun r => field r.2 6 1 == m

/-- The candidate of the search from cluster b: active-core indices by workload core, or the PLACE that cannot be met. -/
def State.candidate (s : State) (bs : List Byte) (b : Nat) : Except Refuse (List Nat) := do
  let k := hdrK bs
  let all := s.unbound
  if all.length < k then throw ⟨0x10, 8, 0x01, 0xFFFF, 0, k, all.length, []⟩
  let free := (all.filter fun a => decide (b ≤ clusterOfCore (s.physOf a))) ++
    all.filter fun a => decide (clusterOfCore (s.physOf a) < b)
  let x ← (placeOrder bs).foldlM (fun (x : Tab Nat × List Nat) r => match s.placeOne b r.2 x.1 x.2 with
    | some y => .ok y
    | none => .error ⟨0x10, 8, 0x01, r.1, 0, field r.2 4 2 + 1 - field r.2 2 2,
        ((placeSets r.2 0).map fun p => (all.filter fun a => p (s.physOf a)).length).foldl max 0, []⟩) (([] : Tab Nat), free)
  let rest := (List.range k).filter fun w => (tabFind x.1 w).isNone
  if x.2.length < rest.length then throw ⟨0x10, 8, 0x01, 0xFFFF, 0, k, all.length, []⟩
  let y := assign rest x.1 x.2
  return (List.range k).map fun w => tabGet 0 y.1 w

/-- Routers of a group's tree with its edges, as port keys, each once (R355). -/
def groupEdges (bs : List Byte) (phys : List Nat) (g : Nat) : List Nat :=
  let at_ (w : Nat) : Nat := coreRouter (phys.getD w 0)
  let ms := groupMembers bs g
  (ms.flatMap fun m => (meshLeg (at_ (ms.foldl min (ms.headD 0))) (at_ m)).ports).dedup
def portNext (p : Nat) : Nat := match p % 32 with
  | 0 => p / 32 + 1
  | 1 => p / 32 - 1
  | 2 => p / 32 + 6
  | _ => p / 32 - 6
def groupRouters (bs : List Byte) (phys : List Nat) (g : Nat) : List Nat :=
  let ms := groupMembers bs g
  (coreRouter (phys.getD (ms.foldl min (ms.headD 0)) 0) :: (groupEdges bs phys g).map portNext).dedup

/-- Free group entries of a router's table. -/
def State.freeGroups (s : State) (r : Nat) : List Nat :=
  (List.range 64).filter fun i => !s.flag (aGENT (clusterOfRouter r) i) GENT.V

/-- Whether a counter of a cluster is free, or held by one slot. -/
def State.counterFree (s : State) (but : Option Nat) (k i : Nat) : Bool :=
  (List.range 16).all fun j => some j == but ||
    !(let b := s.fld (aSALLOC k j) SALLOC.BASE
      decide (b ≤ i ∧ i < b + s.fld (aSALLOC k j) SALLOC.COUNT))

/-- Whether a DMA channel is free, or held by one slot. -/
def State.dmaFree (s : State) (but : Option Nat) (ch : Nat) : Bool :=
  !s.flag (aDMA_OWN ch) DMA_OWN.V || some (s.fld (aDMA_OWN ch) DMA_OWN.SLOT) == but

/-- The tables that an image's regions need: its 64 GiB ranges (R107). -/
def l1Of (bs : List Byte) : List Nat :=
  ((recordsAs bs 2).flatMap fun r => if regTier r.2 = 3 then [] else
    (List.range ((regBase r.2 + regSize r.2 - 1) / 2 ^ 36 + 1 - regBase r.2 / 2 ^ 36)).map (regBase r.2 / 2 ^ 36 + ·)).dedup
def ptCount (bs : List Byte) : Nat := 1 + ceilDiv ((l1Of bs).length - 7) 8

/-- A candidate's rails meet the floor (R74). -/
def State.checkFloor (s : State) (im : Image) : Option Refuse :=
  let need := ceilDiv (im.floor * 103) 100
  im.rails.findSome? fun r =>
    let bad := s.flag (aGOV_STAT r) GOV_STAT.BREACH || s.fld (aGOV_STAT r) GOV_STAT.BLOCKED_WIN != 0
    let pace := tabGet 0 s.mgmt.pacemax r
    if bad || decide (pace < need) then
      some ⟨0x13, 8, 0x20, 0xFFFF, if r < 72 then r else 0x100 + (r - 72), need, if bad then 0 else pace, []⟩
    else none

/-- Check 8 of a placement: page-table space, counters, DMA channels, group entries, floor (R72-R74). DESIGN CHOICE: where a router's
group entries run short, the GROUP record named is that of the first group through the router (log 30). `but`: the slot whose own
reservations count as free; `near`: pages the image's regions take. -/
def State.checkPlace (s : State) (bs : List Byte) (im : Image) (but : Option Nat) (near : List Nat) : Option Refuse :=
  let d := dieOfCore (im.bindPhys.headD 0)
  let free := ((nearPages d).filter fun g => s.freePage g && !near.contains g && !s.ilv.contains g).length
  let nc := syncAsk bs 2 2
  let nd := syncAsk bs 5 1
  firstOf [
    if but.isSome ∨ ptCount bs ≤ free then none
      else some ⟨0x10, 8, 0x02, 0xFFFF, d, ptCount bs * pageSize, free * pageSize, []⟩,
    im.coreClusters.findSome? fun k =>
      if (freeRun (s.counterFree but k) 256 nc).isSome then none
      else some ⟨0x10, 8, 0x08, syncRec bs 2 2, k, nc, longestRun (s.counterFree but k) 256, []⟩,
    im.coreDies.findSome? fun e =>
      let f (n : Nat) : Bool := s.dmaFree but (e * 32 + n)
      if (freeRun f 32 nd).isSome then none else some ⟨0x10, 8, 0x0A, syncRec bs 5 1, e, nd, longestRun f 32, []⟩,
    let gs := groupIds bs
    (List.range 72).findSome? fun r =>
      let mine := gs.filter fun g => (groupRouters bs im.bindPhys g).contains r
      let held := (List.range 64).filter fun i =>
        some (s.fld (aGENT (clusterOfRouter r) i) GENT.SLOT) == but && s.flag (aGENT (clusterOfRouter r) i) GENT.V
      let free := (s.freeGroups r).length + held.length
      if mine.length ≤ free then none
      else some ⟨0x10, 8, 0x07, (((recordsAs bs 5).find? fun x => some (field x.2 2 2) == mine.head?).map (·.1)).getD 0xFFFF, r,
        mine.length, free, []⟩,
    s.checkFloor im]

/-! Checks 9 to 12 -/

/-- The first record whose loads take a total over a limit (R575). DESIGN CHOICE: loads add up with all FLOWs before the CHANNELs,
each in the order of the records (log 31). -/
def culprit (l : List Load) (key : Nat) (past : Nat → Bool) : Nat :=
  let mine := l.filter (·.key = key)
  ((List.range mine.length).find? fun i => past ((mine.take (i + 1)).foldl (fun n x => n + x.rate) 0)).elim 0xFFFF fun i =>
    ((mine[i]?).map (·.rec_)).getD 0xFFFF

/-- Checks 9 to 11 (R75-R77). -/
def State.checkLoads (s : State) (bs : List Byte) (phys : List Nat) (g : Grant) (but : Option Nat) : Option Refuse :=
  let t := s.totals but ⟨[], [], [], []⟩
  let pl := portLoads bs phys
  let port (check limit : Nat) (x : Nat × Nat) : Option Refuse :=
    let held := sumAt t.q x.1
    if held + x.2 ≤ limit then none
    else some ⟨0x12, check, if x.1 < 0x1000 then 0x10 else 0x11,
      culprit pl x.1 fun n => decide (limit < held + quotaOf (hdrFloor bs) n), x.1 % 0x1000, held + x.2, limit, []⟩
  let attach (x : Nat × Nat) : Option Refuse :=
    let held := sumAt t.qa x.1
    let key := x.1 / 2 * 32 + 5 + x.1 % 2
    if held + x.2 ≤ 217 then none
    else some ⟨0x12, 10, 0x10, culprit pl key fun n => decide (217 < held + quotaOf (hdrFloor bs) n), key, held + x.2, 217, []⟩
  let tier (x : Nat × Nat) : Option Refuse :=
    let limit := (if x.1 < 64 then 168960 else 115312) * loadUnit
    let held := s.total (·.rates) but [] x.1
    if held + x.2 ≤ limit then none
    else some ⟨0x12, 11, if x.1 < 64 then 0x12 else 0x13, culprit (tierLoads bs phys) x.1 fun n => decide (limit < held + n),
      if x.1 < 64 then x.1 else x.1 - 64, ceilDiv (held + x.2) loadUnit, limit / loadUnit, []⟩
  firstOf [(g.quotas.filter fun x => decide (0x1000 ≤ x.1 ∨ x.1 % 32 ≤ 4)).findSome? (port 9 54),
    (g.quotas.filter fun x => decide (x.1 < 0x1000 ∧ x.1 % 32 < 4) && isEdge (x.1 / 32)).findSome? (port 10 48),
    g.attach.findSome? attach, g.rates.findSome? tier]

/-- The first of four bounds that exceeds its limit (R84). -/
def overLimit (b : Bounds) (limits : List Nat) : Option (Nat × Nat × Nat × Nat) :=
  ((List.range 4).zip (b.limited.zip limits)).findSome? fun x =>
    if x.2.2 ≠ 0 ∧ x.2.1.1 ≠ noBound ∧ x.2.2 < x.2.1.1 then some (x.1, x.2.1.2, x.2.1.1, x.2.2) else none

/-- Check 12: the image's own bounds, then those of admitted images in ascending slot (R84). -/
def State.checkBounds (s : State) (bs : List Byte) (phys : List Nat) (g : Grant) (but : Option Nat) : Option Refuse :=
  let t := s.totals but g
  firstOf [(overLimit (boundsOf bs phys g t) (hdrLimits bs)).map fun x => ⟨0x13, 12, 0x22, x.2.1, x.1, x.2.2.1, x.2.2.2, []⟩,
    (s.loadedSlots.filter fun k => some k ≠ but).findSome? fun k => match s.image k with
      | some im =>
        (overLimit (boundsOf im.bytes im.bindPhys ⟨im.quotas, im.attach, im.weights, im.rates⟩ t) im.limits).map fun x =>
          ⟨0x13, 12, 0x22, 0xFFFF, im.handle * 16 + x.1, x.2.2.1, x.2.2.2, []⟩
      | none => none]

/-- Checks 8 to 12 of a placement (R72, R87). -/
def State.checkFrom8 (s : State) (bs : List Byte) (im : Image) (but : Option Nat) (near : List Nat) : Option Refuse :=
  let g : Grant := ⟨im.quotas, im.attach, im.weights, im.rates⟩
  firstOf [s.checkPlace bs im but near, s.checkLoads bs im.bindPhys g but, s.checkBounds bs im.bindPhys g but]

/-! The image that a placement gives -/

/-- The image of a declaration on some active cores: not yet given a handle, tables or entries. -/
def State.imageOn (s : State) (bs : List Byte) (bind : List Nat) (regions : List Region) : Image :=
  let phys := bind.map s.physOf
  let g := grantOf bs phys
  { handle := 0, owner := none, state := .loaded, elastic := hdrElastic bs, static := hdrStatic bs, floor := hdrFloor bs
    k := hdrK bs, bytes := bs, bind := bind, bindPhys := phys, regions := regions
    ptBlocks := [], ptUsed := []
    barriers := ((freeRun s.unitFree 64 (syncAsk bs 4 1)).getD 0, syncAsk bs 4 1)
    quotas := g.quotas, attach := g.attach, weights := g.weights, rates := g.rates
    limits := hdrLimits bs, startCmd := none, stopCmds := [], windows := 0, invocations := 0, ending := .none
    firstFault := none, breach := false, lastStatus := 0, lastDetail := 0, lastResult := zeros 16, probe := none }

/-- The search's verdict: the first candidate that passes, else the refusal of the first that reached the highest check
(R72). DESIGN CHOICE: an image without a PLACE record has one candidate, as one whose every PLACE is in mode 0x03 (log 35). -/
def State.search (s : State) (bs : List Byte) (t : Taking) : Except Refuse Image :=
  let starts := if (recordsAs bs 1).all fun r => field r.2 6 1 == 3 then [0] else List.range 72
  let r := starts.foldl (fun (x : Option Image × Option Refuse) b =>
    if x.1.isSome then x
    else
      let verdict : Image ⊕ Refuse := match s.candidate bs b with
        | .error e => .inr e
        | .ok bind =>
          let im := s.imageOn bs bind t.regions
          match s.checkFrom8 bs im none t.near with
          | some e => .inr e
          | none => .inl im
      match verdict, x.2 with
      | .inl im, _ => (some im, none)
      | .inr e, some f => (none, some (if f.check < e.check then e else f))
      | .inr e, none => (none, some e)) (none, none)
  match r with
  | (some im, _) => .ok im
  | (none, some e) => .error e
  | (none, none) => .error ⟨0x10, 8, 0x01, 0xFFFF, 0, hdrK bs, 0, []⟩

/-- Admission's checks of an image (R72). -/
def State.judgeImage (s : State) (bs : List Byte) : Except Refuse (Image × Taking) := do
  match firstOf [checkForm bs, s.checkPower bs, s.checkFormat bs, s.checkLoaded bs, checkGraph bs, s.checkDeep bs] with
  | some e => throw e
  | none =>
    let t ← s.checkCapacity bs
    let im ← s.search bs t
    return (im, t)

end Sys2Proof.Machine
end

