-- ==== Sys2Proof/Machine/Load.lean ====
section
/-! DEFINITION. LOAD_IMAGE and admission (R58-R62, R85, R107, R115-R118, R472), START (R86, R87, R195-R197, R318) and UNLOAD
(R467). -/

namespace Sys2Proof.Machine

/-! Contents -/

/-- Bytes with parts laid over zeros. -/
def overlay (n : Nat) (parts : List (Nat × List Byte)) : List Byte :=
  parts.foldl (fun b p => (b.take p.1 ++ p.2 ++ b.drop (p.1 + p.2.length)).take n) (zeros n)

/-- Sections of a type for a workload core, as parts; sections of a region (R472). -/
def corePart (bs : List Byte) (type w : Nat) : List (Nat × List Byte) :=
  ((sectionsOf bs).filter fun e => secType e == type && secCores e w).map fun e => (field e 0x18 8, secBytes bs e)
def regionPart (bs : List Byte) (rid : Nat) : List (Nat × List Byte) :=
  ((sectionsOf bs).filter fun e => secType e == 1 && field e 2 2 == rid).map fun e => (field e 0x18 8, secBytes bs e)

/-- What page i of a region holds at admission, by offset, bytes other than 0; none where no section reaches it (R117). -/
def pagePart (bs : List Byte) (rid i : Nat) : Option (List (Nat × Byte)) :=
  let hit := (regionPart bs rid).filter fun p => decide (p.1 < (i + 1) * pageSize ∧ i * pageSize < p.1 + p.2.length)
  if hit.isEmpty then none
  else some (((List.range pageSize).zip (((overlay ((i + 1) * pageSize) hit).drop (i * pageSize)))).filter fun x => x.2 != 0)

/-- Words of a pinned instruction memory. -/
def imemOf (bytes : List Byte) : Tab Word :=
  (((List.range 8192).foldl (fun (x : List Byte × List (Nat × Word)) i => (x.1.drop 8, (i, wordOf (x.1.take 8) 0) :: x.2)) (bytes, [])).2.filter
    fun x => x.2 != 0).reverse

/-- Memory of one owner is filled: `n` bytes from an address are 0 but for the parts laid over them; words written whole lose their
poison, but failed storage keeps it (R117, R311). -/
def State.fillRange (s : State) (a n : Nat) (parts : List (Nat × List Byte)) : State × MemUpd :=
  let here (x : Nat) : Bool := decide (a ≤ x ∧ x < a + n)
  (s, ⟨false, ((s.mem.filter fun x => here x.1).map fun x => (x.1, 0)) ++
    parts.flatMap (fun p => ((List.range p.2.length).zip p.2).filterMap fun x => if p.1 + x.1 < n then some (a + p.1 + x.1, x.2) else none),
    ((s.poison.filter fun w => here (8 * w)).map fun w => (w, false)) ++ ((s.failed.filter fun w => here (8 * w)).map fun w => (w, true))⟩)

/-! Control space of an image -/

/-- The entry of a handle declaration, words 0 and 1 (R115). -/
def Image.handleEntry (im : Image) (c : Nat) (d : List Byte) : Word × Word :=
  let o := field d 8 8
  let region := im.regions.find? fun r => r.rid == field d 4 2
  let base := match field d 1 1 with
    | 1 => (region.map (·.base)).getD 0
    | 2 => (region.map fun r => 0x1000_0000_0000 + r.die * 0x1000_0000 + r.pages.headD 0).getD 0
    | 3 => coreMemBase (im.bindPhys.getD (field d 4 2) 0)
    | 4 => if im.owner = some 1 then 0x3000_0000_0000 else 0x2000_0000_0000
    | _ => coreBlk c
  (BitVec.ofNat 64 ((base + o) % 2 ^ 48 + field d 1 1 * 2 ^ 48 + field d 2 1 * 2 ^ 51),
    HANDLE1.LIMIT.put 0 (field d 0x10 8 - 1))

/-- The handle table of a core (R115). -/
def State.putHandles (s : State) (im : Image) (c w : Nat) : State :=
  let s := s.forAll (List.range 64) fun s h => (s.setReg (aHANDLE0 c h) 0).setReg (aHANDLE1 c h) 0
  s.forAll (((sectionsOf im.bytes).filter fun e => secType e == 4 && secCores e w).flatMap fun e => handlesOf im.bytes e) fun s d =>
    let x := im.handleEntry c d.2
    (s.setReg (aHANDLE0 c (field d.2 0 1)) x.1).setReg (aHANDLE1 c (field d.2 0 1)) x.2

/-- The queues of a core (R344, R351). -/
def State.putQueues (s : State) (im : Image) (c w : Nat) : State :=
  s.forAll queues fun s q => match queueRec im.bytes w q with
    | none => s.setReg (aQCFG c q) 0
    | some r =>
      let v := QCFG.READER.put (QCFG.DECL.put 0 1) (quReader r.2)
      let v := QCFG.NPER.put (QCFG.ELEMS.put (QCFG.COMB.put v (quComb r.2)) (quElems r.2)) (quNper r.2)
      s.setReg (aQCFG c q) (QCFG.INBOUND.put v (inboundOf im.bytes w q).length)

/-- A core's translation, maps, handles and queues (R105, R107, R115, R376). -/
def State.putCore (s : State) (slot : Nat) (im : Image) (c w : Nat) : State :=
  let s := s.setReg (aTR_ROOT c) (TR_ROOT.ROOT.put (TR_ROOT.EN.put 0 1) (im.ptBlocks.headD 0 * pageSize / 2 ^ 15))
  let s := s.setReg (aBAR_MAP c) (BAR_MAP.COUNT.put (BAR_MAP.BASE.put 0 im.barriers.1) im.barriers.2)
  let mine := (List.range 32).filter fun n => s.flag (aDMA_OWN (dieOfCore c * 32 + n)) DMA_OWN.V &&
    s.fld (aDMA_OWN (dieOfCore c * 32 + n)) DMA_OWN.SLOT == slot
  let s := s.setReg (aDMA_MAP c) (DMA_MAP.COUNT.put (DMA_MAP.BASE.put 0 (mine.headD 0)) mine.length)
  (s.putHandles im c w).putQueues im c w

/-- The handler table of a core (R349). -/
def State.putHandlers (s : State) (im : Image) (c w : Nat) : State :=
  let t := ((corePart im.bytes 5 w).head?.map (·.2)).getD []
  s.forAll (List.range 64) fun s h => s.setReg (aHENT c h) (fieldsRead HENT (wordOf t h))

/-- Credits of a channel into a queue (R340), and of a channel (R340, R354). -/
def creditsAt (bs : List Byte) (w q i : Nat) : Nat :=
  let l := inboundOf bs w q
  32 / l.length + if l.findIdx (· = i) < 32 % l.length then 1 else 0
def creditsOf (bs : List Byte) (i : Nat) (r : List Byte) : Nat :=
  if chKind r = 1 then 1
  else ((chTargets bs r).map fun w => creditsAt bs w (chQueue r) i).foldl min 32

/-- The channel directory of an image (R337-R340). -/
def State.putChannels (s : State) (slot : Nat) (im : Image) : State :=
  s.forAll ((recordsAs im.bytes 3).zip s.freeDirs) fun s x =>
    let (r, e) := x
    let at_ (w : Nat) : Nat := im.bindPhys.getD w 0
    let w := DIR0.SLOT.put (DIR0.KIND.put (DIR0.V.put 0 1) (chKind r.2)) slot
    let w := DIR0.SRC.put (DIR0.GUAR.put (DIR0.THREAD.put w (chThr r.2)) (b2n !im.elastic)) (at_ (chSrc r.2))
    let w := DIR0.DST.put (DIR0.QUEUE.put w (chQueue r.2)) (if chKind r.2 = 2 then chDst r.2 else at_ (chDst r.2))
    let w := DIR0.INFL.put (DIR0.DST_W.put w (chDst r.2)) (chInfl r.2)
    let n := creditsOf im.bytes r.1 r.2
    (s.setReg (aDIR0 e) (DIR0.CRED.put w n)).setReg (aDIR1 e) (DIR1.AVAIL.put 0 n)

/-- The group table entries of an image, in every router of each tree (R73, R355). -/
def State.putGroups (s : State) (slot : Nat) (im : Image) : State :=
  s.forAll (groupIds im.bytes) fun s g =>
    let es := groupEdges im.bytes im.bindPhys g
    let root := (groupRouters im.bytes im.bindPhys g).headD 0
    let members := (groupMembers im.bytes g).map fun w => im.bindPhys.getD w 0
    s.forAll (groupRouters im.bytes im.bindPhys g) fun s r =>
      match (s.freeGroups r).head? with
      | none => s
      | some i =>
        let down := (es.filter fun p => p / 32 == r).foldl (fun n p => n + 2 ^ (p % 32)) 0
        let cores := (members.filter fun c => coreRouter c == r).foldl (fun n c => n ||| 2 ^ inCluster c) 0
        let up := ((es.find? fun p => portNext p == r).map fun p => [1, 0, 3, 2].getD (p % 32) 7).getD 7
        let w := GENT.GROUP.put (GENT.SLOT.put (GENT.V.put 0 1) slot) g
        let w := GENT.CORES.put (GENT.ROOT.put (GENT.DOWN.put w down) (b2n (r == root))) cores
        s.setReg (aGENT (clusterOfRouter r) i) (GENT.UP.put w (if r = root then 7 else up))

/-- Counters, barrier units and DMA channels of an image, in runs (R73, R376). -/
def State.putRuns (s : State) (slot : Nat) (im : Image) : State :=
  let nc := syncAsk im.bytes 2 2
  let nd := syncAsk im.bytes 5 1
  let s := s.forAll im.coreClusters fun s k =>
    if nc = 0 then s
    else
      let b := (freeRun (s.counterFree none k) 256 nc).getD 0
      (s.setReg (aSALLOC k slot) (SALLOC.COUNT.put (SALLOC.BASE.put 0 b) nc)).forAll (List.range nc) fun s i =>
        s.setReg (aSCNT k (b + i)) (SCNT.ALLOC.put (SCNT.SLOT.put 0 slot) 1)
  let s := s.forAll (List.range im.barriers.2) fun s i =>
    s.setReg (aBU0 (im.barriers.1 + i)) (BU0.INDEX.put (BU0.SLOT.put (BU0.V.put 0 1) slot) i)
  s.forAll im.coreDies fun s d =>
    let b := (freeRun (fun n => s.dmaFree none (d * 32 + n)) 32 nd).getD 0
    s.forAll (List.range nd) fun s j =>
      s.setReg (aDMA_OWN (d * 32 + b + j)) (DMA_OWN.INDEX.put (DMA_OWN.SLOT.put (DMA_OWN.V.put 0 1) slot) j)

/-- Everything of an image in control space but its handler tables. -/
def State.putControl (s : State) (slot : Nat) (im : Image) : State :=
  let s := ((s.putRuns slot im).putChannels slot im).putGroups slot im
  s.forAll (im.bindPhys.zip (List.range im.k)) fun s x => s.putCore slot im x.1 x.2

/-- An image's entries in control space are cleared. -/
def State.clearControl (s : State) (slot : Nat) (im : Image) : State :=
  let s := s.forAll (s.imageDmas (Fin.ofNat 16 slot)) fun s ch =>
    ((([aDMA_OWN ch, aDMA_CTRL ch, aDMA_STAT ch, aDMA_PROG ch, aDMA_PC ch, aDMA_SA ch, aDMA_DA ch, aDMA_LC ch 0, aDMA_LC ch 1,
      aDMA_LC ch 2, aDMA_LC ch 3, aDMA_CQBASE ch, aDMA_CQSEQ ch, aDMA_ERR ch, aDMA_ERRADDR ch, aDMA_CNT ch]).foldl
      (fun s a => s.setReg a (resetAt a)) s).modDma ch fun _ => Dma.reset).dmaForget ch fun _ => true
  let s := s.forAll (s.imageChannels slot) fun s e => (s.setReg (aDIR0 e) 0).setReg (aDIR1 e) 0
  let s := s.forAll (List.range 72) fun s k =>
    let s := s.forAll (List.range (s.fld (aSALLOC k slot) SALLOC.COUNT)) fun s i => s.setReg (aSCNT k (s.fld (aSALLOC k slot) SALLOC.BASE + i)) 0
    let s := s.setReg (aSALLOC k slot) (resetAt (aSALLOC k slot))
    s.forAll (List.range 64) fun s i =>
      if s.flag (aGENT k i) GENT.V && s.fld (aGENT k i) GENT.SLOT == slot then s.setReg (aGENT k i) (resetAt (aGENT k i)) else s
  let s := s.forAll (List.range im.barriers.2) fun s i =>
    let u := im.barriers.1 + i
    (((s.setReg (aBU0 u) 0).setReg (aBU1 u) 0).setMask (aARR u) fun _ => false).setMask (aMASK u) fun _ => false
  s.forAll im.bindPhys fun s c =>
    let s := [aTR_ROOT c, aTR_INV c, aTR_STAT c, aBAR_MAP c, aDMA_MAP c].foldl (fun s a => s.setReg a (resetAt a)) s
    let s := s.forAll (List.range 64) fun s h => (s.setReg (aHANDLE0 c h) 0).setReg (aHANDLE1 c h) 0
    s.forAll (List.range 8) fun s q => (s.setReg (aQCFG c q) 0).setReg (aQCNT c q) 0

/-! Memory of an image -/

/-- The page-table blocks of an image and its level-2 tables by level-1 index (R107). -/
def State.tables (s : State) (im : Image) (near : List Nat) : Image :=
  let d := dieOfCore (im.bindPhys.headD 0)
  let blocks := ((s.nearOrder near d).filter fun g => s.freePage g && !near.contains g && !s.ilv.contains g).take (ptCount im.bytes)
  let l1 := l1Of im.bytes
  let addr (n : Nat) : Nat := if n < 7 then blocks.headD 0 * pageSize + 0x8000 + n * 0x4_0000
    else blocks.getD (1 + (n - 7) / 8) 0 * pageSize + (n - 7) % 8 * 0x4_0000
  { im with ptBlocks := blocks, ptUsed := ((List.range l1.length).zip l1).foldl (fun t x => tabIns t x.2 (addr x.1)) [] }

/-- The level-1 entries are written in blocks filled with zeros (R106, R107). -/
def State.putTables (s : State) (im : Image) : State × MemUpd :=
  andThen (s.eachMem im.ptBlocks fun s g => (s.setOwner g 3).fillPage g []) fun s =>
    s.eachMem im.ptUsed fun s x => s.putTable (im.ptBlocks.headD 0 * pageSize + x.1 * 8) (x.2 + 1)

/-- A page of a region at admission: present with its content where it is pinned or a section reaches it, else to be paged in;
deep content is written to the deep tier (R117, R118, R433). -/
def State.fillRegionPage (s : State) (slot : Nat) (im : Image) (r : Region) (i : Nat) : State × MemUpd :=
  let vpn := r.base / pageSize + i
  let part := pagePart im.bytes r.rid i
  if r.tier = 2 then
    let s := match part with
      | some c => s.modDeep fun d => { d with pages := tabIns d.pages (dmaKey slot vpn) c }
      | none => s
    s.putPte im r vpn none
  else if r.attrs % 2 = 1 ∨ part.isSome then
    let g := r.pages.getD i 0
    andThen (s.fillPage g (part.getD [])) fun s => (s.setOwner g (16 + slot)).putPte im r vpn (some g)
  else s.putPte im r vpn none

/-- A region is given to its image and filled (R117). -/
def State.fillRegion (s : State) (slot : Nat) (im : Image) (r : Region) : State × MemUpd :=
  if r.tier = 3 then
    let o := r.pages.headD 0
    let s := s.forAll (List.range (r.size / 2 ^ 16)) fun s u => s.setOwner (dieUnit r.die (o / 2 ^ 16 + u)) (16 + slot)
    s.fillRange (0x1000_0000_0000 + r.die * 0x1000_0000 + o) r.size (regionPart im.bytes r.rid)
  else s.eachMem (List.range (r.size / pageSize)) fun s i => s.fillRegionPage slot im r i

/-- The core memory and pinned instruction memory of a core are filled, and nothing else of the core stands (R117). -/
def State.fillCore (s : State) (im : Image) (c w : Nat) : State × MemUpd :=
  let s := s.setCore c { Core.reset with
    imem := imemOf (overlay 0x1_0000 (corePart im.bytes 3 w)), imemPoison := s.imemBad c, nextKey := (s.core c).nextKey }
  s.fillRange (coreMemBase c) 0x8_0000 (corePart im.bytes 2 w)

/-- Numbers entered into a rising list. -/
def insertAll (l new : List Nat) : List Nat :=
  new.foldl (fun l x => (l.filter (· < x)) ++ x :: l.filter (x < ·)) l

/-- An admitted image holds all it declared: slot and handle, pages and tables, cores, entries (R58, R96, R97, R117, R458). -/
def State.install (s : State) (slot : Nat) (port : Port) (im : Image) (t : Taking) : State × MemUpd :=
  let gen := tabGet 0 s.gens slot + 1
  let gen := if 0xFF_FFFF < gen then 1 else gen
  let im := { s.tables im t.near with handle := gen * 16 + slot, owner := some port }
  let wide := (im.regions.filter fun r => r.tier == 0 && bit r.attrs 1).flatMap (·.pages)
  let s := { s with gens := tabIns s.gens slot gen, ilv := insertAll s.ilv wide }
  let s := s.forAll im.coreClusters fun s k => s.setFld (aGOV_SET k) GOV_SET.GATE 0
  let s := (s.setImage slot (some im)).putControl slot im
  let s := s.forAll (im.bindPhys.zip (List.range im.k)) fun s x => s.putHandlers im x.1 x.2
  andThen (andThen (s.putTables im) fun s => s.eachMem im.regions fun s r => s.fillRegion slot im r) fun s =>
    s.eachMem (im.bindPhys.zip (List.range im.k)) fun s x => s.fillCore im x.1 x.2

/-! LOAD_IMAGE and ADMISSION -/

/-- The LOAD_IMAGE that Ahnal takes next: the oldest of the port whose turn it is (R61). -/
def State.nextLoad (s : State) : Option Claimed :=
  let l (p : Port) : Option Claimed := s.claimed.find? fun q => q.port == p && pkOp q.packet == 0x0010 && !q.begun
  (l (1 - s.lastLoadPort)).or (l s.lastLoadPort)

/-- LOAD_IMAGE: the image is read, once, from the host or from the image store (R58, R61, R472). -/
def execLoadImage (k : Nat) (bytes : HostData) (s : State) : Out :=
  s.done (match s.cmdReady k 0x0010 with
    | none => s
    | some q =>
      if s.loading.isSome ∨ (s.nextLoad.map (·.id)) ≠ some k then s
      else
        let n := pkArg q.packet 8 8
        let take (bs : List Byte) : State := { (s.claimBegun k) with loading := some (k, bs), lastLoadPort := q.port }
        let fail (s : State) (detail : Nat) : State := { (s.finalReply k 0x22 detail []) with lastLoadPort := q.port }
        if pkArg q.packet 0x18 1 = 1 then
          match (s.deep.objects.find? fun o => o.obj == pkArg q.packet 0 4).bind (·.current) with
          | some bs => if n ≤ bs.length then take (bs.take n) else fail s 0x0007
          | none => fail s 0x0007
        else match bytes with
          | .data bs => if bs.length = n then take bs else fail s 0x0008
          | _ => fail (s.hostReadFailed q.port bytes) 0x0008)

/-- ADMISSION: the image read is admitted whole or refused whole; its record is written before the final reply (R58-R62, R72,
R85). -/
def execAdmission (s : State) : Out :=
  s.doneMem (match s.loading with
    | none => (s, .none)
    | some (k, bs) =>
      let s := { s with loading := none }
      match s.claim? k with
      | none => (s, .none)
      | some q =>
        let buf := pkArg q.packet 0x10 8
        match s.judgeImage bs with
        | .error e => ((s.hostWrite q.port buf e.bytes false).finalReply k e.status (0x0100 + e.check) [], .none)
        | .ok (im, t) =>
          match (List.range 16).find? fun i => (s.image i).isNone with
          | none => (s, .none)
          | some slot =>
            andThen (s.install slot q.port im t) fun s =>
              match s.image slot with
              | none => (s, .none)
              | some im =>
                let s := s.hostWrite q.port buf (boundsRecord im.handle im.bytes (s.boundsNow im)) false
                let s := s.modRing q.port q.ring fun r => { r with last := some im.handle }
                (s.finalReply k 0 0 (toBytes 4 im.handle), .none))

/-! START -/

/-- Spares for the retired cores of an image, by active-core index (R520). -/
def State.substitutes (s : State) (im : Image) : List (Nat × Nat) :=
  ((s.mgmt.pendingSub.filter im.bind.contains).foldl (fun (r : State × List (Nat × Nat)) a =>
    match r.1.goodSpare (r.1.physOf a) with
    | some e => (r.1.setCoreStatus e 0, r.2 ++ [(a, e)])
    | none => r) (s, [])).2

/-- A retired core's memories are copied to its spare, poison with them, and its handler table; the map follows (R9, R318,
R520). -/
def State.moveCore (s : State) (a e : Nat) : State × MemUpd :=
  let c := s.physOf a
  let old := s.core c
  let s := s.setCore e { Core.reset with imem := old.imem, imemPoison := old.imemPoison ++ s.imemBad e, nextKey := (s.core e).nextKey }
  let s := s.forAll (List.range 64) fun s h => (s.setReg (aHENT e h) (s.reg (aHENT c h))).setReg (aHENT c h) 0
  let u := (List.range 0x8_0000).map fun i => (coreMemBase e + i, memByte s.mem (coreMemBase c + i), s.badByte (coreMemBase c + i))
  ((s.substitute a e).writeHome u)

/-- Of some clusters, those with no core bound to a loaded image have no ceiling, and in Autumn are gated (R31, R38). -/
def State.leaveClusters (s : State) (ks : List Nat) : State :=
  s.forAll ks fun s k =>
    if (List.range 16).any fun i => (s.image i).any fun x => x.coreClusters.contains k then s
    else
      let s := s.setFld (aGOV_SET k) GOV_SET.CEIL 0
      if s.pstate = 1 then s.setGate k true else s

/-- Sparing takes effect on an image: memories, binding, entries, reservations (R87, R115, R318). -/
def State.respare (s : State) (slot : Nat) (im new : Image) (subs : List (Nat × Nat)) : State × MemUpd :=
  let s := s.clearControl slot im
  andThen (s.eachMem subs fun s x => s.moveCore x.1 x.2) fun s =>
    let s := s.forAll new.coreClusters fun s k => s.setFld (aGOV_SET k) GOV_SET.GATE 0
    (((s.setImage slot (some new)).putControl slot new).leaveClusters im.coreClusters, .none)

/-- The contents of pinned near and middle pages without RES are unspecified at a START after the first (R117; log 24). -/
def State.loseContents (s : State) (im : Image) : State × MemUpd :=
  s.eachMem (im.regions.filter fun r => decide (r.tier ≤ 1) && bit r.attrs 0 && !bit r.attrs 2 && im.invocations != 0) fun s r =>
    s.eachMem (r.pages.take (r.size / pageSize)) fun s g =>
      let x := (List.range pageSize).foldl (fun (y : State × List (Nat × Byte × Bool)) i =>
        let v := y.1.draw
        (v.2, (g * pageSize + i, v.1.setWidth 8, false) :: y.2)) (s, [])
      x.1.writeHome x.2

/-- START is accepted: floors written, STARTING (R86, R467). -/
def State.accept (s : State) (k slot : Nat) : State :=
  match s.image slot with
  | none => s
  | some im =>
    let s := s.setImage slot (some { im with
      state := .starting, invocations := im.invocations + 1, startCmd := some k, windows := 0, firstFault := none, breach := false })
    (s.claimBegun k).writeFloors im.rails

/-- START ends without an invocation: it counts, and its outcome is kept for STATUS (R318, R468, R475). -/
def State.startFails (s : State) (k : Nat) (slot : Slot) (im : Image) (status detail : Nat) : State :=
  s.endInvocation slot { im with invocations := im.invocations + 1, startCmd := some k, firstFault := none, breach := false } status detail

/-- Whether sparing takes a core whose memories cannot be read, and the refill of the spares' memories from the image's sections, by
active-core index (R318). -/
def State.unreadableSubs (s : State) (subs : List (Nat × Nat)) : List Nat := (subs.filter fun x => s.unreadable.contains (s.physOf x.1)).map (·.1)
def State.refill (s : State) (im : Image) (as : List Nat) : State × MemUpd :=
  s.eachMem ((im.bind.zip (im.bindPhys.zip (List.range im.k))).filter fun x => as.contains x.1) fun s x => s.fillCore im x.2.1 x.2.2

/-- START: the image must be LOADED; substitutions are made, with checks 8 to 12 again; floors are written, and the invocation
begins once they are met; where a retired core's memories cannot be read it ends FAULTED (R86, R87, R318, R467, R468, R520). DESIGN CHOICE: an Elastic image's checks are repeated too (log 34),
and a START taken up on the way into Winter goes on (log 26). It waits while a bound core that has locked up is not yet in service
again. -/
def execStart (k : Nat) (s : State) : Out :=
  s.doneMem (s.onImage k 0x0011 fun _ slot im =>
    if im.state ≠ .loaded then (s.finalReply k 0x10 0x0006 [], .none)
    else if im.bindPhys.any fun c => (s.core c).lock ≠ 0 then (s, .none)
    else
      let subs := s.substitutes im
      if subs.isEmpty then andThen (s.loseContents im) fun s => (s.accept k slot, .none)
      else
        let phys := im.bind.map fun a => (tabFind subs a).getD (s.physOf a)
        let g := grantOf im.bytes phys
        let new := { im with bindPhys := phys, quotas := g.quotas, attach := g.attach, weights := g.weights, rates := g.rates }
        match s.checkFrom8 im.bytes new (some slot.val) [] with
        | some e => (s.startFails k slot im e.status (0x0100 + e.check), .none)
        | none =>
          let lost := s.unreadableSubs subs
          andThen (s.respare slot im new subs) fun s =>
            if lost.isEmpty then andThen (s.loseContents new) fun s => (s.accept k slot, .none)
            else andThen (s.refill new lost) fun s => (s.startFails k slot new 0x30 0, .none))

/-! UNLOAD -/

/-- The flash operations left when an image goes: its page operations go with it (R58, R435). -/
def opsWithout (slot : Nat) (ops : List (Nat × List FlashOp)) : List (Nat × List FlashOp) :=
  ops.filterMap fun x =>
    let l := x.2.filter fun o => match o with
      | .pageIn k _ | .pageOut k _ => k.val != slot
      | .save _ => true
    if l.isEmpty then none else some (x.1, l)

/-- What an image held is free (R58, R61, R467). -/
def State.free_ (s : State) (slot : Nat) (im : Image) : State :=
  let mine (o : Nat) : Bool := o == 16 + slot
  let s := { s with
    owner := s.owner.filter fun x => !mine x.2 && !im.ptBlocks.contains x.1
    ilv := s.ilv.filter fun g => !(im.regions.any fun r => r.tier == 0 && bit r.attrs 1 && r.pages.contains g)
    dmaTlb := s.dmaTlb.map fun (x : Nat × Tab (Option Word)) => (x.1, x.2.filter fun e => e.1 / 2 ^ 27 != slot) }
  let s := s.modDeep fun d => { d with
    pages := d.pages.filter fun x => x.1 / 2 ^ 27 != slot
    frames := d.frames.filter fun f => f.1 != slot
    pageIns := d.pageIns.filter fun e => e.slot.val != slot
    pageOuts := d.pageOuts.filter fun e => e.1 != slot
    ops := opsWithout slot d.ops }
  let s := s.clearControl slot im
  let s : State := { s with
    msgs := s.msgs.filter fun m => m.slot ≠ slot, sync := s.sync.filter fun x => x.slot ≠ slot }
  let s := s.forAll im.bindPhys fun s c =>
    let s := s.forAll (List.range 64) fun s h => s.setReg (aHENT c h) 0
    s.setCore c { Core.reset with nextKey := (s.core c).nextKey }
  s.setImage slot none

/-- Pending substitutions of indices no longer bound are made (R520), and the clusters left are treated so (R31, R38). -/
def State.afterUnload (s : State) (im : Image) : State :=
  let s := s.leaveClusters im.coreClusters
  s.forAll (s.mgmt.pendingSub.filter im.bind.contains) fun s a => match s.goodSpare (s.physOf a) with
    | some e => s.substitute a e
    | none => s

/-- UNLOAD: requires LOADED (R467). -/
def execUnload (k : Nat) (s : State) : Out :=
  s.doneMem (s.onImage k 0x0013 fun _ slot im =>
    if im.state ≠ .loaded then (s.finalReply k 0x10 0x0006 [], .none)
    else (((s.free_ slot im).afterUnload im).finalReply k 0 0 [], .none))

end Sys2Proof.Machine
end

