-- ==== Sys2Proof/Machine/Grants.lean ====
section
/-! DEFINITION. Output ports of routers and crossbars: grants in priority order, the quotas of a frame, and the attachment ports of
the edge routers (R76, R79, R80, R355). -/

namespace Sys2Proof.Machine

/-- The key of a port (log 22). -/
def portKey : RPort → Nat
  | .router k port => rKey (routerOf k.val) port.val
  | .crossbar d port => xKey d.val port.val

/-- Grants in a frame of a port: 64, at an attachment port 256 (R76, R79). -/
def frameOf (p : Nat) : Nat := if isAttach p then 256 else 64

/-- The quota of an image at a port; none where the slot holds no Guaranteed image. -/
def State.quotaAt (s : State) (p slot : Nat) : Nat :=
  match s.image slot with
  | none => 0
  | some im => if im.elastic then 0 else if isAttach p then tabGet 0 im.attach (p / 32 * 2 + (p % 32 - 5)) else tabGet 0 im.quotas p

/-- An arbiter at the start of a frame. -/
def Arb.fresh : Arb := ⟨[], 0, (0, 0, 0), none⟩

/-- The arbiter of a port. -/
def State.arb (s : State) (p : Nat) : Arb := tabGet Arb.fresh s.arbs p

/-- Quota left to a slot in the frame (R79). -/
def State.quotaLeft (s : State) (p slot : Nat) : Nat := (tabFind (s.arb p).quota slot).getD (s.quotaAt p slot)

/-- Whether a flit's image has quota left at the port. -/
def State.within (s : State) (p : Nat) (f : Flit) : Bool := f.slot.any fun i => decide (0 < s.quotaLeft p i.val)

/-- Round robin: the flit at the first input after the one granted last in its class (R79). DESIGN CHOICE: each of the three classes
keeps its own place, which starts at input 0 (log 32). -/
def roundRobin (last : Nat) (l : List Flit) : Option Flit :=
  l.foldl (fun (best : Option Flit) f => match best with
    | none => some f
    | some b => if (f.input + 64 - (last + 1) % 64) % 64 < (b.input + 64 - (last + 1) % 64) % 64 then some f else some b) none

/-- Where an access meets its home on the routes of R78; none where the spec gives the home no place there. -/
def Home.place : Home → Option End
  | .near n => some (.edge (edgeRouter (n / 16) (n % 16 / 2)))
  | .middle m => some (.edge (edgeRouter (m / 4) (2 * (m % 4) + 1)))
  | .slice d i => some (.slice d i)
  | .coreMem c => some (.core c)
  | .host p => some (.edge (edgeRouter (if p = 0 then 0 else 2) 0))
  | .control | .absent => none

/-- Whether a message on its way crosses an output port: a message to one core on its dimension-order route, a copy for a member at
that member's core port, a multicast message at a port of the tree of the router it stands at (R78, R355). -/
def State.msgCrosses (s : State) (m : NetMsg) (p : Nat) : Bool :=
  let w := m.msg.dir.map fun e => s.reg (aDIR0 e)
  match m.router with
  | some k => p / 32 == routerOf k && (s.groupEntry k m.slot ((w.map (DIR0.DST_W.get ·)).getD 0)).any fun g =>
      if p % 32 < 4 then bit (GENT.DOWN.get g) (p % 32) else decide (16 ≤ p % 32) && bit (GENT.CORES.get g) (p % 32 - 16)
  | none => w.any fun w =>
      if DIR0.KIND.get w = 2 then p == corePort m.dst else (legTo (DIR0.SRC.get w) (.core m.dst)).ports.contains p

/-- Whether an access in flight crosses an output port: on its way to its home, or its answer on the way back (R78). -/
def Txn.crosses (x : Txn) (p : Nat) : Bool :=
  match x.src.core?, x.home.place with
  | some c, some e => (match x.stage with
    | .sent => (legTo c e).ports.contains p
    | .performed => (legFrom c e).ports.contains p
    | _ => false)
  | _, _ => true

/-- The slot whose image an access belongs to. -/
def State.txnSlot (s : State) (x : Txn) : Option Nat :=
  match x.src with
  | .dma ch | .dmaWalker ch => if s.flag (aDMA_OWN ch) DMA_OWN.V then some (s.dmaSlot ch) else none
  | .debug => none
  | _ => (x.src.core?.bind fun c => s.boundTo c).map (·.1)

/-- Whether a flit can wait at an output port: what it carries is on its way over that port, and a message or reserved flit is its
image's (R78, R79). -/
def State.routed (s : State) (p : Nat) (f : Flit) : Bool :=
  match f.msg, f.txn with
  | some id, _ => (s.netMsg id).any fun m => s.msgCrosses m p && f.cls != .reserved &&
      (f.cls == .other || f.slot.any fun k => k.val == m.slot)
  | none, some id => (s.txn id).any fun (x : Txn) => x.crosses p && f.cls != .message &&
      (f.cls == .other || f.slot.any fun k => some k.val == s.txnSlot x)
  | none, none => f.cls == .other

/-- The flit granted and the class it is granted in: a message within its quota, reserved data within its quota, any other
(R79, R80). -/
def State.winner (s : State) (p : Nat) (waiting : List Flit) : Option (Flit × Nat) :=
  let (l0, l1, l2) := (s.arb p).last
  let msgs := waiting.filter fun f => decide (f.cls = .message) && s.within p f
  let data := waiting.filter fun f => decide (f.cls = .reserved) && s.within p f
  let rest := waiting.filter fun f => !((decide (f.cls = .message) || decide (f.cls = .reserved)) && s.within p f)
  match roundRobin l0 msgs with
  | some f => some (f, 0)
  | none => match roundRobin l1 data with
    | some f => some (f, 1)
    | none => (roundRobin l2 rest).map (·, 2)

/-- An arbiter after a grant. -/
def Arb.grant (a : Arb) (f : Flit) (cls : Nat) (left : Nat) : Arb :=
  let (l0, l1, l2) := a.last
  { quota := match f.slot with
      | some i => tabIns a.quota i.val (left - 1)
      | none => a.quota
    grants := a.grants + 1
    last := if cls = 0 then (f.input, l1, l2) else if cls = 1 then (l0, f.input, l2) else (l0, l1, f.input)
    granted := some f.input }

/-- A multicast message granted at a router of its tree is copied there (R355). -/
def State.granted (s : State) (port : RPort) (f : Flit) : State :=
  match port, f.msg with
  | .router k _, some id => if ((s.netMsg id).bind (·.router)) = some k.val then s.replicate id else s
  | _, _ => s

/-- PORT_GRANT: one grant among the flits whose route crosses the port; the quota of a Guaranteed image's flit falls (R78-R80). A frame
whose grants are all given grants no more before it ends. -/
def execPortGrant (port : RPort) (waiting : List Flit) (s : State) : Out :=
  s.done (let p := portKey port
    let a := s.arb p
    if frameOf p ≤ a.grants then s
    else match s.winner p (waiting.filter (s.routed p)) with
      | none => s
      | some (f, cls) =>
        let left := (f.slot.map fun i => s.quotaLeft p i.val).getD 0
        ({ s with arbs := tabIns s.arbs p (a.grant f cls left) } : State).granted port f)

/-- The next frame: every quota is whole again. -/
def State.nextFrame (s : State) (p : Nat) : State :=
  { s with arbs := tabIns s.arbs p { s.arb p with quota := [], grants := 0 } }

/-- QUOTA_FRAME_END: after 64 grants the frame of a port ends (R79, R80). -/
def execQuotaFrameEnd (port : RPort) (s : State) : Out :=
  s.done (let p := portKey port
    if isAttach p || decide ((s.arb p).grants < 64) then s else s.nextFrame p)

/-- ATTACHMENT_FRAME_END: after 256 grants the frame of an edge router's attachment port ends (R76). -/
def execAttachmentFrameEnd (port : RPort) (s : State) : Out :=
  s.done (let p := portKey port
    if !isAttach p || decide ((s.arb p).grants < 256) then s else s.nextFrame p)

end Sys2Proof.Machine
end

