-- ==== Sys2Proof/Machine/Waits.lean ====
section
/-! DEFINITION. The end of a wait at whoever waits: its release, its withdrawal, and the report of a sync error (R361, R362, R364,
R369, R393, R401). -/

namespace Sys2Proof.Machine

/-- The wait of a ring's head is satisfied: the packet goes on (R369, R451). -/
def State.ringReleased (s : State) (p : Port) (r : Ring) : State :=
  if (s.ring p r).parked then
    (s.modRing p r fun q => { q with parked := false, waitPassed := true }).advanceRing p r
  else s

/-- A channel stops at its WAIT, which has not been executed (R401). -/
def State.dmaAtWait (s : State) (ch : DmaCh) : State :=
  (s.setDma ch dmaStopped 0).modDma ch fun d => { d with fetched := none, begun := false }

/-- The WAIT of a channel is satisfied: it goes on; under STOP it stops past a consume wait, at any other (R392, R401). -/
def State.dmaReleased (s : State) (ch : DmaCh) (consume : Bool) : State :=
  if s.dmaState ch = dmaWaiting ∨ (s.dmaState ch = dmaStopping ∧ consume) then s.dmaAdvance ch
  else if s.dmaState ch = dmaStopping then s.dmaAtWait ch else s

/-- WAIT_RELEASE: the release of a satisfied wait reaches who waited (R362, R369, R392, R514). -/
def execWaitRelease (id : Nat) (s : State) : Out :=
  s.done (match s.takeSync id fun o => match o.kind with | .release _ => true | _ => false with
    | none => s
    | some (o, s) =>
      match o.who with
      | .thread c t => (s.modThr c t (·.passWait)).act c
      | .dma ch => s.dmaReleased ch (o.kind == .release true)
      | .ring p r => s.ringReleased p r)

/-- The wait of a channel that stops is withdrawn; a consume already satisfied counts as executed (R401). -/
def State.dmaWithdraw (s : State) (ch : DmaCh) : State :=
  let (passed, s) := s.withdraw (.dma ch)
  if passed then s.dmaAdvance ch else s.dmaAtWait ch

/-- The wait of a thread that goes to an interrupt or a halt is withdrawn; a consume already satisfied lets the instruction issue
first (R364, R537). -/
def State.threadWithdraw (s : State) (c : CoreId) (t : Thr) : State :=
  let (passed, s) := s.withdraw (.thread c t)
  if passed then (s.modThr c t (·.passWait)).act c else s.modThr c t (·.wake)

/-- WAIT_WITHDRAWAL: a parked wait is withdrawn from its object: of a thread that became READY for an interrupt or is asked to
halt, of a channel under STOP, of the head of a ring whose pair is disabled (R364, R401, R454, R537). -/
def execWaitWithdrawal (who : Waiter) (s : State) : Out :=
  s.done (if !s.waiting who then s
    else match who with
      | .thread c t =>
        let th := s.thr c t
        if (th.st = .running ∨ th.st = .ready) ∨ (th.st = .stalled ∧ th.haltReq) then s.threadWithdraw c t else s
      | .dma ch => if s.dmaState ch = dmaStopping then s.dmaWithdraw ch else s
      | .ring p r => if s.pairOn p r then s else s.ringWithdraw p r)

/-- An operation that was refused and owed a result ends without it. -/
def Thread.unowe (th : Thread) (key : Nat) : Thread :=
  { th with flights := th.flights.filter (·.key ≠ key), owed := th.owed.filter (·.2 ≠ key) }

/-- SYNC_ERROR_REPORT: 0x07 becomes pending in the thread, imprecisely; a channel ends with error SYNC (R361, R393). -/
def execSyncErrorReport (id : Nat) (s : State) : Out :=
  s.done (match s.takeSync id fun o => match o.kind with | .error _ => true | _ => false with
    | none => s
    | some (o, s) =>
      match o.who, o.kind with
      | .thread c t, .error key =>
        s.modThr c t fun th => ((key.map th.unowe).getD th).pendImprecise 0x07 o.pc o.priv
      | .dma ch, _ => if s.dmaState ch = 0 ∨ s.dmaState ch = dmaInError then s else s.dmaErrorAt ch o.pc.toNat 7 0 0
      | _, _ => s)

end Sys2Proof.Machine
end

