-- ==== Sys2Proof/Machine/Control.lean ====
section
/-! DEFINITION. What a write of control space does (R14, R15, R100): a register takes the written fields by its map; a register with
a behaviour of its own does what its chapter says. -/

namespace Sys2Proof.Machine

/-! Halt and resume (R535-R539) -/

/-- A thread that a halt request can act on (R537). -/
def Thread.live (th : Thread) : Bool := th.st == .running || th.st == .ready || th.st == .stalled

/-- A halt request to a thread (R536, R537). -/
def Thread.askHalt (th : Thread) : Thread := if th.live then { th with haltReq := true } else { th with haltReq := false }

/-- A HALTED thread becomes READY; with `step` it halts again after one unit (R538, R539). -/
def Thread.resume (th : Thread) (step : Bool) : Thread :=
  if th.st = .halted then
    { th with st := .ready, stall := .none, stepping := step, bpPassed := th.halt == .breakpoint, halt := .none, haltReq := false }
  else th

/-- The threads of a mask. -/
def maskThreads (m : Nat) : List Thr := threads.filter fun t => bit m t.val

/-- A write of DBG_CTRL (R535-R539). -/
def State.dbgCtrl (s : State) (c : Nat) (v : Word) : State :=
  let s := s.forAll (maskThreads (DBG_CTRL.HALT.get v)) fun s t => s.modThr c t (·.askHalt)
  s.forAll (maskThreads (DBG_CTRL.RESUME.get v)) fun s t => s.modThr c t (·.resume (DBG_CTRL.STEP.get v == 1))

/-! Words written -/

/-- A register word whose bits do nothing when written back: W1C and WO fields 0. -/
def neutral (fs : List Field) (w : Word) : Word :=
  fs.foldl (fun w f => if f.acc = .w1c ∨ f.acc = .wo then f.put w 0 else w) w

/-- A register takes a written word by its map alone. -/
def State.plain (s : State) (a : Nat) (v : Word) : State :=
  match specAt a with
  | some fs => s.setReg a (fieldsWrite fs (s.reg a) v)
  | none => s

/-- The map of the register an access reaches, a core's channel windows among them. -/
def ctrlSpec (a : Nat) : Option (List Field) :=
  let o := a - ctrlBase
  if o < 0x0480_0000 then
    (if 0xA000 ≤ o % 0x1_0000 ∧ o % 0x1_0000 < 0xB000 then dmaSpec 1 (o % 0x80) else coreSpec (o % 0x1_0000))
  else specAt a

/-! Blocks -/

/-- A register of a channel (R377, R399, R400, R407); `w`: the workload core index of the starter. -/
def State.dmaWrite (s : State) (ch : DmaCh) (w o : Nat) (v : Word) : State :=
  if o = 0 then s.dmaCtrl ch w v
  else if o = 0x10 then (if s.dmaIdle ch then s.plain (aDMA_PROG ch) v else s)
  else if o = 0x50 then s.dmaCqbase ch v
  else if o = 0x800 then
    let d := ch.val / 32
    if DMA_TRINV.ALL.get v = 1 then s.dmaTrinv d (DMA_TRINV.SLOT.get v) none
    else if DMA_TRINV.ONE.get v = 1 then s.dmaTrinv d (DMA_TRINV.SLOT.get v) (some (DMA_TRINV.VPN.get v))
    else s.plain (aDMA_TRINV d) v
  else s.plain (dmaBlk ch + o) v

/-- A register of a per-core control block, written with 8 bytes or fewer. -/
def State.coreWrite (s : State) (c : CoreId) (o : Nat) (v : Word) (whole : Bool) : State :=
  if o = 8 then s.modCore c (·.clearNew v)
  else if o = 0x10 then s.modCore c fun q => { q with dtbase := fieldsWrite DTBASE q.dtbase v }
  else if o = 0x1008 then
    (if TR_INV.ALL.get v = 1 then s.trInvAll c
    else if TR_INV.ONE.get v = 1 then s.trInvOne c (TR_INV.VPN.get v)
    else s.plain (aTR_INV c) v)
  else if o = 0x4040 then s
  else if o = 0x5000 then s.cctlWrite c v
  else if o = 0x7008 then (if whole then s.imemWrite c v else s.imemPartial c)
  else if o = 0x8000 then s.dbgCtrl c v
  else if 0xA000 ≤ o ∧ o < 0xB000 then s.dmaFromCore c ((o - 0xA000) / 0x80) fun s ch w => s.dmaWrite ch w (o % 0x80) v
  else s.plain (coreBlk c + o) v

/-- Whether a replica select names a replica under a source code (R24, R25): of a cluster its core or router, of a die one of four. -/
def replicaSel (src sel : Nat) : Bool :=
  if src = 0x40 then decide (sel % 256 < 72 ∧ sel / 256 ≤ 16) else if src = 0x41 then decide (sel % 256 < 4 ∧ sel / 256 < 4) else true

/-- A write of FMC_CTRL: a select that names no replica under the code then selected is left unchanged (R15, R25). -/
def State.fmcCtrl (s : State) (a : Nat) (v : Word) : State :=
  let t := s.plain a v
  let keep (src sel : Field) (t : State) : State := if replicaSel (t.fld a src) (sel.get v) then t else t.setFld a sel (s.fld a sel)
  keep FMC_CTRL.SRC_B FMC_CTRL.SEL_B (keep FMC_CTRL.SRC_A FMC_CTRL.SEL_A t)

/-- A register of the power controller (R22-R57). -/
def State.powerWrite (s : State) (o : Nat) (v : Word) : State :=
  let a := powerBlk + o
  if o = 0x10 then (if PWR_STATE.REQ.get v = 0 then s else s.powerReq (PWR_STATE.REQ.get v - 1))
  else if 0x1000 ≤ o ∧ o < 0x1480 ∧ o % 16 = 0 then
    let k := (o - 0x1000) / 16
    let gate := s.fld a GOV_SET.GATE
    let new := GOV_SET.GATE.get v
    let s := (s.plain a v).setFld a GOV_SET.GATE gate
    if new = gate then s else s.setGate k (new == 1)
  else if h : 0x2000 ≤ o ∧ o < 0x2380 ∧ o % 0x40 = 0 then
    let n : Dom := ⟨(o - 0x2000) / 0x40, by omega⟩
    let s := s.setFld a CLKD_CTRL.LOOP_EN (CLKD_CTRL.LOOP_EN.get v)
    let s := if CLKD_CTRL.LOOP_EN.get v = 0 then s.setFld (aCLKD_STAT n) CLKD_STAT.LOCK 0 else s
    let s := s.srcWrite n (CLKD_CTRL.SRC.get v == 1)
    if CLKD_CTRL.OPP.get v = s.fld a CLKD_CTRL.OPP then s else s.oppWrite n (CLKD_CTRL.OPP.get v)
  else if o = 0x3000 ∨ o = 0x3100 then s.fmcCtrl a v
  else if o = 0x3008 ∨ o = 0x3108 then
    (if FMC_RESULT.START.get v = 1 then s.fmcGo ((o - 0x3000) / 0x100) else s)
  else s.plain a v

/-- A register of a tier controller: key `k`, offset `o` in its block (R420, R422, R423, R425, R437). -/
def State.tierWrite (s : State) (k a o : Nat) (v : Word) : State :=
  if o = 0x18 then
    let s := s.plain a v
    if NC_CAL.REQ_FULL.get v = 1 then s.retrain k else s
  else if o = 0x28 ∧ k < 68 then
    let s := s.plain a v
    if NC_PLIST.ADD.get v = 1 then s.plistAdd k (s.fld a NC_PLIST.UNIT) else s
  else if o = 0x30 then
    let s := s.plain a v
    if NC_REPAIR.GO.get v = 1 then s.repairGo k else s
  else if o = 0x40 ∧ 64 ≤ k ∧ k < 68 then
    let d := k - 64
    let s := s.plain a v
    let s := if NS_SUBST.COPY.get v = 1 then s.substCopy d else s
    if NS_SUBST.SWITCH.get v = 1 then s.substSwitch d else s
  else s.plain a v

/-- A register of a die block. -/
def State.dieWrite (s : State) (d : Die) (o : Nat) (v : Word) : State :=
  let a := dieBlk d + o
  if 0x1_0000 ≤ o ∧ o < 0x1_2000 ∧ o % 0x100 = 8 then
    let i := (o - 0x1_0000) / 0x100
    if s.flag (aSLICE_STAT d i) SLICE_STAT.SWAP then s
    else
      let s := s.plain a v
      if SLICE_REPAIR.GO.get v = 1 then s.sliceGo d i else s
  else if h : 0x2_0000 ≤ o ∧ o < 0x4_0000 then
    let ch : DmaCh := ⟨d.val * 32 + (o - 0x2_0000) / 0x1000, by have := d.isLt; omega⟩
    s.dmaWrite ch (s.fld (aDMA_STAT ch) DMA_STAT.STARTER) (o % 0x1000) v
  else if 0x4_0000 ≤ o ∧ o < 0x5_1000 then s.tierWrite (ncAt d o) a (o % 0x1000) v
  else if 0x6_0000 ≤ o ∧ o < 0x6_4000 then s.tierWrite (68 + d.val * 4 + (o - 0x6_0000) / 0x1000) a (o % 0x1000) v
  else s.plain a v

/-- A vector of the MSI-X table that is unmasked sends what its PBA bit held (R440; PRESUMED, PCI Express). -/
def State.unmask (s : State) (p : Port) (vec : Nat) : State :=
  if s.fld (aMSIX p vec 1) MSIX1.MASK = 0 ∧ (s.reg (aPBA p)).getLsbD vec then
    (s.setReg (aPBA p) (s.reg (aPBA p) &&& ~~~ BitVec.ofNat 64 (2 ^ vec))).emitUp p (.msix vec)
  else s

/-- A register of BAR0 (R442, R447-R454). -/
def State.bar0Write (s : State) (p : Port) (o : Nat) (v : Word) : State :=
  let r : Ring := Fin.ofNat 8 (if o < 0x3000 then (o - 0x2000) / 0x100 else o / 8)
  if o = 0x1008 then (if PORT_CTRL.RESET.get v = 1 then s.portReset p else s)
  else if o = 0x1020 then s.evtBase p v
  else if o = 0x1028 then s.evtCtrl p v
  else if 0x2000 ≤ o ∧ o < 0x2800 then
    (if o % 0x100 = 0 then s.crBase p r v
    else if o % 0x100 = 0x08 then s.crCtrl p r v
    else if o % 0x100 = 0x20 then s.ccBase p r v
    else if o % 0x100 = 0x28 then s.ccCtrl p r v
    else s)
  else if 0x3000 ≤ o ∧ o < 0x3040 then s.ringBell p r (v.toNat % 65536)
  else if 0x3040 ≤ o ∧ o < 0x3080 then s.ccBell p r (v.toNat % 2 ^ 32)
  else if o = 0x3080 then s.setReg (aEVT_CONS p) (BitVec.ofNat 64 (v.toNat % 2 ^ 32))
  else if 0x4000 ≤ o ∧ o < 0x4400 then (s.plain (bar0 p + o) v).unmask p ((o - 0x4000) / 0x10)
  else s.plain (bar0 p + o) v

/-- A register of a management complex; all but BOOT_STAT is common to both, and the standby's copy of the protection table is
read-only (R476, R481, R490, R493, R494, R503). -/
def State.mgmtWrite (s : State) (m o : Nat) (v : Word) : State :=
  let a := mgmtBlk 0 + o
  if o = 0 then
    let s := s.plain (aBOOT_STAT m) v
    if BOOT_STAT.CONFIRM.get v = 1 then s.confirm else s
  else if o = 0x0100 then
    let s := s.plain a v
    { s with pins := { s.pins with lockup := s.flag aLOCKUP_STAT LOCKUP_STAT.VALID } }
  else if o = 0x0200 ∨ o = 0x0208 then (s.plain a v).alertPin
  else if 0x2_0000 ≤ o ∧ o < 0x2_0400 then (if m ≠ 0 ∨ s.flag (aRPT_LOCK 0) RPT_LOCK.LOCK then s else s.plain a v)
  else if o = 0x2_0400 then (if m ≠ 0 then s else s.rptLock v)
  else if o = 0x3_0100 then (if KEY_STAT.REVOKE.get v = 0 then s else s.keyRevoke (KEY_STAT.REVOKE.get v))
  else if o = 0x3_0108 then s.rbGo v
  else if o = 0x3_0188 then s.signGo v
  else if o = 0x4_0000 then
    let s := if s.flag a BF_CMD.BUSY then s.setReg a (fieldsWrite [BF_CMD.ERR, BF_CMD.DENIED] (s.reg a) v) else s.plain a v
    let op := BF_CMD.OP.get v
    if 1 ≤ op ∧ op ≤ 4 then s.bfStart op (BF_CMD.ADDR.get v) else s
  else if o = 0x4_0010 then s.bfProt v
  else if 0x4_0100 ≤ o ∧ o < 0x4_0200 then s.modMgmt fun g => { g with bfBuf := putField (g.bfBuf ++ zeros (256 - g.bfBuf.length)) (o - 0x4_0100) 8 v.toNat }
  else s.plain a v

/-! The whole of control space -/

/-- The register at an 8-byte-aligned address takes a word; `whole`: all 8 bytes were written. -/
def State.ctrlWord (s : State) (a : Nat) (v : Word) (whole : Bool) : State :=
  let o := a - ctrlBase
  if h : o < 0x0480_0000 then s.coreWrite ⟨o / 0x1_0000, by omega⟩ (o % 0x1_0000) v whole
  else if 0x0800_0000 ≤ o ∧ o < 0x0801_0000 then s.powerWrite (o - 0x0800_0000) v
  else if 0x0900_0000 ≤ o ∧ o < 0x0948_0000 ∧ o % 0x1_0000 < 0x800 then
    let k := (o - 0x0900_0000) / 0x1_0000
    let t := s.plain a v
    if t.fld a SCNT.VALUE = s.fld a SCNT.VALUE then t else t.judge k (o % 0x1_0000 / 8)
  else if 0x0900_0000 ≤ o ∧ o < 0x0948_0000 ∧ o % 0x1_0000 = 0xA00 then
    (if SERR_CTL.CLR.get v = 1 then (s.setFld a SERR_CTL.NEXT 0).setFld a SERR_CTL.COUNT 0 else s)
  else if h : 0x0A00_0000 ≤ o ∧ o < 0x0A40_0000 then s.dieWrite ⟨(o - 0x0A00_0000) / 0x10_0000, by omega⟩ (o % 0x10_0000) v
  else if 0x0D00_0000 ≤ o ∧ o < 0x0D20_0000 then s.bar0Write (Fin.ofNat 2 (o / 0x10_0000)) (o % 0x10_0000) v
  else if 0x0F00_0000 ≤ o ∧ o < 0x0F20_0000 then s.mgmtWrite ((o - 0x0F00_0000) / 0x10_0000) (o % 0x10_0000) v
  else s.plain a v

/-- Whether an address lies in an operating-point table, of registers of 4 bytes (R44). -/
def isOpp (a : Nat) : Bool :=
  decide (powerBlk + 0x2000 ≤ a ∧ a < powerBlk + 0x2380 ∧ 0x10 ≤ (a - powerBlk) % 0x40 ∧ (a - powerBlk) % 0x40 < 0x30)

/-- Whether an address is the reserved upper half of a doorbell (R442, R447). -/
def bellHalf (a : Nat) : Bool :=
  decide (ctrlBase + 0x0D00_0000 ≤ a ∧ a < ctrlBase + 0x0D20_0000 ∧ 0x3000 ≤ a % 0x10_0000 ∧ a % 0x10_0000 < 0x3088 ∧ 4 ≤ a % 8)

/-- A write of bytes within one 8-byte word of control space. -/
def State.ctrlWrite (s : State) (a : Nat) (bs : List Byte) : State :=
  let v := BitVec.ofNat 64 (ofBytes bs)
  if isOpp a then
    s.forAll [a / 8 * 8, a / 8 * 8 + 4] fun s b =>
      let lo := max a b
      let hi := min (a + bs.length) (b + 4)
      if lo < hi then s.plain b (mergeWord (s.reg b) (lo - b) (hi - lo) (BitVec.ofNat 64 (ofBytes (bs.drop (lo - a))))) else s
  else if bellHalf a then s
  else
    let w := a / 8 * 8
    let old := neutral ((ctrlSpec w).getD []) (s.ctrlRead w)
    s.ctrlWord w (mergeWord old (a % 8) bs.length v) (bs.length == 8)

/-- Whether an address is CWAY of a core. -/
def isCway (addr : Nat) : Bool := decide (ctrlBase ≤ addr ∧ addr < ctrlBase + 0x0480_0000) && (addr - ctrlBase) % 0x1_0000 == 0x5008

/-- Ahnal's write of CWAY: WAYLIM, where it is listed (R333). -/
def State.wayLimit (s : State) (addr : Nat) (data : Word) : State :=
  if CWAY.WAYLIM.get data = 0 then s else s.setFld addr CWAY.WAYLIM (CWAY.WAYLIM.get data)

/-- REGISTER_WRITE of 8 bytes or 4, by who makes it: a host writes its own port's BAR0 and configuration, a core its own control block,
a channel its starter's load port; Ahnal and the debug paths any register. The protection table applies but to BAR0 (R14, R15, R100, R102, R377, R440-R442, R491,
R492). -/
def execRegisterWrite (src : RegSource) (addr : Nat) (data : Word) (four : Bool) (s : State) : Out :=
  s.done (
    let bs := if four ∨ isOpp addr ∨ addr % 8 ≠ 0 then toBytes 4 data.toNat else toBytes 8 data.toNat
    let behind (cls : Nat) (no : State → State) : State :=
      if !ctrlPopulated addr || addr % 4 != 0 then s
      else if s.rptDenies addr cls true then no (s.rptLog addr cls true)
      else s.ctrlWrite addr bs
    match src with
    | .mgmt => if isCway addr && !s.rptDenies addr 0 true then s.wayLimit addr data else behind 0 id
    | .debug => behind 3 id
    | .host p =>
      if bar0 p ≤ addr ∧ addr < bar0 p + 0x1_0000 ∧ addr % 4 = 0 ∧ (s.port p).d3 = false then s.ctrlWrite addr bs else s
    | .config p => s.cfgWrite p addr data.toNat
    | .core c t =>
      if addr < coreBlk c ∨ coreBlk c + 0x1_0000 ≤ addr ∨ s.ctrlDenied c t (addr - coreBlk c) true bs.length data then s.ctrlFault c t addr
      else behind 1 fun s => s.modThr c t fun th => th.pendImprecise 0x03 th.pc th.priv
    | .dma ch =>
      let bad (s : State) : State := s.dmaError ch 4 0 addr
      let o := addr - coreBlk (s.dmaStarter ch)
      if addr < coreBlk (s.dmaStarter ch) ∨ (o ≠ 0x7000 ∧ o ≠ 0x7008) then bad s else behind 1 bad)

end Sys2Proof.Machine
end

