-- ==== Sys2Proof/Machine/Homes.lean ====
section
/-! DEFINITION. Accesses performed at their homes (R119-R122, R445, R446, R492), page walks (R108), and what a host reaches through
BAR2 (R91, R93, R443, R444). -/

namespace Sys2Proof.Machine

/-! Homes -/

/-- Whether a slice row that addresses reach is being copied to its spare (R523). -/
def State.swapping (s : State) (as : List Nat) : Bool :=
  as.any fun a => match homeOf s.ilv a with
    | .slice d i => s.flag (aSLICE_STAT d i) SLICE_STAT.SWAP && s.fld (aSLICE_REPAIR d i) SLICE_REPAIR.ROW == a % 0x800_0000 / 8192 / 8
    | _ => false

/-- Whether the home of an access serves it now: none of its source must come first, and a controller of a tier is in service
with no burst. -/
def State.homeServes (s : State) (x : Txn) : Bool :=
  x.stage == .sent && s.mayPerform x && !s.swapping (x.op.addrs x.addr) && match s.tierAt x.home with
    | some k => s.tierServes k
    | none => true

/-- Module reads and AtomicOps outstanding on a port (R440). -/
def State.hostPending (s : State) (p : Port) : Nat :=
  (s.txns.filter fun x => x.home == .host p && match x.stage with | .taken _ => true | _ => false).length

/-- The host bus address of a host-window address (R445). -/
def State.hostAddr (s : State) (p : Port) (a : Nat) : Nat := s.fld (aHW_BASE p) HW_BASE.BASE * 2 ^ 44 + a % 2 ^ 44

/-- A read or AtomicOp of a host window: a request on the link; with the port down, poison (R445). -/
def State.askHost (s : State) (p : Port) (x : Txn) : State :=
  if !(s.port p).live then s.performed x.id ((x.op.addrs x.addr).map fun _ => 0) (x.op.addrs x.addr)
  else if 512 ≤ s.hostPending p then s
  else
    let a := s.hostAddr p x.addr
    (s.emit p (match x.op with
      | .atomic op n v cmp _ => .atomicOp x.id a op n v cmp
      | op => .read x.id a (op.addrs x.addr).length)).modTxn x.id fun x => { x with stage := .taken 0 }

/-- Words of control space written by bytes; a poisoned word enters the pinned instruction memory poisoned (R311, R389). -/
def State.ctrlBytesWrite (s : State) (ws : List (Nat × Byte × Bool)) : State :=
  s.forAll ((ws.map fun w => w.1 / 8).dedup) fun s g =>
    let here := ws.filter fun w => w.1 / 8 == g
    let lo := (here.head?.map (·.1)).getD (g * 8)
    let at_ (c : Nat) : Nat := s.fld (aIMEM_PTR c) IMEM_PTR.WORD
    let c := (lo - ctrlBase) / 0x1_0000
    let bad := here.any (·.2.2) && lo % 0x1_0000 == 0x7008 && decide (lo < ctrlBase + 0x0480_0000)
    let s' := s.ctrlWrite lo (here.map (·.2.1))
    if bad && decide (here.length = 8) then s'.modCore c fun q => { q with imemPoison := at_ c :: q.imemPoison } else s'

/-- Whether bytes written leave a word of a handler table that may not stand there (R349). -/
def State.handlerRefused (s : State) (ws : List (Nat × Byte × Bool)) (g : Nat) : Bool :=
  let a := g * 8
  decide (ctrlBase ≤ a ∧ a < ctrlBase + 0x0480_0000) &&
    s.handlerBad ((a - ctrlBase) / 0x1_0000) ((a - ctrlBase) % 0x1_0000)
      (BitVec.ofNat 64 (ofBytes ((List.range 8).map fun i =>
        ((ws.find? (·.1 = a + i)).map (·.2.1)).getD (BitVec.ofNat 8 ((s.reg a).toNat / 2 ^ (8 * i))))))

/-- A write of control space is performed but for what a handler table refuses; then it ends as a denied one does (R349). -/
def State.ctrlPerform (s : State) (id : Nat) (ws : List (Nat × Byte × Bool)) : State :=
  let bad := ws.any fun w => s.handlerRefused ws (w.1 / 8)
  let s := (s.ctrlBytesWrite (ws.filter fun w => !s.handlerRefused ws (w.1 / 8))).performed id [] []
  if bad then s.modTxn id fun x => { x with stage := .denied } else s

/-- HOME_READ: a read is performed at its home (R122). -/
def execHomeRead (id : Nat) (s : State) : Out :=
  s.doneMem (match s.txn id with
    | none => (s, .none)
    | some x =>
      match x.op, x.purpose with
      | .read as, p =>
        let walks := match p with
          | .walk .. => true
          | _ => false
        if walks || !s.homeServes x then (s, .none)
        else match s.rptCheck x, x.home with
          | some a, _ => (s.deny x a, .none)
          | none, .control => (s.performed id (as.flatMap fun a => s.ctrlBytes a 1) [], .none)
          | none, .host p => (s.askHost p x, .none)
          | none, .absent => (s, .none)
          | none, _ => s.performMem x fun _ => false
      | _, _ => (s, .none))

/-- HOME_WRITE: a write is performed at its home; to a host window it leaves the port, or is discarded and counted (R122, R389,
R445). -/
def execHomeWrite (id : Nat) (s : State) : Out :=
  s.doneMem (match s.txn id with
    | none => (s, .none)
    | some x =>
      match x.op with
      | .write ws =>
        if !s.homeServes x then (s, .none)
        else match s.rptCheck x, x.home with
          | some a, _ => (s.deny x a, .none)
          | none, .control => (s.ctrlPerform id ws, .none)
          | none, .host p =>
            ((s.hostWrite p (s.hostAddr p x.addr) (ws.map (·.2.1)) (ws.any (·.2.2))).performed id [] [], .none)
          | none, .absent => (s, .none)
          | none, _ => s.performMem x fun _ => false
      | _ => (s, .none))

/-- HOME_ATOMIC: an atomic is performed, indivisibly, at its home; to a host window it is a PCI Express AtomicOp (R119-R121). -/
def execHomeAtomic (id : Nat) (s : State) : Out :=
  s.doneMem (match s.txn id with
    | none => (s, .none)
    | some x =>
      match x.op with
      | .atomic .. =>
        if !s.homeServes x then (s, .none)
        else match s.rptCheck x, x.home with
          | some a, _ => (s.deny x a, .none)
          | none, .host p => (s.askHost p x, .none)
          | none, .control | none, .absent => (s, .none)
          | none, _ => s.performMem x fun _ => false
      | _ => (s, .none))

/-- PAGE_WALK: a walker's read of a level-1 or level-2 entry is performed at its home, past the data caches (R108). -/
def execPageWalk (id : Nat) (s : State) : Out :=
  s.doneMem (match s.txn id with
    | none => (s, .none)
    | some x =>
      match x.op, x.purpose with
      | .read _, .walk .. =>
        if !s.homeServes x then (s, .none)
        else match s.rptCheck x with
          | some a => (s.deny x a, .none)
          | none => s.performMem x fun _ => false
      | _, _ => (s, .none))

/-! The host window -/

/-- An access of the host window for which the host has been asked. -/
def State.asked (s : State) (id : Nat) : Option (Port × Txn) :=
  (s.txn id).bind fun x => match x.home, x.stage with
    | .host p, .taken _ => some (p, x)
    | _, _ => none

/-- An access of the host window ends with poison (R446). -/
def State.hostPoison (s : State) (x : Txn) : State :=
  s.performed x.id ((x.op.addrs x.addr).map fun _ => 0) (x.op.addrs x.addr)

/-- HOST_WINDOW_COMPLETION: the host's completion arrives: data, Unsupported Request, Completer Abort, or poison; one for an
access that is over is discarded (R446). -/
def execHostWindowCompletion (id : Nat) (res : HostCompletion) (s : State) : Out :=
  s.done (match s.asked id with
    | none => s
    | some (p, x) =>
      match res with
      | .data bs => if bs.length = (x.op.addrs x.addr).length then s.performed id bs [] else s
      | .unsupported => (s.hostReadFailed p .unsupported).hostPoison x
      | .aborted => (s.hostReadFailed p .aborted).hostPoison x
      | .poisoned => (s.hostReadFailed p .poisoned).hostPoison x)

/-- HOST_COMPLETION_TIMEOUT: the completion timeout that the host configured, and did not disable, expires (R440, R446). -/
def execHostCompletionTimeout (id : Nat) (s : State) : Out :=
  s.done (match s.asked id with
    | none => s
    | some (p, x) => if (s.port p).ctoOff then s else (s.hostReadFailed p .timeout).hostPoison x)

/-! BAR2 -/

/-- The module address of a BAR2 offset (R443). -/
def State.bar2Addr (s : State) (p : Port) (off : Nat) : Nat :=
  let n := 2 ^ (s.port p).bar2Log2
  s.fld (aBAR2_BASE p) BAR2_BASE.BASE * 2 ^ 30 / n * n + off % n

/-- Whether a port owns the image of a slot (R93, R443). -/
def State.slotOfPort (s : State) (p : Port) (slot : Nat) : Bool := (s.image slot).any fun im => im.owner == some p

/-- Whether a BAR2 access of a port to an address is permitted (R40, R91, R93, R492). -/
def State.bar2Ok (s : State) (p : Port) (write : Bool) (pa : Nat) : Bool :=
  let owned (g : Nat) : Bool := decide (16 ≤ s.ownerOf g) && s.slotOfPort p (s.ownerOf g - 16)
  s.pstate != 2 && !s.rptDenies pa 2 write && match homeOf s.ilv pa with
    | .near _ | .middle _ => owned (pa / 2 ^ 21)
    | .slice _ _ => owned (pa / 2 ^ 16)
    | .coreMem c => (s.boundTo c).any fun x => s.slotOfPort p x.1
    | _ => false

/-- A BAR2 access is refused: counted, and logged where the protection table denies it (R91, R492). -/
def State.bar2Refuse (s : State) (p : Port) (write : Bool) (as : List Nat) : State :=
  let s := match as.find? fun a => s.rptDenies a 2 write with
    | some a => s.rptLog a 2 write
    | none => s
  let s := if write then s else s.aerSet p 15
  (s.incFld (aERR_BAR2 p) (if write then ERR_BAR2.DROPPED_WRITES else ERR_BAR2.CA_READS) 1).errSum p ERR_SUM.BAR2 1

/-- The module addresses of a run of BAR2 offsets. -/
def State.bar2Run (s : State) (p : Port) (off n : Nat) : List Nat := (List.range n).map fun i => s.bar2Addr p (off + i)

/-- A BAR2 read: performed at the homes, or completed with Completer Abort; poisoned data carries the indication (R91, R93, R443,
R444). -/
def State.bar2Read (s : State) (p : Port) (off len : Nat) : State :=
  (let as := s.bar2Run p off len
    if as.all (s.bar2Ok p false) then s.emit p (.completion (as.map (memByte s.mem)) (as.any s.badByte))
    else (s.bar2Refuse p false as).emit p .abort)

/-- A BAR2 write: performed at the homes, or discarded and counted; one with the poison indication writes poison (R91, R93, R443,
R444). -/
def State.bar2Write (s : State) (p : Port) (off : Nat) (data : List Byte) (poisoned : Bool) : State × MemUpd :=
  (let as := s.bar2Run p off data.length
      let s := if poisoned then (s.incFld (aERR_HOST p) ERR_HOST.POISONED 1).aerSet p 12 else s
      if as.all (s.bar2Ok p true) then
        let r := s.writeHome (as.zipWith (fun a b => (a, b, poisoned)) data)
        (r.1.countFailed as, r.2)
      else (s.bar2Refuse p true as, .none))

/-- The AtomicOps a port completes: FetchAdd, Swap and CAS of 32 and 64 bits, naturally aligned (R440). -/
def bar2Atomic (op : AtomicOp) (size off : Nat) : Bool :=
  decide (size < 2) && off % (4 * 2 ^ size) == 0 && match op with
    | .add | .swap | .cas => true
    | _ => false

/-- A BAR2 AtomicOp: performed at the home, the old value returned; poisoned data stays and is returned as poison; any other kind
or size is answered Unsupported Request (R119-R121, R440, R443). -/
def State.bar2AtomicOp (s : State) (p : Port) (off : Nat) (op : AtomicOp) (size : Fin 3) (v cmp : Word) : State × MemUpd :=
  (let n := 4 * 2 ^ size.val
    let as := s.bar2Run p off n
    if !bar2Atomic op size off then ((s.emit p .unsupported).aerSet p 20, .none)
    else if !as.all (s.bar2Ok p true) then ((s.bar2Refuse p false as).emit p .abort, .none)
    else if as.any s.badByte then (s.emit p (.completion (zeros n) true), .none)
    else
      let a := s.bar2Addr p off
      let old := s.bytes a n
      let r := s.writeHome (runOf a (toBytes n (atomicNew op n (ofBytes old) v.toNat cmp.toNat)))
      ((r.1.countFailed as).emit p (.completion old false), r.2))

/-- Offset and size of an access. -/
def Bar2Op.span : Bar2Op → Nat × Nat
  | .read off len => (off, len)
  | .write off data _ => (off, data.length)
  | .atomic off _ size _ _ => (off, 4 * 2 ^ size.val)

/-- Whether an access needs the right to write. -/
def Bar2Op.writes : Bar2Op → Bool
  | .read _ _ => false
  | _ => true

/-- A BAR2 access is performed. -/
def State.bar2Do (s : State) (p : Port) : Bar2Op → State × MemUpd
  | .read off len => (s.bar2Read p off len, .none)
  | .write off data bad => s.bar2Write p off data bad
  | .atomic off op size v cmp => s.bar2AtomicOp p off op size v cmp

/-- Whether a BAR2 access waits: behind an earlier one of its port, for a burst, for a request that its controller tries again, or for a
row being copied (R412, R422, R523). -/
def State.bar2Waits (s : State) (p : Port) (o : Bar2Op) (ahead : List (Port × Bar2Op)) : Bool :=
  let as := s.bar2Run p o.span.1 o.span.2
  ahead.any (·.1 == p) || as.all (s.bar2Ok p o.writes) && (s.retried as || s.swapping as || as.any fun a =>
    match s.tierAt (homeOf s.ilv a) with
    | some k => !s.tierServes k
    | none => false)

/-- The BAR2 accesses that waited and need wait no longer are performed, in order of arrival. -/
def State.bar2Drain (s : State) : State :=
  let r := s.bar2.foldl (fun (r : State × List (Port × Bar2Op)) x =>
    if !(r.1.port x.1).live then r
    else if r.1.bar2Waits x.1 x.2 r.2 then (r.1, r.2 ++ [x])
    else (r.1.commitMem (r.1.bar2Do x.1 x.2), r.2)) (s, [])
  { r.1 with bar2 := r.2 }

/-- A BAR2 access arrives: in D3hot a write is discarded and what asks for an answer is Unsupported Request (R441). -/
def State.bar2Arrive (s : State) (p : Port) (o : Bar2Op) : State × MemUpd :=
  if (s.port p).up && (s.port p).d3 then
    (match o with
      | .write .. => s.aerSet p 20
      | _ => (s.emit p .unsupported).aerSet p 20, .none)
  else if !(s.port p).live then (s, .none)
  else if s.bar2Waits p o s.bar2 then ({ s with bar2 := s.bar2 ++ [(p, o)] }, .none)
  else s.bar2Do p o

/-- BAR2_READ (R443). -/
def execBar2Read (p : Port) (off len : Nat) (s : State) : Out := s.doneMem (s.bar2Arrive p (.read off len))

/-- BAR2_WRITE (R443). -/
def execBar2Write (p : Port) (off : Nat) (data : List Byte) (poisoned : Bool) (s : State) : Out :=
  s.doneMem (s.bar2Arrive p (.write off data poisoned))

/-- BAR2_ATOMICOP (R440). -/
def execBar2Atomicop (p : Port) (off : Nat) (op : AtomicOp) (size : Fin 3) (v : Word) (cmp : Word) (s : State) : Out :=
  s.doneMem (s.bar2Arrive p (.atomic off op size v cmp))

/-- TIER_REQUEST (R412). -/
def execTierRequest (id : Nat) (found : BurstCheck) (lane : Nat) (eye : Int) (margin : Byte) (s : State) : Out :=
  .next (s.commitMem (s.tierRequest id found lane eye margin)).bar2Drain

/-- TIER_ATTEMPT_FAIL (R414). -/
def execTierAttemptFail (id byte : Nat) (s : State) : Out := .next (s.commitMem (s.tierAttemptFail id byte)).bar2Drain

/-- SLICE_ROW_COPY_DONE (R523). -/
def execSliceRowCopyDone (d : Die) (sl : Fin 32) (s : State) : Out := .next (s.commit (s.sliceCopied d sl)).bar2Drain

/-- CALIBRATION_BURST_END (R422). -/
def execCalibrationBurstEnd (n : TierCtl) (s : State) : Out := .next (s.commit (s.burstEnd (TierCtl.key n))).bar2Drain

end Sys2Proof.Machine
end

