-- ==== Sys2Proof/Machine/Commands.lean ====
section
/-! DEFINITION. Commands that Ahnal answers from what it keeps: resources, status, ownership, stewardship, power state, spares, the
dump; and those that copy memory: MEM_COPY, MEM_FILL, PERSIST (R438, R466, R471, R474, R475, R508, R524). -/

namespace Sys2Proof.Machine

/-- A claimed command of an opcode that names no image. -/
def State.onCmd (s : State) (k op : Nat) (f : Claimed → State) : State :=
  match s.cmdReady k op with
  | some q => f q
  | none => s

/-! Records -/

/-- Pages of the near and middle tiers; die-memory units, DMA channels and cores left free. -/
def allNear : List Nat := List.range (4 * diePages)
def allMiddle : List Nat := (List.range (2 ^ 20)).map (4 * diePages + ·)
def State.freeUnits (s : State) (d : Nat) : Nat := ((List.range 2048).filter fun u => s.ownerOf (dieUnit d u) == 0).length
def State.freeChannels (s : State) (d : Nat) : Nat := ((List.range 32).filter fun n => s.dmaFree none (d * 32 + n)).length
def State.unboundCores (s : State) : Nat :=
  ((List.range (gradeCores s.grade)).filter fun a => (s.boundTo (s.physOf a)).isNone).length

/-- The record of QUERY_RESOURCES (R474). -/
def State.resourceRecord (s : State) : List Byte :=
  toBytes 8 (s.freeCount allNear * pageSize) ++ toBytes 8 (s.freeCount allMiddle * pageSize) ++ toBytes 8 s.deepFree ++
    toBytes 2 s.unboundCores ++ toBytes 2 s.freeDirs.length ++
    toBytes 1 ((List.range 64).filter s.unitFree).length ++ toBytes 1 s.loadedSlots.length ++ toBytes 1 s.pstate ++ zeros 1 ++
    ((List.range 4).flatMap fun d => toBytes 4 (s.freeUnits d)) ++ ((List.range 4).flatMap fun d => toBytes 1 (s.freeChannels d)) ++
    zeros 12

/-- QUERY_RESOURCES (R474). -/
def execQueryResources (k : Nat) (s : State) : Out :=
  s.done (s.onCmd k 0x0002 fun q => (s.hostWrite q.port (pkArg q.packet 0 8) s.resourceRecord false).finalReply k 0 0 [])

/-- States of an image as STATUS gives them (R467). -/
def ImgState.code : ImgState → Nat
  | .loaded => 1 | .starting => 2 | .running => 3 | .stopping => 4

/-- A port as an owner byte. -/
def ownerByte : Option Port → Nat
  | some p => p.val
  | none => 0xFF

/-- The record of STATUS (R475). -/
def State.statusRecord (s : State) (im : Image) : List Byte :=
  toBytes 4 im.handle ++ toBytes 1 im.state.code ++ toBytes 1 (ownerByte im.owner) ++ toBytes 1 (b2n im.elastic) ++
    toBytes 1 im.lastStatus ++ toBytes 2 im.lastDetail ++ zeros 2 ++ toBytes 4 im.invocations ++
    (im.lastResult ++ zeros 16).take 16 ++ toBytes 1 (b2n im.breach) ++ zeros 31 ++ boundsRecord im.handle im.bytes (s.boundsNow im)

/-- STATUS (R475). -/
def execStatus (k : Nat) (s : State) : Out :=
  s.doneMem (s.onImage k 0x0016 fun q _ im =>
    ((s.hostWrite q.port (pkArg q.packet 0 8) (s.statusRecord im) false).finalReply k 0 0 [], .none))

/-! Ownership and stewardship (R466) -/

/-- An image's owner changes; both ports are told. -/
def State.setImageOwner (s : State) (slot : Slot) (im : Image) (o : Option Port) : State :=
  (s.modImage slot fun i => { i with owner := o }).forAll ([0, 1] : List Port) fun s p =>
    s.event p 0xE002 0 (toBytes 4 im.handle ++ toBytes 1 (ownerByte o))

/-- RELEASE: the image is owned by no port (R466). -/
def execRelease (k : Nat) (s : State) : Out :=
  s.doneMem (s.onImage k 0x0014 fun q slot im =>
    if im.owner ≠ some q.port then (s.finalReply k 0x21 0 [], .none)
    else ((s.setImageOwner slot im none).finalReply k 0 0 [], .none))

/-- ADOPT: of an image owned by no port, or by a port whose link has been down for more than 100 ms (R456, R466). -/
def execAdopt (k : Nat) (s : State) : Out :=
  s.doneMem (s.onImage k 0x0015 fun q slot im =>
    match im.owner with
    | none => ((s.setImageOwner slot im (some q.port)).finalReply k 0 0 [], .none)
    | some p =>
      if p = q.port then (s.finalReply k 0 0 [], .none)
      else
        let (long, s) := s.downLong p
        if long then ((s.setImageOwner slot im (some q.port)).finalReply k 0 0 [], .none)
        else (s.finalReply k 0x21 0x0009 [], .none))

/-- Another port becomes the steward; both ports are told. -/
def State.setSteward (s : State) (p : Port) : State :=
  (s.modMgmt fun m => { m with steward := p }).forAll ([0, 1] : List Port) fun s x => s.event x 0xE003 0 (toBytes 1 p)

/-- STEWARD_HANDOFF: the steward gives its place to the other port, or the other port claims it (R466). -/
def execStewardHandoff (k : Nat) (s : State) : Out :=
  s.done (s.onCmd k 0x0051 fun q =>
    let other : Port := 1 - q.port
    if pkArg q.packet 0 1 = 0 then
      (if s.mgmt.steward ≠ q.port then s.finalReply k 0x23 0 []
      else if (s.port other).up then (s.setSteward other).finalReply k 0 0 []
      else s.finalReply k 0x10 0x0009 [])
    else if s.mgmt.steward = q.port then s.finalReply k 0 0 []
    else
      let (long, s) := s.downLong other
      if long then (s.setSteward q.port).finalReply k 0 0 [] else s.finalReply k 0x10 0x0009 [])

/-! Power state, spares, the dump -/

/-- POWER_STATE: a change of power state begins, answered once it is reached (R37, R39, R41). -/
def execPowerState (k : Nat) (s : State) : Out :=
  s.done (s.onCmd k 0x0050 fun q =>
    let target := pkArg q.packet 0 1
    let running := s.loadedSlots.any fun i => (s.image i).any (·.active)
    if s.pstate = 3 then s
    else if s.pstate = target then s.finalReply k 0 0 []
    else if target = 2 ∧ running then s.finalReply k 0x10 0x000D []
    else ((s.claimBegun k).powerReq target).modMgmt fun m => { m with powerCmd := some k })

/-- SPARE_STATUS_REPORT: SPARE_STATUS with OP 0 (R524). -/
def execSpareStatusReport (k : Nat) (s : State) : Out :=
  s.done (s.onCmd k 0x0060 fun q =>
    if pkArg q.packet 0 1 ≠ 0 then s
    else (s.hostWrite q.port (pkArg q.packet 8 8) s.spareRecord false).finalReply k 0 0 [])

/-- SPARE_STATUS_SCAN: SPARE_STATUS with OP 1 asks for a wear scan, which answers it (R517). -/
def execSpareStatusScan (k : Nat) (s : State) : Out :=
  s.done (s.onCmd k 0x0060 fun q => if pkArg q.packet 0 1 ≠ 1 then s else s.claimBegun k)

/-- Bytes that the manual leaves open. -/
def State.drawBytes (s : State) (n : Nat) : List Byte × State :=
  (List.range n).foldl (fun r _ => let (v, t) := r.2.draw; (r.1 ++ [v.setWidth 8], t)) ([], s)

/-- DUMP_READ: a part of the near-tier dump, or of its deep-tier copy, whose bytes are free where there is none (R508). -/
def execDumpRead (k : Nat) (s : State) : Out :=
  s.done (s.onCmd k 0x0061 fun q =>
    let o := pkArg q.packet 0 8
    let n := pkArg q.packet 8 8
    let buf := pkArg q.packet 0x10 8
    if o % 8 ≠ 0 ∨ n % 8 ≠ 0 ∨ 2 ^ 33 < o + n then s.finalReply k 0x22 0x0007 []
    else if pkArg q.packet 0x18 1 = 0 then
      let as := (List.range n).map fun i => dumpBase + o + i
      (s.hostWrite q.port buf (s.bytes (dumpBase + o) n) (as.any s.badByte)).finalReply k 0 0 []
    else match s.deep.mirror with
      | some m => (s.hostWrite q.port buf ((List.range n).map fun i => tabGet 0 m (o + i)) false).finalReply k 0 0 []
      | none =>
        let (bs, s) := s.drawBytes n
        (s.hostWrite q.port buf bs false).finalReply k 0 0 [])

/-! Memory by virtual address -/

/-- The present entries of some addresses of an image, as a translation cache would hold them (R109). -/
def State.imageTlb (s : State) (im : Image) (vas : List Nat) : Tab (Option Word) :=
  vas.foldl (fun t va =>
    let e := s.pte im (va / 2 ^ 21)
    if PTE2.V.get e = 1 ∧ !badEntry e then tabIns t (va / 2 ^ 21) (some e) else t) []

/-- Where a command's access by virtual address goes (R387, R471); none where a check fails. -/
def State.cmdXlat (s : State) (im : Image) (va : Nat) (write : Bool) : Option Nat :=
  if handleWindow ≤ va then none
  else match translate true (s.imageTlb im [va]) va false write with
    | .ok pa _ _ => some pa
    | _ => none

/-- Whether a page is to be paged in (R111, R433). -/
def State.notPresent (s : State) (im : Image) (va : Nat) : Bool :=
  decide (va < handleWindow) && (im.regionOf (va / 2 ^ 21)).isSome &&
    PTE2.V.get (s.pte im (va / 2 ^ 21)) == 0 && PTE2.DEEP.get (s.pte im (va / 2 ^ 21)) == 1

/-- A page that a command waits on is reported to Ahnal (R433). -/
def State.askPage (s : State) (slot : Slot) (va : Nat) : State :=
  let vpn := va / 2 ^ 21
  if s.deep.pageIns.any fun e => e.slot == slot && e.vpn == vpn then s
  else (s.modDeep fun d => { d with pageIns := d.pageIns ++ [⟨slot, vpn, []⟩] }).startRead slot vpn

/-- Bytes Ahnal reads, each with whether it is poison; a denied read returns poison (R492). -/
def State.mgmtRead (s : State) (as : List Nat) : List (Byte × Bool) :=
  as.map fun a => if s.rptDenies a 0 false then (0, true) else (memByte s.mem a, s.badByte a)

/-- Bytes Ahnal writes; a denied write is discarded (R492). -/
def State.mgmtPut (s : State) (ws : List (Nat × Byte × Bool)) : State × MemUpd :=
  let ws := ws.filter fun w => !s.rptDenies w.1 0 true
  let r := s.writeHome ws
  (r.1.countFailed (ws.map (·.1)), r.2)

/-- The first address of a list that the protection table denies Ahnal is logged (R492). -/
def State.mgmtLog (s : State) (as : List Nat) (write : Bool) : State :=
  match as.find? fun a => s.rptDenies a 0 write with
  | some a => s.rptLog a 0 write
  | none => s

/-- Data put in a host buffer; words read as poison carry the indication (R389, R471). -/
def State.hostPut (s : State) (p : Port) (a : Nat) (l : List (Byte × Bool)) : State :=
  if l.any (·.2) then
    s.forAll (List.range (ceilDiv l.length 8)) fun s i =>
      let w := (l.drop (8 * i)).take 8
      s.hostWrite p (a + 8 * i) (w.map (·.1)) (w.any (·.2))
  else s.hostWrite p a (l.map (·.1)) false

/-- How a copy or fill ends. -/
def copyEnd (whole bad : Bool) : Nat × Nat := if !whole then (0x22, 0x0007) else if bad then (0x30, 0) else (0, 0)

/-- MEM_COPY: between an image's memory and host memory, at the homes. It waits for a page not present; an access that fails its
checks ends it after those already made (R387-R389, R471). -/
def execMemCopy (k : Nat) (bytes : HostData) (s : State) : Out :=
  s.doneMem (s.onImage k 0x0020 fun q slot im =>
    let (src, dst, n) := (pkArg q.packet 0 8, pkArg q.packet 8 8, pkArg q.packet 0x10 8)
    let fromHost := bit (pkArg q.packet 0x18 1) 0
    let toHost := bit (pkArg q.packet 0x18 1) 1
    let from_ (i : Nat) : Option Nat := s.cmdXlat im (src + i) false
    let to_ (i : Nat) : Option Nat := s.cmdXlat im (dst + i) true
    let m := ((List.range n).takeWhile fun i => (fromHost || (from_ i).isSome) && (toHost || (to_ i).isSome)).length
    if m < n ∧ !fromHost ∧ s.notPresent im (src + m) then (s.askPage slot (src + m), .none)
    else if m < n ∧ !toHost ∧ s.notPresent im (dst + m) then (s.askPage slot (dst + m), .none)
    else
      let host : Option (List Byte) := match bytes with
        | .data bs => if bs.length = n then some bs else none
        | _ => none
      if fromHost ∧ host.isNone then ((s.hostReadFailed q.port bytes).finalReply k 0x22 0x0008 [], .none)
      else
        let as := (List.range m).filterMap from_
        let bs := (List.range m).filterMap to_
        let data : List (Byte × Bool) := if fromHost then ((host.getD []).take m).map fun b => (b, false) else s.mgmtRead as
        let e := copyEnd (m == n) (data.any (·.2))
        let s := if fromHost then s else s.mgmtLog as false
        if toHost then ((s.hostPut q.port dst data).finalReply k e.1 e.2 [], .none)
        else andThen ((s.mgmtLog bs true).mgmtPut (bs.zipWith (fun a d => (a, d.1, d.2)) data)) fun s => (s.finalReply k e.1 e.2 [], .none))

/-- MEM_FILL: an image's memory is filled with a pattern of 8 bytes (R471). -/
def execMemFill (k : Nat) (s : State) : Out :=
  s.doneMem (s.onImage k 0x0021 fun q slot im =>
    let (dst, n) := (pkArg q.packet 0 8, pkArg q.packet 8 8)
    let pat := toBytes 8 (pkArg q.packet 0x10 8)
    let to_ (i : Nat) : Option Nat := s.cmdXlat im (dst + i) true
    let m := ((List.range n).takeWhile fun i => (to_ i).isSome).length
    if m < n ∧ s.notPresent im (dst + m) then (s.askPage slot (dst + m), .none)
    else
      let as := (List.range m).filterMap to_
      let e := copyEnd (m == n) false
      andThen ((s.mgmtLog as true).mgmtPut (as.zipWith (fun a i => (a, pat.getD (i % 8) 0, false)) (List.range m))) fun s =>
        (s.finalReply k e.1 e.2 [], .none))

/-! Persistent objects (R438, R439) -/

/-- A persistent object. -/
def State.object (s : State) (obj : Nat) : Option Persist := s.deep.objects.find? (·.obj = obj)

/-- An object's new version begins to be written. -/
def State.saveObject (s : State) (obj : Nat) (bs : List Byte) : State :=
  let s := s.modDeep fun d =>
    if d.objects.any (·.obj = obj) then
      { d with objects := d.objects.map fun o => if o.obj = obj then { o with writing := some (bs, []) } else o }
    else { d with objects := d.objects ++ [⟨obj, none, some (bs, [])⟩] }
  s.startOps (.save obj)

/-- Whether a version of an object is being written. -/
def State.saving (s : State) (obj : Nat) : Bool := (s.object obj).any (·.writing.isSome)

/-- PERSIST_SAVE: a new version of an object is written from an image's memory; the programs' completion answers the command. It
waits during a supply warning, and behind a version still being written (R52, R438, R439). -/
def execPersistSave (k : Nat) (s : State) : Out :=
  s.doneMem (s.onImage k 0x0022 fun q slot im =>
    let (obj, va, n) := (pkArg q.packet 0 4, pkArg q.packet 8 8, pkArg q.packet 0x10 8)
    if pkArg q.packet 4 1 ≠ 0 then (s, .none)
    else if s.deep.readOnly ∨ s.deepFree < n then (s.finalReply k 0x10 0 [], .none)
    else if s.warned ∨ s.saving obj then (s, .none)
    else
      let from_ (i : Nat) : Option Nat := s.cmdXlat im (va + i) false
      let m := ((List.range n).takeWhile fun i => (from_ i).isSome).length
      if m < n ∧ s.notPresent im (va + m) then (s.askPage slot (va + m), .none)
      else
        let as := (List.range m).filterMap from_
        let data := s.mgmtRead as
        let s := s.mgmtLog as false
        if m < n then (s.finalReply k 0x22 0x0007 [], .none)
        else if data.any (·.2) then (s.finalReply k 0x30 0 [], .none)
        else ((s.claimBegun k).saveObject obj (data.map (·.1)), .none))

/-- PERSIST_RESTORE: the current version of an object is copied into an image's memory (R438). -/
def execPersistRestore (k : Nat) (s : State) : Out :=
  s.doneMem (s.onImage k 0x0022 fun q slot im =>
    let (obj, va, n) := (pkArg q.packet 0 4, pkArg q.packet 8 8, pkArg q.packet 0x10 8)
    if pkArg q.packet 4 1 ≠ 1 then (s, .none)
    else if s.deep.readOnly then (s.finalReply k 0x10 0 [], .none)
    else match (s.object obj).bind (·.current) with
      | none => (s.finalReply k 0x22 0x0007 [], .none)
      | some bs =>
        let to_ (i : Nat) : Option Nat := s.cmdXlat im (va + i) true
        let m := ((List.range n).takeWhile fun i => decide (i < bs.length) && (to_ i).isSome).length
        if m < n ∧ m < bs.length ∧ s.notPresent im (va + m) then (s.askPage slot (va + m), .none)
        else
          let as := (List.range m).filterMap to_
          let e := copyEnd (m == n) false
          andThen ((s.mgmtLog as true).mgmtPut (as.zipWith (fun a b => (a, b, false)) bs)) fun s => (s.finalReply k e.1 e.2 [], .none))

/-- PERSIST_DELETE: an object is gone; it waits while a version of it is being written (R438, R439). -/
def execPersistDelete (k : Nat) (s : State) : Out :=
  s.done (s.onCmd k 0x0022 fun q =>
    let obj := pkArg q.packet 0 4
    if pkArg q.packet 4 1 ≠ 2 then s
    else if s.deep.readOnly then s.finalReply k 0x10 0 []
    else if s.saving obj ∨ s.warned then s
    else if ((s.object obj).bind (·.current)).isNone then s.finalReply k 0x22 0x0007 []
    else (s.modDeep fun d => { d with objects := d.objects.filter (·.obj ≠ obj) }).finalReply k 0 0 [])

end Sys2Proof.Machine
end

