-- ==== Sys2Proof/Machine/Debug.lean ====
section
/-! DEFINITION. Debug access: halting (R536-R541), the DEBUG_* commands (R542-R544), JTAG (R545, R546). -/

namespace Sys2Proof.Machine

/-! Halting -/

/-- Whether a thread asked to halt may halt now: no entry and no satisfied wait comes first, its wait is withdrawn and its work
has drained (R536, R537). -/
def State.haltReady (s : State) (c : CoreId) (t : Thr) : Bool :=
  let th := s.thr c t
  th.haltReq && th.live && th.entry.isNone && !th.waitPassed && !s.waiting (.thread c t) && s.drained c t

/-- A thread becomes HALTED, its request phase stopped at a row boundary (R536). -/
def State.haltNow (s : State) (c : CoreId) (t : Thr) : State :=
  ((s.stopPhase c t).modThr c t fun th => { th with
    st := .halted, stall := .none, haltReq := false, halt := if th.halt = HaltReason.none then .request else th.halt }).act c

/-- The RESULT of DEBUG_HALT: DBG_STAT and TSTATE of the core (R542). -/
def State.haltResult (s : State) (c : Nat) : List Byte :=
  toBytes 4 ((s.core c).dbgStat.toNat % 2 ^ 16) ++ toBytes 1 (s.core c).tstate.toNat

/-- The physical core that a debug command names. -/
def Claimed.debugCore (im : Image) (q : Claimed) : Option Nat := im.core (pkArg q.packet 0 2)

/-- A DEBUG_HALT that has begun is answered once every named thread is HALTED or unaffected (R542). -/
def State.haltAnswer (s : State) (q : Claimed) : State :=
  match (s.byHandle (pkHandle q.packet)).bind fun x => q.debugCore x.2 with
  | none => s.finalReply q.id 0x22 0x0003 []
  | some c =>
    if (maskThreads (pkArg q.packet 2 1)).any fun t => (s.thr c t).live then s
    else s.finalReply q.id 0 0 (s.haltResult c)

/-- Every DEBUG_HALT under way that can be answered is. -/
def State.haltAnswers (s : State) : State :=
  s.forAll (s.claimed.filter fun q => q.begun && pkOp q.packet == 0x0040) State.haltAnswer

/-- DEBUG_HALT_TAKEN: a thread asked to halt becomes HALTED (R536-R538, R542). -/
def execDebugHaltTaken (c : CoreId) (t : Thr) (s : State) : Out :=
  s.done ((if s.haltReady c t then s.haltNow c t else s).haltAnswers)

/-- DBG_CTRL_HALT: a write of DBG_CTRL by a debug path (R536, R537). -/
def execDbgCtrlHalt (c : CoreId) (mask : BitVec 4) (s : State) : Out :=
  s.done (s.dbgCtrl c (DBG_CTRL.HALT.put 0 mask.toNat))

/-- DBG_CTRL_RESUME (R539). -/
def execDbgCtrlResume (c : CoreId) (mask : BitVec 4) (s : State) : Out :=
  s.done (s.dbgCtrl c (DBG_CTRL.RESUME.put 0 mask.toNat))

/-- DBG_CTRL_STEP: resume with STEP = 1 (R539). -/
def execDbgCtrlStep (c : CoreId) (mask : BitVec 4) (s : State) : Out :=
  s.done (s.dbgCtrl c (DBG_CTRL.STEP.put (DBG_CTRL.RESUME.put 0 mask.toNat) 1))

/-- The checks of DEBUG_HALT and DEBUG_RESUME (R542). -/
def debugCheck (im : Image) (q : Claimed) : Nat ⊕ Nat :=
  match im.state with
  | .running | .stopping =>
    if pkArg q.packet 2 1 % 16 = 0 then .inl 0x0007
    else match q.debugCore im with
      | none => .inl 0x0007
      | some c => .inr c
  | _ => .inl 0x0006

/-- DEBUG_HALT (R542). -/
def execDebugHalt (k : Nat) (s : State) : Out :=
  s.doneMem (s.onImage k 0x0040 fun q _ im =>
    match debugCheck im q with
    | .inl d => (s.finalReply k 0x22 d [], .none)
    | .inr c => ((((s.dbgCtrl c (DBG_CTRL.HALT.put 0 (pkArg q.packet 2 1))).claimBegun k)).haltAnswers, .none))

/-- DEBUG_RESUME (R539, R542). -/
def execDebugResume (k : Nat) (s : State) : Out :=
  s.doneMem (s.onImage k 0x0041 fun q _ im =>
    match debugCheck im q with
    | .inl d => (s.finalReply k 0x22 d [], .none)
    | .inr c =>
      let v := DBG_CTRL.STEP.put (DBG_CTRL.RESUME.put 0 (pkArg q.packet 2 1)) (pkArg q.packet 3 1 % 2)
      ((s.dbgCtrl c v).finalReply k 0 0 [], .none))

/-! Spaces -/

/-- Thread registers by the numbers of space 0 (R543). -/
def State.dbgReg (s : State) (c : CoreId) (t : Thr) (n : Nat) : Option Word :=
  let th := s.thr c t
  if n < 0x200 then s.sysRead c t n
  else if 0x1000 ≤ n ∧ n < 0x1040 then some (th.readReg (n - 0x1000))
  else if 0x1040 ≤ n ∧ n < 0x1048 then some (th.readP (n - 0x1040))
  else if n = 0x1050 then some (addrWord th.pc)
  else if 0x1080 ≤ n ∧ n < 0x1090 then some (addrWord (th.rstack.getD (n - 0x1080) 0))
  else if h : 0x10C0 ≤ n ∧ n < 0x10E0 then some (th.replay[n - 0x10C0]'(by omega))
  else none

/-- A thread register written by its own field map (R543). -/
def State.dbgSetReg (s : State) (c : CoreId) (t : Thr) (n : Nat) (v : Word) : State :=
  if n = 0x40 then s.modThr c t fun th => { th with rsctl := fieldsWrite RSCTL th.rsctl v }
  else if n < 0x200 then (if (sysWriter n).isSome then s.sysWrite c t n v else s)
  else if n < 0x1040 then s.modThr c t (·.writeReg (n - 0x1000) v)
  else if n < 0x1048 then s.modThr c t (·.writeP (n - 0x1040) v)
  else if n = 0x1050 then s.modThr c t fun th => { th with pc := loopAddr v }
  else if n < 0x1090 then s.modThr c t fun th => { th with rstack := listSet th.rstack (n - 0x1080) (loopAddr v) }
  else if h : 0x10C0 ≤ n ∧ n < 0x10E0 then s.modThr c t fun th => { th with replay := th.replay.set (n - 0x10C0) v (by omega) }
  else s

/-- What an access of one word answers: none where it is a breach. -/
abbrev WordOut (β : Type) := Option β × State × MemUpd

/-- Accesses of words in turn, up to the first breach; what they answered, and whether all were made. -/
def State.words {α β : Type} (f : State → α → WordOut β) : State → List α → List β × Bool × State × MemUpd
  | s, [] => ([], true, s, .none)
  | s, a :: as =>
    match f s a with
    | (none, s, u) => ([], false, s, u)
    | (some b, s, u) =>
      let r := State.words f s as
      (b :: r.1, r.2.1, r.2.2.1, u.then r.2.2.2)

/-- Where a debug access of a word of an image's virtual memory goes, through the named core (R110, R114, R543). -/
def State.dbgXlat (s : State) (im : Image) (c va : Nat) (write : Bool) : Option Nat :=
  let tlb := (s.core c).tlb
  let x := if handleWindow ≤ va then s.handleAccess c true tlb va write else translate true tlb va false write
  let pa (x : Xlat) : Option Nat := match x with
    | .ok pa _ _ => some pa
    | _ => none
  match x with
  | .walk v =>
    let e := s.pte im (v / 2 ^ 21)
    if PTE2.V.get e = 1 ∧ !badEntry e then pa (entryCheck e v false write) else none
  | x => pa x

/-- Whether a word's access is kept from its home: an absent address, control space that the thread may not reach; a denial
of the protection table is logged (R99, R102, R492). -/
def State.dbgBarred (s : State) (c : CoreId) (t : Thr) (pa : Nat) (write : Bool) (v : Word) : Bool × State :=
  if s.rptDenies pa 3 write then (true, s.rptLog pa 3 write)
  else match homeOf s.ilv pa with
    | .absent => (true, s)
    | .control => (decide (pa < coreBlk c ∨ coreBlk c + 0x1_0000 ≤ pa) || s.ctrlDenied c t (pa - coreBlk c) write 8 v, s)
    | _ => (false, s)

/-- A word of an image's virtual memory read as LDU of a core reads it; poison reads as zeros (R161, R543). -/
def State.dbgLoad (im : Image) (c : CoreId) (t : Thr) (s : State) (va : Nat) : WordOut (List Byte × Bool) :=
  match s.dbgXlat im c va false with
  | none => (none, s, .none)
  | some pa =>
    let (barred, s) := s.dbgBarred c t pa false 0
    if barred then (none, s, .none)
    else match homeOf s.ilv pa with
      | .control => (some (s.ctrlBytes pa 8, false), s, .none)
      | .host _ => let (v, s) := s.draw; (some (toBytes 8 v.toNat, false), s, .none)
      | _ =>
        let as := (List.range 8).map (pa + ·)
        let own := s.dirtyAt c as
        if as.any fun a => s.badByte a && (tabFind own a).isNone then (some (zeros 8, true), s, .none)
        else (some (as.map fun a => tabGet (memByte s.mem a) own a, false), s, .none)

/-- A word of an image's virtual memory written as STU of a core writes it (R161, R543). -/
def State.dbgStore (im : Image) (c : CoreId) (t : Thr) (s : State) (w : Nat × List Byte) : WordOut Unit :=
  match s.dbgXlat im c w.1 true with
  | none => (none, s, .none)
  | some pa =>
    let (barred, s) := s.dbgBarred c t pa true (BitVec.ofNat 64 (ofBytes w.2))
    if barred then (none, s, .none)
    else match homeOf s.ilv pa with
      | .control => (some (), s.ctrlWrite pa w.2, .none)
      | .host p => (some (), s.hostWrite p (s.hostAddr p pa) w.2 false, .none)
      | _ =>
        let tag := pa / 64
        let s := if s.dcOn c then
            ((s.dcUpdate c tag fun l => l.update (pa % 64) w.2).modCore c fun q =>
              { q with side := q.side.map fun l => if l.tag = tag then l.update (pa % 64) w.2 else l }).cancelFills c false (· = tag)
          else s
        let r := s.writeHome (runOf pa w.2)
        (some (), r.1.countFailed ((List.range 8).map (pa + ·)), r.2)

/-- A word of a core's control block (R543). -/
def State.dbgCtrlLoad (c : CoreId) (s : State) (o : Nat) : WordOut (List Byte × Bool) :=
  if 0x1_0000 ≤ o then (none, s, .none)
  else if s.rptDenies (coreBlk c + o) 3 false then (none, s.rptLog (coreBlk c + o) 3 false, .none)
  else (some (s.ctrlBytes (coreBlk c + o) 8, false), s, .none)
def State.dbgCtrlStore (c : CoreId) (s : State) (w : Nat × List Byte) : WordOut Unit :=
  if w.1 < 0x8000 ∨ 0x8040 ≤ w.1 then (none, s, .none)
  else if s.rptDenies (coreBlk c + w.1) 3 true then (none, s.rptLog (coreBlk c + w.1) 3 true, .none)
  else (some (), s.ctrlWrite (coreBlk c + w.1) w.2, .none)

/-- The bytes of a row of a tile. -/
def Core.tileRow (q : Core) (i r : Nat) : List Byte := if i < 16 then (q.tTile i).row r else (q.zTile (i - 16)).row r

/-- Whether a row of 64 bytes holds a word of a tile: the tile is HELD, and its shape has the word. -/
def Core.hasWord (q : Core) (i r o : Nat) : Bool :=
  q.held i && (decide (16 ≤ i) || (decide (r < (q.tTile i).rows) && decide (o < (q.tTile i).rowBytes)))

/-- A word of a tile; one that the tile does not hold is a free value (R221, R543; log 7). -/
def State.dbgTileLoad (c : CoreId) (s : State) (a : Nat) : WordOut (List Byte × Bool) :=
  let (i, r, o) := (a / 0x800, a % 0x800 / 64, a % 64)
  if 24 ≤ i then (none, s, .none)
  else if (s.core c).hasWord i r o then
    let (v, s') := s.draw
    let row := (s.core c).tileRow i r
    if o + 8 ≤ row.length then (some ((row.drop o).take 8, false), s, .none)
    else (some (((row ++ toBytes 8 v.toNat).drop o).take 8, false), s', .none)
  else
    let (v, s) := s.draw
    (some (toBytes 8 v.toNat, false), s, .none)
def State.dbgTileStore (c : CoreId) (s : State) (w : Nat × List Byte) : WordOut Unit :=
  let (i, r, o) := (w.1 / 0x800, w.1 % 0x800 / 64, w.1 % 64)
  if 24 ≤ i ∨ !(s.core c).held i then (none, s, .none)
  else
    let row := ((s.core c).tileRow i r ++ zeros 64).take 64
    (some (), s.modCore c (·.writeRow i r (row.take o ++ w.2 ++ row.drop (o + 8))), .none)

/-! DEBUG_READ and DEBUG_WRITE -/

/-- What a DEBUG_READ or DEBUG_WRITE names. -/
structure DbgReq where
  core : CoreId
  thr : Thr
  space : Nat
  addr : Nat
  len : Nat
  buf : Nat
deriving DecidableEq, Repr

/-- The form of the request, or the detail that refuses it (R543). -/
def State.dbgReq (s : State) (im : Image) (q : Claimed) : Nat ⊕ DbgReq :=
  let (t, space, addr, len) := (pkArg q.packet 2 1, pkArg q.packet 3 1, pkArg q.packet 8 8, pkArg q.packet 0x10 8)
  match q.debugCore im with
  | none => .inl 0x0007
  | some c =>
    let c : CoreId := Fin.ofNat 1152 c
    let tt : Thr := Fin.ofNat 4 t
    let idle := threads.all fun t => !(s.thr c t).live
    if 4 ≤ t ∨ 4 ≤ space then .inl 0x0007
    else if space = 0 ∧ (len ≠ 8 ∨ (s.dbgReg c tt addr).isNone) then .inl 0x0007
    else if space ≠ 0 ∧ (len % 8 ≠ 0 ∨ len < 8 ∨ 65536 < len ∨ addr % 8 ≠ 0) then .inl 0x0007
    else if (space = 0 ∧ (s.thr c tt).st ≠ .halted) ∨ (space = 3 ∧ !idle) then .inl 0x0006
    else .inr ⟨c, tt, space, addr, len, pkArg q.packet 0x18 8⟩

/-- The words of a request's range. -/
def DbgReq.places (r : DbgReq) : List Nat := (List.range (r.len / 8)).map fun i => r.addr + 8 * i

/-- The words a request reads. -/
def State.dbgRead (s : State) (im : Image) (r : DbgReq) : List (List Byte × Bool) × Bool × State × MemUpd :=
  match r.space with
  | 0 =>
    let s := if r.addr = 0x112 then s.hscdRuns r.core r.thr else s
    ([(toBytes 8 ((s.dbgReg r.core r.thr r.addr).getD 0).toNat, false)], true, s, .none)
  | 1 => State.words (State.dbgLoad im r.core r.thr) s r.places
  | 2 => State.words (State.dbgCtrlLoad r.core) s r.places
  | _ => State.words (State.dbgTileLoad r.core) s r.places

/-- The words a request writes. -/
def State.dbgWrite (s : State) (im : Image) (r : DbgReq) (bs : List Byte) : Bool × State × MemUpd :=
  let ws := r.places.zipWith (fun a i => (a, (bs.drop (8 * i)).take 8)) (List.range (r.len / 8))
  match r.space with
  | 0 => (true, s.dbgSetReg r.core r.thr r.addr (BitVec.ofNat 64 (ofBytes bs)), .none)
  | 1 => (State.words (State.dbgStore im r.core r.thr) s ws).2
  | 2 => (State.words (State.dbgCtrlStore r.core) s ws).2
  | _ => (State.words (State.dbgTileStore r.core) s ws).2

/-- DEBUG_READ (R543). -/
def execDebugRead (k : Nat) (s : State) : Out :=
  s.doneMem (s.onImage k 0x0042 fun q _ im =>
    match s.dbgReq im q with
    | .inl d => (s.finalReply k 0x22 d [], .none)
    | .inr r =>
      let (l, whole, s, u) := s.dbgRead im r
      let e := copyEnd whole (l.any (·.2))
      ((s.hostPut q.port r.buf (l.flatMap fun w => w.1.map fun b => (b, false))).finalReply k e.1 e.2 [], u))

/-- DEBUG_WRITE (R543). -/
def execDebugWrite (k : Nat) (bytes : HostData) (s : State) : Out :=
  s.doneMem (s.onImage k 0x0043 fun q _ im =>
    match s.dbgReq im q with
    | .inl d => (s.finalReply k 0x22 d [], .none)
    | .inr r =>
      let host : Option (List Byte) := match bytes with
        | .data bs => if bs.length = r.len then some bs else none
        | _ => none
      match host with
      | none => ((s.hostReadFailed q.port bytes).finalReply k 0x22 0x0008 [], .none)
      | some bs =>
        let (whole, s, u) := s.dbgWrite im r bs
        let e := copyEnd whole false
        (s.finalReply k e.1 e.2 [], u))

/-! DEBUG_SYNC_SET -/

/-- The arrival bits of a word of workload cores, and a completed phase where they make the mask whole (R371, R544). -/
def State.setArrivals (s : State) (im : Image) (u word value : Nat) : State :=
  let js := ((List.range 64).filterMap fun j => ((im.core (64 * word + j)).bind s.activeOf).map fun a => (a, bit value j))
  let old (j : Nat) : Bool := s.mask (aARR u) j
  let s := s.setMask (aARR u) fun j => match js.find? (·.1 = j) with
    | some (_, b) => b && s.mask (aMASK u) j
    | none => old j
  if s.allArrived u then s.completePhase u else s

/-- A unit's PHASE takes a value: waits and notifications of earlier phases are released, the arrival mask stands (R370, R544). -/
def State.setPhase (s : State) (u value : Nat) : State :=
  let s := s.setFld (aBU1 u) BU1.PHASE value
  let hit (p : Parked) : Bool := p.obj == .barrier u && decide (p.amount < s.phase u)
  let ps := s.parked.filter hit
  let s := ({ s with parked := s.parked.filter fun p => !hit p } : State).forAll ps fun s p => s.releaseWait p
  (s.notify (.barrier u) fun a => decide (a < s.phase u)).parkStat (.barrier u)

/-- DEBUG_SYNC_SET (R371, R544). -/
def execDebugSyncSet (k : Nat) (s : State) : Out :=
  s.doneMem (s.onImage k 0x0044 fun q slot im =>
    let d := BitVec.ofNat 64 (pkArg q.packet 0 8)
    let (value, fn, word) := (pkArg q.packet 8 8, pkArg q.packet 0x10 1, pkArg q.packet 0x11 1)
    let no (detail : Nat) : State × MemUpd := (s.finalReply k 0x22 detail [], .none)
    let yes (s : State) : State × MemUpd := (s.finalReply k 0 0 [], .none)
    if SC.MODE.get d ≠ 0 ∨ SC.WAIT_N.get d ≠ 0 ∨ SC.SIG_N.get d ≠ 0 ∨ 2 < fn ∨ 15 < word ∨ (fn = 0 ∧ 2 ^ 32 ≤ value) then no 0x0002
    else match s.descObj slot im d with
      | none => no 0x0007
      | some (.counter k i) => if fn = 0 then yes (s.setCounter k i value) else no 0x0007
      | some (.barrier u) =>
        if fn = 0 then no 0x0007
        else if fn = 1 then
          (if (List.range 64).any fun j => bit value j && (im.core (64 * word + j)).isNone then no 0x0007
          else yes (s.setArrivals im u word value))
        else yes (s.setPhase u value))

/-! JTAG (R545, R546) -/

/-- A TAP selects an instruction, with what its data register then captures; while PWR_GOOD is low JTAG is ignored (R545,
R566). -/
def State.tapSelect (s : State) (d : Die) (ir : Byte) (dr : Nat) : State :=
  if !s.pins.pwrGood then s else s.modMgmt fun m => { m with taps := m.taps.set d { ir := ir, dr := dr } }

/-- The data register of an instruction that the spec gives no contents: what a TAP held. -/
def State.tapHeld (s : State) (d : Die) : Nat := s.mgmt.taps[d].dr

/-- EXTEST (R545). -/
def execExtest (d : Die) (s : State) : Out := s.done (s.tapSelect d 0x00 (s.tapHeld d))

/-- The device code (R545); the vendor's JEP106 code is fused and free (log 4). -/
def State.idcode (s : State) : Nat :=
  1 + (Config.jep106.toNat) * 2 + (0x4B10 + s.grade.val) * 2 ^ 12 + 0xB * 2 ^ 28

/-- IDCODE (R545). -/
def execIdcode (d : Die) (s : State) : Out := s.done (s.tapSelect d 0x01 s.idcode)

/-- SAMPLE/PRELOAD (R545). -/
def execSamplePreload (d : Die) (s : State) : Out := s.done (s.tapSelect d 0x02 (s.tapHeld d))

/-- BYPASS: the one-bit register, which captures 0 (R545; PRESUMED, IEEE 1149.1). -/
def execBypass (d : Die) (s : State) : Out := s.done (s.tapSelect d 0xFF 0)

/-- JTAG_TRST: every TAP is in Test-Logic-Reset, which selects IDCODE (R545; PRESUMED, IEEE 1149.1). -/
def execJtagTrst (s : State) : Out :=
  s.done ([0, 1, 2, 3].foldl (fun (s : State) (d : Die) => s.tapSelect d 0x01 (s.tapHeld d)) s)

/-- What Capture-DR of DBG_ACCESS loads: DATA, ERR and BUSY (R546). -/
def Mgmt.captured (m : Mgmt) : Nat := m.jtagData.toNat + b2n m.jtagErr * 2 ^ 113 + b2n m.jtag.isSome * 2 ^ 114

/-- Capture-DR of DBG_ACCESS on die 0. -/
def State.capture (s : State) : State := s.tapSelect 0 0x08 s.mgmt.captured

/-- Whether a physical address is populated: memory, control blocks and host windows (R89, R100). -/
def State.populated (s : State) (pa : Nat) : Bool :=
  match homeOf s.ilv pa with
  | .absent => false
  | .control => ctrlPopulated pa
  | _ => true

/-- An access of DBG_ACCESS ends: data, or ERR and 0 (R546). -/
def State.jtagEnd (s : State) (v : Option Word) (err : Bool) : State :=
  s.modMgmt fun m => { m with jtag := none, jtagErr := err, jtagData := v.getD m.jtagData }

/-- JTAG_DBG_ACCESS: Update-DR of DBG_ACCESS starts an access of 8 bytes at the home of a physical address; ignored while one is
under way (R546, R566). -/
def execJtagDbgAccess (addr : BitVec 48) (write : Bool) (data : Word) (s : State) : Out :=
  s.done (
    let pa := addr.toNat
    if !s.pins.pwrGood || s.mgmt.jtag.isSome then s
    else if pa % 8 ≠ 0 ∨ !s.populated pa then (s.jtagEnd (some 0) true).capture
    else
      let op : MemOp := if write then .write (runOf pa (toBytes 8 data.toNat)) else .read ((List.range 8).map (pa + ·))
      let id := s.nextId
      ((s.send .debug pa op .jtag [] none).modMgmt fun m => { m with jtag := some (id, write) }).capture)

/-- JTAG_ACCESS_DONE: the access has been performed, or denied; BUSY clears (R546). A poisoned word's value is free. -/
def execJtagAccessDone (s : State) : Out :=
  s.done (match s.mgmt.jtag with
    | none => s
    | some (id, write) =>
      match s.txn id with
      | none => (s.jtagEnd (some 0) true).capture
      | some x =>
        if !x.answered then s
        else
          let s := s.dropTxn id
          if x.stage ≠ .performed then (s.jtagEnd (some 0) true).capture
          else if write then (s.jtagEnd none false).capture
          else if x.poisoned.isEmpty then (s.jtagEnd (some (BitVec.ofNat 64 (ofBytes x.result))) false).capture
          else
            let (v, s) := s.draw
            (s.jtagEnd (some v) false).capture)

end Sys2Proof.Machine
end

