-- ==== Sys2Proof/Machine/Float.lean ====
section
/-! DEFINITION. Scalar FP32 instructions, major 0x02 (R156, R206, R290-R304). -/

namespace Sys2Proof.Machine

/-- The rounding of a thread's next rounded result, and the thread after it (R262, R297). -/
def Thread.rounding (th : Thread) : RMode × Thread :=
  if FPCTL.RMODE.get th.fpctl = 2 then
    let x := lfsrStep th.lfsr
    (⟨2, x.toNat⟩, { th with lfsr := x })
  else (⟨FPCTL.RMODE.get th.fpctl, 0⟩, th)

/-- The value of the FP32 number in bits [31:0] of a register. -/
def f32 (w : Word) : FVal := fp32.value (w.toNat % 2 ^ 32)

/-- A scalar FP32 instruction of function `fn` with `n` sources. `rounds`: its result is rounded (log 14).
With PRECISE = 1 it completes before the thread issues again (R207). -/
def State.kFloat (s : State) (c : CoreId) (t : Thr) (w : Word) (fn n : Nat) (rounds : Bool)
    (f : RMode → Word → Word → Word → Nat × FFlags) : State :=
  let srcs := [kRs1 w, kRs2 w, kRs3 w].take n
  s.issue c t w (fun w => wMajor w == 2 && kFn w == fn)
    (fun _ => checks [(kRes w != 0, 0x03), (!(kRd w :: srcs).all isD, 0x04)]) (kRd w :: srcs)
    fun _ s => (s.modThr c t fun th =>
      let (r, th) := if rounds then th.rounding else (RMode.rne, th)
      let (v, fl) := f r (th.readReg (kRs1 w)) (th.readReg (kRs2 w)) (th.readReg (kRs3 w))
      (th.writeReg (kRd w) (BitVec.ofNat 64 v)).raiseArith fl th.wordAddr, if FPCTL.PRECISE.get (s.thr c t).fpctl = 1 then .now else .due)

/-- A binary operation rounded to FP32. -/
def fRound (r : RMode) (v : FVal × Bool) : Nat × FFlags := withNv v.2 (fp32.write r v.1)

/-- FADD (R156). -/
def execFadd (c : CoreId) (t : Thr) (w : Word) (s : State) : Out :=
  s.done (s.kFloat c t w 0x00 2 true fun r a b _ => fRound r ((f32 a).add (f32 b)))

/-- FSUB (R156). -/
def execFsub (c : CoreId) (t : Thr) (w : Word) (s : State) : Out :=
  s.done (s.kFloat c t w 0x01 2 true fun r a b _ => fRound r ((f32 a).add (f32 b).neg))

/-- FMUL (R156). -/
def execFmul (c : CoreId) (t : Thr) (w : Word) (s : State) : Out :=
  s.done (s.kFloat c t w 0x02 2 true fun r a b _ => fRound r ((f32 a).mul (f32 b)))

/-- FFMA: one rounding of rs1 x rs2 + rs3 (R156, R293). -/
def execFfma (c : CoreId) (t : Thr) (w : Word) (s : State) : Out :=
  s.done (s.kFloat c t w 0x03 3 true fun r a b d =>
    let p := (f32 a).mul (f32 b)
    withNv p.2 (fRound r (p.1.add (f32 d))))

/-- FMIN (R304). -/
def execFmin (c : CoreId) (t : Thr) (w : Word) (s : State) : Out :=
  s.done (s.kFloat c t w 0x04 2 false fun r a b _ => fp32.write r ((f32 a).minMax false (f32 b)))

/-- FMAX (R304). -/
def execFmax (c : CoreId) (t : Thr) (w : Word) (s : State) : Out :=
  s.done (s.kFloat c t w 0x05 2 false fun r a b _ => fp32.write r ((f32 a).minMax true (f32 b)))

/-- A comparison; `nv`: a NaN operand is the invalid case (R293, R303). -/
def fCompare (nv : Bool) (ok : Ordering → Bool) (a b : Word) : Nat × FFlags :=
  match (f32 a).cmp (f32 b) with
  | some o => (b2n (ok o), .none)
  | none => (0, ⟨nv, false, false, false⟩)

/-- FEQ (R303). -/
def execFeq (c : CoreId) (t : Thr) (w : Word) (s : State) : Out :=
  s.done (s.kFloat c t w 0x06 2 false fun _ a b _ => fCompare false (· == .eq) a b)

/-- FLT (R303). -/
def execFlt (c : CoreId) (t : Thr) (w : Word) (s : State) : Out :=
  s.done (s.kFloat c t w 0x07 2 false fun _ a b _ => fCompare true (· == .lt) a b)

/-- FLE (R303). -/
def execFle (c : CoreId) (t : Thr) (w : Word) (s : State) : Out :=
  s.done (s.kFloat c t w 0x08 2 false fun _ a b _ => fCompare true (· != .gt) a b)

/-- FCVT.S.W: signed INT32 to FP32 (R302). -/
def execFcvtSW (c : CoreId) (t : Thr) (w : Word) (s : State) : Out :=
  s.done (s.kFloat c t w 0x09 1 true fun r a _ _ => fp32.round r (sext 32 a.toNat) 0)

/-- FCVT.W.S: FP32 to signed INT32 (R301). -/
def execFcvtWS (c : CoreId) (t : Thr) (w : Word) (s : State) : Out :=
  s.done (s.kFloat c t w 0x0A 1 true fun r a _ _ => toIntBits 32 r (f32 a))

/-- FABS; of a NaN the canonical NaN, of a zero +0 (R156, R290-R292). -/
def execFabs (c : CoreId) (t : Thr) (w : Word) (s : State) : Out :=
  s.done (s.kFloat c t w 0x0B 1 false fun r a _ _ =>
    fp32.write r (match f32 a with
      | .fin m e => .fin m.natAbs e
      | .inf _ => .inf false
      | .nan => .nan))

/-- FNEG; of a NaN the canonical NaN, of a zero +0 (R291). -/
def execFneg (c : CoreId) (t : Thr) (w : Word) (s : State) : Out :=
  s.done (s.kFloat c t w 0x0C 1 false fun r a _ _ => fp32.write r (f32 a).neg)

end Sys2Proof.Machine
end

