-- ==== Sys2Proof/Machine/Dispatch.lean ====
section
/-! DEFINITION. One arm per command: a direct call of its meaning. -/

namespace Sys2Proof.Machine

def exec (i : Instr) (s : State) : Host.Outcome State Fault Refusal :=
  match i with
  | .govWindowEnd counts sensors pin => Sys2Proof.Machine.execGovWindowEnd counts sensors pin s
  | .guaranteeBreach rail => Sys2Proof.Machine.execGuaranteeBreach rail s
  | .fmcStart m => Sys2Proof.Machine.execFmcStart m s
  | .fmcDone m count => Sys2Proof.Machine.execFmcDone m count s
  | .fmcTimeout m => Sys2Proof.Machine.execFmcTimeout m s
  | .pwrReqSummer => Sys2Proof.Machine.execPwrReqSummer s
  | .pwrReqAutumn => Sys2Proof.Machine.execPwrReqAutumn s
  | .pwrReqWinter => Sys2Proof.Machine.execPwrReqWinter s
  | .powerStateReached => Sys2Proof.Machine.execPowerStateReached s
  | .clkdOppWrite n opp => Sys2Proof.Machine.execClkdOppWrite n opp s
  | .clkdSeqStepDone n => Sys2Proof.Machine.execClkdSeqStepDone n s
  | .clkdSrcWrite n src => Sys2Proof.Machine.execClkdSrcWrite n src s
  | .clkdSwitchDone n => Sys2Proof.Machine.execClkdSwitchDone n s
  | .clkdLoopLock n => Sys2Proof.Machine.execClkdLoopLock n s
  | .clockSourceLost n => Sys2Proof.Machine.execClockSourceLost n s
  | .domainWatchdogExpiry n => Sys2Proof.Machine.execDomainWatchdogExpiry n s
  | .crystalStopped => Sys2Proof.Machine.execCrystalStopped s
  | .supplyWarning vin => Sys2Proof.Machine.execSupplyWarning vin s
  | .supplyWarningClear vin => Sys2Proof.Machine.execSupplyWarningClear vin s
  | .undervoltageReset samples => Sys2Proof.Machine.execUndervoltageReset samples s
  | .overvoltageReset samples => Sys2Proof.Machine.execOvervoltageReset samples s
  | .restartQualified => Sys2Proof.Machine.execRestartQualified s
  | .registerWrite src addr data four => Sys2Proof.Machine.execRegisterWrite src addr data four s
  | .loadImage k bytes => Sys2Proof.Machine.execLoadImage k bytes s
  | .admission => Sys2Proof.Machine.execAdmission s
  | .start k => Sys2Proof.Machine.execStart k s
  | .invocationBegin slot => Sys2Proof.Machine.execInvocationBegin slot s
  | .startFloorTimeout slot => Sys2Proof.Machine.execStartFloorTimeout slot s
  | .invocationEnd slot => Sys2Proof.Machine.execInvocationEnd slot s
  | .stop k => Sys2Proof.Machine.execStop k s
  | .unload k => Sys2Proof.Machine.execUnload k s
  | .portGrant port waiting => Sys2Proof.Machine.execPortGrant port waiting s
  | .quotaFrameEnd port => Sys2Proof.Machine.execQuotaFrameEnd port s
  | .attachmentFrameEnd port => Sys2Proof.Machine.execAttachmentFrameEnd port s
  | .bar2Read p off len => Sys2Proof.Machine.execBar2Read p off len s
  | .bar2Write p off data poisoned => Sys2Proof.Machine.execBar2Write p off data poisoned s
  | .bar2Atomicop p off op size v cmp => Sys2Proof.Machine.execBar2Atomicop p off op size v cmp s
  | .homeRead id => Sys2Proof.Machine.execHomeRead id s
  | .homeWrite id => Sys2Proof.Machine.execHomeWrite id s
  | .homeAtomic id => Sys2Proof.Machine.execHomeAtomic id s
  | .accessResponse id => Sys2Proof.Machine.execAccessResponse id s
  | .requestTimeout id => Sys2Proof.Machine.execRequestTimeout id s
  | .pageWalk id => Sys2Proof.Machine.execPageWalk id s
  | .pageWalkReadDone id => Sys2Proof.Machine.execPageWalkReadDone id s
  | .pageInReport who => Sys2Proof.Machine.execPageInReport who s
  | .pageInDone slot vpn => Sys2Proof.Machine.execPageInDone slot vpn s
  | .pageOut slot vpn => Sys2Proof.Machine.execPageOut slot vpn s
  | .trInvAll c => Sys2Proof.Machine.execTrInvAll c s
  | .trInvOne c vpn => Sys2Proof.Machine.execTrInvOne c vpn s
  | .trInvComplete c => Sys2Proof.Machine.execTrInvComplete c s
  | .add c t w => Sys2Proof.Machine.execAdd c t w s
  | .sub c t w => Sys2Proof.Machine.execSub c t w s
  | .mul c t w => Sys2Proof.Machine.execMul c t w s
  | .mulh c t w => Sys2Proof.Machine.execMulh c t w s
  | .mulhu c t w => Sys2Proof.Machine.execMulhu c t w s
  | .div c t w => Sys2Proof.Machine.execDiv c t w s
  | .divu c t w => Sys2Proof.Machine.execDivu c t w s
  | .rem c t w => Sys2Proof.Machine.execRem c t w s
  | .remu c t w => Sys2Proof.Machine.execRemu c t w s
  | .and c t w => Sys2Proof.Machine.execAnd c t w s
  | .or c t w => Sys2Proof.Machine.execOr c t w s
  | .xor c t w => Sys2Proof.Machine.execXor c t w s
  | .shl c t w => Sys2Proof.Machine.execShl c t w s
  | .shr c t w => Sys2Proof.Machine.execShr c t w s
  | .sar c t w => Sys2Proof.Machine.execSar c t w s
  | .min c t w => Sys2Proof.Machine.execMin c t w s
  | .max c t w => Sys2Proof.Machine.execMax c t w s
  | .minu c t w => Sys2Proof.Machine.execMinu c t w s
  | .maxu c t w => Sys2Proof.Machine.execMaxu c t w s
  | .slt c t w => Sys2Proof.Machine.execSlt c t w s
  | .sltu c t w => Sys2Proof.Machine.execSltu c t w s
  | .seq c t w => Sys2Proof.Machine.execSeq c t w s
  | .sel c t w => Sys2Proof.Machine.execSel c t w s
  | .popc c t w => Sys2Proof.Machine.execPopc c t w s
  | .clz c t w => Sys2Proof.Machine.execClz c t w s
  | .mov c t w => Sys2Proof.Machine.execMov c t w s
  | .fadd c t w => Sys2Proof.Machine.execFadd c t w s
  | .fsub c t w => Sys2Proof.Machine.execFsub c t w s
  | .fmul c t w => Sys2Proof.Machine.execFmul c t w s
  | .ffma c t w => Sys2Proof.Machine.execFfma c t w s
  | .fmin c t w => Sys2Proof.Machine.execFmin c t w s
  | .fmax c t w => Sys2Proof.Machine.execFmax c t w s
  | .feq c t w => Sys2Proof.Machine.execFeq c t w s
  | .flt c t w => Sys2Proof.Machine.execFlt c t w s
  | .fle c t w => Sys2Proof.Machine.execFle c t w s
  | .fcvtSW c t w => Sys2Proof.Machine.execFcvtSW c t w s
  | .fcvtWS c t w => Sys2Proof.Machine.execFcvtWS c t w s
  | .fabs c t w => Sys2Proof.Machine.execFabs c t w s
  | .fneg c t w => Sys2Proof.Machine.execFneg c t w s
  | .addi c t w => Sys2Proof.Machine.execAddi c t w s
  | .andi c t w => Sys2Proof.Machine.execAndi c t w s
  | .ori c t w => Sys2Proof.Machine.execOri c t w s
  | .xori c t w => Sys2Proof.Machine.execXori c t w s
  | .shli c t w => Sys2Proof.Machine.execShli c t w s
  | .shri c t w => Sys2Proof.Machine.execShri c t w s
  | .sari c t w => Sys2Proof.Machine.execSari c t w s
  | .li c t w => Sys2Proof.Machine.execLi c t w s
  | .lih c t w => Sys2Proof.Machine.execLih c t w s
  | .slti c t w => Sys2Proof.Machine.execSlti c t w s
  | .haddr c t w => Sys2Proof.Machine.execHaddr c t w s
  | .ld c t w => Sys2Proof.Machine.execLd c t w s
  | .st c t w => Sys2Proof.Machine.execSt c t w s
  | .ldu c t w => Sys2Proof.Machine.execLdu c t w s
  | .stu c t w => Sys2Proof.Machine.execStu c t w s
  | .pref c t w => Sys2Proof.Machine.execPref c t w s
  | .clean c t w => Sys2Proof.Machine.execClean c t w s
  | .inv c t w => Sys2Proof.Machine.execInv c t w s
  | .clinv c t w => Sys2Proof.Machine.execClinv c t w s
  | .icinv c t w => Sys2Proof.Machine.execIcinv c t w s
  | .atomr c t w => Sys2Proof.Machine.execAtomr c t w s
  | .atomp c t w => Sys2Proof.Machine.execAtomp c t w s
  | .br c t w => Sys2Proof.Machine.execBr c t w s
  | .beq c t w => Sys2Proof.Machine.execBeq c t w s
  | .bne c t w => Sys2Proof.Machine.execBne c t w s
  | .blt c t w => Sys2Proof.Machine.execBlt c t w s
  | .bge c t w => Sys2Proof.Machine.execBge c t w s
  | .bltu c t w => Sys2Proof.Machine.execBltu c t w s
  | .bgeu c t w => Sys2Proof.Machine.execBgeu c t w s
  | .call c t w => Sys2Proof.Machine.execCall c t w s
  | .jr c t w => Sys2Proof.Machine.execJr c t w s
  | .callr c t w => Sys2Proof.Machine.execCallr c t w s
  | .ret c t w => Sys2Proof.Machine.execRet c t w s
  | .loopi c t w => Sys2Proof.Machine.execLoopi c t w s
  | .loopr c t w => Sys2Proof.Machine.execLoopr c t w s
  | .lexit c t w => Sys2Proof.Machine.execLexit c t w s
  | .repi c t w => Sys2Proof.Machine.execRepi c t w s
  | .repr c t w => Sys2Proof.Machine.execRepr c t w s
  | .recWords c t w => Sys2Proof.Machine.execRecWords c t w s
  | .replay c t w => Sys2Proof.Machine.execReplay c t w s
  | .pmov c t w => Sys2Proof.Machine.execPmov c t w s
  | .paddi c t w => Sys2Proof.Machine.execPaddi c t w s
  | .pget c t w => Sys2Proof.Machine.execPget c t w s
  | .nop c t w => Sys2Proof.Machine.execNop c t w s
  | .mfence c t w => Sys2Proof.Machine.execMfence c t w s
  | .mfs c t w => Sys2Proof.Machine.execMfs c t w s
  | .mts c t w => Sys2Proof.Machine.execMts c t w s
  | .irlClear c => Sys2Proof.Machine.execIrlClear c s
  | .trap c t w => Sys2Proof.Machine.execTrap c t w s
  | .brk c t w => Sys2Proof.Machine.execBrk c t w s
  | .rte c t w => Sys2Proof.Machine.execRte c t w s
  | .tstart c t w => Sys2Proof.Machine.execTstart c t w s
  | .texit c t w => Sys2Proof.Machine.execTexit c t w s
  | .rspush c t w => Sys2Proof.Machine.execRspush c t w s
  | .rspop c t w => Sys2Proof.Machine.execRspop c t w s
  | .dcsw c t w => Sys2Proof.Machine.execDcsw c t w s
  | .instructionComplete c t k => Sys2Proof.Machine.execInstructionComplete c t k s
  | .threadSwitch c => Sys2Proof.Machine.execThreadSwitch c s
  | .hscdExpiry c t => Sys2Proof.Machine.execHscdExpiry c t s
  | .exceptionEntry c t => Sys2Proof.Machine.execExceptionEntry c t s
  | .lockupService c => Sys2Proof.Machine.execLockupService c s
  | .tcfg c t w => Sys2Proof.Machine.execTcfg c t w s
  | .trel c t w => Sys2Proof.Machine.execTrel c t w s
  | .trela c t w => Sys2Proof.Machine.execTrela c t w s
  | .tstat c t w => Sys2Proof.Machine.execTstat c t w s
  | .tld c t w => Sys2Proof.Machine.execTld c t w s
  | .tileRowArrival id => Sys2Proof.Machine.execTileRowArrival id s
  | .tst c t w => Sys2Proof.Machine.execTst c t w s
  | .tctxs c t w => Sys2Proof.Machine.execTctxs c t w s
  | .tctxr c t w => Sys2Proof.Machine.execTctxr c t w s
  | .mma c t w => Sys2Proof.Machine.execMma c t w s
  | .mmaz c t w => Sys2Proof.Machine.execMmaz c t w s
  | .mmap c t w => Sys2Proof.Machine.execMmap c t w s
  | .mmapz c t w => Sys2Proof.Machine.execMmapz c t w s
  | .unitInstructionBegin c u => Sys2Proof.Machine.execUnitInstructionBegin c u s
  | .unitInstructionComplete c u => Sys2Proof.Machine.execUnitInstructionComplete c u s
  | .vadd c t w => Sys2Proof.Machine.execVadd c t w s
  | .vsub c t w => Sys2Proof.Machine.execVsub c t w s
  | .vmul c t w => Sys2Proof.Machine.execVmul c t w s
  | .vfma c t w => Sys2Proof.Machine.execVfma c t w s
  | .vfnma c t w => Sys2Proof.Machine.execVfnma c t w s
  | .vmin c t w => Sys2Proof.Machine.execVmin c t w s
  | .vmax c t w => Sys2Proof.Machine.execVmax c t w s
  | .vceq c t w => Sys2Proof.Machine.execVceq c t w s
  | .vclt c t w => Sys2Proof.Machine.execVclt c t w s
  | .vcle c t w => Sys2Proof.Machine.execVcle c t w s
  | .vsel c t w => Sys2Proof.Machine.execVsel c t w s
  | .vmov c t w => Sys2Proof.Machine.execVmov c t w s
  | .vbrow c t w => Sys2Proof.Machine.execVbrow c t w s
  | .vspl c t w => Sys2Proof.Machine.execVspl c t w s
  | .vcvt c t w => Sys2Proof.Machine.execVcvt c t w s
  | .vand c t w => Sys2Proof.Machine.execVand c t w s
  | .vor c t w => Sys2Proof.Machine.execVor c t w s
  | .vxor c t w => Sys2Proof.Machine.execVxor c t w s
  | .vshl c t w => Sys2Proof.Machine.execVshl c t w s
  | .vshr c t w => Sys2Proof.Machine.execVshr c t w s
  | .vsar c t w => Sys2Proof.Machine.execVsar c t w s
  | .vpadd c t w => Sys2Proof.Machine.execVpadd c t w s
  | .vpnorm c t w => Sys2Proof.Machine.execVpnorm c t w s
  | .vpcvt c t w => Sys2Proof.Machine.execVpcvt c t w s
  | .imemDataWrite c src size data => Sys2Proof.Machine.execImemDataWrite c src size data s
  | .cctlWrite c src data => Sys2Proof.Machine.execCctlWrite c src data s
  | .cacheWayDisable c icache way => Sys2Proof.Machine.execCacheWayDisable c icache way s
  | .sliceRepairGo d sl row => Sys2Proof.Machine.execSliceRepairGo d sl row s
  | .sliceRowCopyDone d sl => Sys2Proof.Machine.execSliceRowCopyDone d sl s
  | .sliceScrub d sl row corrected poisoned => Sys2Proof.Machine.execSliceScrub d sl row corrected poisoned s
  | .mcw c t w => Sys2Proof.Machine.execMcw c t w s
  | .mcr c t w => Sys2Proof.Machine.execMcr c t w s
  | .send c t w => Sys2Proof.Machine.execSend c t w s
  | .sendr c t w => Sys2Proof.Machine.execSendr c t w s
  | .qpop c t w => Sys2Proof.Machine.execQpop c t w s
  | .qstat c t w => Sys2Proof.Machine.execQstat c t w s
  | .qdisp c t w => Sys2Proof.Machine.execQdisp c t w s
  | .qdrop c t w => Sys2Proof.Machine.execQdrop c t w s
  | .qarm c t w => Sys2Proof.Machine.execQarm c t w s
  | .scadd c t w => Sys2Proof.Machine.execScadd c t w s
  | .scrd c t w => Sys2Proof.Machine.execScrd c t w s
  | .snote c t w => Sys2Proof.Machine.execSnote c t w s
  | .bcfg c t w => Sys2Proof.Machine.execBcfg c t w s
  | .bstat c t w => Sys2Proof.Machine.execBstat c t w s
  | .messageEntry id => Sys2Proof.Machine.execMessageEntry id s
  | .contributionArrival id => Sys2Proof.Machine.execContributionArrival id s
  | .entryAck id => Sys2Proof.Machine.execEntryAck id s
  | .creditReturn id => Sys2Proof.Machine.execCreditReturn id s
  | .closureNotice id => Sys2Proof.Machine.execClosureNotice id s
  | .counterSignal id => Sys2Proof.Machine.execCounterSignal id s
  | .counterWait id => Sys2Proof.Machine.execCounterWait id s
  | .parkedWaitAdmit k => Sys2Proof.Machine.execParkedWaitAdmit k s
  | .waitWithdrawal who => Sys2Proof.Machine.execWaitWithdrawal who s
  | .waitRelease id => Sys2Proof.Machine.execWaitRelease id s
  | .syncErrorReport id => Sys2Proof.Machine.execSyncErrorReport id s
  | .barrierArrival id => Sys2Proof.Machine.execBarrierArrival id s
  | .barrierWait id => Sys2Proof.Machine.execBarrierWait id s
  | .dmaStart c j t data => Sys2Proof.Machine.execDmaStart c j t data s
  | .dmaStop c j t data => Sys2Proof.Machine.execDmaStop c j t data s
  | .dmaResume c j t data => Sys2Proof.Machine.execDmaResume c j t data s
  | .dmaCqbaseWrite c j t data => Sys2Proof.Machine.execDmaCqbaseWrite c j t data s
  | .dmaFetch id => Sys2Proof.Machine.execDmaFetch id s
  | .move ch => Sys2Proof.Machine.execMove ch s
  | .dmaReadResponse id => Sys2Proof.Machine.execDmaReadResponse id s
  | .dmaWriteAck id => Sys2Proof.Machine.execDmaWriteAck id s
  | .dmaLoop ch => Sys2Proof.Machine.execDmaLoop ch s
  | .endloop ch => Sys2Proof.Machine.execEndloop ch s
  | .dmaWait ch => Sys2Proof.Machine.execDmaWait ch s
  | .dmaSignal ch => Sys2Proof.Machine.execDmaSignal ch s
  | .fence ch => Sys2Proof.Machine.execFence ch s
  | .complete ch => Sys2Proof.Machine.execComplete ch s
  | .halt ch => Sys2Proof.Machine.execHalt ch s
  | .dmaCqHeadPoll ch => Sys2Proof.Machine.execDmaCqHeadPoll ch s
  | .dmaTimeout id => Sys2Proof.Machine.execDmaTimeout id s
  | .dmaTrinvAll d slot => Sys2Proof.Machine.execDmaTrinvAll d slot s
  | .dmaTrinvOne d slot vpn => Sys2Proof.Machine.execDmaTrinvOne d slot vpn s
  | .tierRequest id found lane eye margin => Sys2Proof.Machine.execTierRequest id found lane eye margin s
  | .tierAttemptFail id byte => Sys2Proof.Machine.execTierAttemptFail id byte s
  | .tierRefresh n => Sys2Proof.Machine.execTierRefresh n s
  | .calibrationWindow n => Sys2Proof.Machine.execCalibrationWindow n s
  | .calibrationBurstEnd n => Sys2Proof.Machine.execCalibrationBurstEnd n s
  | .ncReqFull n => Sys2Proof.Machine.execNcReqFull n s
  | .patrolScrub n found => Sys2Proof.Machine.execPatrolScrub n found s
  | .ncRepairGo n unit => Sys2Proof.Machine.execNcRepairGo n unit s
  | .ncPlistAdd n unit => Sys2Proof.Machine.execNcPlistAdd n unit s
  | .poisonListFull n unit => Sys2Proof.Machine.execPoisonListFull n unit s
  | .nsSubstCopy d ch rate => Sys2Proof.Machine.execNsSubstCopy d ch rate s
  | .spareCopyUnit d ok => Sys2Proof.Machine.execSpareCopyUnit d ok s
  | .nsSubstSwitch d => Sys2Proof.Machine.execNsSubstSwitch d s
  | .channelFailed n => Sys2Proof.Machine.execChannelFailed n s
  | .middleHot m => Sys2Proof.Machine.execMiddleHot m s
  | .flashOpComplete f ok retried bad => Sys2Proof.Machine.execFlashOpComplete f ok retried bad s
  | .flashSparesLow f pct => Sys2Proof.Machine.execFlashSparesLow f pct s
  | .dbCr p r n => Sys2Proof.Machine.execDbCr p r n s
  | .dbCc p r n => Sys2Proof.Machine.execDbCc p r n s
  | .dbEvt p n => Sys2Proof.Machine.execDbEvt p n s
  | .crBaseWrite p r v => Sys2Proof.Machine.execCrBaseWrite p r v s
  | .ccBaseWrite p r v => Sys2Proof.Machine.execCcBaseWrite p r v s
  | .crCtrlWrite p r v => Sys2Proof.Machine.execCrCtrlWrite p r v s
  | .ccCtrlWrite p r v => Sys2Proof.Machine.execCcCtrlWrite p r v s
  | .packetFetch p r bytes => Sys2Proof.Machine.execPacketFetch p r bytes s
  | .fwClaim p r => Sys2Proof.Machine.execFwClaim p r s
  | .fwClaimTimeout p r => Sys2Proof.Machine.execFwClaimTimeout p r s
  | .identify p r => Sys2Proof.Machine.execIdentify p r s
  | .queryResources k => Sys2Proof.Machine.execQueryResources k s
  | .portReset p pkt => Sys2Proof.Machine.execPortReset p pkt s
  | .release k => Sys2Proof.Machine.execRelease k s
  | .adopt k => Sys2Proof.Machine.execAdopt k s
  | .status k => Sys2Proof.Machine.execStatus k s
  | .memCopy k bytes => Sys2Proof.Machine.execMemCopy k bytes s
  | .memFill k => Sys2Proof.Machine.execMemFill k s
  | .persistSave k => Sys2Proof.Machine.execPersistSave k s
  | .persistRestore k => Sys2Proof.Machine.execPersistRestore k s
  | .persistDelete k => Sys2Proof.Machine.execPersistDelete k s
  | .attest k bytes => Sys2Proof.Machine.execAttest k bytes s
  | .fwUpdate k bytes ok => Sys2Proof.Machine.execFwUpdate k bytes ok s
  | .debugHalt k => Sys2Proof.Machine.execDebugHalt k s
  | .debugResume k => Sys2Proof.Machine.execDebugResume k s
  | .debugRead k => Sys2Proof.Machine.execDebugRead k s
  | .debugWrite k bytes => Sys2Proof.Machine.execDebugWrite k bytes s
  | .debugSyncSet k => Sys2Proof.Machine.execDebugSyncSet k s
  | .powerState k => Sys2Proof.Machine.execPowerState k s
  | .stewardHandoff k => Sys2Proof.Machine.execStewardHandoff k s
  | .spareStatusReport k => Sys2Proof.Machine.execSpareStatusReport k s
  | .spareStatusScan k => Sys2Proof.Machine.execSpareStatusScan k s
  | .dumpRead k => Sys2Proof.Machine.execDumpRead k s
  | .hostWindowCompletion id res => Sys2Proof.Machine.execHostWindowCompletion id res s
  | .hostCompletionTimeout id => Sys2Proof.Machine.execHostCompletionTimeout id s
  | .linkDown p => Sys2Proof.Machine.execLinkDown p s
  | .linkUp p lanes speed => Sys2Proof.Machine.execLinkUp p lanes speed s
  | .d3hotEntry p => Sys2Proof.Machine.execD3hotEntry p s
  | .functionLevelReset p => Sys2Proof.Machine.execFunctionLevelReset p s
  | .perstAssert p => Sys2Proof.Machine.execPerstAssert p s
  | .perstDeassert p => Sys2Proof.Machine.execPerstDeassert p s
  | .pwrGoodBoot unread => Sys2Proof.Machine.execPwrGoodBoot unread s
  | .ahnalReady => Sys2Proof.Machine.execAhnalReady s
  | .bootConfirm => Sys2Proof.Machine.execBootConfirm s
  | .bootWatchdogExpiry => Sys2Proof.Machine.execBootWatchdogExpiry s
  | .standbyBoot ok => Sys2Proof.Machine.execStandbyBoot ok s
  | .rptLockWrite data => Sys2Proof.Machine.execRptLockWrite data s
  | .signGo data => Sys2Proof.Machine.execSignGo data s
  | .signDone => Sys2Proof.Machine.execSignDone s
  | .rbCtrGo data => Sys2Proof.Machine.execRbCtrGo data s
  | .keyRevoke mask => Sys2Proof.Machine.execKeyRevoke mask s
  | .bfRead addr => Sys2Proof.Machine.execBfRead addr s
  | .bfProgram addr => Sys2Proof.Machine.execBfProgram addr s
  | .bfErase4k addr => Sys2Proof.Machine.execBfErase4k addr s
  | .bfErase64k addr => Sys2Proof.Machine.execBfErase64k addr s
  | .bfOpDone ok => Sys2Proof.Machine.execBfOpDone ok s
  | .bfProtWrite data => Sys2Proof.Machine.execBfProtWrite data s
  | .getVersion e req => Sys2Proof.Machine.execGetVersion e req s
  | .getCapabilities e req => Sys2Proof.Machine.execGetCapabilities e req s
  | .negotiateAlgorithms e req => Sys2Proof.Machine.execNegotiateAlgorithms e req s
  | .getDigests e req => Sys2Proof.Machine.execGetDigests e req s
  | .getCertificate e req => Sys2Proof.Machine.execGetCertificate e req s
  | .challenge e req => Sys2Proof.Machine.execChallenge e req s
  | .getMeasurements e req => Sys2Proof.Machine.execGetMeasurements e req s
  | .spdmUnsupportedRequest e req => Sys2Proof.Machine.execSpdmUnsupportedRequest e req s
  | .errorCounterPoll found => Sys2Proof.Machine.execErrorCounterPoll found s
  | .fatalError cause source => Sys2Proof.Machine.execFatalError cause source s
  | .heartbeatTimeout => Sys2Proof.Machine.execHeartbeatTimeout s
  | .managementTakeover => Sys2Proof.Machine.execManagementTakeover s
  | .drainProbe slot => Sys2Proof.Machine.execDrainProbe slot s
  | .drainMarkersReturned slot => Sys2Proof.Machine.execDrainMarkersReturned slot s
  | .wearScanTimer => Sys2Proof.Machine.execWearScanTimer s
  | .wearScan results => Sys2Proof.Machine.execWearScan results s
  | .flitResend k rp wire sends => Sys2Proof.Machine.execFlitResend k rp wire sends s
  | .thermalWarning d n temp => Sys2Proof.Machine.execThermalWarning d n temp s
  | .thermalTrip d n temp => Sys2Proof.Machine.execThermalTrip d n temp s
  | .smbusAlertResponse => Sys2Proof.Machine.execSmbusAlertResponse s
  | .setEndpointId eid => Sys2Proof.Machine.execSetEndpointId eid s
  | .setEventReceiver receiver => Sys2Proof.Machine.execSetEventReceiver receiver s
  | .pollForPlatformEventMessage => Sys2Proof.Machine.execPollForPlatformEventMessage s
  | .setStateEffecterStates states => Sys2Proof.Machine.execSetStateEffecterStates states s
  | .getStateEffecterStates => Sys2Proof.Machine.execGetStateEffecterStates s
  | .dbgCtrlHalt c mask => Sys2Proof.Machine.execDbgCtrlHalt c mask s
  | .dbgCtrlResume c mask => Sys2Proof.Machine.execDbgCtrlResume c mask s
  | .dbgCtrlStep c mask => Sys2Proof.Machine.execDbgCtrlStep c mask s
  | .debugHaltTaken c t => Sys2Proof.Machine.execDebugHaltTaken c t s
  | .jtagDbgAccess addr write data => Sys2Proof.Machine.execJtagDbgAccess addr write data s
  | .jtagAccessDone => Sys2Proof.Machine.execJtagAccessDone s
  | .extest d => Sys2Proof.Machine.execExtest d s
  | .idcode d => Sys2Proof.Machine.execIdcode d s
  | .samplePreload d => Sys2Proof.Machine.execSamplePreload d s
  | .bypass d => Sys2Proof.Machine.execBypass d s
  | .jtagTrst => Sys2Proof.Machine.execJtagTrst s
  | .pwrEnRise => Sys2Proof.Machine.execPwrEnRise s
  | .pwrEnFall => Sys2Proof.Machine.execPwrEnFall s
  | .auxPowerStart => Sys2Proof.Machine.execAuxPowerStart s
  | .auxPowerLoss => Sys2Proof.Machine.execAuxPowerLoss s
  | .lineFillArrival id => Sys2Proof.Machine.execLineFillArrival id s
  | .writePerformedAck id => Sys2Proof.Machine.execWritePerformedAck id s
  | .deviceTemperatureChange n temp => Sys2Proof.Machine.execDeviceTemperatureChange n temp s
  | .returnToD0 p => Sys2Proof.Machine.execReturnToD0 p s
  | .fuseBlowDone ok => Sys2Proof.Machine.execFuseBlowDone ok s
  | .tripCooldown => Sys2Proof.Machine.execTripCooldown s

end Sys2Proof.Machine
end

