-- ==== Sys2Proof/Certificates/Slice0/Terms.lean ====
section
/-! DEFINITION. The terms in which the statements are made: when a core's instruction issues, what an instruction may leave
changed. -/

namespace Sys2Proof.Claims
open Sys2Proof.Machine

/-- The word at a thread's place issues now: the thread holds the issue stage, must enter nothing first and is in no request phase, the word is not
irregular by its place or by a repetition, and its operands, its wait and its signal do not hold it (R144-R154, R165, R190). -/
structure Issues (s : State) (c : CoreId) (t : Thr) (w : Word) (regs : List Nat) : Prop where
  running : (s.thr c t).st = .running
  free : (s.thr c t).mustEnter = false
  between : (s.thr c t).phase = none
  noBreak : s.breakpoint c t = false
  fetched : s.fetch c t = .word w
  repeats : (s.thr c t).repeating = true → REPCNT.COUNT.get (s.thr c t).repcnt ≠ 0 ∧ repeatable w = true
  regular : commonIrregular (s.thr c t) w = none
  operands : (s.thr c t).owes regs = false
  precise : (s.core c).preciseHeld t = false
  objects : s.scBad c t (wWait w) = false ∧ s.scBad c t (wSig w) = false
  wait : s.tryWait c t (wWait w) = none
  signal : ¬(1 ≤ wSig w ∧ wSig w ≤ 11 ∧ (s.thr c t).flagCount (wSig w) = 15 ∧ ((s.thr c t).gateHere.getD none).isNone = true)

/-- A thread less what the sequencing of instructions changes: PC, loop counts and depth, REPCNT, RPLSTAT, the flags that a signal field
moves, the flights of signallers, and how the next instruction is held. -/
def besides (th : Thread) : Thread :=
  { th with
    pc := 0, lc := .replicate 3 0, lstat := 0, repcnt := 0, rplstat := 0, flags := 0, flights := [], gate := [], waitPassed := false
    fetched := [], bpPassed := false, entry := none, stepping := false, haltReq := false, halt := .none, entering := none, stepTrap := none }

/-- All of a state but its cores, its registers of control space, and the synchronisation operations under way. -/
def elsewhere (s : State) : State := { s with cores := [], regs := [], sync := [], nextId := 0 }

/-- What an instruction of a thread leaves beside its own thread: memory, images, channels, ports, accesses in flight and all else that
is not of a core; every other core; what its core holds beside its threads, but for the order of its READY threads and the use of its
instruction cache's ways; the core's other threads; every register of control
space but the core's activity count. A signal may set out behind those under way. -/
structure Apart (s u : State) (c : CoreId) (t : Thr) : Prop where
  rest : elsewhere u = elsewhere s
  cores : ∀ x, x ≠ c.val → u.core x = s.core x
  core : { u.core c with
    thr := (s.core c).thr
    nextKey := (s.core c).nextKey
    next := (s.core c).next
    icache := { (u.core c).icache with plru := (s.core c).icache.plru } } = s.core c
  threads : ∀ x, x ≠ t → u.thr c x = s.thr c x
  regs : ∀ a, a ≠ aCORE_ACT c → u.reg a = s.reg a
  sync : s.sync <+: u.sync

/-- No repetition, no replay and no loop stands at the thread: the word after its place comes next. -/
def inLine (th : Thread) : Prop := th.repeating = false ∧ th.replaying = false ∧ th.loops = 0

/-- The command answers a next state in which the thread holds what `th` holds, beside what the sequencing of instructions changes;
the place moves on; all else is left (R144, R165, R170). -/
def Yields (i : Instr) (s : State) (c : CoreId) (t : Thr) (th : Thread) : Prop :=
  ∃ u, exec i s = .next u ∧ besides (u.thr c t) = besides th ∧ Apart s u c t ∧
    (inLine (s.thr c t) → (u.thr c t).pc = (s.thr c t).pc + 8)

/-- The command answers a next state whose thread is as `P` says; all else is left. -/
def Ends (i : Instr) (s : State) (c : CoreId) (t : Thr) (P : Thread → Prop) : Prop :=
  ∃ u, exec i s = .next u ∧ Apart s u c t ∧ P (u.thr c t)

/-- The command answers a next state in which the thread holds what `th` holds and goes on at `a`; all else is left. -/
def Goes (i : Instr) (s : State) (c : CoreId) (t : Thr) (th : Thread) (a : Addr) : Prop :=
  Ends i s c t fun x => besides x = besides th ∧ x.pc = a

/-- The command raises a precise exception: the thread holds what `th` holds, stays where it is, and its entry is to come with the
instruction as saved place; all else is left (R110, R203). -/
def Raises (i : Instr) (s : State) (c : CoreId) (t : Thr) (vec cause : Nat) (th : Thread) : Prop :=
  Ends i s c t fun x => besides x = besides th ∧ x.pc = (s.thr c t).pc ∧
    x.entry = some ⟨vec, cause, (s.thr c t).pc, (s.thr c t).wordAddr, false, (s.thr c t).priv⟩

/-- TR_FAULT as a fault at an address writes it (R110, R160). -/
def faultWord (va cause write fetch : Nat) : Word :=
  TR_FAULT.FETCH.put (TR_FAULT.WRITE.put (TR_FAULT.CAUSE.put (TR_FAULT.VA.put 0 va) cause) write) fetch

/-- The sequencing of a thread is as that of another: its place, its loops and its replay. -/
def InStep (x y : Thread) : Prop := x.pc = y.pc ∧ x.lc = y.lc ∧ x.lstat = y.lstat ∧ x.rplstat = y.rplstat

/-- The command answers what `s'` is, beside the sequencing of thread t of core c: its place moves on, a signal may have set out. -/
def Leads (i : Instr) (s s' : State) (c : CoreId) (t : Thr) : Prop :=
  ∃ u, exec i s = .next u ∧ besides (u.thr c t) = besides (s'.thr c t) ∧ Apart s' u c t ∧
    (inLine (s.thr c t) → (u.thr c t).pc = (s.thr c t).pc + 8)

/-- Registers of control space alone have changed, and of them only those named. -/
def OnlyRegs (s u : State) (named : Nat → Prop) : Prop :=
  { u with regs := s.regs } = s ∧ ∀ a, ¬named a → u.reg a = s.reg a

/-- A thread holds what a TSB frame holds, one frame fewer than `depth` (R208, R210). -/
structure Restored (x : Thread) (f : List Byte) (depth : Nat) : Prop where
  pc : x.pc = loopAddr (frameWord f 0x000)
  tstatus : x.tstatus = TSTATUS.DEPTH.put (fieldsRestore TSTATUS 0 (frameWord f 0x008)) (depth - 1)
  repcnt : x.repcnt = fieldsRestore REPCNT 0 (frameWord f 0x040)
  rplstat : x.rplstat = fieldsRestore RPLSTAT 0 (frameWord f 0x048)
  lstat : x.lstat = fieldsRestore LSTAT 0 (frameWord f 0x050)
  lc : ∀ i (h : i < 3), x.lc[i] = (frameWord f (0x060 + 8 * i)).setWidth 32
  ls : ∀ i (h : i < 3), x.ls[i] = loopAddr (frameWord f (0x078 + 8 * i))
  le : ∀ i (h : i < 3), x.le[i] = loopAddr (frameWord f (0x090 + 8 * i))
  sc : ∀ i (h : i < 4), x.sc[i] = fieldsWrite SC 0 (frameWord f (0x0B0 + 8 * i))
  d : ∀ i (h : i < 32), x.d[i] = frameWord f (0x100 + 8 * i)
  a : ∀ i (h : i < 16), x.a[i] = (frameWord f (0x200 + 8 * i)).setWidth 48
  m : ∀ i (h : i < 16), x.m[i] = frameWord f (0x280 + 8 * i)
  p : ∀ i (h : i < 8), x.p[i] = frameWord f (0x300 + 8 * i)
  compose : ∀ i (h : i < 8), x.compose[i] = frameWord f (0x340 + 8 * i)
  replay : ∀ i (h : i < 32), x.replay[i] = frameWord f (0x400 + 8 * i)

/-- The thread with its address register stepped where the mode steps it (R159). -/
def stepped (th : Thread) (w : Word) : Thread := if mMode w = 1 ∨ mMode w = 2 then th.stepA w else th

/-- The thread that owes its address register the new value where the mode steps it (R144, R159). -/
def oweStepped (th : Thread) (w : Word) (key : Nat) : Thread :=
  if mMode w = 1 ∨ mMode w = 2 then
    { th with
      owed := th.owed ++ [(0x20 + mAn w, key)]
      steps := th.steps ++ [(key, mAn w, th.readA (mAn w) + (th.readM (mMn w)).setWidth 48)] }
  else th

/-- The thread as its access is made: in mode 0b10 the address register has stepped (R159). -/
def accessing (th : Thread) (w : Word) : Thread := if mMode w = 2 then th.stepA w else th

/-- The effective address of a memory instruction (R159). -/
def effective (th : Thread) (w : Word) : Nat :=
  ((accessing th w).readA (mAn w) + BitVec.ofInt 48 ((BitVec.ofNat 24 (if mPM w then (th.readP (mPsel w)).toNat % 2 ^ 24 else mOff w)).toInt)).toNat

/-- A request phase of a kind is under way for the word, no walk of its own holds it, and its thread is READY or runs with nothing to take
first (R240, R241, R247). -/
def Continues (s : State) (c : CoreId) (t : Thr) (w : Word) (kind : Nat) (ph : TilePhase) : Prop :=
  (s.thr c t).phase = some ph ∧ ph.word = w ∧ ph.kind = kind ∧ s.walking c t = false ∧
    ((s.thr c t).st = .ready ∨ ((s.thr c t).st = .running ∧ (s.thr c t).mustEnter = false))

/-- A load or store of `n` bytes is aligned, translates to `pa`, and is one its home takes (R99, R102, R160). -/
structure Reaches (s : State) (c : CoreId) (t : Thr) (w : Word) (n : Nat) (write : Bool) (pa : Nat) (cacheable : Bool) (vpn : Option Nat) :
    Prop where
  aligned : effective (s.thr c t) w % n = 0
  resolved : s.resolve c (effective (s.thr c t) w) false write = .ok pa cacheable vpn
  taken : s.homeCheck c t (effective (s.thr c t) w) pa n write false 0 ((accessing (s.thr c t) w).readReg (mRt w)) = none

/-- `n` addresses from `a` on. -/
def addrs (a n : Nat) : List Nat := (List.range n).map (a + ·)

/-- The state with one access sent behind those under way (R122). -/
def sent (s : State) (src : Source) (addr : Nat) (op : MemOp) (p : Purpose) (overlay : List (Nat × Byte)) (vpn : Option Nat) : State :=
  { s with txns := s.txns ++ [⟨s.nextId, src, homeOf s.ilv addr, addr, op, p, .sent, [], [], false, overlay, vpn⟩] }

/-- Memory, its poison marks and the queue of commands are left. -/
def Quiet (s u : State) : Prop := u.mem = s.mem ∧ u.poison = s.poison ∧ u.pending = s.pending

/-- The command answers a next state that is as `P` says; memory and the queue are left. -/
def Answers (i : Instr) (s : State) (P : State → Prop) : Prop := ∃ u, exec i s = .next u ∧ Quiet s u ∧ P u

/-- The command answers a next state with the registers of control space as `f` changes them and nothing else changed. -/
def SetsRegs (i : Instr) (s : State) (f : State → State) : Prop := exec i s = .next (f s) ∧ { f s with regs := s.regs } = s

/-- Every register of control space reads as before, but those named. -/
def RegsBut (s u : State) (named : List Nat) : Prop := ∀ a, a ∉ named → u.reg a = s.reg a

/-- Every core is as it was, but one. -/
def CoresBut (s u : State) (c : Nat) : Prop := ∀ x, x ≠ c → u.core x = s.core x

/-- A channel is at an instruction of an opcode, RUNNING, with no fetch under way (R382). -/
structure AtDma (s : State) (ch : DmaCh) (op : Nat) (ws : List Word) : Prop where
  at_ : s.dmaAt ch op = some ws
  running : s.dmaState ch = 1
  noFetch : ∀ x ∈ s.txns, x.src = .dma ch → x.purpose ≠ .program

/-- A channel stands at an address, with nothing fetched; where the address resolves, it is RUNNING and its fetch has set out (R382). -/
def NextAt (s u : State) (ch : DmaCh) (pc : Nat) : Prop :=
  u.dmaPc ch = pc ∧ ∀ pa ca vpn, s.dmaResolve ch pc 32 false = .ok pa ca vpn →
    u.dmaState ch = 1 ∧ (u.dma ch).fetched = none ∧ (u.dma ch).begun = false ∧
      ∃ x ∈ u.txns, x.src = .dma ch ∧ x.purpose = .program ∧ x.op = .read (addrs pa 32)

/-- A channel has ended with an error (R402). -/
def Failed (u : State) (ch : DmaCh) (code cause pc addr : Nat) : Prop :=
  u.dmaState ch = 6 ∧ u.reg (aDMA_ERR ch) = BitVec.ofNat 64 (code + cause * 2 ^ 8 + pc * 2 ^ 16) ∧
    u.reg (aDMA_ERRADDR ch) = BitVec.ofNat 64 (addr % 2 ^ 48) ∧ (u.dma ch).fetched = none ∧ (u.dma ch).move = none

/-- A ring pair hears: enabled on both sides, its completion ring of a listed size, its port's link up in D0 (R445, R448, R450). -/
def Hears (s : State) (p : Port) (r : Ring) : Prop :=
  s.pairOn p r = true ∧ 1 ≤ s.fld (aCC_CTRL p r) CC_CTRL.LOG2N ∧ s.fld (aCC_CTRL p r) CC_CTRL.LOG2N ≤ 12 ∧ (s.port p).up = true ∧ (s.port p).d3 = false

/-- The next reply of a pair as a write to its completion ring (R448, R463): tag and opcode of the packet, status, PHASE, SEQ, ring index,
detail, and 16 bytes of result. -/
def replyWrite (s : State) (p : Port) (r : Ring) (index : Nat) (pk : List Byte) (kind status detail : Nat) (result : List Byte) : Tlp :=
  let q := 2 ^ s.fld (aCC_CTRL p r) CC_CTRL.LOG2N
  let k := s.fld (aCC_STAT p r) CC_STAT.SEQ
  .write (CR_BASE.ADDR.get (s.reg (aCC_BASE p r)) * 4096 + 32 * (k % q))
    (toBytes 4 (field pk 4 4) ++ toBytes 2 (field pk 0 2) ++ toBytes 1 status ++ toBytes 1 ((k / q + 1) % 2 + kind * 2) ++ toBytes 4 k ++
      toBytes 2 index ++ toBytes 2 detail ++ (result ++ zeros 16).take 16) false

/-- A claimed command is over, and its final reply has been written where its pair hears and it carries no signal (R455, R463). -/
def Answered (s u : State) (q : Claimed) (status detail : Nat) (result : List Byte) : Prop :=
  (∀ c ∈ u.claimed, c.id ≠ q.id) ∧ (q.orphan = false → bit (field q.packet 2 1) 1 = false → Hears s q.port q.ring →
    replyWrite s q.port q.ring q.index q.packet 0 status detail result ∈ (u.port q.port).out)

/-- The head packet of a ring that takes packets has reached the claim of R451, and no doorbell has it read again (R447, R450). -/
def AtHead (s : State) (p : Port) (r : Ring) (index : Nat) (pk : List Byte) (rest : List (Nat × List Byte)) : Prop :=
  (s.ring p r).toClaim = true ∧ (s.ring p r).again = false ∧ s.fld (aCR_STAT p r) CR_STAT.STATE ≠ 5 ∧ (s.ring p r).ahead = (index, pk) :: rest

/-- With the final reply of a packet no signal fires. -/
def Silent (s : State) (pk : List Byte) : Prop := bit (field pk 2 1) 1 = false ∧ s.flag (aFATAL_STAT 0) FATAL_STAT.FATAL = false

/-- The reply of a packet leaves the images, and the cores where no signal fires. -/
def Steady (s u : State) (pk : List Byte) : Prop := u.images = s.images ∧ (Silent s pk → u.cores = s.cores)

/-- The host of a port has been written to. -/
def Wrote (s u : State) (p : Port) (a : Nat) (bs : List Byte) (bad : Bool) : Prop :=
  (s.port p).up = true → (s.port p).d3 = false → .write a bs bad ∈ (u.port p).out

/-- No command is claimed, and the rails of every image are rails of the module. -/
def Tidy (s : State) : Prop := s.claimed = [] ∧ ∀ i : Slot, ∀ im ∈ s.image i, ∀ r ∈ im.rails, r < 76

/-- Every block is reset: memory, cores, images and what is in flight are gone, and both links are down; the queue stands. -/
def Blank (s u : State) : Prop :=
  u.mem = [] ∧ u.poison = [] ∧ u.cores = State.reset.cores ∧ u.images = State.reset.images ∧ u.txns = [] ∧ u.claimed = [] ∧ u.pending = s.pending ∧
    (∀ p, (u.port p).up = false ∧ (u.port p).out = (s.port p).out) ∧ u.grade = s.grade

end Sys2Proof.Claims
end

