-- ==== Sys2Proof/Certificates/Slice0/Obligations.lean ====
section
/-! DEFINITION. The statements for the provers. -/

open Sys2Proof Sys2Proof.Machine Sys2Proof.Claims

/-- R155: an integer instruction that issues writes rd with the result its function gives of rs1, rs2 and rs3. -/
def Obligations.IntegerResults : Prop :=
  ∀ (s : State) (c : CoreId) (t : Thr) (w : Word), wMajor w = 0x01 → kRes w = 0 →
    let th := s.thr c t
    let a := th.readReg (kRs1 w)
    let b := th.readReg (kRs2 w)
    let d := th.readReg (kRs3 w)
    let gives (mk : CoreId → Thr → Word → Instr) (fn n : Nat) (v : Word) : Prop :=
      kFn w = fn → Issues s c t w (kRegs n w) → Yields (mk c t w) s c t (th.writeReg (kRd w) v)
    gives .add 0x00 2 (a + b) ∧
    gives .sub 0x01 2 (a - b) ∧
    gives .mul 0x02 2 (BitVec.ofNat 64 (a.toNat * b.toNat)) ∧
    gives .mulh 0x03 2 (BitVec.ofInt 64 (a.toInt * b.toInt / 2 ^ 64)) ∧
    gives .mulhu 0x04 2 (BitVec.ofNat 64 (a.toNat * b.toNat / 2 ^ 64)) ∧
    gives .div 0x05 2 (if b = 0 then BitVec.allOnes 64 else BitVec.ofInt 64 (a.toInt.tdiv b.toInt)) ∧
    gives .divu 0x06 2 (if b = 0 then BitVec.allOnes 64 else BitVec.ofNat 64 (a.toNat / b.toNat)) ∧
    gives .rem 0x07 2 (if b = 0 then a else BitVec.ofInt 64 (a.toInt.tmod b.toInt)) ∧
    gives .remu 0x08 2 (if b = 0 then a else BitVec.ofNat 64 (a.toNat % b.toNat)) ∧
    gives .and 0x09 2 (a &&& b) ∧
    gives .or 0x0A 2 (a ||| b) ∧
    gives .xor 0x0B 2 (a ^^^ b) ∧
    gives .shl 0x0C 2 (a <<< (b.toNat % 64)) ∧
    gives .shr 0x0D 2 (a >>> (b.toNat % 64)) ∧
    gives .sar 0x0E 2 (a.sshiftRight (b.toNat % 64)) ∧
    gives .min 0x0F 2 (if a.toInt ≤ b.toInt then a else b) ∧
    gives .max 0x10 2 (if a.toInt ≤ b.toInt then b else a) ∧
    gives .minu 0x11 2 (if a.toNat ≤ b.toNat then a else b) ∧
    gives .maxu 0x12 2 (if a.toNat ≤ b.toNat then b else a) ∧
    gives .slt 0x13 2 (if a.toInt < b.toInt then 1 else 0) ∧
    gives .sltu 0x14 2 (if a.toNat < b.toNat then 1 else 0) ∧
    gives .seq 0x15 2 (if a = b then 1 else 0) ∧
    gives .sel 0x16 3 (if d ≠ 0 then a else b) ∧
    gives .popc 0x17 1 (BitVec.ofNat 64 ((List.range 64).countP fun i => a.getLsbD i)) ∧
    gives .clz 0x18 1 a.clz ∧
    gives .mov 0x19 1 a

/-- R157, R142: an immediate instruction that issues writes rd with the result of rs and its 32-bit immediate, sign-extended where the
table says so; a marked immediate is read from the P register named. PMOV, PADDI and PGET move to and from the P registers. -/
def Obligations.ImmediateResults : Prop :=
  ∀ (s : State) (c : CoreId) (t : Thr) (w : Word),
    let th := s.thr c t
    let a := th.readReg (lRs w)
    let k : Nat := if lPM w then (th.readP (lPsel w)).toNat % 2 ^ 32 else lImm w
    let x : Word := (BitVec.ofNat 32 k).signExtend 64
    let p := th.readP (lPsel w)
    let gives (mk : CoreId → Thr → Word → Instr) (major : Nat) (v : Word) : Prop :=
      wMajor w = major → Issues s c t w ([lRd w, lRs w] ++ lReads w) → Yields (mk c t w) s c t (th.writeReg (lRd w) v)
    gives .addi 0x10 (a + x) ∧
    gives .andi 0x11 (a &&& x) ∧
    gives .ori 0x12 (a ||| x) ∧
    gives .xori 0x13 (a ^^^ x) ∧
    (k < 64 → gives .shli 0x14 (a <<< k)) ∧
    (k < 64 → gives .shri 0x15 (a >>> k)) ∧
    (k < 64 → gives .sari 0x16 (a.sshiftRight k)) ∧
    (lRs w = 0 → gives .li 0x17 x) ∧
    gives .lih 0x18 (BitVec.ofNat 64 (k * 2 ^ 32 + a.toNat % 2 ^ 32)) ∧
    gives .slti 0x19 (if a.toInt < x.toInt then 1 else 0) ∧
    (k < 64 → isA (lRd w) = true → gives .haddr 0x1A (BitVec.ofNat 64 (0xF000_0000_0000 + k * 2 ^ 38 + a.toNat % 2 ^ 38))) ∧
    (lPM w = false → wMajor w = 0x47 → Issues s c t w [lRs w] → Yields (.pmov c t w) s c t (th.writeP (lPsel w) a)) ∧
    (lPM w = false → wMajor w = 0x48 → Issues s c t w [] → Yields (.paddi c t w) s c t (th.writeP (lPsel w) (p + x))) ∧
    (lPM w = false → wMajor w = 0x49 → Issues s c t w [lRd w] → Yields (.pget c t w) s c t (th.writeReg (lRd w) p))

/-- R156, R206, R291-R304: an FP32 instruction that issues and names D registers alone writes rd with its result and raises its flags;
one whose result is rounded takes the thread's rounding mode, stochastic rounding stepping the LFSR once (log 14). -/
def Obligations.FloatResults : Prop :=
  ∀ (s : State) (c : CoreId) (t : Thr) (w : Word), wMajor w = 0x02 → kRes w = 0 →
    let th := s.thr c t
    let x := f32 (th.readReg (kRs1 w))
    let y := f32 (th.readReg (kRs2 w))
    let z := f32 (th.readReg (kRs3 w))
    let m := th.rounding.1
    let compare (invalid : Bool) (holds : Ordering → Bool) : Nat × FFlags :=
      match x.cmp y with
      | some o => (if holds o then 1 else 0, .none)
      | none => (0, { FFlags.none with nv := invalid })
    let ends (v : Nat × FFlags) (th' : Thread) : Thread := (th'.writeReg (kRd w) (BitVec.ofNat 64 v.1)).raiseArith v.2 th.wordAddr
    let gives (mk : CoreId → Thr → Word → Instr) (fn n : Nat) (th' : Thread) : Prop :=
      kFn w = fn → (kRegs n w).all isD = true → Issues s c t w (kRegs n w) → Yields (mk c t w) s c t th'
    gives .fadd 0x00 2 (ends (fRound m (x.add y)) th.rounding.2) ∧
    gives .fsub 0x01 2 (ends (fRound m (x.add y.neg)) th.rounding.2) ∧
    gives .fmul 0x02 2 (ends (fRound m (x.mul y)) th.rounding.2) ∧
    gives .ffma 0x03 3 (ends (withNv (x.mul y).2 (fRound m ((x.mul y).1.add z))) th.rounding.2) ∧
    gives .fmin 0x04 2 (ends (fp32.write .rne (x.minMax false y)) th) ∧
    gives .fmax 0x05 2 (ends (fp32.write .rne (x.minMax true y)) th) ∧
    gives .feq 0x06 2 (ends (compare false (· == .eq)) th) ∧
    gives .flt 0x07 2 (ends (compare true (· == .lt)) th) ∧
    gives .fle 0x08 2 (ends (compare true fun o => o == .lt || o == .eq) th) ∧
    gives .fcvtSW 0x09 1 (ends (fp32.round m ((th.readReg (kRs1 w)).setWidth 32).toInt 0) th.rounding.2) ∧
    gives .fcvtWS 0x0A 1 (ends (toIntBits 32 m x) th.rounding.2) ∧
    gives .fabs 0x0B 1 (ends (fp32.write .rne (match x with | .fin v e => .fin v.natAbs e | .inf _ => .inf false | .nan => .nan)) th) ∧
    gives .fneg 0x0C 1 (ends (fp32.write .rne x.neg) th)

/-- R136, R164, R178-R180: a branch that issues goes to its target where its condition holds, else on; a call pushes the place after it, a
return pops. In trap mode a push on a full stack and a pop of an empty one raise 0x05 and change no entry; a full stack that does not
trap loses its oldest entry. A register jump to no multiple of 8 raises misalignment and pushes nothing. -/
def Sys2Proof.Claims.ControlTransfers : Prop :=
  ∀ (s : State) (c : CoreId) (t : Thr) (w : Word),
    let th := s.thr c t
    let a := th.readReg (lRd w)
    let b := th.readReg (lRs w)
    let k : BitVec 32 := BitVec.ofNat 32 (if lPM w then (th.readP (lPsel w)).toNat % 2 ^ 32 else lImm w)
    let near : Addr := th.pc + k.signExtend 48 * 8
    let far : Addr := b.setWidth 48 + k.signExtend 48
    let branch (mk : CoreId → Thr → Word → Instr) (major : Nat) (holds : Prop) : Prop :=
      wMajor w = major → Issues s c t w ([lRd w, lRs w] ++ lReads w) →
        (holds → Goes (mk c t w) s c t th near) ∧ (¬holds → Yields (mk c t w) s c t th)
    let pushed : Thread := { th with rstack := th.rstack ++ [th.pc + 8], rsctl := RSCTL.DEPTH.put th.rsctl (th.rstack.length + 1) }
    let lost : Thread := { th with rstack := th.rstack.tail ++ [th.pc + 8], rsctl := RSCTL.LOST.put th.rsctl 1 }
    let full : Thread := { th with rsctl := RSCTL.UNDER.put th.rsctl 0 }
    let calls (mk : CoreId → Thr → Word → Instr) (target : Addr) : Prop :=
      (th.rstack.length < 16 → Goes (mk c t w) s c t pushed target) ∧
      (16 ≤ th.rstack.length → RSCTL.MODE.get th.rsctl ≠ 1 → Goes (mk c t w) s c t lost target) ∧
      (16 ≤ th.rstack.length → RSCTL.MODE.get th.rsctl = 1 → Raises (mk c t w) s c t 0x05 0 full)
    (wMajor w = 0x30 → lRd w = 0 → lRs w = 0 → Issues s c t w (lReads w) → Goes (.br c t w) s c t th near) ∧
    branch .beq 0x31 (a = b) ∧
    branch .bne 0x32 (a ≠ b) ∧
    branch .blt 0x33 (a.toInt < b.toInt) ∧
    branch .bge 0x34 (b.toInt ≤ a.toInt) ∧
    branch .bltu 0x35 (a.toNat < b.toNat) ∧
    branch .bgeu 0x36 (b.toNat ≤ a.toNat) ∧
    (wMajor w = 0x37 → lRd w = 0 → lRs w = 0 → Issues s c t w (lReads w) → calls .call near) ∧
    (wMajor w = 0x38 → lRd w = 0 → isA (lRs w) = true → Issues s c t w (lRs w :: lReads w) →
      (far.toNat % 8 = 0 → Goes (.jr c t w) s c t th far) ∧
      (far.toNat % 8 ≠ 0 → Raises (.jr c t w) s c t 0x04 0xA { th with trFault := faultWord far.toNat 0xA 0 0 })) ∧
    (wMajor w = 0x39 → lRd w = 0 → isA (lRs w) = true → Issues s c t w (lRs w :: lReads w) →
      (far.toNat % 8 = 0 → calls .callr far) ∧
      (far.toNat % 8 ≠ 0 → Raises (.callr c t w) s c t 0x04 0xA { th with trFault := faultWord far.toNat 0xA 0 0 })) ∧
    (wMajor w = 0x3A → wb w 47 32 = 0 → lImm w = 0 → Issues s c t w [] →
      (∀ l top, th.rstack = l ++ [top] →
        Goes (.ret c t w) s c t { th with rstack := l, rsctl := RSCTL.DEPTH.put th.rsctl l.length } top) ∧
      (th.rstack = [] → RSCTL.MODE.get th.rsctl = 1 →
        Raises (.ret c t w) s c t 0x05 0 { th with rsctl := RSCTL.UNDER.put th.rsctl 1 }))

/-- R178-R180: RSPUSH pushes the register as an instruction address, RSPOP pops into the register; LEXIT ends the innermost loop. -/
def Sys2Proof.Claims.ReturnStackMoves : Prop :=
  ∀ (s : State) (c : CoreId) (t : Thr) (w : Word), wMajor w = 0x50 → xOp w = 0 → Issues s c t w [xReg w] →
    let th := s.thr c t
    let v : Addr := BitVec.ofNat 48 ((th.readReg (xReg w)).toNat / 8 * 8)
    (xFn w = 0x08 →
      (th.rstack.length < 16 → Yields (.rspush c t w) s c t
        { th with rstack := th.rstack ++ [v], rsctl := RSCTL.DEPTH.put th.rsctl (th.rstack.length + 1) }) ∧
      (16 ≤ th.rstack.length → RSCTL.MODE.get th.rsctl ≠ 1 → Yields (.rspush c t w) s c t
        { th with rstack := th.rstack.tail ++ [v], rsctl := RSCTL.LOST.put th.rsctl 1 }) ∧
      (16 ≤ th.rstack.length → RSCTL.MODE.get th.rsctl = 1 →
        Raises (.rspush c t w) s c t 0x05 0 { th with rsctl := RSCTL.UNDER.put th.rsctl 0 })) ∧
    (xFn w = 0x09 →
      (∀ l top, th.rstack = l ++ [top] → Yields (.rspop c t w) s c t
        ({ th with rstack := l, rsctl := RSCTL.DEPTH.put th.rsctl l.length }.writeReg (xReg w) (top.setWidth 64))) ∧
      (th.rstack = [] → RSCTL.MODE.get th.rsctl = 1 →
        Raises (.rspop c t w) s c t 0x05 0 { th with rsctl := RSCTL.UNDER.put th.rsctl 1 }))

/-- Branches, calls, returns and the return stack: Claims.ControlTransfers, Claims.ReturnStackMoves. -/
def Obligations.TransfersOfControl : Prop := Claims.ControlTransfers ∧ Claims.ReturnStackMoves

/-- R165, R169-R171, R174, R176: LOOPI and LOOPR push a loop, or with count 0 pass over its body as if it had run; LEXIT ends the innermost loop; REPI and
REPR make the next instruction repeat, or with count 0 pass over it; REPLAY starts the buffer's words. -/
def Sys2Proof.Claims.LoopsAndRepetition : Prop :=
  ∀ (s : State) (c : CoreId) (t : Thr) (w : Word),
    let th := s.thr c t
    let k : Nat := if lPM w then (th.readP (lPsel w)).toNat % 2 ^ 32 else lImm w
    let b := th.readReg (lRs w)
    let loops (mk : CoreId → Thr → Word → Instr) (count : Nat) : Prop :=
      let end_ : Addr := th.pc + BitVec.ofNat 48 (8 * (k % 4096))
      th.loopBad (k % 4096) = false →
        (∀ h : th.loops < 3, 0 < count → Ends (mk c t w) s c t fun x =>
          besides x = besides { th with ls := th.ls.set th.loops (th.pc + 8), le := th.le.set th.loops end_ } ∧ x.pc = th.pc + 8 ∧
          x.lc = th.lc.set th.loops (BitVec.ofNat 32 count) ∧ x.loops = th.loops + 1) ∧
        (count = 0 → Ends (mk c t w) s c t fun x => besides x = besides th ∧ InStep x (loopBack th.loops th end_) ∧
          (th.loops = 0 → x.pc = end_ + 8))
    let repeats (mk : CoreId → Thr → Word → Instr) (count : Nat) : Prop :=
      (0 < count → Ends (mk c t w) s c t fun x => besides x = besides th ∧ InStep x th.advance ∧
        (inLine th → x.pc = th.pc + 8) ∧ REPCNT.ACTIVE.get x.repcnt = 1 ∧ REPCNT.COUNT.get x.repcnt = count) ∧
      (count = 0 → Ends (mk c t w) s c t fun x => besides x = besides th ∧ InStep x th.advance.advance ∧
        (inLine th → x.pc = th.pc + 16) ∧ x.repcnt = th.repcnt)
    (wMajor w = 0x40 → Issues s c t w (lReads w) → loops .loopi (k / 4096)) ∧
    (wMajor w = 0x41 → k < 4096 → Issues s c t w (lRs w :: lReads w) → loops .loopr (b.toNat % 2 ^ 32)) ∧
    (wMajor w = 0x42 → wb w 47 32 = 0 → lImm w = 0 → 0 < th.loops → Issues s c t w [] →
      Ends (.lexit c t w) s c t fun x => besides x = besides th ∧
        InStep x { th with lstat := BitVec.ofNat 64 (th.loops - 1) }.advance ∧
        (th.loops = 1 → th.replaying = false → x.loops = 0 ∧ x.pc = th.pc + 8)) ∧
    (wMajor w = 0x43 → k < 2 ^ 16 → Issues s c t w (lReads w) → repeats .repi k) ∧
    (wMajor w = 0x44 → Issues s c t w [lRs w] → repeats .repr (min b.toNat 65535)) ∧
    (wMajor w = 0x46 → wb w 47 32 = 0 → lImm w = 0 → 0 < RPLSTAT.LEN.get th.rplstat → Issues s c t w [] →
      Ends (.replay c t w) s c t fun x => besides x = besides th ∧ x.pc = th.pc ∧
        RPLSTAT.ACTIVE.get x.rplstat = 1 ∧ RPLSTAT.IDX.get x.rplstat = 0 ∧ RPLSTAT.LEN.get x.rplstat = RPLSTAT.LEN.get th.rplstat)

/-- R174, R175: REC takes the next words into the replay buffer without executing them, and goes on after them. -/
def Sys2Proof.Claims.RecordFillsReplayBuffer : Prop :=
  ∀ (s : State) (c : CoreId) (t : Thr) (w : Word) (ws : List Word),
    let th := s.thr c t
    let n := th.imm w
    wMajor w = 0x45 → 1 ≤ n → n ≤ 32 → Issues s c t w (lReads w) → s.span c t n = ws.map .word →
    (∀ i (h : i < 3), i < th.loops → ¬(th.pc.toNat < th.le[i].toNat ∧ th.le[i].toNat < (th.pc + BitVec.ofNat 48 (8 * (n + 1))).toNat)) →
    recordable true (ws.getLastD 0) = true → ws.dropLast.all (recordable false) = true →
    Ends (.recWords c t w) s c t fun x => x.pc = th.pc + BitVec.ofNat 48 (8 * (n + 1)) ∧
      RPLSTAT.LEN.get x.rplstat = n ∧ RPLSTAT.ACTIVE.get x.rplstat = 0 ∧
      (∀ i (h : i < 32), i < n → x.replay[i] = ws.getD i 0) ∧ (∀ i (h : i < 32), n ≤ i → x.replay[i] = th.replay[i]) ∧
      besides { x with replay := th.replay } = besides th

/-- Loops, repetition, record and replay: Claims.LoopsAndRepetition, Claims.RecordFillsReplayBuffer. -/
def Obligations.LoopsRepetitionAndReplay : Prop := Claims.LoopsAndRepetition ∧ Claims.RecordFillsReplayBuffer

/-- R124, R150, R182, R183, R194, R214: NOP only goes on; MFENCE does so once no access of the thread is outstanding; MFS reads the system
register named: the thread's own, those of its core, and the features of the grade; HSCD has fallen
by the handshakes since, how many is free (log 7). -/
def Sys2Proof.Claims.SystemReads : Prop :=
  ∀ (s : State) (c : CoreId) (t : Thr) (w : Word), wMajor w = 0x50 →
    let th := s.thr c t
    let q := s.core c
    let own : List (Nat × Word) :=
      [(0x000, th.flags), (0x010, th.sc[0]), (0x011, th.sc[1]), (0x012, th.sc[2]), (0x013, th.sc[3]),
       (0x020, th.lc[0].setWidth 64), (0x021, th.lc[1].setWidth 64), (0x022, th.lc[2].setWidth 64),
       (0x024, th.ls[0].setWidth 64), (0x025, th.ls[1].setWidth 64), (0x026, th.ls[2].setWidth 64),
       (0x028, th.le[0].setWidth 64), (0x029, th.le[1].setWidth 64), (0x02A, th.le[2].setWidth 64),
       (0x02C, th.lstat), (0x030, th.repcnt), (0x031, th.rplstat), (0x040, th.rsctl), (0x100, th.tstatus), (0x101, th.tsbp),
       (0x102, th.tsblim), (0x104, th.ipend), (0x105, th.ien), (0x106, th.arith), (0x107, th.fpctl), (0x108, th.excInfo),
       (0x114, th.lfsr.setWidth 64)]
    let shared : List (Nat × Word) :=
      [(0x103, q.dtbase), (0x110, q.threadFault), (0x111, q.tstate), (0x121, q.tspc[1]), (0x122, q.tspc[2]), (0x123, q.tspc[3]),
       (0x125, q.tssp[1]), (0x126, q.tssp[2]), (0x127, q.tssp[3]), (0x129, q.tsarg[1]), (0x12A, q.tsarg[2]), (0x12B, q.tsarg[3]),
       (0x12D, q.tstsb[1]), (0x12E, q.tstsb[2]), (0x12F, q.tstsb[3]), (0x130, q.tspriv), (0x060, 0x3FF),
       (0x061, featWord s.grade 1), (0x062, 0x1FFF), (0x063, featWord s.grade 3), (0x050, fieldsRead IRL_CTRL (s.reg (aIRL_CTRL c)))]
    (xFn w = 0x00 → xReg w = 0 → xOp w = 0 → Issues s c t w [] → Yields (.nop c t w) s c t th) ∧
    (xFn w = 0x01 → xReg w = 0 → xOp w = 0 → s.outstanding c t = false → Issues s c t w [] → Yields (.mfence c t w) s c t th) ∧
    (∀ r ∈ own ++ shared, xFn w = 0x02 → xOp w = r.1 → Issues s c t w [xReg w] → Yields (.mfs c t w) s c t (th.writeReg (xReg w) r.2)) ∧
    (xFn w = 0x02 → xOp w = 0x112 → Issues s c t w [xReg w] → ∃ u, exec (.mfs c t w) s = .next u ∧ u.mem = s.mem ∧
      (∀ x, x ≠ t → u.thr c x = s.thr c x) ∧
      let x := u.thr c t
      let y := th.writeReg (xReg w) x.hscd
      HSCD.COUNT.get x.hscd ≤ HSCD.COUNT.get th.hscd ∧ HSCD.EN.get x.hscd = HSCD.EN.get th.hscd ∧ x.d = y.d ∧ x.a = y.a ∧ x.m = y.m)

/-- R183, R188, R214: MTS writes the system register named where the thread's mode and number allow it, each field as its access says;
a write of IRL_CTRL.CLR, or IRL_CLEAR itself, clears COUNT, NEXT and HIT of the irregularity log. -/
def Sys2Proof.Claims.SystemWrites : Prop :=
  ∀ (s : State) (c : CoreId) (t : Thr) (w : Word),
    let th := s.thr c t
    let n := xOp w
    let v := th.readReg (xReg w)
    let issues : Prop := wMajor w = 0x50 ∧ xFn w = 0x03 ∧ Issues s c t w [xReg w]
    let own : List (Nat × Thread) :=
      [(0x010, { th with sc := th.sc.set 0 (fieldsWrite SC 0 v) }), (0x011, { th with sc := th.sc.set 1 (fieldsWrite SC 0 v) }),
       (0x012, { th with sc := th.sc.set 2 (fieldsWrite SC 0 v) }), (0x013, { th with sc := th.sc.set 3 (fieldsWrite SC 0 v) }),
       (0x040, { th with rsctl := fieldsWrite (if TSTATUS.PRIV.get th.tstatus = 1 then RSCTL else [RSCTL.LOST]) th.rsctl v }),
       (0x106, { th with arith := fieldsWrite ARITH th.arith v }), (0x107, { th with fpctl := fieldsWrite FPCTL th.fpctl v }),
       (0x114, { th with lfsr := (fieldsWrite LFSR (th.lfsr.setWidth 64) v).setWidth 32 })]
    let supervisor : List (Nat × Thread) :=
      [(0x024, { th with ls := th.ls.set 0 (loopAddr v) }), (0x025, { th with ls := th.ls.set 1 (loopAddr v) }),
       (0x026, { th with ls := th.ls.set 2 (loopAddr v) }), (0x028, { th with le := th.le.set 0 (loopAddr v) }),
       (0x029, { th with le := th.le.set 1 (loopAddr v) }), (0x02A, { th with le := th.le.set 2 (loopAddr v) }),
       (0x100, { th with tstatus := fieldsWrite TSTATUS th.tstatus v }), (0x101, { th with tsbp := fieldsWrite TSBP th.tsbp v }),
       (0x102, { th with tsblim := fieldsWrite TSBP th.tsblim v }), (0x105, { th with ien := v &&& 0x3F }),
       (0x112, { th with hscd := fieldsWrite HSCD th.hscd v })]
    let shared : List (Nat × (Core → Core)) :=
      [(0x103, fun q => { q with dtbase := fieldsWrite DTBASE q.dtbase v }), (0x121, fun q => { q with tspc := q.tspc.set 1 v }),
       (0x122, fun q => { q with tspc := q.tspc.set 2 v }), (0x123, fun q => { q with tspc := q.tspc.set 3 v }),
       (0x125, fun q => { q with tssp := q.tssp.set 1 v }), (0x126, fun q => { q with tssp := q.tssp.set 2 v }),
       (0x127, fun q => { q with tssp := q.tssp.set 3 v }), (0x129, fun q => { q with tsarg := q.tsarg.set 1 v }),
       (0x12A, fun q => { q with tsarg := q.tsarg.set 2 v }), (0x12B, fun q => { q with tsarg := q.tsarg.set 3 v }),
       (0x12D, fun q => { q with tstsb := q.tstsb.set 1 v }), (0x12E, fun q => { q with tstsb := q.tstsb.set 2 v }),
       (0x12F, fun q => { q with tstsb := q.tstsb.set 3 v }), (0x130, fun q => { q with tspriv := v &&& 0xE })]
    (∀ r ∈ own, n = r.1 → issues → Yields (.mts c t w) s c t r.2) ∧
    (∀ r ∈ supervisor, n = r.1 → TSTATUS.PRIV.get th.tstatus = 1 → issues → Yields (.mts c t w) s c t r.2) ∧
    (∀ r ∈ shared, n = r.1 → TSTATUS.PRIV.get th.tstatus = 1 → t = 0 → issues → Leads (.mts c t w) s (s.modCore c r.2) c t) ∧
    (n = 0x030 → TSTATUS.PRIV.get th.tstatus = 1 → issues →
      Ends (.mts c t w) s c t fun x => besides x = besides th ∧ ∀ f ∈ REPCNT, f.get x.repcnt = f.get v) ∧
    (∀ i (h : i < 3), n = 0x020 + i → TSTATUS.PRIV.get th.tstatus = 1 → issues → Ends (.mts c t w) s c t fun x =>
      besides x = besides th ∧ InStep x { th with lc := th.lc.set i (v.setWidth 32) }.advance) ∧
    (n = 0x02C → TSTATUS.PRIV.get th.tstatus = 1 → issues → Ends (.mts c t w) s c t fun x =>
      besides x = besides th ∧ InStep x { th with lstat := fieldsWrite LSTAT th.lstat v }.advance) ∧
    (n = 0x031 → TSTATUS.PRIV.get th.tstatus = 1 → issues → Ends (.mts c t w) s c t fun x =>
      besides x = besides th ∧ x.rplstat = fieldsWrite RPLSTAT th.advance.rplstat v) ∧
    (n = 0x110 → t = 0 → issues → Leads (.mts c t w) s (s.modCore c fun q => q.clearNew v) c t) ∧
    (n = 0x050 → TSTATUS.PRIV.get th.tstatus = 1 → issues → ∃ u, exec (.mts c t w) s = .next u ∧ besides (u.thr c t) = besides th ∧
      u.mem = s.mem ∧ ∀ f ∈ IRL_CTRL, f.get (u.reg (aIRL_CTRL c)) =
        (if IRL_CTRL.CLR.get v = 1 ∧ f ∈ [IRL_CTRL.COUNT, IRL_CTRL.NEXT, IRL_CTRL.HIT] then 0
        else f.get (fieldsWrite IRL_CTRL (s.reg (aIRL_CTRL c)) v))) ∧
    (OnlyRegs s (s.irlClear c) (· = aIRL_CTRL c) ∧ exec (.irlClear c) s = .next (s.irlClear c) ∧
      IRL_CTRL.COUNT.get ((s.irlClear c).reg (aIRL_CTRL c)) = 0 ∧ IRL_CTRL.NEXT.get ((s.irlClear c).reg (aIRL_CTRL c)) = 0 ∧
      IRL_CTRL.HIT.get ((s.irlClear c).reg (aIRL_CTRL c)) = 0)

/-- MFS, MTS, NOP and MFENCE: system registers read and written: Claims.SystemReads, Claims.SystemWrites. -/
def Obligations.SystemRegisters : Prop := Claims.SystemReads ∧ Claims.SystemWrites

/-- R173, R203: TRAP and BRK are over when they trap: the entry to come has the next place as saved place and the instruction's own as the
exception's. -/
def Obligations.TrapsRaiseTheirVectors : Prop :=
  ∀ (s : State) (c : CoreId) (t : Thr) (w : Word), wMajor w = 0x50 → xReg w = 0 → Issues s c t w [] →
    let th := s.thr c t
    let traps (i : Instr) (vec : Nat) : Prop := Ends i s c t fun x => besides x = besides th ∧
      x.entry = some ⟨vec, 0, x.pc, th.wordAddr, false, th.priv⟩ ∧ (inLine th → x.pc = th.pc + 8)
    (xFn w = 0x04 → xOp w < 16 → traps (.trap c t w) (0x10 + xOp w)) ∧
    (xFn w = 0x0C → xOp w = 0 → traps (.brk c t w) 0x0C)

/-- R202-R209: what a thread takes at its acceptance point, where its frame fits, its descriptor is valid and the exception is not
routed to thread 0: the frame is written below TSBP, and the thread is at its handler, one frame deeper, with the status the descriptor
gives and EXC_INFO that names the exception. Every byte outside the frame is left. -/
def Obligations.ExceptionEntry : Prop :=
  ∀ (s : State) (c : CoreId) (t : Thr) (e : PendEntry),
    let p := s.stopPhase c t
    let th := p.thr c t
    let desc := coreMemBase c + DTBASE.OFFSET.get (p.core c).dtbase * 1024 + e.vector * 16
    let d0 : Word := BitVec.ofNat 64 (p.load desc 8)
    let d1 : Word := BitVec.ofNat 64 (p.load (desc + 8) 8)
    let base := TSBP.OFFSET.get th.tsbp
    let frameAddr := coreMemBase c + (base - 5) * 256
    let va := if e.vector = 2 ∨ e.vector = 3 ∨ e.vector = 4 then TR_FAULT.VA.get th.trFault else 0
    (s.thr c t).st = .running → s.waiting (.thread c t) = false → s.drained c t = true → (s.thr c t).entering = none →
    ((s.thr c t).haltReq = true → (s.thr c t).entry.isSome = true) → (s.thr c t).taken = some e →
    th.depth < 255 → TSBP.OFFSET.get th.tsblim + 5 ≤ base → p.isPoisoned desc 16 = false → wb d0 48 48 = 1 →
    s.failed = [] → ¬(2 ≤ e.vector ∧ e.vector ≤ 0x0B ∧ t ≠ 0 ∧ wb d0 51 51 = 0) →
    ∃ u, exec (.exceptionEntry c t) s = .next u ∧
      (let x := u.thr c t
       x.pc = loopAddr (BitVec.ofNat 64 (wb d0 47 0)) ∧ x.excInfo = e.info ∧
       TSTATUS.PRIV.get x.tstatus = wb d0 49 49 ∧ TSTATUS.SS.get x.tstatus = 0 ∧
       TSTATUS.IE.get x.tstatus = (if wb d0 50 50 = 1 then 0 else TSTATUS.IE.get th.tstatus) ∧
       TSTATUS.DEPTH.get x.tstatus = th.depth + 1 ∧ TSBP.OFFSET.get x.tsbp = base - 5 ∧
       x.lstat = 0 ∧ x.repcnt = 0 ∧ x.rstack = [] ∧ RPLSTAT.ACTIVE.get x.rplstat = 0 ∧
       x.readA 15 = (if wb d0 52 52 = 1 then th.readA 15 else BitVec.ofNat 48 (wb d1 47 0)) ∧
       (∀ i, i < 15 → x.readA i = th.readA i) ∧ x.d = th.d ∧ x.m = th.m ∧ x.p = th.p) ∧
      (∀ i, i < 0x500 → memByte u.mem (frameAddr + i) = (th.frame e.savedPc (e.info) va).getD i 0) ∧
      (∀ a, ¬(frameAddr ≤ a ∧ a < frameAddr + 0x500) → memByte u.mem a = memByte s.mem a)

/-- R201, R208, R210: RTE, allowed where the thread is in supervisor mode or the frame returns to user mode, restores what the frame at TSBP
holds and continues at the saved place. -/
def Obligations.ReturnFromException : Prop :=
  ∀ (s : State) (c : CoreId) (t : Thr) (w : Word),
    let th := s.thr c t
    let f := s.bytes (th.frameAt c) 0x500
    wMajor w = 0x50 → xFn w = 0x05 → xReg w = 0 → xOp w = 0 → 0 < th.depth → s.framePoisoned c th = false →
    (TSTATUS.PRIV.get th.tstatus = 1 ∨ TSTATUS.PRIV.get (BitVec.ofNat 64 (s.load (th.frameAt c + 8) 8)) = 0) → Issues s c t w [] →
    Ends (.rte c t w) s c t fun x => Restored x f th.depth ∧ TSBP.OFFSET.get x.tsbp = (TSBP.OFFSET.get th.tsbp + 5) % 2 ^ 12 ∧
      x.arith = th.arith ∧ x.st = .running

/-- R197, R198: TSTART by thread 0 in supervisor mode starts each thread selected that is NOT_STARTED, EXITED or FAULTED and has a sound
frame area, or with RESUME restores each that is FAULTED from its frame, leaves the others but for sends that reopened queues end the
hold of, and writes the mask of those started. -/
def Sys2Proof.Claims.ThreadStart : Prop :=
  ∀ (s : State) (c : CoreId) (w : Word),
    let th := s.thr c 0
    let q := s.core c
    let chosen (u : Thr) : Prop := bit (xOp w) u.val = true ∧ (q.thr[u].st = .notStarted ∨ q.thr[u].st = .exited ∨ q.thr[u].st = .faulted) ∧
      tsbOk (wb q.tstsb[u] 31 0) (wb q.tstsb[u] 63 32) = true
    let resumed (u : Thr) : Prop := bit (xOp w) u.val = true ∧ q.thr[u].st = .faulted
    let wrote (v : State) (which : Thr → Prop) : Prop := ∃ got : Nat, besides (v.thr c 0) = besides (th.writeReg (xReg w) (BitVec.ofNat 64 got)) ∧
      got % 2 = 0 ∧ got < 16 ∧ ∀ u : Thr, u ≠ 0 → (bit got u.val = true ↔ which u)
    wMajor w = 0x50 → xFn w = 0x06 → xOp w < 32 → xOp w % 2 = 0 → isD (xReg w) = true → TSTATUS.PRIV.get th.tstatus = 1 → q.lock = 0 →
    Issues s c 0 w [xReg w] →
    (16 ≤ xOp w → (∀ u : Thr, u ≠ 0 → resumed u → s.framePoisoned c q.thr[u] = false) → ∃ v, exec (.tstart c 0 w) s = .next v ∧
      v.mem = s.mem ∧ v.poison = s.poison ∧ wrote v resumed ∧ (inLine th → (v.thr c 0).pc = th.pc + 8) ∧
      ∀ u : Thr, u ≠ 0 → (resumed u → Restored (v.thr c u) (s.bytes (q.thr[u].frameAt c) 0x500) q.thr[u].depth ∧ (v.thr c u).st = .ready) ∧
        (¬resumed u → v.thr c u = s.thr c u)) ∧
    (xOp w < 16 → ∃ v, exec (.tstart c 0 w) s = .next v ∧ v.mem = s.mem ∧ v.poison = s.poison ∧
      (∀ u : Thr, u ≠ 0 → (chosen u → v.thr c u = Thread.start q.tspc[u] q.tssp[u] q.tsarg[u] 0 0 (wb q.tstsb[u] 31 0) (wb q.tstsb[u] 63 32)
          (q.tspriv.getLsbD u.val)) ∧ (¬chosen u → v.thr c u = s.thr c u ∨ v.thr c u = (s.thr c u).wake)) ∧
      wrote v chosen ∧
      (inLine th → (v.thr c 0).pc = th.pc + 8))

/-- R199: TEXIT, once everything the thread issued has completed, leaves it EXITED; memory is left. -/
def Sys2Proof.Claims.ThreadExit : Prop :=
  ∀ (s : State) (c : CoreId) (t : Thr) (w : Word),
    wMajor w = 0x50 → xFn w = 0x07 → xReg w = 0 → xOp w = 0 → s.outstanding c t = false → (s.thr c t).flights = [] → (s.thr c t).unenter.pending = false →
    Issues s c t w [] → ∃ u, exec (.texit c t w) s = .next u ∧ (u.thr c t).st = .exited ∧ (∀ x, x ≠ t → u.thr c x = s.thr c x) ∧
      u.mem = s.mem ∧ u.poison = s.poison

/-- TSTART starts the selected threads; TEXIT ends one: Claims.ThreadStart, Claims.ThreadExit. -/
def Obligations.ThreadsStartAndExit : Prop := Claims.ThreadStart ∧ Claims.ThreadExit

/-- R190, R193: with the issue stage free the thread that became READY first takes it, of those READY as it became free the first in order
after the one that issued last; else a READY thread that is
URGENT and may take an interrupt replaces the running one where that one stands at an acceptance point. -/
def Sys2Proof.Claims.ThreadSwitch : Prop :=
  ∀ (s : State) (c : CoreId) (t : Thr),
    let q := s.core c
    let takes (u : State) : Prop := (u.thr c t).st = .running ∧ (u.core c).lastIssue = t ∧ u.mem = s.mem ∧ u.regs = s.regs
    (q.running = none → (q.next.filter fun x => q.thr[x].st == .ready).or ((after q.lastIssue).find? fun x => q.thr[x].st == .ready) = some t →
      ∃ u, exec (.threadSwitch c) s = .next u ∧ takes u ∧ ∀ x, x ≠ t → u.thr c x = s.thr c x) ∧
    (∀ r, q.running = some r → q.thr[r].entry = none → q.thr[r].entering = none → q.thr[r].waitPassed = false → q.unitBusy r = false →
      ((after r).dropLast).find? (fun x => q.thr[x].st == .ready && TSTATUS.URGENT.get q.thr[x].tstatus == 1 &&
        q.thr[x].takeable.isSome) = some t →
      ∃ u, exec (.threadSwitch c) s = .next u ∧ takes u ∧ (u.thr c r).st = .ready ∧ ∀ x, x ≠ t → x ≠ r → u.thr c x = s.thr c x)

/-- R147, R150, R194: the countdown that reaches 0 raises 0x25 for its thread; an instruction whose work is done completes, its flight over
and its flag one lower, or its signal to a counter on its way. -/
def Sys2Proof.Claims.ThreadTimersAndCompletion : Prop :=
  ∀ (s : State) (c : CoreId) (t : Thr),
    let th := s.thr c t
    (HSCD.EN.get th.hscd = 1 → HSCD.COUNT.get th.hscd ≠ 0 → ∃ u, exec (.hscdExpiry c t) s = .next u ∧ Apart s u c t ∧
      HSCD.COUNT.get (u.thr c t).hscd = 0 ∧ (u.thr c t).ipend = th.ipend ||| 0x20) ∧
    (HSCD.EN.get th.hscd ≠ 1 → HSCD.COUNT.get th.hscd ≠ 0 → ∃ u, exec (.hscdExpiry c t) s = .next u ∧ Apart s u c t ∧
      u.thr c t = { th with hscd := HSCD.COUNT.put th.hscd 0 }) ∧
    (∀ k f k' i, th.flights.find? (·.key = k) = some f → f.due = true → f.grp = none → 12 ≤ f.signal → s.scObj c f.sc = some (.counter k' i) →
      ∃ u, exec (.instructionComplete c t k) s = .next u ∧ Apart s u c t ∧ u.thr c t = { th with flights := th.flights.filter (·.key ≠ k) } ∧
        u.sync = s.sync ++ [⟨s.nextId, .thread c t, c, .counter k' i, .add (SC.SIG_N.get f.sc), s.slotOf c, f.pc, f.priv⟩]) ∧
    (∀ k f, th.flights.find? (·.key = k) = some f → f.due = true → f.grp = none → f.signal ≤ 11 →
      ∃ u, exec (.instructionComplete c t k) s = .next u ∧ Apart s u c t ∧
        (u.thr c t).flights = th.flights.filter (·.key ≠ k) ∧
        (1 ≤ f.signal → (u.thr c t).flagCount f.signal = th.flagCount f.signal - 1) ∧
        ∀ n, n ≤ 11 → n ≠ f.signal → (u.thr c t).flagCount n = th.flagCount n)

/-- Threads take the issue stage in turn; countdowns and completions: Claims.ThreadSwitch, Claims.ThreadTimersAndCompletion. -/
def Obligations.ThreadsTakeTurns : Prop := Claims.ThreadSwitch ∧ Claims.ThreadTimersAndCompletion

/-- R120, R122, R125, R144, R158-R162: a load past the data cache, a store to the home and an atomic set out for the home of their physical
address, as one access of exactly their bytes behind those under way; what a load or a returning atomic will write is owed until it answers;
the address register of a store is stepped by its mode, that of a load is owed its new value. Nothing else changes: memory is written where the home performs the access. -/
def Obligations.AccessesSetOut : Prop :=
  ∀ (s : State) (c : CoreId) (t : Thr) (w : Word) (pa : Nat) (cacheable : Bool) (vpn : Option Nat),
    let th := s.thr c t
    let n := kindSize (mKind w)
    let key := (s.core c).nextKey + 1
    let bytes := toBytes n ((accessing th w).readReg (mRt w)).toNat
    let asks (mk : CoreId → Thr → Word → Instr) (overlay : List (Nat × Byte)) : Prop :=
      Leads (mk c t w) s ((sent s (.thread c t) pa (.read (addrs pa n)) (.load t key (mRt w) (mKind w)) overlay vpn).modThr c t
        fun th => (oweStepped th w key).owe (mRt w) key) c t
    let stores (mk : CoreId → Thr → Word → Instr) : Prop :=
      Leads (mk c t w) s (sent (s.modThr c t (stepped · w)) (.thread c t) pa (.write (runOf pa bytes)) (.stored t (some (th.wordAddr, th.priv))) [] vpn) c t
    Issues s c t w (mRt w :: addrRegs w) → mMode w ≠ 3 →
    (wMajor w = 0x20 → mKind w ≤ 6 → Reaches s c t w n false pa cacheable vpn → (cacheable && s.dcOn c) = false → asks .ld []) ∧
    (wMajor w = 0x22 → mKind w ≤ 6 → Reaches s c t w n false pa cacheable vpn → asks .ldu (s.dirtyAt c (addrs pa n))) ∧
    (wMajor w = 0x21 → mKind w ≤ 3 → Reaches s c t w n true pa cacheable vpn → (cacheable && s.dcOn c) = false → stores .st) ∧
    (wMajor w = 0x23 → mKind w ≤ 3 → Reaches s c t w n true pa cacheable vpn → s.dcOn c = false → stores .stu)

/-- R119-R121, R162: ATOMR and ATOMP send their operation, operand and compare value to the home; the old value of ATOMR is owed. -/
def Obligations.AtomicsSetOut : Prop :=
  ∀ (s : State) (c : CoreId) (t : Thr) (w : Word) (pa : Nat) (cacheable : Bool) (vpn : Option Nat) (op : AtomicOp),
    let th := s.thr c t
    let n := if mMode w % 2 = 0 then 4 else 8
    let key := (s.core c).nextKey + 1
    let ea := (th.readA (mAn w) + BitVec.ofInt 48 ((BitVec.ofNat 24 (if mPM w then (th.readP (mPsel w)).toNat % 2 ^ 24 else mOff w)).toInt)).toNat
    let v := (th.readReg (mRt w)).toNat % 2 ^ (8 * n)
    let cmp := if mKind w = 7 then (th.readReg (mRt w + 1)).toNat % 2 ^ (8 * n) else 0
    Issues s c t w (atomicRegs w) → mMn w = 0 → atomicOp (mKind w) (mMode w) = some op → (mKind w = 7 → mRt w < 31) →
    ea % n = 0 → s.resolve c ea false true = .ok pa cacheable vpn → s.homeCheck c t ea pa n true true (mKind w) 0 = none →
    (wMajor w = 0x28 → Leads (.atomr c t w) s ((sent s (.thread c t) pa (.atomic op n v cmp true)
      (.oldValue t key (mRt w) n (decide (2 ≤ mMode w))) [] vpn).modThr c t (·.owe (mRt w) key)) c t) ∧
    (wMajor w = 0x29 → Leads (.atomp c t w) s (sent s (.thread c t) pa (.atomic op n v cmp false)
      (.stored t (some (th.wordAddr, th.priv))) [] vpn) c t)

/-- R159, R160: an access that is not naturally aligned raises misalignment with its address in TR_FAULT, steps no register, and sends
nothing. -/
def Obligations.MisalignedAccessesFault : Prop :=
  ∀ (s : State) (c : CoreId) (t : Thr) (w : Word),
    let th := s.thr c t
    let ea := effective th w
    let faults (i : Instr) (write : Nat) : Prop := Raises i s c t 0x04 0xA { th with trFault := faultWord ea 0xA write 0 }
    Issues s c t w (mRt w :: addrRegs w) → mMode w ≠ 3 → ea % kindSize (mKind w) ≠ 0 →
    (wMajor w = 0x20 → mKind w ≤ 6 → faults (.ld c t w) 0) ∧ (wMajor w = 0x22 → mKind w ≤ 6 → faults (.ldu c t w) 0) ∧
    (wMajor w = 0x21 → mKind w ≤ 3 → faults (.st c t w) 1) ∧ (wMajor w = 0x23 → mKind w ≤ 3 → faults (.stu c t w) 1)

/-- R158, R159, R323, R324: a cacheable load whose bytes the data cache holds, and holds unpoisoned, writes its register from the line; a
cacheable store leaves its bytes valid and dirty in the data cache. Memory is left. -/
def Obligations.CachedAccesses : Prop :=
  ∀ (s : State) (c : CoreId) (t : Thr) (w : Word) (pa : Nat) (vpn : Option Nat),
    let th := s.thr c t
    let n := kindSize (mKind w)
    let o := pa % 64
    s.dcOn c = true → Issues s c t w (mRt w :: addrRegs w) → mMode w ≠ 3 →
    (∀ l, wMajor w = 0x20 → mKind w ≤ 6 → Reaches s c t w n false pa true vpn →
      (s.dcLine c (pa / 64)).1 = some l → l.has o n = true → l.bad &&& lineMask o n = 0 →
      ∃ u, exec (.ld c t w) s = .next u ∧ u.mem = s.mem ∧ u.poison = s.poison ∧
        besides (u.thr c t) = besides ((stepped th w).writeReg (mRt w) (loadValue (mKind w) (l.bytes o n))) ∧
        (∀ x, x ≠ t → u.thr c x = s.thr c x) ∧ ∀ x, x ≠ c.val → u.core x = s.core x) ∧
    (wMajor w = 0x21 → mKind w ≤ 3 → Reaches s c t w n true pa true vpn → s.dcDis c ≠ 15 →
      (∀ l, (s.dcLine c (pa / 64)).1 = some l → l.data.length = 64) →
      ∃ u, exec (.st c t w) s = .next u ∧ u.mem = s.mem ∧ u.poison = s.poison ∧
        besides (u.thr c t) = besides (stepped th w) ∧
        (∃ way l, (u.core c).dcache.find (s.dcDis c) (pa / 64) = some way ∧ (u.core c).dcache.at (pa / 64 % 256) way = some l ∧
          l.has o n = true ∧ l.dirty &&& lineMask o n = lineMask o n ∧ l.bytes o n = toBytes n ((accessing th w).readReg (mRt w)).toNat) ∧
        (∀ x, x ≠ t → u.thr c x = s.thr c x) ∧ ∀ x, x ≠ c.val → u.core x = s.core x)

/-- R158, R163, R181, R324-R326: PREF asks for the line where the data cache is to hold it and nothing brings it yet; one that would fault does nothing; CLEAN
leaves no dirty byte of the line and sends those there were to their home; INV leaves no line of the tag in data cache and side buffer and
sends nothing; CLINV does both; ICINV leaves none in the instruction cache. -/
def Sys2Proof.Claims.CacheMaintenanceByAddress : Prop :=
  ∀ (s : State) (c : CoreId) (t : Thr) (w : Word) (pa : Nat) (cacheable : Bool) (vpn : Option Nat),
    let th := s.thr c t
    let tag := pa / 64
    let ea := effective th w
    let quiet (u : State) : Prop := besides (u.thr c t) = besides (stepped th w) ∧ u.mem = s.mem ∧ u.poison = s.poison ∧
      (∀ x, x ≠ t → u.thr c x = s.thr c x) ∧ ∀ x, x ≠ c.val → u.core x = s.core x
    let sends (u : State) : Prop := ∀ k l, (k, some l) ∈ (s.core c).dcache.lines → l.tag = tag → l.dirty ≠ 0 →
      ∃ x ∈ u.txns, x.op = .write l.dirtyBytes ∧ x.src = .cache c ∧ x.addr = tag * 64 ∧ x.stage = .sent
    let gone (u : State) : Prop := (∀ k l, tabGet none (u.core c).dcache.lines k = some l → l.tag ≠ tag) ∧
      ∀ l ∈ (u.core c).side, l.tag ≠ tag
    Issues s c t w (addrRegs w) → mRt w = 0 → mKind w = 0 → mMode w ≠ 3 →
    (wMajor w = 0x24 → s.resolve c ea false false = .ok pa cacheable vpn →
      ((cacheable && s.dcOn c && !s.lineNear c tag) = true → Leads (.pref c t w) s
        (sent (s.modThr c t (stepped · w)) (.cache c) (tag * 64) (.read (addrs (tag * 64) 64)) .fillSide [] vpn) c t) ∧
      ((cacheable && s.dcOn c && !s.lineNear c tag) = false → Leads (.pref c t w) s (s.modThr c t (stepped · w)) c t)) ∧
    (∀ v e, wMajor w = 0x24 → s.resolve c ea false false = .fault v e → Yields (.pref c t w) s c t th) ∧
    (s.resolve c ea false false = .ok pa cacheable vpn →
      (wMajor w = 0x25 → ∃ u, exec (.clean c t w) s = .next u ∧ quiet u ∧ sends u ∧
        ∀ k l, tabGet none (u.core c).dcache.lines k = some l → l.tag = tag → l.dirty = 0) ∧
      (wMajor w = 0x26 → ∃ u, exec (.inv c t w) s = .next u ∧ quiet u ∧ gone u ∧ u.txns.map (·.op) = s.txns.map (·.op)) ∧
      (wMajor w = 0x27 → ∃ u, exec (.clinv c t w) s = .next u ∧ quiet u ∧ gone u ∧ sends u) ∧
      (wMajor w = 0x2A → ∃ u, exec (.icinv c t w) s = .next u ∧ quiet u ∧
        ∀ k l, (k, some l) ∈ (u.core c).icache.lines → l.tag ≠ tag))

/-- R181: DCSW cleans, invalidates, or both, one set and way of the data cache or all of it; OP 1 with CACHE 1 and ALL discards the instruction
cache. -/
def Sys2Proof.Claims.CacheMaintenanceBySetAndWay : Prop :=
  ∀ (s : State) (c : CoreId) (t : Thr) (w : Word),
    let th := s.thr c t
    let op := xOp w % 4
    let v := (th.readReg (xReg w)).toNat
    let place := v % 256 * 4 + v / 256 % 4
    let quiet (u : State) : Prop := besides (u.thr c t) = besides th ∧ u.mem = s.mem ∧ u.poison = s.poison ∧
      (∀ x, x ≠ t → u.thr c x = s.thr c x) ∧ ∀ x, x ≠ c.val → u.core x = s.core x
    wMajor w = 0x50 → xFn w = 0x0A →
    (xOp w < 3 → isD (xReg w) = true → Issues s c t w [xReg w] → ∃ u, exec (.dcsw c t w) s = .next u ∧ quiet u ∧
      (1 ≤ op → tabGet none (u.core c).dcache.lines place = none) ∧
      (op = 0 → ∀ l, tabGet none (u.core c).dcache.lines place = some l → l.dirty = 0)) ∧
    (4 ≤ xOp w → xOp w < 7 → xReg w = 0 → Issues s c t w [] → ∃ u, exec (.dcsw c t w) s = .next u ∧ quiet u ∧
      (1 ≤ op → (∀ k, tabGet none (u.core c).dcache.lines k = none) ∧ (u.core c).side = []) ∧
      (op = 0 → ∀ k l, tabGet none (u.core c).dcache.lines k = some l → l.dirty = 0)) ∧
    (xOp w = 13 → xReg w = 0 → Issues s c t w [] → ∃ u, exec (.dcsw c t w) s = .next u ∧ quiet u ∧ (u.core c).icache.lines = [])

/-- Cache maintenance by address and by set and way: Claims.CacheMaintenanceByAddress, Claims.CacheMaintenanceBySetAndWay. -/
def Obligations.CacheMaintenance : Prop := Claims.CacheMaintenanceByAddress ∧ Claims.CacheMaintenanceBySetAndWay

/-- R227-R229: TCFG gives a T tile its shape and, where that is new, empties it; TREL and TRELA empty; TSTAT reads the state word. Each waits
while a tile instruction that names the tile is in flight. -/
def Obligations.TileConfiguration : Prop :=
  ∀ (s : State) (c : CoreId) (t : Thr) (w : Word),
    let q := s.core c
    let i := tTd w
    let quiet (u : State) : Prop := besides (u.thr c t) = besides (s.thr c t) ∧ elsewhere u = elsewhere s ∧
      (∀ x, x ≠ t → u.thr c x = s.thr c x) ∧ ∀ x, x ≠ c.val → u.core x = s.core x
    let rows := wb w 4 0 + 1
    let rowBytes := (wb w 8 5 + 1) * 4
    let fmt : Fin 8 := Fin.ofNat 8 (wb w 11 9)
    let x := q.tTile i
    (wMajor w = 0x82 → tFn w = 0 → wb w 34 12 = 0 → i < 16 → q.tileBusy (· == i) = false → Issues s c t w [] →
      ∃ u, exec (.tcfg c t w) s = .next u ∧ quiet u ∧
        (¬(x.rows = rows ∧ x.rowBytes = rowBytes ∧ x.fmt = fmt) →
          (u.core c).tTile i = { x with rows := rows, rowBytes := rowBytes, fmt := fmt, held := false, data := [] }) ∧
        ((x.rows = rows ∧ x.rowBytes = rowBytes ∧ x.fmt = fmt) → (u.core c).tTile i = x) ∧
        (∀ j, j ≠ i → (u.core c).tTile j = q.tTile j) ∧ (u.core c).zt = q.zt) ∧
    (wMajor w = 0x83 → tFn w = 0 → wb w 34 0 = 0 → i < 24 → q.tileBusy (· == i) = false → Issues s c t w [] →
      ∃ u, exec (.trel c t w) s = .next u ∧ quiet u ∧ (u.core c).held i = false ∧
        ∀ j, j < 24 → j ≠ i → (u.core c).held j = q.held j ∧ (j < 16 → (u.core c).tTile j = q.tTile j) ∧
          (16 ≤ j → (u.core c).zTile (j - 16) = q.zTile (j - 16))) ∧
    (wMajor w = 0x84 → wb w 47 0 = 0 → q.tileBusy (fun _ => true) = false → Issues s c t w [] →
      ∃ u, exec (.trela c t w) s = .next u ∧ quiet u ∧ ∀ j, j < 24 → (u.core c).held j = false) ∧
    (wMajor w = 0x85 → tFn w = 0 → wb w 34 6 = 0 → isD (wb w 5 0) = true → i < 24 → Issues s c t w [wb w 5 0] →
      Yields (.tstat c t w) s c t ((s.thr c t).writeReg (wb w 5 0) (if i < 16 then q.tdesc i else q.zstate (i - 16))))

/-- R223, R230-R250: a TLD that issues makes its tile HELD and asks for its first row; each step of its request phase asks for the next
row, where that is not misaligned and every byte of it is one its home takes; with the last row the phase ends, and every row is to come. -/
def Sys2Proof.Claims.TileLoadRequests : Prop :=
  ∀ (s : State) (c : CoreId) (t : Thr) (w : Word),
    let th := s.thr c t
    let i := tlTile w
    let f := tlSfmt w
    let x := (s.core c).tTile i
    let e := x.elems
    let (base, stride, scale) := (th.tileBase w, th.tileStride w, (th.readA (tlAs w)).toNat)
    let good (b m a e r : Nat) (tr : Bool) : Prop := rowMisaligned f tr b m r e = none ∧
      ∀ va ∈ rowVas f tr b m a r e ++ (if isPal f then (rowBlocks f r e).flatMap (fun k => palVas f (blockVa b m k)) else []),
        ∃ pa ca vpn, s.resolve c va false false = .ok pa ca vpn ∧ s.homeCheck c t va pa 1 false false 0 0 = none
    let after (u : State) (r : Nat) : Prop := u.mem = s.mem ∧ u.poison = s.poison ∧ (∀ j, j ≠ i → (u.core c).tTile j = (s.core c).tTile j) ∧
      (r + 1 < x.rows → ∃ ph, (u.thr c t).phase = some ph ∧ ph.kind = 0 ∧ ph.word = w ∧ ph.row = r + 1 ∧ (u.thr c t).pc = th.pc) ∧
      (r + 1 = x.rows → (u.thr c t).phase = none ∧ (u.thr c t).tlprog = 0 ∧ (tlUpd w = false → (u.thr c t).a = th.a) ∧
        (inLine th → (u.thr c t).pc = th.pc + 8))
    wMajor w = 0x80 →
    (TLPROG.ACTIVE.get th.tlprog = 0 → s.tldIrregular c w = none → 0 < x.rows → (∀ o ∈ th.tileOps, o.key ≠ (s.core c).nextKey + 1) →
      Issues s c t w ([0x20 + tlAn w, 0x30 + tlMn w] ++ (if isMx f then [0x20 + tlAs w] else []) ++
        (if wb w 22 22 = 1 then [pKey (wb w 21 19)] else [])) → good base stride scale e 0 (tlTr w) →
      ∃ u, exec (.tld c t w) s = .next u ∧ after u 0 ∧ (u.core c).tTile i = { x with held := true, lastt := t } ∧
        ∃ o ∈ (u.thr c t).tileOps, o.sfmt = f ∧ o.base = base ∧ o.stride = stride ∧ o.rows.map (·.place) = [i * 32]) ∧
    (∀ ph o, Continues s c t w 0 ph → th.tileOp ph.key = some o → o.sfmt = f → ph.row < x.rows →
      good o.base o.stride o.scale (o.rowBytes * 8 / fmtBits o.fmt) ph.row o.tr →
      ∃ u, exec (.tld c t w) s = .next u ∧ after u ph.row ∧ (u.core c).tTile i = x ∧
        ∃ o' ∈ (u.thr c t).tileOps, o'.key = ph.key ∧ o'.rows.map (·.place) = o.rows.map (·.place) ++ [i * 32 + ph.row])

/-- R232-R245: with the last of a row's bytes performed and unpoisoned the row is converted and written to its tile, and the row is over. -/
def Sys2Proof.Claims.TileRowArrives : Prop :=
  ∀ (s : State) (c : CoreId) (t : Thr) (id key place : Nat) (x : Txn) (o : TileOp) (row : TileRow) (m : List (Nat × Nat)) (fill : Bool),
    let i := place / 32
    let r := place % 32
    let xs := s.rowTxns c t key place
    let get := rowByte xs
    let y := (s.core c).tTile i
    let bs := (tileRowOf o row [] fun va => ((get va).map (·.1.toNat)).getD 0).1
    s.txn id = some x → x.src = .thread c t → x.purpose = .tileRow t key place m fill → (s.thr c t).tileOp key = some o →
    o.rows.find? (·.place = place) = some row → row.pals = [] → (∀ z ∈ xs, z.stage = .performed) →
    (∀ z ∈ xs, ∀ t' k p at' b, z.purpose = .tileRow t' k p at' b → ∀ a ∈ at', ∃ v, get a.1 = some (v, false)) →
    place ≠ headerPlace → i < 16 → y.held = true → r < y.rows → y.rowBytes ≤ 64 →
    ∃ u, exec (.tileRowArrival id) s = .next u ∧ u.mem = s.mem ∧
      (∀ b, b < y.rowBytes → tabGet 0 ((u.core c).tTile i).data (r * 64 + b) = bs.getD b 0) ∧
      (∀ r' b, r' ≠ r → r' < 32 → b < 64 → tabGet 0 ((u.core c).tTile i).data (r' * 64 + b) = tabGet 0 y.data (r' * 64 + b)) ∧
      (∀ j, j ≠ i → (u.core c).tTile j = (s.core c).tTile j) ∧ ∀ z ∈ u.txns, z ∉ xs

/-- Tile loads ask for their rows; rows that arrive are converted and written: Claims.TileLoadRequests, Claims.TileRowArrives. -/
def Obligations.TileLoads : Prop := Claims.TileLoadRequests ∧ Claims.TileRowArrives

/-- R251-R254: a TST, TCTXS or TCTXR that issues, and each step of its request phase, with every byte one its home takes: a step of a store
phase sends every byte of its row to the home where the data cache is off, and with the last row, for TCTXS the header, the phase ends;
TCTXS with REL then leaves every tile EMPTY; TCTXR asks for its header, and once that has arrived for the rows of every HELD tile. -/
def Obligations.TileStoresAndContext : Prop :=
  ∀ (s : State) (c : CoreId) (t : Thr) (w : Word),
    let th := s.thr c t
    let q := s.core c
    let i := tlTile w
    let (base, stride) := (th.tileBase w, th.tileStride w)
    let good (va : Nat) (write : Bool) : Prop :=
      ∃ pa ca vpn, s.resolve c va false write = .ok pa ca vpn ∧ s.homeCheck c t va pa 1 write false 0 0 = none
    let sentTo (u : State) (va : Nat) (bs : List Byte) : Prop := s.dcOn c = false → ∀ k (h : k < bs.length) pa ca vpn,
      s.resolve c (va48 (va + k)) false true = .ok pa ca vpn → ∃ x ∈ u.txns, x.src = .thread c t ∧ ∃ ws, x.op = .write ws ∧ (pa, bs[k], false) ∈ ws
    let kept (u : State) : Prop := u.mem = s.mem ∧ u.poison = s.poison
    let ended (u : State) : Prop := (u.thr c t).phase = none ∧ (u.thr c t).tlprog = 0 ∧ (inLine th → (u.thr c t).pc = th.pc + 8)
    let goesOn (u : State) (kind : Nat) (j : Nat × Nat) : Prop :=
      ∃ ph, (u.thr c t).phase = some ph ∧ ph.kind = kind ∧ ph.word = w ∧ (ph.slot, ph.row) = j ∧ (u.thr c t).pc = th.pc
    let offP := if wb w 22 22 = 1 then [pKey (wb w 21 19)] else []
    let shaped : Prop := ∀ j, j < 16 → (q.tTile j).rows ≤ 32 ∧ 0 < (q.tTile j).rowBytes ∧ (q.tTile j).rowBytes ≤ 64
    let fits (n : Nat) (write : Bool) : Prop := base % 256 = 0 ∧ ∀ k, k < n → good (va48 (base + k)) write
    let storesRow (u : State) (r : Nat) : Prop := kept u ∧ (u.core c).tt = q.tt ∧ (u.core c).zt = q.zt ∧
      sentTo u (va48 (base + r * stride)) (q.rowOf i r) ∧ (r + 1 < q.rowsOf i → goesOn u 1 (0, r + 1)) ∧ (r + 1 = q.rowsOf i → ended u)
    let goodRow (r : Nat) : Prop := va48 (base + r * stride) % q.alignOf i = 0 ∧
      ∀ k, k < (q.rowOf i r).length → good (va48 (va48 (base + r * stride) + k)) true
    let savesRow (u : State) (jobs : List (Nat × Nat)) : Prop := kept u ∧
      (∀ j js, jobs = j :: js → j.1 < 24 → sentTo u (contextAddr base j.1 j.2) (q.rowOf j.1 j.2)) ∧
      (∀ j k js, jobs = j :: k :: js → goesOn u 2 k ∧ (u.core c).tt = q.tt ∧ (u.core c).zt = q.zt) ∧
      (jobs.length = 1 → ended u ∧ (tlUpd w = true → ∀ j, j < 24 → (u.core c).held j = false) ∧
        (tlUpd w = false → (u.core c).tt = q.tt ∧ (u.core c).zt = q.zt))
    (wMajor w = 0x81 →
      (TLPROG.ACTIVE.get th.tlprog = 0 → wb w 47 43 = 0 → wb w 40 40 = 0 → tlAs w = 0 → i < 24 → q.held i = true → 0 < q.rowsOf i →
        Issues s c t w ([0x20 + tlAn w, 0x30 + tlMn w] ++ offP) → goodRow 0 → ∃ u, exec (.tst c t w) s = .next u ∧ storesRow u 0) ∧
      (∀ ph, Continues s c t w 1 ph → ph.row < q.rowsOf i → goodRow ph.row → ∃ u, exec (.tst c t w) s = .next u ∧ storesRow u ph.row)) ∧
    (wMajor w = 0x86 → fits (0x100 + 24 * 0x800) true → shaped →
      (TLPROG.ACTIVE.get th.tlprog = 0 → contextIrregular w true = none → q.tileBusy (fun _ => true) = false → Issues s c t w (contextRegs w) →
        ∃ u, exec (.tctxs c t w) s = .next u ∧ savesRow u (q.contextRows 0 0 ++ [(24, 0)])) ∧
      (∀ ph, Continues s c t w 2 ph → ∃ u, exec (.tctxs c t w) s = .next u ∧ savesRow u (q.contextRows ph.slot ph.row ++ [(24, 0)]))) ∧
    (wMajor w = 0x87 → TLPROG.ACTIVE.get th.tlprog = 0 → contextIrregular w false = none → q.tileBusy (fun _ => true) = false →
      Issues s c t w (contextRegs w) → fits 256 false →
      ∃ u, exec (.tctxr c t w) s = .next u ∧ kept u ∧
        (∃ ph, (u.thr c t).phase = some ph ∧ ph.kind = 3 ∧ ph.word = w ∧ ph.asked = true ∧ ph.hdr = false) ∧
        ∃ x ∈ u.txns, x.src = .thread c t ∧ ∃ key m f, x.purpose = .tileRow t key headerPlace m f) ∧
    (∀ ph, wMajor w = 0x87 → Continues s c t w 3 ph → ph.hdr = true → fits (0x100 + 24 * 0x800) false → shaped →
      ∃ u, exec (.tctxr c t w) s = .next u ∧ kept u ∧ (q.contextRows ph.slot ph.row = [] → ended u) ∧
        (∀ j js, q.contextRows ph.slot ph.row = j :: js →
          (∃ x ∈ u.txns, x.src = .thread c t ∧ ∃ m f, x.purpose = .tileRow t ph.key (j.1 * 32 + j.2) m f) ∧ (js = [] → ended u) ∧
          ∀ k js', js = k :: js' → goesOn u 3 k))

/-- R258-R262, R265-R276: a matrix or vector instruction that is not irregular and finds its unit's queue free issues: it begins at once in a
free unit, else waits in the queue; its destination is HELD. -/
def Sys2Proof.Claims.UnitInstructionsIssue : Prop :=
  ∀ (s : State) (c : CoreId) (t : Thr) (w : Word),
    let q := s.core c
    let enters (i : Instr) (mx : Bool) : Prop := (q.eng mx).queued = none →
      ∃ u, exec i s = .next u ∧ u.mem = s.mem ∧ u.poison = s.poison ∧ (u.core c).held (tTd w) = true ∧
        (∃ o : UnitOp, o.word = w ∧ o.thr = t ∧ o.pc = (s.thr c t).wordAddr ∧ o.rmode = FPCTL.RMODE.get (s.thr c t).fpctl ∧
          ((q.eng mx).running = none → ((u.core c).eng mx).running = some o ∧ ((u.core c).eng mx).queued = none) ∧
          ((q.eng mx).running ≠ none → ((u.core c).eng mx).running = (q.eng mx).running ∧ ((u.core c).eng mx).queued = some o)) ∧
        ((u.core c).eng (!mx)) = q.eng (!mx) ∧ (∀ x, x ≠ t → u.thr c x = s.thr c x) ∧ (∀ x, x ≠ c.val → u.core x = s.core x) ∧
        (inLine (s.thr c t) → (u.thr c t).pc = (s.thr c t).pc + 8)
    (∀ r ∈ ([(.mma, 0), (.mmaz, 1), (.mmap, 2), (.mmapz, 3)] : List ((CoreId → Thr → Word → Instr) × Nat)),
      wMajor w = 0xC0 → tFn w = r.2 → s.mmaIrregular c w = none → Issues s c t w [] → enters (r.1 c t w) true) ∧
    (∀ r ∈ ([(.vadd, 0x00), (.vsub, 0x01), (.vmul, 0x02), (.vfma, 0x03), (.vfnma, 0x04), (.vmin, 0x05), (.vmax, 0x06), (.vceq, 0x07),
        (.vclt, 0x08), (.vcle, 0x09), (.vsel, 0x0A), (.vmov, 0x0B), (.vbrow, 0x0C), (.vspl, 0x0D), (.vcvt, 0x0E), (.vand, 0x0F),
        (.vor, 0x10), (.vxor, 0x11), (.vshl, 0x12), (.vshr, 0x13), (.vsar, 0x14), (.vpadd, 0x18), (.vpnorm, 0x19), (.vpcvt, 0x1A)] :
        List ((CoreId → Thr → Word → Instr) × Nat)),
      wMajor w = 0xC1 → tFn w = r.2 → s.vecIrregular c w = none → Issues s c t w (if r.2 = 0x0D then [vAmt w] else []) → enters (r.1 c t w) false)

/-- R260, R261: a queued instruction begins in a free unit, or once the running one's busy time is over, which then ends on the tiles as it
read them; an instruction completes: its tiles are written, its flags are set in the thread that issued it, and it leaves the unit. -/
def Sys2Proof.Claims.UnitEvents : Prop :=
  ∀ (s : State) (c : CoreId) (o : UnitOp) (mx : Bool),
    let q := s.core c
    let unit : Engine := if mx then .matrix else .vector
    ((q.eng mx).running = none → (q.eng mx).queued = some o →
      ∃ u, exec (.unitInstructionBegin c unit) s = .next u ∧ ((u.core c).eng mx).running = some o ∧ ((u.core c).eng mx).queued = none ∧
        (u.core c).tt = q.tt ∧ (u.core c).zt = q.zt ∧ (∀ x, u.thr c x = s.thr c x) ∧ u.mem = s.mem ∧ u.txns = s.txns) ∧
    ((q.eng mx).running = some o → (q.eng mx).ending = none →
      ∃ u, exec (.unitInstructionBegin c unit) s = .next u ∧ ((u.core c).eng mx).ending = some (o, q.tt, q.zt) ∧
        ((u.core c).eng mx).running = (q.eng mx).queued ∧ ((u.core c).eng mx).queued = none ∧
        (u.core c).tt = q.tt ∧ (u.core c).zt = q.zt ∧ (∀ x, u.thr c x = s.thr c x) ∧ u.mem = s.mem ∧ u.txns = s.txns) ∧
    (∀ tt zt, (q.eng mx).ending = some (o, tt, zt) →
      ∃ u, exec (.unitInstructionComplete c unit) s = .next u ∧ (u.core c).eng mx = { q.eng mx with ending := none } ∧
        (let old := { q with tt := tt, zt := zt }
         let r := if mx then old.runMma o else old.runVec o
         let v := (q.takeResult old r.1 (tTd o.word)).takeResult old r.1 (tTd o.word + 1)
         (u.core c).tt = v.tt ∧ (u.core c).zt = v.zt ∧ (u.thr c o.thr).arith = arithRaise (s.thr c o.thr).arith r.2 o.pc) ∧
        (u.thr c o.thr).d = (s.thr c o.thr).d ∧ (u.thr c o.thr).a = (s.thr c o.thr).a ∧ (u.thr c o.thr).m = (s.thr c o.thr).m ∧
        (∀ x, x ≠ o.thr → u.thr c x = s.thr c x) ∧ (∀ x, x ≠ c.val → u.core x = s.core x) ∧ u.mem = s.mem ∧ u.txns = s.txns) ∧
    ((q.eng mx).running = some o → (q.eng mx).ending = none →
      ∃ u, exec (.unitInstructionComplete c unit) s = .next u ∧ (u.core c).eng mx = { q.eng mx with running := none } ∧
        (let r := if mx then q.runMma o else q.runVec o
         (u.core c).tt = r.1.tt ∧ (u.core c).zt = r.1.zt ∧ (u.thr c o.thr).arith = arithRaise (s.thr c o.thr).arith r.2 o.pc) ∧
        (u.thr c o.thr).d = (s.thr c o.thr).d ∧ (u.thr c o.thr).a = (s.thr c o.thr).a ∧ (u.thr c o.thr).m = (s.thr c o.thr).m ∧
        (∀ x, x ≠ o.thr → u.thr c x = s.thr c x) ∧ (∀ x, x ≠ c.val → u.core x = s.core x) ∧ u.mem = s.mem ∧ u.txns = s.txns)

/-- Matrix and vector instructions issue, queue, begin and complete: Claims.UnitInstructionsIssue, Claims.UnitEvents. -/
def Obligations.UnitsIssueAndComplete : Prop := Claims.UnitInstructionsIssue ∧ Claims.UnitEvents

/-- R264-R269: the integer products of a matrix instruction are summed and added to the accumulator, or to 0 for the zeroing form, modulo
2^32; floating-point ones are accumulated group by group, each group's exact sum rounded once. -/
def Obligations.MatrixResults : Prop :=
  ∀ (q : Core) (o : UnitOp) (i k : Nat),
    let w := o.word
    let (a, b) := (q.tTile (tTa w), q.tTile (tTb w))
    let j := tTd w - 16
    let n := a.elems
    let bits := fmtBits a.fmt
    let zero := tFn w % 2 = 1
    let el (tile r x : Nat) : Nat := q.elem tile bits r x
    let old : Nat := if zero then 0 else (tabGet (0 : BitVec 32) (q.zTile j).data (i * 16 + k)).toNat
    let new : Nat := (tabGet (0 : BitVec 32) ((q.runMma o).1.zTile j).data (i * 16 + k)).toNat
    tTa w < 16 → tTb w < 16 → i < a.rows → k < b.rows → b.rows ≤ 16 → b.elems = n →
    (fmtFloat a.fmt = none → new = (((old : Int) +
      ((List.range n).map fun x => sext bits (el (tTa w) i x) * sext bits (el (tTb w) k x)).sum) % 2 ^ 32).toNat) ∧
    (∀ f, fmtFloat a.fmt = some f → tFn w < 2 → o.rmode ≠ 2 →
      new = (accumulate o.rmode (groupsOf (groupSize a.fmt) ((List.range n).map fun x =>
        (f.value (el (tTa w) i x), f.value (el (tTb w) k x)))) 0 old .none).1 % 2 ^ 32)

/-- R270-R276: what the elements of a vector instruction's destination come to, by function, on integers, on floating-point numbers and on
raw bits. -/
def Obligations.VectorElementResults : Prop :=
  ∀ (o : UnitOp) (m : RMode) (f : FFmt) (a b d : Nat),
    let fn := tFn o.word
    let ty := vTy o.word
    let n := fmtBits ty
    let v := vecElem o m a b d
    let (x, y, z) := (sext n a, sext n b, sext n d)
    let (p, g, h) := (f.value a, f.value b, f.value d)
    (fmtFloat ty = none →
      (fn = 0x00 → v = (wrap n (x + y), .none)) ∧ (fn = 0x01 → v = (wrap n (x - y), .none)) ∧
      (fn = 0x02 → v = (wrap n (x * y), .none)) ∧ (fn = 0x03 → v = (wrap n (x * y + z), .none)) ∧
      (fn = 0x04 → v = (wrap n (z - x * y), .none)) ∧ (fn = 0x05 → v = (wrap n (min x y), .none)) ∧
      (fn = 0x06 → v = (wrap n (max x y), .none)) ∧ (fn = 0x07 → v = (if x = y then 2 ^ n - 1 else 0, .none)) ∧
      (fn = 0x08 → v = (if x < y then 2 ^ n - 1 else 0, .none)) ∧ (fn = 0x09 → v = (if x ≤ y then 2 ^ n - 1 else 0, .none))) ∧
    (fmtFloat ty = some f →
      (fn = 0x00 → v = withNv (p.add g).2 (f.write m (p.add g).1)) ∧ (fn = 0x01 → v = withNv (p.add g.neg).2 (f.write m (p.add g.neg).1)) ∧
      (fn = 0x02 → v = withNv (p.mul g).2 (f.write m (p.mul g).1)) ∧
      (fn = 0x03 → v = withNv (p.mul g).2 (withNv ((p.mul g).1.add h).2 (f.write m ((p.mul g).1.add h).1))) ∧
      (fn = 0x04 → v = withNv (p.mul g).2 (withNv (h.add (p.mul g).1.neg).2 (f.write m (h.add (p.mul g).1.neg).1))) ∧
      (fn = 0x05 → v = f.write m (p.minMax false g)) ∧ (fn = 0x06 → v = f.write m (p.minMax true g))) ∧
    (fn = 0x0A → v = (if d ≠ 0 then a else b, .none)) ∧ ((fn = 0x0B ∨ fn = 0x0C) → v = (a, .none)) ∧
    (fn = 0x0D → v = (o.splat.toNat % 2 ^ n, .none)) ∧ (fn = 0x0F → v = (a &&& b, .none)) ∧ (fn = 0x10 → v = (a ||| b, .none)) ∧
    (fn = 0x11 → v = (a ^^^ b, .none)) ∧ (fn = 0x12 → v = (a * 2 ^ vAmt o.word % 2 ^ n, .none)) ∧
    (fn = 0x13 → v = (a / 2 ^ vAmt o.word, .none)) ∧ (fn = 0x14 → v = (wrap n (x / 2 ^ vAmt o.word), .none))

/-- R334-R341, R343, R346, R347, R350, R351: the compose buffer moves word by word; a SEND or SENDR on an open channel with credit writes its header
to C0, takes a credit and puts its message last on the network with status 0, and on a SHUT channel sends nothing and answers CLOSED; a word
popped is the header or the next payload word and the last one frees the head; QDROP frees it at once; QARM arms. -/
def Sys2Proof.Claims.MessageInstructions : Prop :=
  ∀ (s : State) (c : CoreId) (t : Thr) (w : Word), wMajor w = 0x60 →
    let th := s.thr c t
    let rd := xReg w
    let q := qOf w
    let k := s.queue c q
    let mine : Prop := s.flag (aQCFG c q) QCFG.DECL = true ∧ s.reader c q = t ∧ isD rd = true
    let head (o wc : Nat) : Word := BitVec.ofNat 64 (o / 2 ^ 18 % 64 + o / 2 ^ 15 % 8 * 2 ^ 6 + opKind o * 2 ^ 9 + t.val * 2 ^ 11 + wc * 2 ^ 16)
    let sends (i : Instr) (o : Nat) : Prop := ∀ slot wc e, o < 2 ^ 24 → opIrregular o = none → isD rd = true → s.boundTo c = some (slot, wc) →
      s.channel slot c t (opKind o) (opDst o) (opQueue o) = some e →
      (DIR1.SHUT.get (s.reg (aDIR1 e)) = 1 →
        Leads i s ((s.incFld (aDIR1 e) DIR1.CLOSED_N 1).modThr c t fun th => (th.writeC 0 (head o wc)).writeReg rd 0x33) c t) ∧
      (DIR1.SHUT.get (s.reg (aDIR1 e)) = 0 → DIR1.AVAIL.get (s.reg (aDIR1 e)) ≠ 0 →
        ¬(DIR0.GUAR.get (s.reg (aDIR0 e)) = 1 ∧ DIR0.INFL.get (s.reg (aDIR0 e)) ≠ 0 ∧
          DIR0.INFL.get (s.reg (aDIR0 e)) ≤ DIR1.OUT.get (s.reg (aDIR1 e))) →
        let out (v : State) : State := if DIR0.GUAR.get (s.reg (aDIR0 e)) = 1 then v.incFld (aDIR1 e) DIR1.OUT 1 else v
        let pay := (List.range (o / 2 ^ 15 % 8)).map fun i => th.readC (i + 1)
        let m : NetMsg := ⟨s.nextId, ⟨head o wc, pay, some e, s.nextId⟩, s.fld (aDIR0 e) DIR0.DST, Fin.ofNat 8 (opQueue o), slot,
          if opKind o = 2 then some (s.groupRoot slot (opDst o)) else none, 0⟩
        Leads i s ((out ((({ s with msgs := s.msgs ++ [m] } : State).incFld (aDIR1 e) DIR1.SENT 1).setFld (aDIR1 e) DIR1.AVAIL
            (DIR1.AVAIL.get (s.reg (aDIR1 e)) - 1))).modThr c t fun th => (th.writeC 0 (head o wc)).writeReg rd 0) c t)
    (xFn w = 0x00 → 1 ≤ xOp w → xOp w < 8 → Issues s c t w [rd] → Yields (.mcw c t w) s c t (th.writeC (xOp w) (th.readReg rd))) ∧
    (xFn w = 0x01 → xOp w < 8 → isD rd = true → Issues s c t w [rd] → Yields (.mcr c t w) s c t (th.writeReg rd (th.readC (xOp w)))) ∧
    (xFn w = 0x02 → Issues s c t w [rd] → sends (.send c t w) (xOp w)) ∧
    (xFn w = 0x03 → xOp w < 32 → Issues s c t w [rd, xOp w % 64] → sends (.sendr c t w) (th.readReg (xOp w)).toNat) ∧
    (∀ m ms, xFn w = 0x04 → xOp w < 8 → mine → k.msgs = m :: ms → Issues s c t w [rd] →
      let v := if k.pos = 0 then m.header else m.payload.getD (k.pos - 1) 0
      (k.pos < m.len → Leads (.qpop c t w) s ((s.modQueue c q fun k => { k with pos := k.pos + 1 }).modThr c t (·.writeReg rd v)) c t) ∧
      (m.len ≤ k.pos → Leads (.qpop c t w) s ((s.freeHead c q).modThr c t (·.writeReg rd v)) c t)) ∧
    (xFn w = 0x05 → xOp w < 8 → mine → Issues s c t w [rd] → Yields (.qstat c t w) s c t (th.writeReg rd k.stat)) ∧
    (xFn w = 0x07 → xOp w < 8 → mine → Issues s c t w [] → Leads (.qdrop c t w) s (s.freeHead c q) c t) ∧
    (xFn w = 0x08 → xOp w < 1024 → 1 ≤ xOp w / 16 → xOp w / 16 ≤ 32 → mine → Issues s c t w [] →
      (¬(bit (xOp w) 3 = true ∧ xOp w / 16 ≤ k.msgs.length) →
        Leads (.qarm c t w) s (s.modQueue c q fun k => { k with armed := bit (xOp w) 3, thresh := xOp w / 16 }) c t))

/-- R346, R348, R349, R375: QDISP goes to the handler that the head names, with the next place on the return stack and the header in its
register; the message is freed where no payload follows, else its first payload word comes next; what is left of a head already begun is
freed first. -/
def Sys2Proof.Claims.MessageDispatch : Prop :=
  ∀ (s : State) (c : CoreId) (t : Thr) (w : Word) (m : Message) (ms : List Message),
    let th := s.thr c t
    let q := qOf w
    let k := s.queue c q
    let hent := aHENT c (wb m.header 5 0)
    wMajor w = 0x60 → xFn w = 0x06 → xOp w < 8 → isD (xReg w) = true → s.flag (aQCFG c q) QCFG.DECL = true → s.reader c q = t →
    (if k.pos = 0 then k.msgs else k.msgs.tail) = m :: ms → s.flag hent HENT.V = true →
    (th.rstack.length < 16 ∨ RSCTL.MODE.get th.rsctl ≠ 1) → Issues s c t w [xReg w] →
    ∃ u, exec (.qdisp c t w) s = .next u ∧ u.mem = s.mem ∧ u.images = s.images ∧ (∀ x, x ≠ c.val → u.core x = s.core x) ∧
      (u.thr c t).pc = BitVec.ofNat 48 (s.fld hent HENT.HANDLER * 8) ∧ 
      (u.thr c t).rstack = (if th.rstack.length < 16 then th.rstack else th.rstack.tail) ++ [th.pc + 8] ∧
      (u.thr c t).readReg (xReg w) = m.header ∧ (∀ x, x ≠ t → u.thr c x = s.thr c x) ∧
      (m.len ≠ 0 → (u.queue c q).msgs = m :: ms ∧ (u.queue c q).pos = 1) ∧
      (m.len = 0 → (u.queue c q).msgs = ms ∧ (u.queue c q).pos = 0) ∧ ∀ j, j ≠ q → u.queue c j = s.queue c j

/-- Messages composed, sent, popped and dispatched; credit and status: Claims.MessageInstructions, Claims.MessageDispatch. -/
def Obligations.MessagesSentAndTaken : Prop := Claims.MessageInstructions ∧ Claims.MessageDispatch

/-- R341-R345, R352-R354: a message that has come whole enters its queue with SEQ filled in, its acknowledgement setting out, or is discarded at a
closed one; contributions add element by element and the N-th delivers the round; acknowledgements, credits and closure notices change
their channel's counts. -/
def Sys2Proof.Claims.MessageArrivals : Prop :=
  ∀ (s : State) (id : Nat) (m : NetMsg) (e : Nat), s.netMsg id = some m → m.router = none → m.msg.dir = some e → m.dst < 1152 → e < 0x8000 → s.mustFollow m = false →
    let c := m.dst
    let q := m.queue
    let k := s.queue c q
    let comb := s.fld (aQCFG c q) QCFG.COMB
    let sum (r : Round) (i : Nat) : BitVec 32 :=
      if comb = 1 then BitVec.ofNat 32 (fp32.write .rne ((fp32.value (r.elems.getD i 0).toNat).add (fp32.value (m.msg.element i).toNat)).1).1
      else r.elems.getD i 0 + m.msg.element i
    let r := k.round.getD ⟨wb m.msg.header 5 0, List.replicate (s.fld (aQCFG c q) QCFG.ELEMS) 0, []⟩
    let gone : Prop := (∀ x ∈ s.msgs, x.msg.mid = m.msg.mid → x.id = id)
    (comb = 0 → k.closed = false → k.msgs.length < 32 → k.armed = false → gone →
      ∃ u, exec (.messageEntry id) s = .next u ∧ u.mem = s.mem ∧ u.images = s.images ∧ u.msgs = s.msgs.filter (·.id ≠ id) ∧
        u.queue c q = { k with msgs := k.msgs ++ [{ m.msg with header := m.msg.header + BitVec.ofNat 64 (k.seq % 2 ^ 16 * 2 ^ 32) }], seq := k.seq + 1 } ∧
        (∀ j, j ≠ q → u.queue c j = s.queue c j) ∧ u.tokens = s.tokens ++ [⟨s.nextId, .entryAck, e⟩] ∧
        ∀ x, x ≠ c → u.core x = s.core x) ∧
    (comb = 0 → k.closed = true → gone →
      ∃ u, exec (.messageEntry id) s = .next u ∧ u.mem = s.mem ∧ u.cores = s.cores ∧ u.msgs = s.msgs.filter (·.id ≠ id) ∧
        QCNT.DISCARDED.get (u.reg (aQCNT c q)) = min (QCNT.DISCARDED.size - 1) (s.fld (aQCNT c q) QCNT.DISCARDED + 1) ∧
        DIR1.CLOSED_N.get (u.reg (aDIR1 e)) = min (DIR1.CLOSED_N.size - 1) (s.fld (aDIR1 e) DIR1.CLOSED_N + 1) ∧
        ⟨s.nextId, .entryAck, e⟩ ∈ u.tokens) ∧
    (comb ≠ 0 → k.closed = true → gone →
      ∃ u, exec (.contributionArrival id) s = .next u ∧ u.mem = s.mem ∧ u.cores = s.cores ∧ u.msgs = s.msgs.filter (·.id ≠ id) ∧
        QCNT.DISCARDED.get (u.reg (aQCNT c q)) = min (QCNT.DISCARDED.size - 1) (s.fld (aQCNT c q) QCNT.DISCARDED + 1) ∧
        ⟨s.nextId, .entryAck, e⟩ ∈ u.tokens) ∧
    (comb ≠ 0 → k.closed = false → (k.round.isSome = true ∨ k.msgs.length < 32) → r.chans.length + 1 < s.fld (aQCFG c q) QCFG.NPER → gone →
      ∃ u, exec (.contributionArrival id) s = .next u ∧ u.mem = s.mem ∧ u.msgs = s.msgs.filter (·.id ≠ id) ∧
        u.queue c q = { k with round := some { r with chans := r.chans ++ [e], elems := (List.range (s.fld (aQCFG c q) QCFG.ELEMS)).map (sum r) } } ∧ u.tokens = s.tokens ++ [⟨s.nextId, .entryAck, e⟩]) ∧
    (comb ≠ 0 → k.closed = false → s.fld (aQCFG c q) QCFG.NPER ≤ r.chans.length + 1 → k.msgs.length < 31 →
      k.armed = false → gone →
      ∃ u, exec (.contributionArrival id) s = .next u ∧ u.mem = s.mem ∧ (u.queue c q).round = none ∧ (u.queue c q).owedRounds = [] ∧
        (u.queue c q).msgs.length = k.msgs.length + 1 ∧ ∀ x ∈ r.chans ++ [e], ∃ i, ⟨i, .credit, x⟩ ∈ u.tokens)

/-- R341-R343: a return token that comes back is used up and changes its channel: an acknowledgement lowers the in-flight count, a credit raises
AVAIL to CRED at most, a closure notice sets SHUT. -/
def Sys2Proof.Claims.ReturnTokens : Prop :=
  ∀ (s : State) (id e : Nat) (kind : TokenKind), s.tokens.find? (·.id == id) = some ⟨id, kind, e⟩ →
    let i : Instr := match kind with | .entryAck => .entryAck id | .credit => .creditReturn id | .closure => .closureNotice id
    let d1 := s.reg (aDIR1 e)
    let src := s.fld (aDIR0 e) DIR0.SRC
    let thr : Thr := Fin.ofNat 4 (s.fld (aDIR0 e) DIR0.THREAD)
    ∃ u, exec i s = .next u ∧ u.mem = s.mem ∧ u.tokens = s.tokens.filter (·.id ≠ id) ∧ (∀ a, a ≠ aDIR1 e → u.reg a = s.reg a) ∧
      u.reg (aDIR1 e) = (match kind with
        | .entryAck => DIR1.OUT.put d1 (DIR1.OUT.get d1 - 1)
        | .credit => DIR1.AVAIL.put d1 (min (s.fld (aDIR0 e) DIR0.CRED) (DIR1.AVAIL.get d1 + 1))
        | .closure => DIR1.SHUT.put d1 1) ∧
      u.thr src thr = (if (s.thr src thr).stall = .credit then (s.thr src thr).wake else s.thr src thr) ∧
      ∀ x y, (x ≠ src ∨ y ≠ thr) → u.thr x y = s.thr x y

/-- Messages, acknowledgements, credits and contributions arrive: Claims.MessageArrivals, Claims.ReturnTokens. -/
def Obligations.MessagesArrive : Prop := Claims.MessageArrivals ∧ Claims.ReturnTokens

/-- R360, R366, R370, R372: a sync instruction whose SC register names an object of its image and of its kind sends its operation to it, and
owes its register where a value comes back; SNOTE arms the thread's notification with the amount or the phase, fires it where a counter has
reached it, or disarms it. -/
def Obligations.SyncInstructions : Prop :=
  ∀ (s : State) (c : CoreId) (t : Thr) (w : Word) (obj : SyncObj), wMajor w = 0x61 →
    let th := s.thr c t
    let rd := xReg w
    let sc := th.readSC (xOp w % 4)
    let key := (s.core c).nextKey + 1
    let v := th.readReg rd
    let op (k : SyncKind) : State := { s with sync := s.sync ++ [⟨s.nextId, .thread c t, c, obj, k, s.slotOf c, th.wordAddr, th.priv⟩] }
    let owed (u : State) : State := u.modThr c t (·.owe rd key)
    let mine (fn named kind : Nat) (regs : List Nat) : Prop := xFn w = fn ∧ xOp w < named ∧ isD rd = true ∧ SC.KIND.get sc = kind ∧ Issues s c t w regs
    let noted (n : Option Notif) : State := s.modThr c t fun th => { th with notif := n }
    let notes (n : Notif) : Prop := xFn w = 0x02 ∧ xOp w < 4 ∧ isD rd = true ∧ Issues s c t w [] → Leads (.snote c t w) s (noted (some n)) c t
    s.scObj c sc = some obj →
    (mine 0x00 4 0 [rd] → Leads (.scadd c t w) s (op (.add (sext 32 v.toNat))) c t) ∧
    (mine 0x00 8 0 [rd] → 4 ≤ xOp w → Leads (.scadd c t w) s (owed (op (.addReturn t key rd (sext 32 v.toNat)))) c t) ∧
    (mine 0x01 4 0 [rd] → Leads (.scrd c t w) s (owed (op (.read t key rd))) c t) ∧
    (mine 0x03 4 1 [rd] → Leads (.bcfg c t w) s (op (.config (wb v 9 0) (wb v 25 16) (wb v 41 32))) c t) ∧
    (mine 0x04 4 1 [rd] → Leads (.bstat c t w) s (owed (op (.barrierRead t key rd))) c t) ∧
    (∀ k i, obj = .counter k i → s.counter k i < SC.WAIT_N.get sc → notes ⟨obj, SC.WAIT_N.get sc⟩) ∧
    (∀ b, obj = .barrier b → notes ⟨obj, s.phase b⟩) ∧
    (∀ k i, obj = .counter k i → SC.WAIT_N.get sc ≤ s.counter k i → xFn w = 0x02 ∧ xOp w < 4 ∧ isD rd = true ∧ Issues s c t w [] →
      Leads (.snote c t w) s ((noted none).modThr c t fun th => { th with ipend := th.ipend ||| 8 }) c t) ∧
    (xFn w = 0x02 ∧ 4 ≤ xOp w ∧ xOp w < 8 ∧ isD rd = true ∧ Issues s c t w [] → Leads (.snote c t w) s (noted none) c t)

/-- R360-R363: an add leaves the sum in its counter and a returning add or a read sends the value it found; a sum below 0 or of 2^32 or more
changes nothing and is reported; a satisfied wait is released, and a consume takes its amount; one not satisfied parks while the cluster
holds fewer than 512, else it is held at the cluster's input until an entry frees. -/
def Obligations.CounterOperations : Prop :=
  (∀ (s : State) (id : Nat) (o : SyncOp) (k : Cluster) (i : Fin 256), s.sync.find? (·.id == id) = some o → o.obj = .counter k i →
    let rest := s.sync.filter (·.id ≠ id)
    let v := s.counter k i
    let scnt := aSCNT k i
    let alone : Prop := (∀ p ∈ s.parked, p.obj ≠ o.obj) ∧ ∀ c t n, (s.thr c t).notif = some n → n.obj ≠ o.obj
    let sends (u : State) (who : Waiter) (x : SyncKind) : Prop := ∃ y ∈ u.sync, y.who = who ∧ y.obj = o.obj ∧ y.kind = x
    let behind (consume : Bool) : Prop := consume = true ∧ ∃ p ∈ s.parked, p.obj = o.obj ∧ p.consume = true
    let only (u : State) : Prop := u.cores = s.cores ∧ u.images = s.images ∧ RegsBut s u [scnt]
    (∀ n : Int, o.kind = .add n → alone → 0 ≤ (v : Int) + n → (v : Int) + n < 2 ^ 32 →
      Answers (.counterSignal id) s fun u => u.counter k i = ((v : Int) + n).toNat ∧ only u ∧ u.sync = rest) ∧
    (∀ t key rd, ∀ n : Int, o.kind = .addReturn t key rd n → alone → 0 ≤ (v : Int) + n → (v : Int) + n < 2 ^ 32 →
      Answers (.counterSignal id) s fun u => u.counter k i = ((v : Int) + n).toNat ∧ only u ∧ sends u o.who (.reply t key rd v)) ∧
    (∀ t key rd, o.kind = .read t key rd → Answers (.counterSignal id) s fun u => only u ∧ u.regs = s.regs ∧ sends u o.who (.reply t key rd v)) ∧
    (∀ n : Int, o.kind = .add n → ((v : Int) + n < 0 ∨ 2 ^ 32 ≤ (v : Int) + n) →
      Answers (.counterSignal id) s fun u => u.counter k i = v ∧ u.cores = s.cores ∧ sends u o.who (.error none) ∧
        u.fld (aSERR_CTL k) SERR_CTL.COUNT = min (SERR_CTL.COUNT.size - 1) (s.fld (aSERR_CTL k) SERR_CTL.COUNT + 1)) ∧
    (∀ n consume, o.kind = .wait n consume → n ≤ v → ¬behind consume →
      Answers (.counterWait id) s fun u => only u ∧ u.counter k i = (if consume then v - n else v) ∧ u.parked = s.parked ∧ u.inputs = s.inputs ∧
        sends u o.who (.release consume)) ∧
    (∀ n consume, o.kind = .wait n consume → (v < n ∨ behind consume) → Answers (.counterWait id) s fun u => only u ∧ u.counter k i = v ∧
      (if s.parkedIn k < 512 then u.parked = s.parked ++ [⟨o.who, o.obj, n, consume⟩] ∧ u.inputs = s.inputs ∧ u.fld scnt SCNT.PARKED = 1
        else u.parked = s.parked ∧ u.inputs = s.inputs ++ [⟨o.who, o.obj, n, consume⟩])) ∧
    (∀ n : Int, o.kind = .add n → 0 ≤ (v : Int) + n → (v : Int) + n < 2 ^ 32 →
      Answers (.counterSignal id) s fun u => ∀ p ∈ s.parked, p.obj = o.obj → p.consume = false → (p.amount : Int) ≤ v + n →
        p ∉ u.parked ∧ sends u p.who (.release false))) ∧
  ∀ (s : State) (k : Cluster) (i : Fin 256) (p : Parked) (ps : List Parked), s.inputs = p :: ps → p.obj = .counter k i → s.parkedIn k < 512 →
    let behind : Prop := p.consume = true ∧ ∃ q ∈ s.parked, q.obj = p.obj ∧ q.consume = true
    ((s.counter k i < p.amount ∨ behind) → Answers (.parkedWaitAdmit k) s fun u => u.cores = s.cores ∧ u.images = s.images ∧
      RegsBut s u [aSCNT k i] ∧ u.counter k i = s.counter k i ∧ u.parked = s.parked ++ [p] ∧ u.inputs = ps) ∧
    (p.amount ≤ s.counter k i → ¬behind → Answers (.parkedWaitAdmit k) s fun u => u.cores = s.cores ∧ RegsBut s u [aSCNT k i] ∧
      u.counter k i = (if p.consume then s.counter k i - p.amount else s.counter k i) ∧ u.parked = s.parked ∧ u.inputs = ps ∧
      ∃ y, u.sync = s.sync ++ [y] ∧ y.who = p.who ∧ y.obj = p.obj ∧ y.kind = .release p.consume)

/-- R366-R368: the last participant's arrival completes the phase (PHASE rises, the mask clears, every wait parked on the unit is released),
an earlier one only counts; a second arrival or one of a core that does not participate is reported; a configuration sets the mask while
no arrival is outstanding; a wait for a phase past is released at once and else parked. -/
def Sys2Proof.Claims.BarrierOperations : Prop :=
  ∀ (s : State) (id : Nat) (o : SyncOp) (b : Fin 64) (j : Fin 1024), s.sync.find? (·.id == id) = some o → o.obj = .barrier b → o.core < 1152 →
    let ph := s.phase b
    let sends (u : State) (who : Waiter) (x : SyncKind) : Prop := ∃ y ∈ u.sync, y.who = who ∧ y.obj = o.obj ∧ y.kind = x
    let arrived (x : Fin 1024) : Bool := s.mask (aARR b) x
    let takes (x : Fin 1024) : Bool := s.mask (aMASK b) x
    let arrives : Prop := o.kind = .arrive ∧ s.activeOf o.core = some j.val
    (arrives → takes j = true → arrived j = false → (∀ x, takes x = true → x = j ∨ arrived x = true) → (∀ x, arrived x = true → takes x = true) →
      Answers (.barrierArrival id) s fun u => u.phase b = (ph + 1) % 2 ^ 32 ∧ (∀ x : Fin 1024, u.mask (aARR b) x = false) ∧
        (∀ p ∈ u.parked, p.obj ≠ o.obj) ∧ ∀ p ∈ s.parked, p.obj = o.obj → sends u p.who (.release p.consume)) ∧
    (∀ y, arrives → takes j = true → arrived j = false → takes y = true → y ≠ j → arrived y = false →
      Answers (.barrierArrival id) s fun u => u.phase b = ph ∧ (∀ x : Fin 1024, u.mask (aARR b) x = (arrived x || decide (x = j))) ∧
        u.parked = s.parked ∧ RegsBut s u [aARR b (j.val / 64)] ∧ tabGet 0 (u.core o.core).lastArr b = ph + 1) ∧
    (arrives → (takes j = false ∨ arrived j = true) →
      Answers (.barrierArrival id) s fun u => u.phase b = ph ∧ (∀ x : Fin 1024, u.mask (aARR b) x = arrived x) ∧ sends u o.who (.error none)) ∧
    (∀ t key rd, o.kind = .barrierRead t key rd → Answers (.barrierArrival id) s fun u => u.regs = s.regs ∧ sends u o.who (.reply t key rd ph)) ∧
    (∀ first last stride im, o.kind = .config first last stride → s.image o.slot = some im → (∀ x : Fin 1024, arrived x = false) →
      first ≤ last → last < im.k → 0 < stride →
      Answers (.barrierArrival id) s fun u => u.cores = s.cores ∧ ∀ x : Fin 1024, u.mask (aMASK b) x = true ↔
        ∃ n, n ≤ (last - first) / stride ∧ (im.core (first + stride * n)).bind s.activeOf = some x.val) ∧
    (o.kind = .barrierWait → let l := tabGet 0 (s.core o.core).lastArr b
      (0 < l → l ≤ ph → Answers (.barrierWait id) s fun u => u.regs = s.regs ∧ u.parked = s.parked ∧ sends u o.who (.release false)) ∧
      (l = 0 ∨ ph < l → Answers (.barrierWait id) s fun u => u.cores = s.cores ∧ u.phase b = ph ∧
        u.parked = s.parked ++ [⟨o.who, o.obj, if l = 0 then ph else l - 1, false⟩]))

/-- R361, R362, R364, R369, R393: a release lets the waiting thread go on past its wait; a wait withdrawn leaves its object and its thread READY; a
report of a sync error makes 0x07 pending imprecisely in its thread, and ends a channel with error SYNC. -/
def Sys2Proof.Claims.WaitsEnd : Prop :=
  (∀ (s : State) (id : Nat) (o : SyncOp), s.sync.find? (·.id == id) = some o →
    let rest := s.sync.filter (·.id ≠ id)
    (∀ c t consume, o.who = .thread c t → o.kind = .release consume → (s.thr c t).st = .stalled →
      Answers (.waitRelease id) s fun u => u.sync = rest ∧ (u.thr c t).st = .ready ∧ (u.thr c t).stall = .none ∧ (u.thr c t).waitPassed = true ∧
        (u.thr c t).pc = (s.thr c t).pc ∧ (∀ x, x ≠ t → u.thr c x = s.thr c x) ∧ CoresBut s u c ∧ RegsBut s u [aCORE_ACT c]) ∧
    (∀ c t key, o.who = .thread c t → o.kind = .error key →
      Answers (.syncErrorReport id) s fun u => u.sync = rest ∧ u.regs = s.regs ∧ CoresBut s u c ∧
        (u.thr c t).imprecise = (s.thr c t).imprecise ++ [⟨0x07, o.pc, o.priv⟩] ∧
        (u.thr c t).owed = (match key with | some k => (s.thr c t).owed.filter (·.2 ≠ k) | none => (s.thr c t).owed))) ∧
  ∀ (s : State) (c : CoreId) (t : Thr), s.waiting (.thread c t) = true → (s.thr c t).haltReq = true → (s.thr c t).st = .stalled → (∀ x ∈ s.sync, x.who ≠ .thread c t) →
    Answers (.waitWithdrawal (.thread c t)) s fun u => (∀ p ∈ u.parked ++ u.inputs, p.who ≠ .thread c t) ∧ (u.thr c t).st = .ready ∧
      (∀ p ∈ s.parked, p.who ≠ .thread c t → p ∈ u.parked) ∧ CoresBut s u c ∧ u.sync = s.sync

/-- Barrier arrivals complete phases; waits end: Claims.BarrierOperations, Claims.WaitsEnd. -/
def Obligations.BarriersAndWaits : Prop := Claims.BarrierOperations ∧ Claims.WaitsEnd

/-- R108, R119-R122, R311, R492: an access of memory that its home serves is performed there as one: a read or a walker's read brings the bytes of
memory and marks the poisoned ones, and a line fetched ahead of an earlier write of its core to it is not to be installed; a write leaves each byte it gives and no other; an atomic brings the old value and leaves the new one.
One that the region protection table denies is counted and does not reach memory. -/
def Obligations.HomesPerform : Prop :=
  ∀ (s : State) (id : Nat) (x : Txn), s.txn id = some x → s.homeServes x = true →
    let done (u : State) (bytes : List Byte) (bad : List Nat) (late : Bool) : Prop :=
      u.txns = s.txns.map fun y => if y.id = id then
        { y with stage := .performed, result := bytes, poisoned := bad, cancelled := y.cancelled || late } else y
    let memory : Prop := x.home ≠ .control ∧ x.home ≠ .absent ∧ x.home ≠ .host 0 ∧ x.home ≠ .host 1
    let walks : Bool := match x.purpose with | .walk .. => true | _ => false
    let leaves (u : State) (as : List Nat) : Prop := (∀ a, a ∉ as → memByte u.mem a = memByte s.mem a) ∧ u.cores = s.cores ∧ u.pending = s.pending ∧
      (∀ w, (∀ a ∈ as, a / 8 ≠ w) → (w ∈ u.poison ↔ w ∈ s.poison))
    let denies (i : Instr) : Prop := ∀ a, s.rptCheck x = some a → Answers i s fun u => u.cores = s.cores ∧
      u.txns = s.txns.map (fun y => if y.id = id then { y with stage := .denied } else y) ∧
      u.fld (aRPT_VIOL 0) RPT_VIOL.COUNT = min (RPT_VIOL.COUNT.size - 1) (s.fld (aRPT_VIOL 0) RPT_VIOL.COUNT + 1) ∧ RegsBut s u [aRPT_VIOL 0]
    (∀ as, x.op = .read as → (s.rptCheck x = none → memory →
        Answers (if walks then .pageWalk id else .homeRead id) s fun u => done u (as.map (memByte s.mem)) (as.filter s.badByte) (s.overtakes x) ∧
          { u with txns := s.txns } = s) ∧
      denies (if walks then .pageWalk id else .homeRead id)) ∧
    (∀ ws, x.op = .write ws → (s.rptCheck x = none → memory → (ws.map (·.1)).Nodup → ∃ u, exec (.homeWrite id) s = .next u ∧
        leaves u (ws.map (·.1)) ∧ done u [] [] false ∧ ∀ w ∈ ws, memByte u.mem w.1 = w.2.1) ∧
      denies (.homeWrite id)) ∧
    (∀ op n v cmp ret, x.op = .atomic op n v cmp ret → (n = 4 ∨ n = 8) → (s.rptCheck x = none → memory →
        (∀ a ∈ addrs x.addr n, s.badByte a = false) → ∃ u, exec (.homeAtomic id) s = .next u ∧ leaves u (addrs x.addr n) ∧
          done u (s.bytes x.addr n) [] false ∧ u.load x.addr n = atomicNew op n (s.load x.addr n) v cmp) ∧
      denies (.homeAtomic id))

/-- R110, R121, R125, R158, R159, R203, R360: the data of a load, of a returning atomic or of a returning operation on a counter writes the register that is owed,
the address register that the load steps takes its new value, and no other thread or core changes; poisoned data, a denied access and one never answered write nothing and raise 0x0A, 0x03 and 0x0B
imprecisely. -/
def Sys2Proof.Claims.ResultsArrive : Prop :=
  let gets (i : Instr) (s : State) (c : CoreId) (t : Thr) (rt key : Nat) (r : Word ⊕ Nat) : Prop := Answers i s fun u =>
    let th := s.thr c t
    let th' := match r with | .inl v => (th.stepsDone key).writeReg rt v | .inr _ => th
    (u.thr c t).d = th'.d ∧ (u.thr c t).a = th'.a ∧ (u.thr c t).m = th'.m ∧ (u.thr c t).p = th'.p ∧
      (u.thr c t).owed = (th.owed.filter fun o => o ≠ (rt, key) ∧ (o.2 = key → 0x30 ≤ o.1 ∨ o.1 < 0x20)) ∧
      (u.thr c t).imprecise.map (·.vector) = th.imprecise.map (·.vector) ++ (match r with | .inl _ => [] | .inr vec => [vec]) ∧
      (∀ y, y ≠ t → u.thr c y = s.thr c y) ∧ CoresBut s u c ∧ u.regs = s.regs
  (∀ (s : State) (id : Nat) (x : Txn) (c : CoreId) (t : Thr) (key rt kind : Nat) (bs : List Byte), s.txn id = some x → x.src = .thread c t →
    x.purpose = .load t key rt kind → (s.thr c t).owed.contains (rt, key) = true → x.op = .read (addrs x.addr (kindSize kind)) → x.overlay = [] →
    x.result = bs → bs.length = kindSize kind →
    (x.stage = .performed → x.poisoned = [] → gets (.accessResponse id) s c t rt key (.inl (loadValue kind bs))) ∧
    (x.stage = .performed → x.poisoned = [x.addr] → gets (.accessResponse id) s c t rt key (.inr 0x0A)) ∧
    (x.stage = .denied → gets (.accessResponse id) s c t rt key (.inr 0x03)) ∧
    ((x.stage = .sent ∨ x.stage = .performed) → gets (.requestTimeout id) s c t rt key (.inr 0x0B))) ∧
  (∀ (s : State) (id : Nat) (x : Txn) (c : CoreId) (t : Thr) (key rt n : Nat) (signed : Bool), s.txn id = some x → x.src = .thread c t →
    x.purpose = .oldValue t key rt n signed → (s.thr c t).owed.contains (rt, key) = true → x.stage = .performed → x.poisoned = [] →
    gets (.accessResponse id) s c t rt key (.inl (if signed then BitVec.ofInt 64 (sext (8 * n) (ofBytes x.result)) else BitVec.ofNat 64 (ofBytes x.result)))) ∧
  ∀ (s : State) (id : Nat) (o : SyncOp) (c : CoreId) (t t' : Thr) (key rt v : Nat), s.txn id = none → s.sync.find? (·.id == id) = some o →
    o.who = .thread c t' → o.kind = .reply t key rt v → (s.thr c t).owed.contains (rt, key) = true →
    gets (.accessResponse id) s c t rt key (.inl (BitVec.ofNat 64 v))

/-- R124, R321, R324, R326, R330: a line for the instruction cache is installed and the thread that waits on it fetches again; one past the cache serves
its thread once; one for the side buffer stands newest there; a write acknowledged is over for its thread. -/
def Sys2Proof.Claims.LinesAndAcknowledgements : Prop :=
  ∀ (s : State) (id : Nat) (x : Txn) (c : CoreId) (t : Thr), s.txn id = some x → x.src.core? = some c → x.stage = .performed → x.poisoned = [] →
    let th := s.thr c t
    let line := Line.ofHome (x.addr / 64) x.result
    let gone (u : State) : Prop := u.txns = s.txns.filter (·.id ≠ id) ∧ u.regs = s.regs ∧ CoresBut s u c ∧ ∀ y, y ≠ t → u.thr c y = s.thr c y
    (x.purpose = .fillInstr t → x.cancelled = false → s.icOn c = true → s.icDis c ≠ 15 → th.st = .stalled → th.stall = .fetch →
      Answers (.lineFillArrival id) s fun u => gone u ∧ (u.thr c t).st = .ready ∧ (u.core c).dcache = (s.core c).dcache ∧
        ∃ w, (u.core c).icache.find (s.icDis c) (x.addr / 64) = some w ∧ (u.core c).icache.at (x.addr / 64 % 256) w = some line) ∧
    (x.purpose = .fetchOnce t → th.st = .stalled → th.stall = .fetch →
      Answers (.lineFillArrival id) s fun u => gone u ∧ (u.thr c t).st = .ready ∧ (u.core c).icache = (s.core c).icache ∧
        (u.thr c t).fetched = (x.addr / 64, x.result) :: th.fetched) ∧
    (x.purpose = .fillSide → x.cancelled = false → s.dcOn c = true → (s.core c).dcache.find (s.dcDis c) (x.addr / 64) = none →
      Answers (.lineFillArrival id) s fun u => gone u ∧ (u.core c).side.getLast? = some line ∧ (u.core c).dcache = (s.core c).dcache ∧
        ((s.core c).side.length ≤ 16 → (u.core c).side.length ≤ 16)) ∧
    (∀ k, x.purpose = .stored t k → Answers (.writePerformedAck id) s fun u => gone u ∧ (u.thr c t).d = th.d ∧ (u.thr c t).imprecise = th.imprecise ∧
      ((u.thr c t).st = th.st ∨ th.stall = .fence ∧ (u.thr c t).st = .ready))

/-- Answers write what is owed; lines and acknowledgements arrive: Claims.ResultsArrive, Claims.LinesAndAcknowledgements. -/
def Obligations.AnswersArrive : Prop := Claims.ResultsArrive ∧ Claims.LinesAndAcknowledgements

/-- R106-R111: a level-1 entry that is valid leads to the read of the level-2 entry of the page; a level-2 entry that is present enters the translation
cache and the thread goes on; one that is in the deep tier leaves the thread waiting for its page; one not valid raises 0x02 with cause 1
and the address in TR_FAULT. -/
def Sys2Proof.Claims.WalksGoOn : Prop :=
  ∀ (s : State) (id : Nat) (x : Txn) (c : CoreId) (t : Thr) (level va : Nat) (write fetch : Bool), s.txn id = some x → x.src = .walker c t →
    x.purpose = .walk level va write fetch 0 → x.stage = .performed → x.poisoned = [] → x.cancelled = false →
    s.waitsOnWalk c t id = true →
    let th := s.thr c t
    let e : Word := BitVec.ofNat 64 (ofBytes x.result)
    let rest := s.txns.filter (·.id ≠ id)
    let keeps (u : State) : Prop := CoresBut s u c ∧ u.regs = s.regs ∧ ∀ y, y ≠ t → u.thr c y = s.thr c y
    let a := PTE1.L2.get e * 2 ^ 15 + va / 2 ^ 21 % 2 ^ 15 * 8
    (level = 1 → badEntry1 e = false → PTE1.V.get e = 1 → Answers (.pageWalkReadDone id) s fun u => u.cores = s.cores ∧ u.regs = s.regs ∧
      u.txns = rest ++ [⟨s.nextId, .walker c t, homeOf s.ilv a, a, .read (addrs a 8), .walk 2 va write fetch 0, .sent, [], [], false, [], none⟩]) ∧
    (level = 2 → badEntry e = false → PTE2.V.get e = 1 → th.st = .stalled → Answers (.pageWalkReadDone id) s fun u => keeps u ∧ u.txns = rest ∧
      tabGet none (u.core c).tlb (va / 2 ^ 21) = some e ∧ (u.thr c t).st = .ready ∧ (u.thr c t).pc = th.pc) ∧
    (level = 2 → badEntry e = false → PTE2.V.get e = 0 → PTE2.DEEP.get e = 1 → th.pending = false → Answers (.pageWalkReadDone id) s fun u => keeps u ∧ u.txns = rest ∧
      (u.thr c t).st = .stalled ∧ (u.thr c t).stall = .pageIn va ∧ (u.core c).tlb = (s.core c).tlb) ∧
    ((level = 1 ∧ badEntry1 e = false ∧ PTE1.V.get e = 0 ∨ level = 2 ∧ badEntry e = false ∧ PTE2.V.get e = 0 ∧ PTE2.DEEP.get e = 0) →
      th.phase = none → Answers (.pageWalkReadDone id) s fun u => keeps u ∧ u.txns = rest ∧ (u.thr c t).trFault = faultWord va 1 (b2n write) (b2n fetch) ∧
        (u.thr c t).entry = some ⟨0x02, 1, th.pc, th.wordAddr, false, th.priv⟩)

/-- R112, R327: TR_INV_ALL leaves no translation and no line of the data side, writing dirty bytes back, and TR_INV_ONE none of the page it names; walks under way for those pages are to install nothing; BUSY stands until every access that used a translation and every write-back has been performed. -/
def Sys2Proof.Claims.TranslationsInvalidated : Prop :=
  ∀ (s : State) (c : CoreId) (vpn : Nat),
    let kept (u : State) : Prop := CoresBut s u c ∧ RegsBut s u [aTR_INV c] ∧ (∀ t, u.thr c t = s.thr c t) ∧ (u.core c).icache = (s.core c).icache
    let busy : Bool := s.txns.any fun x => x.src.core? == some c && !(x.stage == .performed || x.stage == .denied || x.stage == .lost) &&
      (x.vpn.isSome || match x.purpose with | .writeBack _ => true | _ => false)
    let lapsed (u : State) (page : Nat → Prop) : Prop := ∀ x ∈ u.txns, ∀ level va write fetch soft, x.src.core? = some c →
      x.purpose = .walk level va write fetch soft → page (va / 2 ^ 21) → x.cancelled = true
    (Answers (.trInvAll c) s fun u => kept u ∧ lapsed u (fun _ => True) ∧ (u.core c).tlb = [] ∧ (u.core c).side = [] ∧ (∀ k, tabGet none (u.core c).dcache.lines k = none) ∧
      u.fld (aTR_INV c) TR_INV.BUSY = 1 ∧
      ∀ k l, (k, some l) ∈ (s.core c).dcache.lines → l.dirty ≠ 0 → ∃ x ∈ u.txns, x.src = .cache c ∧ x.op = .write l.dirtyBytes) ∧
    (Answers (.trInvOne c vpn) s fun u => kept u ∧ lapsed u (· = vpn) ∧ tabGet none (u.core c).tlb vpn = none ∧
      (∀ v, v ≠ vpn → tabGet none (u.core c).tlb v = tabGet none (s.core c).tlb v) ∧ u.fld (aTR_INV c) TR_INV.BUSY = 1 ∧
      u.fld (aTR_INV c) TR_INV.VPN = vpn % 2 ^ 27 ∧
      ∀ e, tabGet none (s.core c).tlb vpn = some e → ∀ k l, tabGet none (u.core c).dcache.lines k = some l → l.tag * 64 / 2 ^ 21 ≠ PTE2.PPA.get e) ∧
    (s.flag (aTR_INV c) TR_INV.BUSY = true → busy = false →
      SetsRegs (.trInvComplete c) s (·.setFld (aTR_INV c) TR_INV.BUSY 0)) ∧
    (busy = true → exec (.trInvComplete c) s = .next s)

/-- R311, R319, R320, R328-R330, R333: a whole word from Ahnal or a supervisor thread enters the pinned instruction memory at IMEM_PTR, which goes on, and stands there poisoned where the storage has failed; a shorter one is
discarded and sets ERR; a write of CCTL takes its fields, and turning the data cache off discards the side buffer; a way whose errors reach
its limit is disabled while three or four are in use, leaving none of its lines valid, else RETIRE_REQ sets. -/
def Sys2Proof.Claims.CoreMemoriesAndCaches : Prop :=
  ∀ (s : State) (c : CoreId) (src : RegSource) (v : Word),
    let own : Prop := src = .mgmt ∨ src = .debug ∨ ∃ t, src = .core c t ∧ TSTATUS.PRIV.get (s.thr c t).tstatus = 1
    let i := s.fld (aIMEM_PTR c) IMEM_PTR.WORD
    let dis (ic : Bool) : Nat := if ic then s.icDis c else s.dcDis c
    let cache (u : State) (ic : Bool) : Cache := if ic then (u.core c).icache else (u.core c).dcache
    (own → Answers (.imemDataWrite c src 8 v) s fun u => tabGet 0 (u.core c).imem i = v ∧ (i ∈ (u.core c).imemPoison ↔ i ∈ s.imemBad c) ∧
      (∀ j, j ≠ i → tabGet 0 (u.core c).imem j = tabGet 0 (s.core c).imem j) ∧ u.fld (aIMEM_PTR c) IMEM_PTR.WORD = (i + 1) % 2 ^ 13 ∧
      u.fld (aIMEM_STAT c) IMEM_STAT.WORDS = min (2 ^ 16 - 1) (s.fld (aIMEM_STAT c) IMEM_STAT.WORDS + 1) ∧ CoresBut s u c ∧
      (∀ t, u.thr c t = s.thr c t) ∧ RegsBut s u [aIMEM_PTR c, aIMEM_STAT c, aCORE_ERR c]) ∧
    (∀ n, n < 8 → SetsRegs (.imemDataWrite c .mgmt n v) s (·.setFld (aIMEM_STAT c) IMEM_STAT.ERR 1)) ∧
    (own → Answers (.cctlWrite c src v) s fun u => u.fld (aCCTL c) CCTL.DC_EN = CCTL.DC_EN.get v ∧ u.fld (aCCTL c) CCTL.IC_EN = CCTL.IC_EN.get v ∧
      u.fld (aCCTL c) CCTL.PF_EN = CCTL.PF_EN.get v ∧ RegsBut s u [aCCTL c] ∧ CoresBut s u c ∧ (u.core c).dcache = (s.core c).dcache ∧
      (u.core c).side = (if s.fld (aCCTL c) CCTL.DC_EN = 1 ∧ CCTL.DC_EN.get v = 0 then [] else (s.core c).side)) ∧
    (∀ ic way, bit (dis ic) way.val = false → 3 ≤ ((List.range 4).filter fun w => !bit (dis ic) w).length →
      Answers (.cacheWayDisable c ic way) s fun u => u.fld (aCWAY c) (if ic then CWAY.IC_WAYDIS else CWAY.DC_WAYDIS) = dis ic + 2 ^ way.val ∧
        (∀ set, (cache u ic).at set way = none) ∧ (∀ t, u.thr c t = s.thr c t) ∧ CoresBut s u c ∧ cache u (!ic) = cache s (!ic)) ∧
    (∀ ic way, bit (dis ic) way.val = false → ((List.range 4).filter fun w => !bit (dis ic) w).length ≤ 2 →
      Answers (.cacheWayDisable c ic way) s fun u => u.cores = s.cores ∧ u.fld (aCWAY c) CWAY.RETIRE_REQ = 1 ∧
        u.fld (aCWAY c) (if ic then CWAY.IC_WAYDIS else CWAY.DC_WAYDIS) = dis ic)

/-- R311, R313, R523: a row to be replaced starts to be copied while the slice has a spare row left; the copy's end puts the spare in use; a scrub adds to
the counts and poisons the words it found bad, and no other. -/
def Sys2Proof.Claims.SliceRepair : Prop :=
  ∀ (s : State) (d : Die) (sl : Fin 32) (row : Nat),
    let stat := aSLICE_STAT d sl
    let used := s.fld stat SLICE_STAT.SPARE_USED
    (row < 2 ^ 11 → s.fld stat SLICE_STAT.SWAP = 0 → used < 41 → Answers (.sliceRepairGo d sl row) s fun u => u.fld stat SLICE_STAT.SWAP = 1 ∧
      u.fld (aSLICE_REPAIR d sl) SLICE_REPAIR.ROW = row ∧ u.fld stat SLICE_STAT.SPARE_USED = used ∧ RegsBut s u [stat, aSLICE_REPAIR d sl] ∧
      u.cores = s.cores) ∧
    (row < 2 ^ 11 → s.fld stat SLICE_STAT.SWAP = 0 → 41 ≤ used → Answers (.sliceRepairGo d sl row) s fun u => u.fld stat SLICE_STAT.SWAP = 0 ∧
      u.fld (aSLICE_REPAIR d sl) SLICE_REPAIR.FAIL = 1 ∧ u.fld (aALERT_SRC 0) ALERT_SRC.EXHAUST = 1 ∧ u.cores = s.cores) ∧
    (s.fld stat SLICE_STAT.SWAP = 1 → used < 41 → s.bar2 = [] → Answers (.sliceRowCopyDone d sl) s fun u => u.fld stat SLICE_STAT.SWAP = 0 ∧
      u.fld stat SLICE_STAT.SPARE_USED = used + 1 ∧ u.cores = s.cores ∧ u.fld (aALERT_SRC 0) ALERT_SRC.SPARE = 1) ∧
    (∀ n bad, (∀ w ∈ bad, w < 256) → row < 2 ^ 11 → ∃ u, exec (.sliceScrub d sl row n bad) s = .next u ∧ u.mem = s.mem ∧ u.cores = s.cores ∧
      RegsBut s u [stat] ∧ u.fld stat SLICE_STAT.CE = min (2 ^ 16 - 1) (s.fld stat SLICE_STAT.CE + n) ∧
      ∀ w, w ∈ u.poison ↔ w ∈ s.poison ∨ ∃ b ∈ bad, w = sliceAddr d sl (row * 2048 + b * 8) / 8)

/-- R213, R509, R519: once no invocation of its image goes on, the service of a locked core releases the LOCKUP signal, clears VALID and resets the core: its threads,
tiles and caches stand as after reset. -/
def Sys2Proof.Claims.LockupServiced : Prop :=
  ∀ (s : State) (c : CoreId), (s.core c).lock ≠ 0 → (∀ b, s.boundTo c = some b → ∀ im, s.image b.1 = some im → im.active = false) →
    s.ahnal = true → (s.core c).lock.toNat / 2 ^ 16 % 2 = 1 →
    ∃ u, exec (.lockupService c) s = .next u ∧ u.pending = s.pending ∧ u.pins = { s.pins with lockup := false } ∧
      u.fld aLOCKUP_STAT LOCKUP_STAT.VALID = 0 ∧ (∀ t, u.thr c t = Thread.reset) ∧ (u.core c).lock = 0 ∧ (u.core c).tt = [] ∧
      (u.core c).dcache.lines = [] ∧ (u.core c).imem = (s.core c).imem ∧ CoresBut s u c ∧ u.images = s.images ∧
      (∀ a, a < dumpBase ∨ dumpBase + 0x2_0000_0000 ≤ a → memByte u.mem a = memByte s.mem a)

/-- Core memories and caches, slice repair, lockup service: Claims.CoreMemoriesAndCaches, Claims.SliceRepair, Claims.LockupServiced. -/
def Obligations.CoreAndSliceUpkeep : Prop := Claims.CoreMemoriesAndCaches ∧ Claims.SliceRepair ∧ Claims.LockupServiced

/-- R102, R377, R378, R398-R401: through a core's window START clears a channel's registers and sets it RUNNING at its program; RESUME sets a stopped one RUNNING where it
stopped; STOP ends one that has nothing begun; a write of DMA_CQBASE to an idle channel takes its fields and clears the sequence; what a user thread writes is discarded and raises access violation. -/
def Sys2Proof.Claims.DmaCommands : Prop :=
  ∀ (s : State) (c : CoreId) (j : Nat) (t : Thr) (v : Word) (ch : DmaCh) (slot wc : Nat), s.dmaWindow c j = some ch.val → s.boundTo c = some (slot, wc) → wc < 1024 →
    let st := s.dmaState ch
    let super : Prop := TSTATUS.PRIV.get (s.thr c t).tstatus = 1
    let refused (i : Instr) (o : Nat) : Prop := TSTATUS.PRIV.get (s.thr c t).tstatus = 0 → exec i s = .next (s.ctrlFault c t (coreBlk c + 0xA000 + j * 0x80 + o))
    let prog := s.fld (aDMA_PROG ch) DMA_PROG.ADDR
    (super → DMA_CTRL.STOP.get v = 0 → DMA_CTRL.RESUME.get v = 0 → (st = 0 ∨ 4 ≤ st ∧ st ≤ 6) →
      Answers (.dmaStart c j t v) s fun u => u.dmaPc ch = prog * 32 ∧ u.fld (aDMA_STAT ch) DMA_STAT.STARTER = wc ∧ u.fld (aDMA_CNT ch) DMA_CNT.VALUE = 0 ∧
        u.fld (aDMA_STAT ch) DMA_STAT.DEPTH = 0 ∧ (u.dma ch).move = none ∧ (u.dmaState ch = 1 ∨ u.dmaState ch = 6)) ∧
    (super → DMA_CTRL.STOP.get v = 0 → DMA_CTRL.RESUME.get v = 0 → (st = 1 ∨ st = 2 ∨ st = 3) →
      Answers (.dmaStart c j t v) s fun u => u.fld (aDMA_STAT ch) DMA_STAT.REJ = 1 ∧ u.dmaState ch = st ∧ u.dmaPc ch = s.dmaPc ch ∧ u.txns = s.txns) ∧
    (super → DMA_CTRL.START.get v = 0 → DMA_CTRL.RESUME.get v = 0 → st = 1 → (s.dma ch).begun = false → (s.dma ch).page = none →
      Answers (.dmaStop c j t v) s fun u => u.dmaState ch = 4 ∧ u.dmaPc ch = s.dmaPc ch ∧ (u.dma ch).fetched = none ∧ u.txns = s.txns ∧ u.cores = s.cores) ∧
    (super → DMA_CTRL.START.get v = 0 → DMA_CTRL.STOP.get v = 0 → st = 4 → (s.dma ch).page = none → (s.dma ch).fetched = none → (s.dma ch).begun = false →
      (∀ x ∈ s.txns, x.src = .dma ch → x.purpose ≠ .program) →
      Answers (.dmaResume c j t v) s fun u => NextAt s u ch (s.dmaPc ch)) ∧
    (super → (st = 0 ∨ 4 ≤ st) → Answers (.dmaCqbaseWrite c j t v) s fun u => RegsBut s u [aDMA_CQBASE ch, aDMA_CQSEQ ch] ∧ u.reg (aDMA_CQSEQ ch) = 0 ∧
      u.reg (aDMA_CQBASE ch) = fieldsWrite DMA_CQBASE (s.reg (aDMA_CQBASE ch)) v ∧ u.dmas = s.dmas) ∧
    refused (.dmaStart c j t v) 0 ∧ refused (.dmaStop c j t v) 0 ∧ refused (.dmaResume c j t v) 0 ∧ refused (.dmaCqbaseWrite c j t v) 0x50

/-- R381, R382, R390, R402: an instruction that arrives well formed is the channel's next; one that is not, poison, or no answer in time ends the channel with its
error code. -/
def Sys2Proof.Claims.DmaInstructionsArrive : Prop :=
  ∀ (s : State) (id : Nat) (x : Txn) (ch : DmaCh), s.txn id = some x → x.src = .dma ch → s.dmaState ch = 1 → x.cancelled = false →
    let ws := (List.range 4).map fun i => BitVec.ofNat 64 (field x.result (8 * i) 8)
    let pc := s.dmaPc ch
    (x.purpose = .program → x.stage = .performed → x.poisoned = [] → dmaBad ws = false →
      Answers (.dmaFetch id) s fun u => (u.dma ch).fetched = some ws ∧ RegsBut s u [aDMA_TRINV (ch.val / 32)] ∧ u.cores = s.cores ∧ u.txns = s.txns.filter (·.id ≠ id)) ∧
    (x.purpose = .program → x.stage = .performed → x.poisoned = [] → dmaBad ws = true →
      Answers (.dmaFetch id) s fun u => Failed u ch 1 0 pc pc) ∧
    (x.purpose = .program → x.stage = .performed → x.poisoned ≠ [] → Answers (.dmaFetch id) s fun u => Failed u ch 2 0 pc pc) ∧
    (x.purpose = .program → s.dmaLive ch = true → Answers (.dmaTimeout id) s fun u => Failed u ch 8 0 pc pc)

/-- DMA channels start, stop, resume and take instructions: Claims.DmaCommands, Claims.DmaInstructionsArrive. -/
def Obligations.DmaCommandsAndFetches : Prop := Claims.DmaCommands ∧ Claims.DmaInstructionsArrive

/-- R384-R389: a MOVE whose addresses and length are multiples of its unit begins: up to 64 units of its source are asked for in ascending order; a unit that comes, to a fixed
destination in its order, is written to its place on the destination side and counted; a MOVE of nothing is over at once; one misaligned ends the channel with error 5. -/
def Obligations.DmaMoves : Prop :=
  (∀ (s : State) (ch : DmaCh) (ws : List Word),
    let w0 := ws.getD 0 0
    let size := 2 ^ wb w0 14 12
    let src := if wb w0 10 10 = 1 then s.fld (aDMA_SA ch) DMA_SA.ADDR else wb (ws.getD 1 0) 47 0
    let dst := if wb w0 11 11 = 1 then s.fld (aDMA_DA ch) DMA_SA.ADDR else wb (ws.getD 2 0) 47 0
    let len := wb w0 63 32
    let from_ (i : Nat) : Nat := va48 (if wb w0 8 8 = 1 then src else src + i * size)
    AtDma s ch 1 ws → (s.dma ch).begun = false →
    ((src % size ≠ 0 ∨ dst % size ≠ 0 ∨ len % size ≠ 0) →
      Answers (.move ch) s fun u => Failed u ch 5 0 (s.dmaPc ch) (if src % size ≠ 0 then src else dst)) ∧
    (src % size = 0 → dst % size = 0 → len = 0 → s.dmaPc ch + 32 < 2 ^ 48 →
      Answers (.move ch) s fun u => NextAt s u ch (s.dmaPc ch + 32) ∧ u.fld (aDMA_SA ch) DMA_SA.ADDR = src ∧ u.fld (aDMA_DA ch) DMA_SA.ADDR = dst) ∧
    (src % size = 0 → dst % size = 0 → len % size = 0 → 0 < len → (∀ x ∈ s.txns, x.src ≠ .dma ch) →
      (∀ i, i < len / size → ∃ pa ca vpn, s.dmaResolve ch (from_ i) size false = .ok pa ca vpn) →
      Answers (.move ch) s fun u => u.regs = s.regs ∧ u.cores = s.cores ∧ (u.dma ch).begun = true ∧
        ((u.dma ch).move.map fun m => (m.size, m.src, m.dst, m.units, m.written, m.nextRead)) =
          some (size, src, dst, len / size, 0, min 64 (len / size)) ∧
        ∀ i, i < min 64 (len / size) → ∀ pa ca vpn, s.dmaResolve ch (from_ i) size false = .ok pa ca vpn →
          ∃ x ∈ u.txns, x.src = .dma ch ∧ x.purpose = .unit i (from_ i) (s.dmaPc ch) ∧ x.op = .read (addrs pa size))) ∧
  ∀ (ch : DmaCh) (v : State) (id i va pc : Nat) (x : Txn) (m : Move) (pa : Nat) (ca : Bool) (vpn : Option Nat), v.txn id = some x → x.src = .dma ch →
    x.purpose = .unit i va pc → x.cancelled = false → x.op = .read (addrs x.addr m.size) → x.stage = .performed → x.poisoned = [] → x.result.length = m.size →
    (v.dma ch).move = some m → (m.dfix = true → i = m.written) → (v.dma ch).page = none → m.written + 1 < m.units → m.units ≤ m.nextRead →
    v.dmaResolve ch (m.writeAt i) m.size true = .ok pa ca vpn →
    Answers (.dmaReadResponse id) v fun u => u.cores = v.cores ∧ (u.dma ch).move = some { m with written := m.written + 1 } ∧
      u.fld (aDMA_CNT ch) DMA_CNT.VALUE = min (DMA_CNT.VALUE.size - 1) (v.fld (aDMA_CNT ch) DMA_CNT.VALUE + m.size) ∧
      ∃ y, u.txns = v.txns.filter (·.id ≠ id) ++ [y] ∧ y.src = .dma ch ∧ y.purpose = .unit i (m.writeAt i) (v.dmaPc ch) ∧
        y.op = .write ((List.range m.size).map fun k => (pa + k, x.result.getD k 0, false))

/-- R391-R396: LOOP opens a loop of its count, or with count 0 goes on past its body; ENDLOOP counts and goes back to its start or closes it; SIGNAL sends its operation;
WAIT sends its wait and holds the channel; a descriptor that names no object of the image ends it with error 7; FENCE and HALT end once no write is outstanding, HALT in state HALTED. -/
def Obligations.DmaControlFlow : Prop :=
  ∀ (s : State) (ch : DmaCh) (ws : List Word),
    let w0 := ws.getD 0 0
    let sc := ws.getD 1 0
    let pc := s.dmaPc ch
    let d := s.dmaDepth ch
    let prog := s.fld (aDMA_PROG ch) DMA_PROG.ADDR
    let c := s.dmaStarter ch
    let op (k : SyncKind) (obj : SyncObj) : SyncOp := ⟨s.nextId, .dma ch, c, obj, k, s.dmaSlot ch, BitVec.ofNat 48 pc, 0⟩
    let noWrite : Prop := ∀ x ∈ s.txns, x.src = .dma ch → x.cancelled = false → x.isWrite = false
    pc + 32 * 4100 < 2 ^ 48 →
    (AtDma s ch 2 ws → d < 4 → wb w0 63 32 = 0 → Answers (.dmaLoop ch) s fun u => NextAt s u ch (pc + 32 * (wb w0 27 16 + 2)) ∧ u.dmaDepth ch = d) ∧
    (AtDma s ch 2 ws → d < 4 → wb w0 63 32 ≠ 0 → Answers (.dmaLoop ch) s fun u => NextAt s u ch (pc + 32) ∧ u.dmaDepth ch = d + 1 ∧
      u.fld (aDMA_LC ch d) DMA_LC.COUNT = wb w0 63 32) ∧
    (AtDma s ch 2 ws → d = 4 → Answers (.dmaLoop ch) s fun u => Failed u ch 6 0 pc 0) ∧
    (AtDma s ch 3 ws → d = 0 → Answers (.endloop ch) s fun u => Failed u ch 6 0 pc 0) ∧
    (AtDma s ch 3 ws → 0 < d → d ≤ 4 → 2 ≤ s.fld (aDMA_LC ch (d - 1)) DMA_LC.COUNT → (prog + s.fld (aDMA_LC ch (d - 1)) DMA_LC.SIDX) * 32 < 2 ^ 48 →
      Answers (.endloop ch) s fun u => NextAt s u ch ((prog + s.fld (aDMA_LC ch (d - 1)) DMA_LC.SIDX) * 32) ∧ u.dmaDepth ch = d ∧
        u.fld (aDMA_LC ch (d - 1)) DMA_LC.COUNT = s.fld (aDMA_LC ch (d - 1)) DMA_LC.COUNT - 1) ∧
    (AtDma s ch 3 ws → 0 < d → d ≤ 4 → s.fld (aDMA_LC ch (d - 1)) DMA_LC.COUNT ≤ 1 →
      Answers (.endloop ch) s fun u => NextAt s u ch (pc + 32) ∧ u.dmaDepth ch = d - 1) ∧
    (∀ k i, AtDma s ch 4 ws → s.scObj c sc = some (.counter k i) → SC.WAIT_N.get sc ≠ 0 →
      Answers (.dmaWait ch) s fun u => u.dmaState ch = 2 ∧ u.fld (aDMA_STAT ch) DMA_STAT.WHY = 1 ∧ u.dmaPc ch = pc ∧
        u.sync = s.sync ++ [op (.wait (SC.WAIT_N.get sc) (SC.MODE.get sc == 0)) (.counter k i)] ∧ u.txns = s.txns) ∧
    (∀ k i, AtDma s ch 4 ws → s.scObj c sc = some (.counter k i) → SC.WAIT_N.get sc = 0 →
      Answers (.dmaWait ch) s fun u => NextAt s u ch (pc + 32) ∧ u.sync = s.sync) ∧
    (∀ b, AtDma s ch 4 ws → s.scObj c sc = some (.barrier b) →
      Answers (.dmaWait ch) s fun u => u.dmaState ch = 2 ∧ u.fld (aDMA_STAT ch) DMA_STAT.WHY = 1 ∧ u.dmaPc ch = pc ∧
        u.sync = s.sync ++ [op .barrierWait (.barrier b)] ∧ u.txns = s.txns) ∧
    (s.scObj c sc = none → (AtDma s ch 4 ws → Answers (.dmaWait ch) s fun u => Failed u ch 7 0 pc 0) ∧
      (AtDma s ch 5 ws → Answers (.dmaSignal ch) s fun u => Failed u ch 7 0 pc 0)) ∧
    (∀ k i, AtDma s ch 5 ws → s.scObj c sc = some (.counter k i) →
      Answers (.dmaSignal ch) s fun u => NextAt s u ch (pc + 32) ∧ u.sync = s.sync ++ [op (.add (SC.SIG_N.get sc)) (.counter k i)]) ∧
    (∀ b, AtDma s ch 5 ws → s.scObj c sc = some (.barrier b) →
      Answers (.dmaSignal ch) s fun u => NextAt s u ch (pc + 32) ∧ u.sync = s.sync ++ [op .arrive (.barrier b)]) ∧
    (AtDma s ch 6 ws → noWrite → Answers (.fence ch) s fun u => NextAt s u ch (pc + 32)) ∧
    (AtDma s ch 6 ws → ¬noWrite → Answers (.fence ch) s fun u => (u.dma ch).begun = true ∧ u.dmaPc ch = pc ∧ u.txns = s.txns) ∧
    (AtDma s ch 8 ws → ¬noWrite → Answers (.halt ch) s fun u => (u.dma ch).begun = true ∧ u.dmaPc ch = pc ∧ u.txns = s.txns) ∧
    (AtDma s ch 8 ws → noWrite → Answers (.halt ch) s fun u => u.dmaState ch = 5 ∧ u.dmaPc ch = pc + 32 ∧ (u.dma ch).fetched = none ∧ u.txns = s.txns)

/-- R395, R397, R398, R405: COMPLETE writes the next record to its place in the queue and goes on; on a full queue the channel waits, and reads the head word again; a head
word that comes is taken over, and with room the channel goes on; the acknowledgement of a record with IRQ makes 0x22 pending. -/
def Obligations.DmaCompletion : Prop :=
  ∀ (s : State) (ch : DmaCh) (ws : List Word),
    let b := s.reg (aDMA_CQBASE ch)
    let q := s.reg (aDMA_CQSEQ ch)
    let room : Bool := decide ((DMA_CQSEQ.SEQ.get q + 2 ^ 32 - DMA_CQSEQ.HEAD.get q) % 2 ^ 32 < 2 ^ DMA_CQBASE.LOG2N.get b)
    let place := (DMA_CQBASE.BASE.get b * 32 + 32 * (DMA_CQSEQ.SEQ.get q % 2 ^ DMA_CQBASE.LOG2N.get b)) % 2 ^ 48
    let headAt := va48 (DMA_CQBASE.BASE.get b * 32 + 32 * 2 ^ DMA_CQBASE.LOG2N.get b)
    let c := s.dmaStarter ch
    let t : Thr := Fin.ofNat 4 (s.fld (aDMA_CTRL ch) DMA_CTRL.NTHREAD)
    (∀ pa ca vpn, AtDma s ch 7 ws → DMA_CQBASE.LOG2N.get b ≠ 0 → room = true → s.dmaResolve ch place 32 true = .ok pa ca vpn → s.dmaPc ch + 32 < 2 ^ 48 →
      Answers (.complete ch) s fun u => NextAt s u ch (s.dmaPc ch + 32) ∧
        u.fld (aDMA_CQSEQ ch) DMA_CQSEQ.SEQ = (DMA_CQSEQ.SEQ.get q + 1) % 2 ^ 32 ∧
        ∃ x ∈ u.txns, x.src = .dma ch ∧ ∃ bs, x.op = .write (runOf pa bs) ∧ bs.length = 32 ∧ bs.take 4 = toBytes 4 (DMA_CQSEQ.SEQ.get q) ∧
          (bs.drop 8).take 8 = toBytes 8 (ws.getD 1 0).toNat) ∧
    (AtDma s ch 7 ws → DMA_CQBASE.LOG2N.get b ≠ 0 → room = false →
      Answers (.complete ch) s fun u => u.dmaState ch = 2 ∧ u.fld (aDMA_STAT ch) DMA_STAT.WHY = 2 ∧ u.txns = s.txns) ∧
    (∀ pa ca vpn, s.dmaState ch = 2 → s.fld (aDMA_STAT ch) DMA_STAT.WHY = 2 → (∀ x ∈ s.txns, x.src = .dma ch → x.purpose ≠ .cqHead) →
      s.dmaResolve ch headAt 4 false = .ok pa ca vpn →
      Answers (.dmaCqHeadPoll ch) s fun u => u = { sent s (.dma ch) pa (.read (addrs pa 4)) .cqHead [] vpn with nextId := s.nextId + 1 }) ∧
    (∀ id x, s.txn id = some x → x.src = .dma ch → x.purpose = .cqHead → x.cancelled = false → x.stage = .performed → x.poisoned = [] → s.dmaState ch = 2 → x.result.length = 4 →
      Answers (.dmaReadResponse id) s fun u => u.fld (aDMA_CQSEQ ch) DMA_CQSEQ.HEAD = ofBytes x.result ∧ u.txns = s.txns.filter (·.id ≠ id) ∧
        u.dmaState ch = (if (DMA_CQSEQ.SEQ.get q + 2 ^ 32 - ofBytes x.result) % 2 ^ 32 < 2 ^ DMA_CQBASE.LOG2N.get b then 1 else 2)) ∧
    (∀ id x ws' at_, s.txn id = some x → x.src = .dma ch → x.purpose = .record true at_ → x.cancelled = false → x.op = .write ws' → x.stage = .performed → (s.dma ch).fetched = none →
      (s.core c).lock = 0 → Answers (.dmaWriteAck id) s fun u => (u.thr c t).ipend = (s.thr c t).ipend ||| 4 ∧ u.txns = s.txns.filter (·.id ≠ id) ∧
        CoresBut s u c ∧ u.dmas = s.dmas)

/-- R407: DMA_TRINV takes every translation of a slot, or the one of a page, out of a die's translation cache and leaves every other; walks under way for them are to fill nothing; BUSY stands while an access that
used a translation is under way. -/
def Sys2Proof.Claims.DmaTranslationsInvalidated : Prop :=
  ∀ (s : State) (d : Die) (slot : Slot) (vpn : Nat), vpn < 2 ^ 27 →
    let tlb (v : State) : Tab (Option Word) := tabGet [] v.dmaTlb d
    let key (k v : Nat) : Nat := k * 2 ^ 27 + v
    let busy : Bool := s.txns.any fun x => x.vpn.isSome && match x.src with | .dma ch => ch.val / 32 == d.val | _ => false
    let kept (u : State) : Prop := u.cores = s.cores ∧ u.txns.map (·.id) = s.txns.map (·.id) ∧ RegsBut s u [aDMA_TRINV d] ∧ u.fld (aDMA_TRINV d) DMA_TRINV.BUSY = b2n busy ∧
      u.fld (aDMA_TRINV d) DMA_TRINV.SLOT = slot.val ∧ ∀ e : Die, e ≠ d → tabGet [] u.dmaTlb e = tabGet [] s.dmaTlb e
    let lapsed (u : State) (page : Nat → Prop) : Prop := ∀ x ∈ u.txns, ∀ ch level va write fetch tag, x.src = .dmaWalker ch → ch.val / 32 = d.val →
      s.dmaSlot ch = slot.val → x.purpose = .walk level va write fetch tag → page (va / 2 ^ 21) → x.cancelled = true
    (Answers (.dmaTrinvAll d slot) s fun u => kept u ∧ lapsed u (fun _ => True) ∧ (∀ v, v < 2 ^ 27 → tabFind (tlb u) (key slot v) = none) ∧
      ∀ k v, v < 2 ^ 27 → k ≠ slot.val → tabFind (tlb u) (key k v) = tabFind (tlb s) (key k v)) ∧
    (Answers (.dmaTrinvOne d slot vpn) s fun u => kept u ∧ lapsed u (· = vpn) ∧ tabFind (tlb u) (key slot vpn) = none ∧
      ∀ k v, v < 2 ^ 27 → key k v ≠ key slot vpn → tabFind (tlb u) (key k v) = tabFind (tlb s) (key k v))

/-- Walks go on level by level; translations are invalidated: Claims.WalksGoOn, Claims.TranslationsInvalidated, Claims.DmaTranslationsInvalidated. -/
def Obligations.TranslationWalksAndInvalidation : Prop := Claims.WalksGoOn ∧ Claims.TranslationsInvalidated ∧ Claims.DmaTranslationsInvalidated

/-- R412, R414, R416, R421, R429: a request that its controller serves is performed there: a read brings the bytes, with the whole unit poisoned and listed where its
burst is uncorrectable, and what the devices report is counted; the lane's sampler keeps what it saw and, where it tracks, moves one step after a drift of two; a burst that fails is tried again, eight times at most, and a read then ends
with poison. -/
def Sys2Proof.Claims.TierRequests : Prop :=
  ∀ (s : State) (id : Nat) (x : Txn) (k : Nat) (lane byte : Nat) (eye : Int) (margin : Byte), s.txn id = some x → x.home = homeOf s.ilv x.addr → s.tierAt x.home = some k →
    s.tierServes k = true → s.mayPerform x = true → s.rptCheck x = none → s.bar2 = [] →
    let done (u : State) (bytes : List Byte) (bad : List Nat) (late : Bool) : Prop :=
      u.txns = s.txns.map fun y => if y.id = id then
        { y with stage := .performed, result := bytes, poisoned := bad, cancelled := y.cancelled || late } else y
    let last := (tabGet (0, 0, 0) (s.tier k).lanes lane).2.1
    let tracks : Bool := s.flag (aTIER_CTRL k) NC_CTRL.TRACK_EN
    let sampled (u : State) : Prop := (u.tier k).lanes = tabIns (s.tier k).lanes lane (eye,
        if tracks = false then last else if last + 2 ≤ eye then last + 1 else if eye ≤ last - 2 then last - 1 else last, margin.toNat) ∧
      u.fld (aTIER_STAT k) NC_STAT.MARGIN = (u.tier k).lanes.foldl (fun m x => min m x.2.2.2) 255
    let err (u : State) (f : Field) : Nat := u.fld (aTIER_ERR k) f
    let unit := (nearChan s.ilv x.addr).2 / 64
    (∀ as, x.op = .read as → (x.stage = .sent ∨ ∃ n, x.stage = .taken n) →
      (Answers (.tierRequest id .clean lane eye margin) s fun u => done u (as.map (memByte s.mem)) (as.filter s.badByte) (s.overtakes x) ∧
        u.cores = s.cores ∧ u.reg (aTIER_ERR k) = s.reg (aTIER_ERR k) ∧ sampled u) ∧
      (Answers (.tierRequest id .corrected lane eye margin) s fun u => done u (as.map (memByte s.mem)) (as.filter s.badByte) (s.overtakes x) ∧
        u.cores = s.cores ∧ sampled u ∧ err u NC_ERR.CE = min (2 ^ 16 - 1) (err s NC_ERR.CE + 1) ∧ err u NC_ERR.UE = err s NC_ERR.UE) ∧
      (k < 64 → s.fld (ncBlk k) NC_CTRL.MODE = 0 → (s.tier k).plist.length < 2048 → unit ∉ (s.tier k).plist → (∀ a ∈ as, a / 64 = x.addr / 64) → as.head? = some x.addr →
        Answers (.tierRequest id .uncorrectable lane eye margin) s fun u => done u (as.map (memByte s.mem)) as (s.overtakes x) ∧ u.cores = s.cores ∧
          err u NC_ERR.UE = min (2 ^ 16 - 1) (err s NC_ERR.UE + 1) ∧ (u.tier k).plist = (s.tier k).plist ++ [unit])) ∧
    (∀ ws, x.op = .write ws → (x.stage = .sent ∨ ∃ n, x.stage = .taken n) → (ws.map (·.1)).Nodup → ∃ u, exec (.tierRequest id .clean lane eye margin) s = .next u ∧ done u [] [] false ∧
      u.regs = s.regs ∧
      u.cores = s.cores ∧ (∀ w ∈ ws, memByte u.mem w.1 = w.2.1) ∧ ∀ a, a ∉ ws.map (·.1) → memByte u.mem a = memByte s.mem a) ∧
    (∀ as n, x.op = .read as → x.stage = .taken n → n < 7 → Answers (.tierAttemptFail id byte) s fun u => u.cores = s.cores ∧
      err u NC_ERR.CRC = min (2 ^ 16 - 1) (err s NC_ERR.CRC + 1) ∧
      u.txns = s.txns.map fun y => if y.id = id then { y with stage := .taken (n + 1) } else y) ∧
    (∀ as, x.op = .read as → x.stage = .taken 7 → Answers (.tierAttemptFail id byte) s fun u => done u (as.map fun _ => 0) as false ∧ u.cores = s.cores ∧
      err u NC_ERR.EXH = min (2 ^ 8 - 1) (err s NC_ERR.EXH + 1) ∧ ((s.tier k).retrainLeft = 0 → (u.tier k).retrainLeft = 32))

/-- R413, R421-R423: a refresh during a burst is postponed, eight at most; a window begins with its burst free and runs the oldest call; a burst's end makes the postponed
refreshes, and the last of 32 steps of a full retrain ends it; a request or a change of 8 degrees schedules one; DTEMP and HOT follow the
hotter device. -/
def Sys2Proof.Claims.TierCalibration : Prop :=
  ∀ (s : State) (n : TierCtl),
    let k := TierCtl.key n
    let t := s.tier k
    let idle : Prop := s.fld (aTIER_CTRL k) NC_CTRL.MARGIN_LIM ≤ s.fld (aTIER_STAT k) NC_STAT.MARGIN ∨ s.fld (aTIER_CTRL k) NC_CTRL.BURST_EN = 0
    let others (u : State) : Prop := (∀ j, j ≠ k → u.tier j = s.tier j) ∧ u.cores = s.cores ∧ u.txns = s.txns
    (t.burst.isSome = true → Answers (.tierRefresh n) s fun u => others u ∧ u.regs = s.regs ∧ u.tier k = { t with postponed := min 8 (t.postponed + 1) }) ∧
    (t.burst = none → exec (.tierRefresh n) s = .next s) ∧
    (t.calls = [] → t.retrainLeft = 0 → idle →
      Answers (.calibrationWindow n) s fun u => others u ∧ u.regs = s.regs ∧ u.tier k = { t with burstTaken := false, crcWindow := 0 }) ∧
    (∀ b rest, t.calls = b :: rest → t.burst = none → t.retrainLeft = 0 → idle → s.bursts k = true →
      Answers (.calibrationWindow n) s fun u => others u ∧
        u.tier k = { t with burstTaken := true, crcWindow := 0, burst := some b, calls := rest.filter (· ≠ b) } ∧
        u.fld (aTIER_CAL k) NC_CAL.BURSTS = min (2 ^ 16 - 1) (s.fld (aTIER_CAL k) NC_CAL.BURSTS + 1)) ∧
    (t.burst = some .margin → t.burstTaken = true → s.bar2 = [] → Answers (.calibrationBurstEnd n) s fun u => others u ∧ u.regs = s.regs ∧
      u.tier k = { t with burst := none, postponed := 0 }) ∧
    (t.burst = some .retrain → t.burstTaken = true → t.retrainLeft = 1 → s.bar2 = [] → Answers (.calibrationBurstEnd n) s fun u => others u ∧
      (u.tier k).burst = none ∧ (u.tier k).retrainLeft = 0 ∧ u.fld (aTIER_STAT k) (tierRetrain k) = 0 ∧
      u.fld (aTIER_CAL k) NC_CAL.FULL = min (2 ^ 16 - 1) (s.fld (aTIER_CAL k) NC_CAL.FULL + 1)) ∧
    (t.retrainLeft = 0 → Answers (.ncReqFull n) s fun u => others u ∧ u.tier k = { t with retrainLeft := 32 } ∧
      u.fld (aTIER_STAT k) (tierRetrain k) = 1 ∧ RegsBut s u [aTIER_STAT k]) ∧
    (∀ c, c < 256 → Answers (.deviceTemperatureChange n c) s fun u => others u ∧ u.fld (aTIER_STAT k) NC_STAT.DTEMP = c ∧
      u.fld (aTIER_STAT k) NC_STAT.HOT = (if 85 < c then 1 else 0) ∧ RegsBut s u [aTIER_STAT k] ∧
      (t.retrainLeft = 0 → (u.tier k).retrainLeft = (if t.lastTemp + 8 ≤ c ∨ c + 8 ≤ t.lastTemp then 32 else 0)))

/-- Tier requests, retries, refresh, calibration and retrain: Claims.TierRequests, Claims.TierCalibration. -/
def Obligations.TierRequestsAndCalibration : Prop := Claims.TierRequests ∧ Claims.TierCalibration

/-- R417-R420, R437: the patrol reads one unit after another and counts and lists what it finds, and reports a row with two corrected units or an uncorrectable one; a row repair uses one of those left, or with none left sets FAIL and
repairs nothing; a unit that Ahnal lists enters the list; one that a full list cannot take leads to its page's going out of service. -/
def Sys2Proof.Claims.TierUpkeep : Prop :=
  ∀ (s : State) (n : Fin 68) (unit : Nat), unit < 2 ^ 28 →
    let k := n.val
    let t := s.tier k
    let pos := s.fld (aTIER_SCRUB k) NC_SCRUB.POS
    let rest (u : State) : Prop := u.cores = s.cores ∧ u.txns = s.txns ∧ u.images = s.images ∧ ∀ j, j ≠ k → u.tier j = s.tier j
    let last : Bool := decide (pos + 1 = 2 ^ 28)
    let row := Config.tierRow k pos
    let reported (u : State) : Prop := ∃ y ∈ (u.tier k).reports, Config.tierRow k y = row
    let mirrored : Prop := k < 64 ∧ s.fld (ncBlk k) NC_CTRL.MODE = 1
    let patrols : Prop := s.flag (aTIER_CTRL k) NC_CTRL.SCRUB_EN = true ∧ s.tierServes k = true ∧ s.tierWaiting k = false
    (patrols → Answers (.patrolScrub (.near n) .clean) s fun u => rest u ∧ u.tier k = { t with rowSeen := if last then [] else t.rowSeen } ∧ RegsBut s u [aTIER_SCRUB k] ∧
      u.fld (aTIER_SCRUB k) NC_SCRUB.POS = (pos + 1) % 2 ^ 28) ∧
    (patrols → Answers (.patrolScrub (.near n) .corrected) s fun u => rest u ∧ { u.tier k with rowSeen := t.rowSeen, reports := t.reports } = t ∧
      (if tabGet 0 t.rowSeen row = 0 then (u.tier k).reports = t.reports ∧ (last = false → tabGet 0 (u.tier k).rowSeen row = 1) else reported u) ∧
      RegsBut s u [aTIER_SCRUB k, aTIER_ERR k] ∧
      u.fld (aTIER_ERR k) NC_ERR.CE = min (2 ^ 16 - 1) (s.fld (aTIER_ERR k) NC_ERR.CE + 1)) ∧
    (patrols → ¬mirrored → t.plist.length < 2048 → pos ∉ t.plist → Answers (.patrolScrub (.near n) .uncorrectable) s fun u => rest u ∧
      (u.tier k).plist = t.plist ++ [pos] ∧ reported u ∧ u.fld (aTIER_STAT k) NC_STAT.PLIST_N = t.plist.length + 1 ∧
      u.fld (aTIER_ERR k) NC_ERR.UE = min (2 ^ 16 - 1) (s.fld (aTIER_ERR k) NC_ERR.UE + 1)) ∧
    (s.fld (aTIER_REPAIR k) NC_REPAIR.BUSY = 0 → s.fld (aTIER_STAT k) NC_STAT.REPAIR_LEFT = 0 →
      Answers (.ncRepairGo (.near n) unit) s fun u => rest u ∧ u.tier k = { t with repairFails := t.repairFails + 1 } ∧ RegsBut s u [aTIER_REPAIR k] ∧
        u.fld (aTIER_REPAIR k) NC_REPAIR.FAIL = 1 ∧ u.fld (aTIER_REPAIR k) NC_REPAIR.BUSY = 0) ∧
    (s.fld (aTIER_REPAIR k) NC_REPAIR.BUSY = 0 → 0 < s.fld (aTIER_STAT k) NC_STAT.REPAIR_LEFT → t.burst = none → t.burstTaken = false →
      s.flag (aTIER_CTRL k) NC_CTRL.BURST_EN = true →
      Answers (.ncRepairGo (.near n) unit) s fun u => rest u ∧ u.fld (aTIER_REPAIR k) NC_REPAIR.BUSY = 1 ∧
        u.fld (aTIER_STAT k) NC_STAT.REPAIR_LEFT = s.fld (aTIER_STAT k) NC_STAT.REPAIR_LEFT - 1 ∧ (u.tier k).burst = some (.repair unit)) ∧
    (¬mirrored → t.plist.length < 2048 → unit ∉ t.plist → Answers (.ncPlistAdd (.near n) unit) s fun u => rest u ∧
      u.tier k = { t with plist := t.plist ++ [unit] } ∧ RegsBut s u [aTIER_STAT k] ∧ u.fld (aTIER_STAT k) NC_STAT.PLIST_N = t.plist.length + 1) ∧
    (2048 ≤ t.plist.length → unit ∉ t.plist → firmwarePage (s.pageOfUnit k unit) = false → (∀ j im, s.image j = some im → im.active = false) →
      Answers (.poisonListFull (.near n) unit) s fun u => rest u ∧ u.tiers = s.tiers ∧ u.ownerOf (s.pageOfUnit k unit) = 1 ∧
        ∀ g, g ≠ s.pageOfUnit k unit → u.ownerOf g = s.ownerOf g)

/-- R425-R427, R430: a copy to the die's spare begins with nothing copied and the channel mirrored, goes on unit by unit with its listed units, and once it is whole a burst switches
the spare in; where the spare fails it is abandoned; a channel that must be retired with no spare left closes and its die's pages go out of service; while a
package is hot its Guaranteed images count as breached. -/
def Sys2Proof.Claims.ChannelSparing : Prop :=
  ∀ (s : State) (d : Die) (ch : Fin 16) (rate : Nat),
    let sub := aNS_SUBST d
    let n := tabGet 0 s.spareOf d
    let i := s.fld sub NS_SUBST.COPIED
    let rest (u : State) : Prop := u.cores = s.cores ∧ u.txns = s.txns ∧ u.images = s.images
    let copies : Prop := s.fld sub NS_SUBST.BUSY = 1 ∧ i < 2 ^ 28 ∧ n < 64 ∧ s.tierWaiting n = false ∧ s.tierServes n = true
    (s.fld sub NS_SUBST.BUSY = 0 → s.fld sub NS_SUBST.ACTIVE = 0 → 1000 ≤ rate → rate ≤ 20000 → Answers (.nsSubstCopy d ch rate) s fun u => rest u ∧
      u.fld sub NS_SUBST.BUSY = 1 ∧ u.fld sub NS_SUBST.COPIED = 0 ∧ u.fld sub NS_SUBST.CH = ch.val ∧ u.fld sub NS_SUBST.COPY_RATE = rate ∧
      u.fld (ncBlk (d.val * 16 + ch.val)) NC_CTRL.MODE = 1 ∧ (u.tier (64 + d)).plist = [] ∧ u.fld (aTIER_STAT (64 + d)) NC_STAT.READY = 1) ∧
    (copies → (s.tier n).plist.contains i = false → Answers (.spareCopyUnit d true) s fun u => rest u ∧ u.fld sub NS_SUBST.COPIED = i + 1 ∧
      i ∉ (u.tier (64 + d)).plist ∧ u.fld sub NS_SUBST.BUSY = (if i + 1 = 2 ^ 28 then 0 else 1)) ∧
    (copies → (s.tier n).plist.contains i = true → (s.tier (64 + d)).plist.length < 2048 → Answers (.spareCopyUnit d true) s fun u => rest u ∧
      u.fld sub NS_SUBST.COPIED = i + 1 ∧ i ∈ (u.tier (64 + d)).plist) ∧
    (copies → Answers (.spareCopyUnit d false) s fun u => rest u ∧ (∀ j, j ≠ 64 + d.val → u.tier j = s.tier j) ∧
      u.tier (64 + d) = { s.tier (64 + d) with spareBad := true } ∧ u.fld sub NS_SUBST.BUSY = 0 ∧
      u.fld (ncBlk n) NC_CTRL.MODE = 0) ∧
    (s.fld sub NS_SUBST.BUSY = 0 → s.fld sub NS_SUBST.ACTIVE = 0 → i = 2 ^ 28 → (s.tier n).burst = none → (s.tier n).burstTaken = false →
      Answers (.nsSubstSwitch d) s fun u => rest u ∧ (u.tier n).burst = some .spareSwitch ∧ u.fld sub NS_SUBST.BUSY = 1 ∧
        RegsBut s u [aTIER_CAL n, sub]) ∧
    (i < 2 ^ 28 → exec (.nsSubstSwitch d) s = .next s) ∧
    (d.val ≠ 3 → s.noSpare d = true → s.sparingDue (d.val * 16 + ch.val) = true → (∀ j im, s.image j = some im → im.active = false) →
      Answers (.channelFailed (.near ⟨d.val * 16 + ch.val, by omega⟩)) s fun u => rest u ∧
        u.fld (aTIER_STAT (d.val * 16 + ch.val)) NC_STAT.READY = 0 ∧ ∀ p, p < 2 ^ 17 → firmwarePage (d.val * 2 ^ 17 + p) = false →
          u.ownerOf (d.val * 2 ^ 17 + p) = 1) ∧
    ∀ m : Fin 16, s.fld (aTIER_STAT (68 + m)) NC_STAT.HOT = 1 → Answers (.middleHot m) s fun u => u.cores = s.cores ∧
      ∀ j im, s.image j = some im → im.floor ≠ 0 → im.state = .running → (∃ r ∈ im.regions, r.tier = 1 ∧ r.die = m.val / 4) →
        ∃ im', u.image j = some im' ∧ im'.breach = true

/-- Patrol, row repair, poison list and channel sparing: Claims.TierUpkeep, Claims.ChannelSparing. -/
def Obligations.TierUpkeepAndSparing : Prop := Claims.TierUpkeep ∧ Claims.ChannelSparing

/-- R111, R433-R436: a thread that waits on a page reports it, and reports of one page lead to one page-in; where it is done a page of the near or middle tier is present,
filled with zeros, under the entry that its region's attributes give, and the thread goes on; where a page-in waits for a frame, the deep page
held longest in one, and not pinned, goes out with V = 0 in its entry. -/
def Sys2Proof.Claims.PagesComeAndGo : Prop :=
  (∀ (s : State) (c : CoreId) (t : Thr) (va slot w : Nat), (s.thr c t).stall = .pageIn va → s.boundTo c = some (slot, w) → slot < 16 →
    let vpn := va / 2 ^ 21
    let others (u : State) : Prop := u.cores = s.cores ∧ RegsBut s u [aTR_STAT c] ∧ u.fld (aTR_STAT c) TR_STAT.PAGE_INS =
      min (TR_STAT.PAGE_INS.size - 1) (s.fld (aTR_STAT c) TR_STAT.PAGE_INS + 1)
    ((∀ e ∈ s.deep.pageIns, ¬(e.slot.val = slot ∧ e.vpn = vpn)) → Answers (.pageInReport (.thread c t)) s fun u => others u ∧
      u.deep.pageIns = s.deep.pageIns ++ [⟨Fin.ofNat 16 slot, vpn, [.thread c t]⟩]) ∧
    (∀ e es, s.deep.pageIns = e :: es → e.slot.val = slot → e.vpn = vpn → Waiter.thread c t ∉ e.waiters → (∀ x ∈ es, ¬(x.slot.val = slot ∧ x.vpn = vpn)) →
      Answers (.pageInReport (.thread c t)) s fun u => others u ∧ u.deep.pageIns = { e with waiters := e.waiters ++ [.thread c t] } :: es ∧
        u.deep.ops = s.deep.ops)) ∧
  (∀ (s : State) (c : CoreId) (t : Thr) (va w : Nat) (slot : Slot) (im : Image) (r : Region) (i pte : Nat) (es : List PageIn),
    let vpn := va / 2 ^ 21
    let g := r.pages.getD i 0
    s.deep.pageIns = ⟨slot, vpn, [.thread c t]⟩ :: es → s.image slot = some im → im.regionOf vpn = some (r, i) → im.pteAddr vpn = some pte →
    r.tier ≤ 1 → PTE2.V.get (s.pte im vpn) = 0 → (s.thr c t).st = .stalled → (s.thr c t).stall = .pageIn va → s.boundTo c = some (slot.val, w) →
    pte / 2 ^ 21 ≠ g → pte % 8 = 0 → r.perm < 8 → firmwarePage g = false → g < 2 ^ 27 → s.ownerOf g ≠ 1 →
    ∃ u, exec (.pageInDone slot vpn) s = .next u ∧ (∀ o, o < 2 ^ 21 → memByte u.mem (g * 2 ^ 21 + o) = 0) ∧ u.ownerOf g = 16 + slot.val ∧
      (∀ a, a / 2 ^ 21 ≠ g → ¬(pte ≤ a ∧ a < pte + 8) → memByte u.mem a = memByte s.mem a) ∧
      PTE2.V.get (BitVec.ofNat 64 (u.load pte 8)) = 1 ∧ PTE2.PPA.get (BitVec.ofNat 64 (u.load pte 8)) = g ∧
      PTE2.W.get (BitVec.ofNat 64 (u.load pte 8)) = r.perm % 2 ∧ (u.thr c t).st = .ready ∧ ∀ e ∈ u.deep.pageIns, e ∈ es) ∧
  ∀ (s : State) (slot : Slot) (vpn g : Nat) (fs : List (Nat × Nat × Nat)) (im : Image) (r : Region) (i pte : Nat),
    s.deep.frames = (slot.val, vpn, g) :: fs → s.deep.pageOuts = [] → (∃ e ∈ s.deep.pageIns, s.wantsFrame e = true) → s.warned = false → s.deep.readOnly = false → s.image slot = some im →
    im.regionOf vpn = some (r, i) → r.attrs % 2 = 0 → im.pteAddr vpn = some pte → r.perm < 8 →
    ∃ u, exec (.pageOut slot vpn) s = .next u ∧ PTE2.V.get (BitVec.ofNat 64 (u.load pte 8)) = 0 ∧ PTE2.DEEP.get (BitVec.ofNat 64 (u.load pte 8)) = 1 ∧
      (∀ a, ¬(pte ≤ a ∧ a < pte + 8) → memByte u.mem a = memByte s.mem a) ∧ u.deep.pageOuts = [(slot.val, vpn)] ∧ u.deep.frames = s.deep.frames ∧
      (∀ c ∈ im.bindPhys, c < 1152 → tabGet none (u.core c).tlb vpn = none) ∧ ∀ f : Fin 32, .pageOut slot vpn ∈ u.flashOps f

/-- R431, R435, R437-R439: the codewords of a read of the deep tier that needed retry and those that stayed uncorrectable are counted, and the
latter's ranges of the page noted; a program that fails is made again; with the last channel's program of a page-out its frame is free and the copy is
current; with the last of a saved object the new version is current; at no spare block left the deep tier is read-only. -/
def Sys2Proof.Claims.FlashOperations : Prop :=
  ∀ (s : State) (f : Fin 32) (slot : Slot) (vpn : Nat) (rest : List FlashOp),
    let key := slot.val * 2 ^ 27 + vpn
    let counts (u : State) (x : Field) (n : Nat) : Prop := u.fld (aFC_STAT f) x = min (x.size - 1) (s.fld (aFC_STAT f) x + n)
    s.deep.closed.contains f.val = false → (∀ ok retried, ∀ bad : List (Fin 16), bad.Nodup → s.flashOps f = .pageIn slot vpn :: rest →
      Answers (.flashOpComplete f ok retried bad) s fun u => u.flashOps f = rest ∧ counts u FC_STAT.RETRY (min 16 retried) ∧
        counts u FC_STAT.UE bad.length ∧ RegsBut s u [aFC_STAT f] ∧ u.cores = s.cores ∧ u.deep.pages = s.deep.pages ∧
        tabGet [] u.deep.unread key = tabGet [] s.deep.unread key ++ bad.map (f.val * 16 + ·.val) ∧
        ∀ g : Fin 32, g ≠ f → u.flashOps g = s.flashOps g) ∧
    (∀ o retried bad, s.flashOps f = o :: rest → o.reads = false → exec (.flashOpComplete f false retried bad) s = .next s) ∧
    (∀ g im retried bad, s.deep.ops = [(f.val, [.pageOut slot vpn])] → s.image slot = some im → s.invBusy im = false → s.frameOf slot vpn = some g → firmwarePage g = false → s.ownerOf g ≠ 1 →
      (∀ e ∈ s.deep.pageIns, ¬(e.slot = slot ∧ e.vpn = vpn)) → Answers (.flashOpComplete f true retried bad) s fun u => u.flashOps f = [] ∧
        u.frameOf slot vpn = none ∧ u.ownerOf g = 0 ∧ (slot.val, vpn) ∉ u.deep.pageOuts ∧ u.cores = s.cores ∧
        tabFind u.deep.pages (slot.val * 2 ^ 27 + vpn) = some ((s.mem.filter fun c => c.1 / 2 ^ 21 == g).map fun c => (c.1 % 2 ^ 21, c.2))) ∧
    (∀ obj o bytes pages retried bad, s.deep.ops = [(f.val, [.save obj])] → s.claimed = [] → s.deep.objects = [o] → o.obj = obj → o.writing = some (bytes, pages) →
      Answers (.flashOpComplete f true retried bad) s fun u => u.flashOps f = [] ∧ u.deep.objects = [⟨obj, some bytes, none⟩] ∧ u.cores = s.cores) ∧
    (∀ pct, s.grade.val % 2 = 0 → 2 ≤ pct → pct < 128 → Answers (.flashSparesLow f pct) s fun u => u.fld (aFC_STAT f) FC_STAT.SPARE_PCT = pct ∧
      u.deep = s.deep ∧ RegsBut s u [aFC_STAT f] ∧ u.cores = s.cores) ∧
    (s.grade.val % 2 = 0 → Answers (.flashSparesLow f 0) s fun u => u.deep = { s.deep with readOnly := true } ∧ u.cores = s.cores)

/-- Pages come in and go out; flash operations complete: Claims.PagesComeAndGo, Claims.FlashOperations. -/
def Obligations.DeepTierPagesAndFlash : Prop := Claims.PagesComeAndGo ∧ Claims.FlashOperations

/-- R447-R450, R453: a doorbell moves TAIL, and where it runs further ahead than the ring holds puts the ring in ERROR 1; the doorbells of completion and event rings
note what was consumed; a base is taken while its ring is disabled and its counts become 0, and ignored while it is enabled; enabling a ring
with a listed size sets it RUNNING and disabling it drops what it read ahead. In D3hot a write of any of them is not taken (R441). -/
def Sys2Proof.Claims.HostRings : Prop :=
  ∀ (s : State) (p : Port) (r : Ring),
    let cr := aCR_STAT p r
    let on := s.fld (aCR_CTRL p r) CR_CTRL.EN
    let ahead (n : Nat) : Nat := (n + 65536 - s.fld cr CR_STAT.HEAD) % 65536
    let st (u : State) : Nat := u.fld cr CR_STAT.STATE
    ((s.port p).d3 = true → (∀ n, exec (.dbCr p r n) s = .next s) ∧ (∀ n, exec (.dbCc p r n) s = .next s) ∧ (∀ n, exec (.dbEvt p n) s = .next s) ∧
      ∀ v, exec (.crBaseWrite p r v) s = .next s ∧ exec (.ccBaseWrite p r v) s = .next s ∧ exec (.crCtrlWrite p r v) s = .next s ∧
        exec (.ccCtrlWrite p r v) s = .next s) ∧
    ((s.port p).d3 = false →
    (∀ n : BitVec 16, (on = 0 ∨ st s = 5) → SetsRegs (.dbCr p r n) s (·.setFld cr CR_STAT.TAIL n.toNat)) ∧
    (∀ n : BitVec 16, on = 1 → st s ≠ 5 → ahead n.toNat ≤ 2 ^ s.fld (aCR_CTRL p r) CR_CTRL.LOG2N → Answers (.dbCr p r n) s fun u =>
      u.fld cr CR_STAT.TAIL = n.toNat ∧ st u = st s ∧ RegsBut s u [cr] ∧ u.cores = s.cores ∧ u.claimed = s.claimed) ∧
    (∀ n : BitVec 16, on = 1 → st s ≠ 5 → 2 ^ s.fld (aCR_CTRL p r) CR_CTRL.LOG2N < ahead n.toNat → Answers (.dbCr p r n) s fun u =>
      u.fld cr CR_STAT.TAIL = n.toNat ∧ st u = 5 ∧ u.fld cr CR_STAT.ERR = 1 ∧ u.cores = s.cores) ∧
    (∀ n : BitVec 32, (s.ring p r).ahead = [] → Answers (.dbCc p r n) s fun u => u.fld (aCC_STAT p r) CC_STAT.CONSUMED = n.toNat ∧
      u.fld (aCC_STAT p r) CC_STAT.SEQ = s.fld (aCC_STAT p r) CC_STAT.SEQ ∧ RegsBut s u [aCC_STAT p r, cr] ∧ u.cores = s.cores) ∧
    (∀ n : BitVec 32, SetsRegs (.dbEvt p n) s (·.setReg (aEVT_CONS p) (n.setWidth 64))) ∧
    (∀ v, on = 0 → Answers (.crBaseWrite p r v) s fun u => u.fld (aCR_BASE p r) CR_BASE.ADDR = CR_BASE.ADDR.get v ∧ u.fld cr CR_STAT.HEAD = 0 ∧
      u.fld cr CR_STAT.TAIL = 0 ∧ RegsBut s u [aCR_BASE p r, cr] ∧ u.ports = s.ports) ∧
    (∀ v, on = 1 → exec (.crBaseWrite p r v) s = .next s) ∧
    (∀ v, s.fld (aCC_CTRL p r) CC_CTRL.EN = 0 → Answers (.ccBaseWrite p r v) s fun u => u.fld (aCC_BASE p r) CR_BASE.ADDR = CR_BASE.ADDR.get v ∧
      u.reg (aCC_STAT p r) = 0 ∧ RegsBut s u [aCC_BASE p r, aCC_STAT p r] ∧ u.ports = s.ports) ∧
    (∀ v, s.fld (aCC_CTRL p r) CC_CTRL.EN = 1 → exec (.ccBaseWrite p r v) s = .next s) ∧
    (∀ v, on = 0 → CR_CTRL.EN.get v = 1 → 1 ≤ CR_CTRL.LOG2N.get v → CR_CTRL.LOG2N.get v ≤ 12 → s.fld cr CR_STAT.ERR = 0 →
      ahead (s.fld cr CR_STAT.TAIL) ≤ 2 ^ CR_CTRL.LOG2N.get v → Answers (.crCtrlWrite p r v) s fun u => u.fld (aCR_CTRL p r) CR_CTRL.EN = 1 ∧
        u.fld (aCR_CTRL p r) CR_CTRL.LOG2N = CR_CTRL.LOG2N.get v ∧ st u = 1 ∧ RegsBut s u [aCR_CTRL p r, cr] ∧ u.ports = s.ports) ∧
    (∀ v, on = 1 → CR_CTRL.EN.get v = 0 → Answers (.crCtrlWrite p r v) s fun u => u.fld (aCR_CTRL p r) CR_CTRL.EN = 0 ∧ st u = 0 ∧
      (u.ring p r).ahead = [] ∧ (u.ring p r).reserved = 0 ∧ u.cores = s.cores ∧ ∀ q ∈ u.claimed, q.port = p → q.ring = r → q.orphan = true) ∧
    (∀ v, s.fld (aCC_CTRL p r) CC_CTRL.EN = 0 → CC_CTRL.EN.get v = 1 → 1 ≤ CC_CTRL.LOG2N.get v → CC_CTRL.LOG2N.get v ≤ 12 →
      Answers (.ccCtrlWrite p r v) s fun u => u.fld (aCC_CTRL p r) CC_CTRL.EN = 1 ∧ u.fld (aCC_CTRL p r) CC_CTRL.LOG2N = CC_CTRL.LOG2N.get v ∧
        u.fld (aCC_CTRL p r) CC_CTRL.VEC = CC_CTRL.VEC.get v ∧ RegsBut s u [aCC_CTRL p r] ∧ u.ports = s.ports))

/-- R440, R446-R452, R459, R463, R473: a packet that comes is read ahead, and one whose form or opcode is refused is answered with the reason and passed; a claim takes the
head packet, keeps a reply slot for it and writes its acceptance where asked; one not claimed in time is answered INTERNAL; IDENTIFY writes its
record to the host. -/
def Obligations.PacketsReadAndClaimed : Prop :=
  ∀ (s : State) (p : Port) (r : Ring),
    let stat := s.reg (aCR_STAT p r)
    let q := s.ring p r
    let out (u : State) : List Tlp := (u.port p).out
    (∀ pk, s.pairOn p r = true → CR_STAT.STATE.get stat ≠ 5 → q.ahead = [] → q.again = false → q.toClaim = false → q.parked = false → q.waitPassed = false →
      CR_STAT.HEAD.get stat ≠ CR_STAT.TAIL.get stat → (s.port p).up = true → (s.port p).d3 = false →
      field pk 2 1 % 2 = 0 → field pk 2 1 / 16 % 2 = 0 → s.slotsFree p r 2 = true → s.flag (aFATAL_STAT 0) FATAL_STAT.FATAL = false →
      (∀ pk', s.packetCheck p r pk = .inl pk' → bit (field pk' 2 1) 0 = false → Answers (.packetFetch p r (.data pk)) s fun u => u.cores = s.cores ∧
        (u.ring p r).toClaim = true ∧ (u.ring p r).ahead = [(CR_STAT.HEAD.get stat, pk')] ∧ u.fld (aCR_STAT p r) CR_STAT.STATE = 1 ∧ u.claimed = s.claimed) ∧
      (∀ status detail, Hears s p r → s.packetCheck p r pk = .inr (status, detail) → Answers (.packetFetch p r (.data pk)) s fun u => u.cores = s.cores ∧
        (u.ring p r).ahead = [] ∧ u.fld (aCR_STAT p r) CR_STAT.HEAD = (CR_STAT.HEAD.get stat + 1) % 65536 ∧
        replyWrite s p r (CR_STAT.HEAD.get stat) pk 0 status detail [] ∈ out u)) ∧
    (∀ index pk rest c, AtHead s p r index pk rest → pkSpec pk = some c → c.sm = false → s.serves pk = true →
      Answers (.fwClaim p r) s fun u => (s.flag (aFATAL_STAT 0) FATAL_STAT.FATAL = false → u.cores = s.cores) ∧ u.claimed = s.claimed ++ [⟨s.nextId, p, r, index, pk, false, false⟩] ∧
        (Hears s p r → bit (field pk 2 1) 3 = true → replyWrite s p r index pk 1 1 0 [] ∈ out u) ∧ (rest = [] → (u.ring p r).ahead = [])) ∧
    (∀ index pk rest c, AtHead s p r index pk rest → pkSpec pk = some c → c.sm = false → bit (field pk 2 1) 1 = false → Hears s p r →
      Answers (.fwClaimTimeout p r) s fun u => (s.flag (aFATAL_STAT 0) FATAL_STAT.FATAL = false → u.cores = s.cores) ∧ u.claimed = s.claimed ∧ replyWrite s p r index pk 0 0x3F 0x000B [] ∈ out u) ∧
    (∀ index pk rest, AtHead s p r index pk rest → field pk 0 2 = 1 → Hears s p r → Answers (.identify p r) s fun u => (s.flag (aFATAL_STAT 0) FATAL_STAT.FATAL = false → u.cores = s.cores) ∧
      .write (field pk 0x20 8) (s.identity p) false ∈ out u ∧ replyWrite s p r index pk 0 0 0 [] ∈ out u)

/-- R441, R446, R454, R456, R482, R562, R567: a reset of a port returns its rings, event ring and windows to their reset values and no other port's; a lost link does so and counts;
a link that trains is up with its lanes; D3hot disables the rings; D0 and PERST release WAKE. -/
def Obligations.PortsAndLinks : Prop :=
  ∀ (s : State) (p : Port),
    let q := s.port p
    let ringRegs : List Nat := rings.flatMap fun r => [aCR_BASE p r, aCR_CTRL p r, aCR_STAT p r, aCC_BASE p r, aCC_CTRL p r, aCC_STAT p r, aCC_DROP p r]
    let regs : List Nat := ringRegs ++ [aEVT_BASE p, aEVT_CTRL p, aEVT_STAT p, aEVT_CONS p, aBAR2_BASE p, aHW_BASE p]
    let fresh (u : State) : Prop := (∀ a ∈ regs, u.reg a = resetAt a) ∧ (∀ r : Ring, (u.ring p r).ahead = [] ∧ (u.ring p r).toClaim = false ∧
      (u.ring p r).last = (s.ring p r).last) ∧ u.cores = s.cores ∧ u.images = s.images ∧ ∀ x, x ≠ p → u.port x = s.port x
    (∀ x ∈ s.parked, match x.obj with | .counter k i => k < 72 ∧ i < 256 | .barrier b => b < 64) →
    (Answers (.portReset p none) s fun u => fresh u ∧ (u.port p).up = q.up ∧
      ∀ a, a ∉ regs → (∀ (k : Cluster) (i : Fin 256) (b : Fin 64), a ≠ aSCNT k i ∧ a ≠ aBU1 b) → u.reg a = s.reg a) ∧
    (Answers (.functionLevelReset p) s fresh) ∧
    (∀ r index pk rest, AtHead s p r index pk rest → field pk 0 2 = 3 → Hears s p r → Answers (.portReset p (some r)) s fun u =>
      fresh u ∧ replyWrite s p r index pk 0 0 0 [] ∈ (u.port p).out) ∧
    (q.up = true → Answers (.linkDown p) s fun u => fresh u ∧ (u.port p).up = false ∧ u.fld (aPORT_STAT p) PORT_STAT.LANES = 0 ∧
      u.fld (aERR_LINK p) ERR_LINK.DOWN = min (2 ^ 16 - 1) (s.fld (aERR_LINK p) ERR_LINK.DOWN + 1) ∧ u.fld (aERR_SUM p) ERR_SUM.LINK = 1) ∧
    (∀ lanes speed, q.up = false → q.perst = false → s.power = .on → s.fld (aBOOT_STAT 0) BOOT_STAT.PHASE ≠ 0 → lanes < 16 → speed < 8 →
      Answers (.linkUp p lanes speed) s fun u => u.port p = { q with up := true, downLong := false } ∧ RegsBut s u [aPORT_STAT p] ∧
        u.fld (aPORT_STAT p) PORT_STAT.LANES = lanes ∧ u.fld (aPORT_STAT p) PORT_STAT.SPEED = speed) ∧
    (Answers (.d3hotEntry p) s fun u => (u.port p).d3 = true ∧ (∀ r : Ring, u.fld (aCR_CTRL p r) CR_CTRL.EN = 0 ∧ u.fld (aCC_CTRL p r) CC_CTRL.EN = 0 ∧
      u.fld (aCR_STAT p r) CR_STAT.STATE = 0 ∧ (u.ring p r).ahead = []) ∧ u.fld (aEVT_CTRL p) CC_CTRL.EN = 0 ∧ u.cores = s.cores ∧ ∀ x, x ≠ p → u.port x = s.port x) ∧
    (Answers (.returnToD0 p) s fun u => u.port p = { q with d3 := false, wake := false } ∧ u.regs = s.regs ∧ ∀ x, x ≠ p → u.port x = s.port x) ∧
    (s.pins.pwrGood = true → Answers (.perstAssert p) s fun u => fresh u ∧ (u.port p).up = false ∧ (u.port p).perst = true ∧ (u.port p).d3 = false ∧
      (u.port p).wake = false) ∧
    (s.pins.pwrGood = true → Answers (.perstDeassert p) s fun u => u.port p = { q with perst := false } ∧ u.regs = s.regs) ∧
    (s.pins.pwrGood = false → exec (.perstDeassert p) s = .next s ∧ exec (.perstAssert p) s = .next s)

/-- R91, R93, R119-R121, R412, R422, R441, R443-R446: an access through BAR2 to memory of an image that the port owns is performed at its home and answered; any other is refused, counted, and
leaves memory; one that must wait is kept behind those that wait; in D3hot what asks for an answer gets Unsupported Request; what a host answers to a read of its window is the data, and a failed or late one is poison. -/
def Obligations.HostAccesses : Prop :=
  (∀ (s : State) (p : Port) (off n : Nat) (v cmp : Word) (data : List Byte), (s.port p).up = true → (s.port p).d3 = false →
    let as (n : Nat) : List Nat := s.bar2Run p off n
    let frame (u : State) : Prop := u.cores = s.cores ∧ u.images = s.images ∧ u.pending = s.pending
    let free (o : Bar2Op) : Prop := s.bar2Waits p o s.bar2 = false
    (s.bar2Waits p (.read off n) s.bar2 = true → exec (.bar2Read p off n) s = .next { s with bar2 := s.bar2 ++ [(p, .read off n)] }) ∧
    (∀ bad, s.bar2Waits p (.write off data bad) s.bar2 = true →
      exec (.bar2Write p off data bad) s = .next { s with bar2 := s.bar2 ++ [(p, .write off data bad)] }) ∧
    (∀ op size, s.bar2Waits p (.atomic off op size v cmp) s.bar2 = true →
      exec (.bar2Atomicop p off op size v cmp) s = .next { s with bar2 := s.bar2 ++ [(p, .atomic off op size v cmp)] }) ∧
    (free (.read off n) → (as n).all (s.bar2Ok p false) = true → Answers (.bar2Read p off n) s fun u => frame u ∧ u.regs = s.regs ∧
      (u.port p).out = .completion ((as n).map (memByte s.mem)) ((as n).any s.badByte) :: (s.port p).out) ∧
    (free (.read off n) → (as n).all (s.bar2Ok p false) = false → Answers (.bar2Read p off n) s fun u => frame u ∧ .abort ∈ (u.port p).out ∧
      u.fld (aERR_BAR2 p) ERR_BAR2.CA_READS = min (2 ^ 32 - 1) (s.fld (aERR_BAR2 p) ERR_BAR2.CA_READS + 1)) ∧
    (free (.write off data false) → (as data.length).all (s.bar2Ok p true) = true → (as data.length).Nodup → ∃ u, exec (.bar2Write p off data false) s = .next u ∧ frame u ∧
      (∀ i (h : i < data.length), memByte u.mem (s.bar2Addr p (off + i)) = data[i]) ∧ ∀ a, a ∉ as data.length → memByte u.mem a = memByte s.mem a) ∧
    (free (.write off data false) → (as data.length).all (s.bar2Ok p true) = false → Answers (.bar2Write p off data false) s fun u => frame u ∧
      u.fld (aERR_BAR2 p) ERR_BAR2.DROPPED_WRITES = min (2 ^ 32 - 1) (s.fld (aERR_BAR2 p) ERR_BAR2.DROPPED_WRITES + 1)) ∧
    (∀ op : AtomicOp, (op = .add ∨ op = .swap ∨ op = .cas) → free (.atomic off op 1 v cmp) → off % 8 = 0 → (as 8).all (s.bar2Ok p true) = true → (as 8).any s.badByte = false →
      let a := s.bar2Addr p off
      ∃ u, exec (.bar2Atomicop p off op 1 v cmp) s = .next u ∧ frame u ∧ .completion (s.bytes a 8) false ∈ (u.port p).out ∧
        (∀ x, ¬(a ≤ x ∧ x < a + 8) → memByte u.mem x = memByte s.mem x) ∧
        u.load a 8 = (match op with
          | .add => (s.load a 8 + v.toNat) % 2 ^ 64
          | .swap => v.toNat
          | _ => if s.load a 8 = cmp.toNat then v.toNat else s.load a 8))) ∧
  (∀ (s : State) (p : Port) (off n : Nat) (v cmp : Word) (data : List Byte) (bad : Bool) (op : AtomicOp) (size : Fin 3),
    (s.port p).up = true → (s.port p).d3 = true →
    (Answers (.bar2Read p off n) s fun u => .unsupported ∈ (u.port p).out ∧ u.regs = s.regs ∧ u.cores = s.cores) ∧
    (Answers (.bar2Write p off data bad) s fun u => (u.port p).out = (s.port p).out ∧ u.regs = s.regs ∧ u.cores = s.cores) ∧
    Answers (.bar2Atomicop p off op size v cmp) s fun u => .unsupported ∈ (u.port p).out ∧ u.regs = s.regs ∧ u.cores = s.cores) ∧
  ∀ (s : State) (id : Nat) (p : Port) (x : Txn), s.asked id = some (p, x) →
    let as := x.op.addrs x.addr
    let done (u : State) (bytes : List Byte) (bad : List Nat) : Prop := u.cores = s.cores ∧ u.txns = s.txns.map fun y =>
      if y.id = x.id then { y with stage := .performed, result := bytes, poisoned := bad } else y
    let count (f : Field) (u : State) : Prop := u.fld (aERR_HOST p) f = min (f.size - 1) (s.fld (aERR_HOST p) f + 1)
    (∀ bs, bs.length = as.length → Answers (.hostWindowCompletion id (.data bs)) s fun u => done u bs [] ∧ u.regs = s.regs) ∧
    (Answers (.hostWindowCompletion id .unsupported) s fun u => done u (as.map fun _ => 0) as ∧ count ERR_HOST.UR_CA u) ∧
    (Answers (.hostWindowCompletion id .aborted) s fun u => done u (as.map fun _ => 0) as ∧ count ERR_HOST.UR_CA u) ∧
    (Answers (.hostWindowCompletion id .poisoned) s fun u => done u (as.map fun _ => 0) as ∧ count ERR_HOST.POISONED u) ∧
    ((s.port p).ctoOff = true → exec (.hostCompletionTimeout id) s = .next s) ∧
    ((s.port p).ctoOff = false → Answers (.hostCompletionTimeout id) s fun u => done u (as.map fun _ => 0) as ∧ count ERR_HOST.CTO u)

/-- R37-R41, R455, R466, R474, R475, R508, R517, R524: Ahnal answers QUERY_RESOURCES, STATUS, SPARE_STATUS and DUMP_READ with their records written to the host and a final
reply; RELEASE and ADOPT change an image's owner, and STEWARD_HANDOFF the steward, where the rules of ownership let them; POWER_STATE begins a
change of power state. -/
def Obligations.CommandsAnswered : Prop :=
  ∀ (s : State) (k : Nat) (q : Claimed),
    let pk := q.packet
    let p := q.port
    let wrote (u : State) (a : Nat) (bs : List Byte) (bad : Bool) : Prop := Wrote s u p a bs bad
    let steady (u : State) : Prop := Steady s u pk
    (s.cmdReady k 0x0002 = some q → Answers (.queryResources k) s fun u => steady u ∧ Answered s u q 0 0 [] ∧ wrote u (field pk 0x20 8) s.resourceRecord false) ∧
    (∀ slot im, s.byHandle (field pk 8 4) = some (slot, im) →
      (s.cmdReady k 0x0016 = some q → Answers (.status k) s fun u => steady u ∧ Answered s u q 0 0 [] ∧ wrote u (field pk 0x20 8) (s.statusRecord im) false) ∧
      (s.cmdReady k 0x0014 = some q → im.owner = some p → Answers (.release k) s fun u => u.image slot = some { im with owner := none } ∧
        Answered s u q 0 0 [] ∧ (Silent s pk → u.cores = s.cores) ∧ ∀ x : Slot, x ≠ slot → u.image x = s.image x) ∧
      (s.cmdReady k 0x0014 = some q → im.owner ≠ some p → Answers (.release k) s fun u => steady u ∧ Answered s u q 0x21 0 []) ∧
      (s.cmdReady k 0x0015 = some q → im.owner = none → Answers (.adopt k) s fun u => u.image slot = some { im with owner := some p } ∧
        Answered s u q 0 0 [] ∧ (Silent s pk → u.cores = s.cores) ∧ ∀ x : Slot, x ≠ slot → u.image x = s.image x) ∧
      (∀ x, s.cmdReady k 0x0015 = some q → im.owner = some x → x ≠ p → (s.port x).up = true → Answers (.adopt k) s fun u => steady u ∧
        Answered s u q 0x21 0x0009 [])) ∧
    (s.cmdReady k 0x0051 = some q → field pk 0x20 1 = 0 → s.mgmt.steward = p → (s.port (1 - p)).up = true → Answers (.stewardHandoff k) s fun u =>
      steady u ∧ u.mgmt.steward = 1 - p ∧ Answered s u q 0 0 []) ∧
    (s.cmdReady k 0x0051 = some q → field pk 0x20 1 = 0 → s.mgmt.steward = p → (s.port (1 - p)).up = false → Answers (.stewardHandoff k) s fun u =>
      steady u ∧ u.mgmt.steward = p ∧ Answered s u q 0x10 0x0009 []) ∧
    (s.cmdReady k 0x0051 = some q → field pk 0x20 1 ≠ 0 → s.mgmt.steward = 1 - p → (s.port (1 - p)).up = true → Answers (.stewardHandoff k) s fun u =>
      steady u ∧ u.mgmt.steward = 1 - p ∧ Answered s u q 0x10 0x0009 []) ∧
    (s.cmdReady k 0x0050 = some q → s.pstate ≠ 3 → s.pstate = field pk 0x20 1 → Answers (.powerState k) s fun u => steady u ∧ u.pstate = s.pstate ∧
      Answered s u q 0 0 []) ∧
    (s.cmdReady k 0x0050 = some q → s.pstate ≠ 3 → s.pstate ≠ field pk 0x20 1 → (field pk 0x20 1 = 2 → ∀ i : Slot, ∀ im ∈ s.image i, im.state = .loaded) →
      Answers (.powerState k) s fun u => steady u ∧ u.pstate = 3 ∧ u.mgmt.powerCmd = some k ∧ u.mgmt.powerTarget = some (field pk 0x20 1 + 4 * s.pstate) ∧
        RegsBut s u [aPWR_STATE] ∧ u.ports = s.ports) ∧
    (s.cmdReady k 0x0060 = some q → field pk 0x20 1 = 0 → Answers (.spareStatusReport k) s fun u => steady u ∧ Answered s u q 0 0 [] ∧
      wrote u (field pk 0x28 8) s.spareRecord false) ∧
    (s.cmdReady k 0x0060 = some q → field pk 0x20 1 = 1 → Answers (.spareStatusScan k) s fun u => u.regs = s.regs ∧ u.ports = s.ports ∧ steady u ∧
      u.claimed = s.claimed.map fun e => if e.id = k then { e with begun := true } else e) ∧
    (s.cmdReady k 0x0061 = some q → field pk 0x20 8 % 8 = 0 → field pk 0x28 8 % 8 = 0 → field pk 0x20 8 + field pk 0x28 8 ≤ 2 ^ 33 → field pk 0x38 1 = 0 →
      let as := addrs (dumpBase + field pk 0x20 8) (field pk 0x28 8)
      Answers (.dumpRead k) s fun u => steady u ∧ Answered s u q 0 0 [] ∧ wrote u (field pk 0x30 8) (as.map (memByte s.mem)) (as.any s.badByte)) ∧
    (s.cmdReady k 0x0061 = some q → 2 ^ 33 < field pk 0x20 8 + field pk 0x28 8 → Answers (.dumpRead k) s fun u => steady u ∧ Answered s u q 0x22 0x0007 [])

/-- R58-R62, R96, R458, R467, R472: LOAD_IMAGE reads an image once, and one that could not be read is answered so; ADMISSION refuses an image with the record and status of
its first failed check, leaving the images, or gives it the lowest free slot, a handle of that slot and its owner; UNLOAD, of a LOADED
image only, frees its slot and all it owned. -/
def Obligations.ImagesLoadedAndUnloaded : Prop :=
  (∀ (s : State) (k : Nat) (q : Claimed) (bs : List Byte), s.cmdReady k 0x0010 = some q → s.loading = none → (s.nextLoad.map (·.id)) = some k →
    field q.packet 0x38 1 ≠ 1 →
    (bs.length = field q.packet 0x28 8 → Answers (.loadImage k (.data bs)) s fun u => u.loading = some (k, bs) ∧ u.lastLoadPort = q.port ∧
      u.regs = s.regs ∧ u.cores = s.cores ∧ u.images = s.images ∧ u.ports = s.ports) ∧
    (bs.length ≠ field q.packet 0x28 8 → Answers (.loadImage k (.data bs)) s fun u => u.loading = none ∧ Steady s u q.packet ∧ Answered s u q 0x22 0x0008 [])) ∧
  (∀ (s : State) (k : Nat) (q : Claimed) (bs : List Byte), s.loading = some (k, bs) → s.claim? k = some q →
    (∀ e, ({ s with loading := none } : State).judgeImage bs = .error e → Answers .admission s fun u => u.loading = none ∧ Steady s u q.packet ∧
      Answered s u q e.status (0x0100 + e.check) [] ∧ Wrote s u q.port (field q.packet 0x30 8) e.bytes false) ∧
    (∀ im t slot, ({ s with loading := none } : State).judgeImage bs = .ok (im, t) → (∀ x : Slot, x < slot → (s.image x).isSome = true) → s.image slot = none →
      ∃ u, exec .admission s = .next u ∧ u.pending = s.pending ∧ u.loading = none ∧ (∀ c ∈ u.claimed, c.id ≠ k) ∧ (∀ x : Slot, x ≠ slot → u.image x = s.image x) ∧
        ∃ im', u.image slot = some im' ∧ im'.owner = some q.port ∧ im'.handle % 16 = slot ∧ 16 ≤ im'.handle ∧ im'.state = im.state ∧
          im'.bindPhys = im.bindPhys)) ∧
  ∀ (s : State) (k : Nat) (q : Claimed) (slot : Slot) (im : Image), s.cmdReady k 0x0013 = some q → s.byHandle (field q.packet 8 4) = some (slot, im) →
    (im.state ≠ .loaded → Answers (.unload k) s fun u => Steady s u q.packet ∧ Answered s u q 0x10 0x0006 []) ∧
    (im.state = .loaded → Answers (.unload k) s fun u => u.image slot = none ∧ (∀ x : Slot, x ≠ slot → u.image x = s.image x) ∧
      (∀ g, u.ownerOf g ≠ 16 + slot) ∧ (∀ c ∈ u.claimed, c.id ≠ q.id) ∧ ∀ m ∈ u.msgs, m.slot ≠ slot)

/-- R33, R34, R86, R197, R222, R403, R467-R469, R513-R515: START is accepted of a LOADED image, whose rails take its floor; with every need count met the invocation begins with
thread 0 of each core at its start record, within 64 windows, and is breached at once where a memory domain that it uses coasts (R46); STOP and INVOCATION_END return the image to LOADED with the outcome; a floor not met in 64
windows ends it REFUSED_LATENCY; a breach is noted once; a drain probe of a quiet image that finds no activity stops it. -/
def Obligations.InvocationsRun : Prop :=
  ∀ (s : State) (slot : Slot) (im : Image), s.image slot = some im →
    let others (u : State) : Prop := ∀ x : Slot, x ≠ slot → u.image x = s.image x
    let gone (u : State) (k : Nat) : Prop := ∀ c ∈ u.claimed, c.id ≠ k
    let cmd (k op : Nat) (q : Claimed) : Prop := s.cmdReady k op = some q ∧ s.byHandle (field q.packet 8 4) = some (slot, im)
    let late : Prop := 64 < im.windows ∨ (im.windows = 64 ∧ s.floorsMet im = false)
    let alone : Prop := ∀ x : Slot, x ≠ slot → s.image x = none
    let lost : List Nat := (im.regions.filter fun r => decide (r.tier ≤ 1) && bit r.attrs 0 && !bit r.attrs 2).flatMap (·.pages)
    (∀ k q, cmd k 0x0011 q → im.state = .loaded → (∀ c ∈ im.bindPhys, (s.core c).lock = 0) → (∀ a ∈ s.mgmt.pendingSub, a ∉ im.bind) →
      ∃ u, exec (.start k) s = .next u ∧ others u ∧ u.cores = s.cores ∧ u.pending = s.pending ∧
        u.image slot = some { im with
          state := .starting, invocations := im.invocations + 1, startCmd := some k, windows := 0, firstFault := none, breach := false } ∧
        (alone → ∀ r ∈ im.rails, (∀ x ∈ im.rails, x < 76) → im.floor < 2 ^ 11 → u.fld (aGOV_SET r) GOV_SET.FLOOR = im.floor) ∧
        (im.invocations = 0 → u.mem = s.mem) ∧ ∀ a, a / 2 ^ 21 ∉ lost → memByte u.mem a = memByte s.mem a) ∧
    (∀ k q, cmd k 0x0011 q → im.state ≠ .loaded → Answers (.start k) s fun u => Steady s u q.packet ∧ Answered s u q 0x10 0x0006 []) ∧
    (im.state = .starting → im.windows ≤ 64 → im.floor ≠ 0 → s.floorsMet im = true → (∃ n, n < 8 ∧ s.flag (aCLKD_STAT n) CLKD_STAT.COAST = true ∧
        im.onDomain s.ilv n = true) → ∃ u, exec (.invocationBegin slot) s = .next u ∧ others u ∧ ∃ im', u.image slot = some im' ∧ im'.state = .running ∧ im'.breach = true) ∧
    (im.state = .starting → im.windows ≤ 64 → (im.floor = 0 ∨ ∀ n < 8, s.flag (aCLKD_STAT n) CLKD_STAT.COAST = false) →
        (∀ r ∈ im.rails, r < 76 ∧ needCount (s.fld (aGOV_SET r) GOV_SET.FLOOR) ≤ s.fld (aGOV_STAT r) GOV_STAT.PACE) →
      Answers (.invocationBegin slot) s fun u => others u ∧ u.image slot = some { im with
          state := .running, windows := 0, ending := .none, firstFault := none, breach := false, probe := none } ∧
        ((∀ x ∈ im.bindPhys, x < 1152) → ∀ c : CoreId, c.val ∉ im.bindPhys → u.core c = s.core c) ∧
        (im.static = false → im.bindPhys.Nodup → (∀ c ∈ im.bindPhys, c < 1152) → im.bindPhys.length = im.k → ∀ (w : Nat) (c : CoreId) rec_, im.bindPhys[w]? = some c.val →
          startRec im.bytes w = some rec_ → (u.thr c 0).st = .ready ∧ (u.thr c 0).pc = loopAddr (BitVec.ofNat 64 (field rec_ 0x10 8)) ∧
            (u.thr c 0).a = (Vector.replicate 16 0).set 15 (BitVec.ofNat 48 (field rec_ 0x18 8)) ∧
            (u.thr c 0).d = ((Vector.replicate 32 0).set 0 (BitVec.ofNat 64 w)).set 1 (BitVec.ofNat 64 im.k) ∧ (u.core c).imem = (s.core c).imem ∧
            (∀ t : Thr, t ≠ 0 → (u.thr c t).st = .notStarted) ∧ (u.core c).tt = [] ∧ (u.core c).zt = [])) ∧
    (im.state = .starting → late → im.startCmd = none → im.stopCmds = [] → Answers (.startFloorTimeout slot) s fun u => others u ∧ u.cores = s.cores ∧
      ∃ im', u.image slot = some im' ∧ im'.state = .loaded ∧ im'.lastStatus = 0x13 ∧ im'.lastDetail = 0) ∧
    (¬late → exec (.startFloorTimeout slot) s = .next s) ∧
    (∀ k, im.state = .starting → late → im.startCmd = some k → Answers (.startFloorTimeout slot) s fun u => others u ∧ gone u k ∧
      ∃ im', u.image slot = some im' ∧ im'.state = .loaded ∧ im'.startCmd = none ∧ im'.lastStatus = 0x13 ∧ im'.lastDetail = 0) ∧
    (∀ k q, cmd k 0x0012 q → im.state = .loaded → Answers (.stop k) s fun u => Steady s u q.packet ∧ Answered s u q 0 0x0006 []) ∧
    (∀ k q, cmd k 0x0012 q → im.state = .starting → Answers (.stop k) s fun u => others u ∧ gone u q.id ∧ (∀ j, im.startCmd = some j → gone u j) ∧
      ∃ im', u.image slot = some im' ∧ im'.state = .loaded ∧ im'.lastStatus = 0 ∧ im'.lastDetail = 0x000A) ∧
    (∀ k q, cmd k 0x0012 q → im.state = .running → (∀ c ∈ im.bindPhys, c < 1152 ∧ (s.core c).lock = 0) → Answers (.stop k) s fun u => others u ∧ u.image slot = some { im with
        state := .stopping, stopCmds := im.stopCmds ++ [k], ending := if im.ending = Ending.none then .stopped else im.ending } ∧
      ∀ c : CoreId, c.val ∈ im.bindPhys → ∀ t, (u.thr c t).st = .notStarted) ∧
    (∀ k q, cmd k 0x0012 q → im.state = .stopping → Answers (.stop k) s fun u => others u ∧ u.cores = s.cores ∧
      u.image slot = some { im with stopCmds := im.stopCmds ++ [k] }) ∧
    ((im.state = .stopping ∨ im.state = .running ∧ im.ending ≠ .faulted) → s.ended slot im = true → ∃ u, exec (.invocationEnd slot) s = .next u ∧ others u ∧
      (∀ k, im.startCmd = some k ∨ k ∈ im.stopCmds → gone u k) ∧ (∀ c ∈ im.bindPhys, c < 1152 → (u.core c).tt = [] ∧ (u.core c).zt = []) ∧
      ((∀ r ∈ im.regions, r.attrs % 2 = 1) → u.mem = s.mem) ∧
      ∃ im', u.image slot = some im' ∧ im'.state = .loaded ∧ (im'.lastStatus, im'.lastDetail) = im.outcome ∧ im'.startCmd = none ∧ im'.stopCmds = []) ∧
    (∀ rail : Fin 76, s.flag (aGOV_STAT rail) GOV_STAT.BREACH = true → alone → rail.val ∈ im.rails → im.floor ≠ 0 → im.breach = false → im.state = .running →
      im.owner = none → Answers (.guaranteeBreach rail) s fun u => others u ∧ u.image slot = some { im with breach := true } ∧ u.cores = s.cores ∧
        ∃ e es, u.mgmt.errlog = e :: es ∧ e.code = 0x0303 ∧ e.index = if rail.val < 72 then rail.val else 0) ∧
    (im.state = .running → im.probe = none → s.imageQuiet slot im = true → Answers (.drainProbe slot) s fun u => others u ∧ u.regs = s.regs ∧ u.cores = s.cores ∧
      u.image slot = some { im with probe := some (im.bindPhys.map fun c => s.fld (aCORE_ACT c) CORE_ACT.ACT) }) ∧
    (s.imageQuiet slot im = false → exec (.drainProbe slot) s = .next s) ∧
    (∀ acts, im.probe = some acts → im.state = .running → (s.imageQuiet slot im = false ∨ acts ≠ im.bindPhys.map fun c => s.fld (aCORE_ACT c) CORE_ACT.ACT) →
      Answers (.drainMarkersReturned slot) s fun u => others u ∧ u.regs = s.regs ∧ u.cores = s.cores ∧ u.image slot = some { im with probe := none }) ∧
    (im.probe = some (im.bindPhys.map fun c => s.fld (aCORE_ACT c) CORE_ACT.ACT) → im.state = .running → s.imageQuiet slot im = true → im.ending = .none →
      (∀ c ∈ im.bindPhys, (s.core c).lock = 0 ∧ c < 1152) → Answers (.drainMarkersReturned slot) s fun u => others u ∧ u.image slot = some { im with probe := none, state := .stopping, ending := .stalled })

/-- R76, R78, R79, R80: at an output port, among the flits whose route crosses it, a message flit of an image with quota left goes first, then reserved data within its quota, then any other; the quota of its image and the
frame's grants count; a frame whose grants are all given grants no more, and its end makes every quota whole. -/
def Obligations.PortGrants : Prop :=
  ∀ (s : State) (port : RPort),
    let p := portKey port
    let left (u : State) (i : Slot) : Nat := u.quotaLeft p i.val
    let full : Nat := match port with
      | .router _ n => if n = 5 ∨ n = 6 then 256 else 64
      | .crossbar _ _ => 64
    let reserved (f : Flit) (cls : FlitClass) : Prop := f.cls = cls ∧ ∃ i, f.slot = some i ∧ 0 < left s i
    let class_ (f : Flit) (n : Nat) : Prop := (n = 0 ∧ reserved f .message) ∨ (n = 1 ∧ reserved f .reserved) ∨
      (n = 2 ∧ ¬reserved f .message ∧ ¬reserved f .reserved)
    (∀ waiting, (∀ f ∈ waiting, s.routed p f = false) → exec (.portGrant port waiting) s = .next s) ∧
    (∀ waiting, (∃ f ∈ waiting, s.routed p f = true) → (∀ f ∈ waiting, ∀ id, f.msg = some id → (s.netMsg id).bind (·.router) = none) → (s.arb p).grants < full → Answers (.portGrant port waiting) s fun u => u.images = s.images ∧ u.regs = s.regs ∧ u.cores = s.cores ∧
      (u.arb p).grants = (s.arb p).grants + 1 ∧ ∃ f ∈ waiting, s.routed p f = true ∧ ∃ n, class_ f n ∧ (∀ g ∈ waiting, s.routed p g = true → ∀ m, class_ g m → n ≤ m) ∧ (u.arb p).granted = some f.input ∧
        ∀ i, left u i = if f.slot = some i then left s i - 1 else left s i) ∧
    (∀ waiting, full ≤ (s.arb p).grants → exec (.portGrant port waiting) s = .next s) ∧
    (full = 64 → 64 ≤ (s.arb p).grants → Answers (.quotaFrameEnd port) s fun u => (u.arb p).grants = 0 ∧ (∀ i : Slot, left u i = u.quotaAt p i) ∧
      u.images = s.images ∧ u.regs = s.regs ∧ u.cores = s.cores ∧ (u.arb p).last = (s.arb p).last) ∧
    (full = 256 ∨ (s.arb p).grants < 64 → exec (.quotaFrameEnd port) s = .next s) ∧
    (full = 256 → 256 ≤ (s.arb p).grants → Answers (.attachmentFrameEnd port) s fun u => (u.arb p).grants = 0 ∧ (∀ i : Slot, left u i = u.quotaAt p i) ∧
      u.images = s.images ∧ u.regs = s.regs ∧ u.cores = s.cores ∧ (u.arb p).last = (s.arb p).last) ∧
    (full = 64 ∨ (s.arb p).grants < 256 → exec (.attachmentFrameEnd port) s = .next s)

/-- R14, R15, R100, R102, R333, R377, R440-R442, R490-R492, R503: a write of a register, of 8 bytes or 4, changes its writable fields and those alone, by whom the rules let write it: a core only its own
control block, a channel only a load port, a host only its BAR0 and its function's configuration; unpopulated space and misaligned writes change nothing, and the protection
table denies what it covers; the lock of that table, once set, stays. -/
def Sys2Proof.Claims.RegistersWritten : Prop :=
  ∀ (s : State) (v : Word),
    let open_ (a : Nat) : Prop := s.rptDenies a 0 true = false
    let bytes (a : Nat) (four : Bool) : List Byte := if four ∨ isOpp a ∨ a % 8 ≠ 0 then toBytes 4 v.toNat else toBytes 8 v.toNat
    let takes (a : Nat) (cls : Nat) : Prop := ctrlPopulated a = true ∧ a % 4 = 0 ∧ s.rptDenies a cls true = false
    let writes (src : RegSource) (a : Nat) (four : Bool) : Prop := exec (.registerWrite src a v four) s = .next (s.commit (s.ctrlWrite a (bytes a four)))
    (∀ a four, takes a 0 → isCway a = false → writes .mgmt a four) ∧
    (∀ a four, takes a 3 → writes .debug a four) ∧
    (∀ (p : Port) a four, bar0 p ≤ a → a < bar0 p + 0x1_0000 → a % 4 = 0 → (s.port p).d3 = false → writes (.host p) a four) ∧
    (∀ (c : CoreId) (t : Thr) a four, takes a 1 → coreBlk c ≤ a → a < coreBlk c + 0x1_0000 →
      s.ctrlDenied c t (a - coreBlk c) true (bytes a four).length v = false → writes (.core c t) a four) ∧
    (∀ (ch : DmaCh) a four, takes a 1 → (a = coreBlk (s.dmaStarter ch) + 0x7000 ∨ a = coreBlk (s.dmaStarter ch) + 0x7008) → writes (.dma ch) a four) ∧
    (∀ a four, ctrlPopulated a = true → a % 4 = 0 → s.rptDenies a 0 true = true →
      exec (.registerWrite .mgmt a v four) s = .next (s.commit (s.rptLog a 0 true))) ∧
    (∀ (c : CoreId) four, open_ (aCWAY c) → CWAY.WAYLIM.get v ≠ 0 → Answers (.registerWrite .mgmt (aCWAY c) v four) s fun u =>
      u.fld (aCWAY c) CWAY.WAYLIM = CWAY.WAYLIM.get v ∧ RegsBut s u [aCWAY c] ∧ u.cores = s.cores) ∧
    (∀ (p : Port) four, 30 ≤ v.toNat → v.toNat ≤ 40 → Answers (.registerWrite (.config p) 0 v four) s fun u =>
      u.port p = { s.port p with bar2Log2 := v.toNat } ∧ (∀ x, x ≠ p → u.port x = s.port x) ∧ u.regs = s.regs ∧ u.cores = s.cores) ∧
    (∀ (p : Port) n four, 8 ≤ n ∨ (n = 0 ∧ ¬(30 ≤ v.toNat ∧ v.toNat ≤ 40)) ∨ (n = 1 ∧ 2 < v.toNat) ∨ (n = 2 ∧ 5 < v.toNat) →
      Answers (.registerWrite (.config p) n v four) s fun u => u.ports = s.ports ∧ u.regs = s.regs ∧ u.cores = s.cores) ∧
    (∀ (p : Port) a four, (s.port p).d3 = true ∨ a % 4 ≠ 0 → exec (.registerWrite (.host p) a v four) s = .next s) ∧
    (∀ a four, ctrlPopulated a = false ∨ a % 4 ≠ 0 → exec (.registerWrite .mgmt a v four) s = .next s) ∧
    (open_ (aALERT_EN 0) → Answers (.registerWrite .mgmt (aALERT_EN 0) v false) s fun u => u.reg (aALERT_EN 0) = fieldsWrite ALERT_EN (s.reg (aALERT_EN 0)) v ∧
      RegsBut s u [aALERT_EN 0] ∧ u.cores = s.cores ∧ (u.pins.alert = true ↔ u.reg (aALERT_EN 0) &&& s.reg (aALERT_SRC 0) ≠ 0)) ∧
    (∀ i : Fin 64, s.flag (aRPT_LOCK 0) RPT_LOCK.LOCK = true → open_ (aRPT0 0 i) → exec (.registerWrite .mgmt (aRPT0 0 i) v false) s = .next s) ∧
    (∀ i : Fin 64, s.flag (aRPT_LOCK 0) RPT_LOCK.LOCK = false → open_ (aRPT0 0 i) → Answers (.registerWrite .mgmt (aRPT0 0 i) v false) s fun u =>
      u.reg (aRPT0 0 i) = fieldsWrite RPT0 (s.reg (aRPT0 0 i)) v ∧ RegsBut s u [aRPT0 0 i] ∧ u.cores = s.cores) ∧
    (∀ p : Port, (s.port p).d3 = false → Answers (.registerWrite (.host p) (aERR_CTRL p) v false) s fun u => u.reg (aERR_CTRL p) = fieldsWrite ERR_CTRL (s.reg (aERR_CTRL p)) v ∧
      RegsBut s u [aERR_CTRL p] ∧ u.cores = s.cores) ∧
    (∀ (p : Port) a four, ¬(bar0 p ≤ a ∧ a < bar0 p + 0x1_0000) → exec (.registerWrite (.host p) a v four) s = .next s) ∧
    (∀ (c : CoreId) (t : Thr) a four, a < coreBlk c ∨ coreBlk c + 0x1_0000 ≤ a ∨ s.ctrlDenied c t (a - coreBlk c) true (bytes a four).length v = true →
      (s.thr c t).entry = none → Answers (.registerWrite (.core c t) a v four) s fun u => CoresBut s u c ∧ u.regs = s.regs ∧
      u.thr c t = ((s.thr c t).fault 0x03 9 (s.ctrlVa c a) true false).wake) ∧
    (∀ (ch : DmaCh) a four, a < coreBlk (s.dmaStarter ch) ∨ coreBlk (s.dmaStarter ch) + 0x1_0000 ≤ a →
      Answers (.registerWrite (.dma ch) a v four) s fun u => Failed u ch 4 0 (s.dmaPc ch) a) ∧
    (s.flag (aRPT_LOCK 0) RPT_LOCK.LOCK = true → exec (.rptLockWrite v) s = .next s) ∧
    (s.flag (aRPT_LOCK 0) RPT_LOCK.LOCK = false → Answers (.rptLockWrite v) s fun u => u.fld (aRPT_LOCK 0) RPT_LOCK.LOCK = RPT_LOCK.LOCK.get v ∧
      RegsBut s u [aRPT_LOCK 0] ∧ u.cores = s.cores)

/-- Doorbells and ring registers; writes of control space: Claims.HostRings, Claims.RegistersWritten. -/
def Obligations.HostRingsAndRegisterWrites : Prop := Claims.HostRings ∧ Claims.RegistersWritten

/-- R387-R389, R438, R455, R471: MEM_COPY moves bytes between host memory and an image's memory at the addresses its tables give, MEM_FILL writes a pattern of 8 bytes there, and
both end at the first address that fails its checks; PERSIST saves, restores and deletes an object, and a module with a full or read-only
deep tier refuses to save. Every other byte of memory stands. -/
def Obligations.CommandsOnMemory : Prop :=
  ∀ (s : State) (k : Nat) (q : Claimed) (slot : Slot) (im : Image), s.byHandle (field q.packet 8 4) = some (slot, im) →
    let pk := q.packet
    let p := q.port
    let n := field pk 0x30 8
    let cmd (op : Nat) : Prop := s.cmdReady k op = some q
    let free (pas : List Nat) : Prop := ∀ a ∈ pas, s.rptDenies a 0 true = false
    let readable (pas : List Nat) : Prop := ∀ a ∈ pas, s.rptDenies a 0 false = false ∧ s.badByte a = false
    let maps (va : Nat) (write : Bool) (pas : List Nat) : Prop := pas.Nodup ∧ ∀ i (_ : i < pas.length), s.cmdXlat im (va + i) write = some pas[i]
    let holds (u : State) (pas : List Nat) (bs : List Byte) : Prop := u.pending = s.pending ∧ Steady s u pk ∧ bs.length = pas.length ∧
      (∀ i (_ : i < pas.length) (h : i < bs.length), memByte u.mem pas[i] = bs[i]) ∧ ∀ a, a ∉ pas → memByte u.mem a = memByte s.mem a
    (∀ bs pas, cmd 0x0020 → field pk 0x38 1 % 4 = 1 → maps (field pk 0x28 8) true pas → free pas → pas.length = n → bs.length = n →
      ∃ u, exec (.memCopy k (.data bs)) s = .next u ∧ holds u pas bs ∧ Answered s u q 0 0 []) ∧
    (∀ h pas, cmd 0x0020 → field pk 0x38 1 % 4 = 2 → maps (field pk 0x20 8) false pas → readable pas → pas.length = n → Answers (.memCopy k h) s fun u =>
      Steady s u pk ∧ Answered s u q 0 0 [] ∧ Wrote s u p (field pk 0x28 8) (pas.map (memByte s.mem)) false) ∧
    (∀ h src dst, cmd 0x0020 → field pk 0x38 1 % 4 = 0 → maps (field pk 0x20 8) false src → maps (field pk 0x28 8) true dst → readable src → free dst →
      src.length = n → dst.length = n → ∃ u, exec (.memCopy k h) s = .next u ∧ holds u dst (src.map (memByte s.mem)) ∧ Answered s u q 0 0 []) ∧
    (∀ bs pas, cmd 0x0020 → field pk 0x38 1 % 4 = 1 → maps (field pk 0x28 8) true pas → free pas → pas.length < n → bs.length = n →
      s.cmdXlat im (field pk 0x28 8 + pas.length) true = none → s.notPresent im (field pk 0x28 8 + pas.length) = false →
      ∃ u, exec (.memCopy k (.data bs)) s = .next u ∧ holds u pas (bs.take pas.length) ∧ Answered s u q 0x22 0x0007 []) ∧
    (∀ pas, cmd 0x0021 → maps (field pk 0x20 8) true pas → free pas → pas.length = field pk 0x28 8 → ∃ u, exec (.memFill k) s = .next u ∧
      holds u pas ((List.range pas.length).map fun i => BitVec.ofNat 8 (field pk 0x30 8 / 256 ^ (i % 8))) ∧ Answered s u q 0 0 []) ∧
    (∀ pas, cmd 0x0022 → field pk 0x24 1 = 0 → s.deep.readOnly = false → n ≤ s.deepFree → s.warned = false → (s.object (field pk 0x20 4)).any (·.writing.isSome) = false →
      maps (field pk 0x28 8) false pas → readable pas → pas.length = n → Answers (.persistSave k) s fun u => u.cores = s.cores ∧ u.images = s.images ∧ u.regs = s.regs ∧
        (∃ o, u.object (field pk 0x20 4) = some o ∧ o.writing = some (pas.map (memByte s.mem), []) ∧
          o.current = (s.object (field pk 0x20 4)).bind (·.current)) ∧ ∀ f : Fin 32, .save (field pk 0x20 4) ∈ u.flashOps f) ∧
    (cmd 0x0022 → field pk 0x24 1 = 0 → (s.deep.readOnly = true ∨ s.deepFree < n) → Answers (.persistSave k) s fun u => Steady s u pk ∧ u.deep = s.deep ∧
      Answered s u q 0x10 0 []) ∧
    (∀ pas bs, cmd 0x0022 → field pk 0x24 1 = 1 → s.deep.readOnly = false → (s.object (field pk 0x20 4)).bind (·.current) = some bs → n ≤ bs.length →
      maps (field pk 0x28 8) true pas → free pas → pas.length = n → ∃ u, exec (.persistRestore k) s = .next u ∧ holds u pas (bs.take n) ∧
        Answered s u q 0 0 []) ∧
    (cmd 0x0022 → field pk 0x24 1 = 2 → s.deep.readOnly = false → s.warned = false → (s.object (field pk 0x20 4)).any (·.writing.isSome) = false →
      ((s.object (field pk 0x20 4)).bind (·.current)).isSome = true → Answers (.persistDelete k) s fun u => Steady s u pk ∧ Answered s u q 0 0 [] ∧
        u.object (field pk 0x20 4) = none ∧ ∀ o, o.obj ≠ field pk 0x20 4 → (o ∈ u.deep.objects ↔ o ∈ s.deep.objects))

/-- R487, R488, R495, R496: ATTEST answers an SPDM request in the host's buffer; FW_UPDATE refuses a package that does not verify with its reason, and writes one that
does to the bank not booted and no other; where the bank cannot be programmed and read back the booted bank stands and the update is answered INTERNAL. -/
def Sys2Proof.Claims.CommandsOnTheModule : Prop :=
  ∀ (s : State) (k : Nat) (q : Claimed) (bs : List Byte),
    let p := q.port
    let r := s.spdmAnswer (Fin.ofNat 3 p.val) bs
    (s.cmdReady k 0x0030 = some q → bs.length = field q.packet 0x28 4 → Answers (.attest k (.data bs)) s fun u => Steady s u q.packet ∧
      Answered s u q 0 0 (toBytes 4 r.1.length) ∧ Wrote s u p (field q.packet 0x30 8) (r.1.take (field q.packet 0x38 4)) false ∧
      (u.mgmt.spdm[(Fin.ofNat 3 p.val)]).sent = r.1) ∧
    (s.cmdReady k 0x0030 = some q → bs.length ≠ field q.packet 0x28 4 → Answers (.attest k (.data bs)) s fun u => Steady s u q.packet ∧
      Answered s u q 0x22 0x0008 []) ∧
    (s.cmdReady k 0x0031 = some q → s.warned = false → bs.length = field q.packet 0x28 8 → bs.length ≤ fwMaxLen + 512 → s.fwReason bs ≠ 0 →
      ∀ ok, Answers (.fwUpdate k (.data bs) ok) s fun u => Steady s u q.packet ∧ Answered s u q 0x22 0x0002 [BitVec.ofNat 8 (s.fwReason bs)] ∧ u.mgmt.flash = s.mgmt.flash) ∧
    (∀ b, s.cmdReady k 0x0031 = some q → s.warned = false → bs.length = field q.packet 0x28 8 → bs.length ≤ fwMaxLen + 512 → s.fwReason bs = 0 →
      s.fld (aBOOT_STAT 0) BOOT_STAT.PHASE = 4 → s.mgmt.booted = some b → b < 2 → (Answers (.fwUpdate k (.data bs) false) s fun u => Steady s u q.packet ∧
        Answered s u q 0x3F 0 [8] ∧ u.flashBytes (bankBase b) bankSize = s.flashBytes (bankBase b) bankSize) ∧
      Answers (.fwUpdate k (.data bs) true) s fun u => Steady s u q.packet ∧
        Answered s u q 0 0 [0] ∧ u.flashBytes (bankBase (1 - b)) (512 + field bs 0x10 4) = bs.take (512 + field bs 0x10 4) ∧
        u.flashBytes (bankBase b) bankSize = s.flashBytes (bankBase b) bankSize)

/-- R389, R535-R544: DEBUG_HALT asks the named threads of a core to halt, and is over where none of them runs; DEBUG_RESUME lets halted ones go on; DEBUG_READ returns and
DEBUG_WRITE replaces a register of a halted thread, and of a thread not halted they answer STATE; DEBUG_SYNC_SET sets a counter or a phase. -/
def Sys2Proof.Claims.DebugCommands : Prop :=
  ∀ (s : State) (k : Nat) (q : Claimed) (slot : Slot) (im : Image) (c : CoreId), s.byHandle (field q.packet 8 4) = some (slot, im) →
    im.bindPhys[field q.packet 0x20 2]? = some c.val →
    let pk := q.packet
    let named (t : Thr) : Prop := bit (field pk 0x22 1) t.val = true
    let ends : Prop := (im.state = .running ∨ im.state = .stopping) ∧ ∃ t, named t
    let word (t : Thr) (n : Nat) : Prop := field pk 0x22 1 = t.val ∧ field pk 0x23 1 = 0 ∧ field pk 0x30 8 = 8 ∧ n < 0x40 ∧ field pk 0x28 8 = 0x1000 + n
    let desc : Word := BitVec.ofNat 64 (field pk 0x20 8)
    (s.cmdReady k 0x0040 = some q → ends → (∀ e ∈ s.claimed, e.begun = false ∧ (e.id = k → e = q)) → (∃ t, named t ∧ (s.thr c t).live = true) → Answers (.debugHalt k) s fun u =>
      CoresBut s u c ∧ u.regs = s.regs ∧ u.ports = s.ports ∧ ∀ t, u.thr c t = if named t then (s.thr c t).askHalt else s.thr c t) ∧
    (s.cmdReady k 0x0040 = some q → ends → (∀ e ∈ s.claimed, e.begun = false ∧ (e.id = k → e = q)) → (∀ t, named t → (s.thr c t).live = false) → Answers (.debugHalt k) s fun u =>
      (∀ e ∈ u.claimed, e.id ≠ q.id) ∧ u.images = s.images) ∧
    (s.cmdReady k 0x0040 = some q → im.state ≠ .running → im.state ≠ .stopping → Answers (.debugHalt k) s fun u => Steady s u pk ∧ Answered s u q 0x22 0x0006 []) ∧
    (s.cmdReady k 0x0041 = some q → ends → Answers (.debugResume k) s fun u => Answered s u q 0 0 [] ∧ u.images = s.images ∧ (Silent s pk → CoresBut s u c ∧
      ∀ t, u.thr c t = if named t then (s.thr c t).resume (field pk 0x23 1 % 2 == 1) else s.thr c t)) ∧
    (∀ t n, s.cmdReady k 0x0042 = some q → word t n → (s.thr c t).st = .halted → Answers (.debugRead k) s fun u => Steady s u pk ∧ Answered s u q 0 0 [] ∧
      Wrote s u q.port (field pk 0x38 8) (toBytes 8 ((s.thr c t).readReg n).toNat) false) ∧
    (∀ t n, s.cmdReady k 0x0042 = some q → word t n → (s.thr c t).st ≠ .halted → Answers (.debugRead k) s fun u => Steady s u pk ∧ Answered s u q 0x22 0x0006 []) ∧
    (∀ t n bs, s.cmdReady k 0x0043 = some q → word t n → (s.thr c t).st = .halted → bs.length = 8 → Answers (.debugWrite k (.data bs)) s fun u =>
      u.images = s.images ∧ Answered s u q 0 0 [] ∧ (Silent s pk → CoresBut s u c ∧
        ∀ x, u.thr c x = if x = t then (s.thr c t).writeReg n (BitVec.ofNat 64 (ofBytes bs)) else s.thr c x)) ∧
    (∀ t n h, s.cmdReady k 0x0043 = some q → word t n → (s.thr c t).st ≠ .halted → Answers (.debugWrite k h) s fun u => Steady s u pk ∧
      Answered s u q 0x22 0x0006 []) ∧
    (s.cmdReady k 0x0044 = some q → SC.MODE.get desc = 0 → SC.WAIT_N.get desc = 0 → SC.SIG_N.get desc = 0 → field pk 0x31 1 ≤ 15 →
      (∀ (k' : Cluster) (i : Fin 256), s.descObj slot im desc = some (.counter k' i) → (∀ w ∈ s.parked, w.obj ≠ .counter k' i) → field pk 0x30 1 = 0 →
        field pk 0x28 8 < 2 ^ 32 → Answers (.debugSyncSet k) s fun u => Answered s u q 0 0 [] ∧ u.images = s.images ∧
          (Silent s pk → u.counter k' i = field pk 0x28 8)) ∧
      (∀ b : Fin 64, s.descObj slot im desc = some (.barrier b) → (∀ w ∈ s.parked, w.obj ≠ .barrier b) → field pk 0x30 1 = 2 →
        Answers (.debugSyncSet k) s fun u => Answered s u q 0 0 [] ∧ u.images = s.images ∧
          (Silent s pk → u.fld (aBU1 b) BU1.PHASE = field pk 0x28 8 % BU1.PHASE.size)))

/-- ATTEST, FW_UPDATE and the DEBUG commands: Claims.CommandsOnTheModule, Claims.DebugCommands. -/
def Obligations.ModuleAndDebugCommands : Prop := Claims.CommandsOnTheModule ∧ Claims.DebugCommands

/-- R21-R32, R38, R525: at the end of a window PIN and every rail's PACE are what was counted; with the governor off every rail stands at 0.750 V; in Summer a rail below its
need count rises one code or counts as blocked where it is hot, limited or at its highest code, and one at or above it rises towards its ceiling
and falls where 98 percent of its pace would do; an FMC counts between its start and the close of its gate, and a stopped reference ends it. -/
def Sys2Proof.Claims.PaceGoverned : Prop :=
  (∀ (s : State) (counts : List Nat) (sensors : List SensorReading) (pin : Nat), s.power = .on → ∃ u, exec (.govWindowEnd counts sensors pin) s = .next u ∧ Quiet s u ∧
    u.cores = s.cores ∧ u.fld aSUPPLY_STAT SUPPLY_STAT.PIN = min pin 4095 ∧
    (∀ i : Slot, u.image i = (s.image i).map fun im => if im.state = .starting then { im with windows := im.windows + 1 } else im) ∧ ∀ r : Fin 76,
      let g := aGOV_STAT r
      let p := s.lowestCount counts r
      let need := needCount (s.fld (aGOV_SET r) GOV_SET.FLOOR)
      let want := max (need * 100) (s.fld (aGOV_SET r) GOV_SET.CEIL * 1024)
      let rail := s.fld g GOV_STAT.RAIL
      let free : Prop := rail < 60 ∧ u.flag g GOV_STAT.HOT = false ∧ u.powerLimited = false
      u.fld g GOV_STAT.PACE = p % 2 ^ 16 ∧
      (s.flag aGOV_CTRL GOV_CTRL.EN = false → u.fld g GOV_STAT.RAIL = 30) ∧
      (s.flag aGOV_CTRL GOV_CTRL.EN = true → s.pstate = 0 → s.warned = false → p < need → free → u.fld g GOV_STAT.RAIL = rail + 1 ∧ u.fld g GOV_STAT.BLOCKED = 0) ∧
      (s.flag aGOV_CTRL GOV_CTRL.EN = true → s.pstate = 0 → p < need → ¬free → u.fld g GOV_STAT.RAIL = rail ∧ u.fld g GOV_STAT.BLOCKED = 1) ∧
      (s.flag aGOV_CTRL GOV_CTRL.EN = true → s.pstate = 0 → s.warned = false → need ≤ p → free → u.fld g GOV_STAT.BLOCKED = 0 ∧
        u.fld g GOV_STAT.RAIL = if p * 100 < want then rail + 1
          else if want * 102 ≤ p * 10000 ∧ need * 102 ≤ p * 100 ∧ 0 < rail then rail - 1 else rail) ∧
      u.fld (aGOV_SET r) GOV_SET.FLOOR = s.fld (aGOV_SET r) GOV_SET.FLOOR) ∧
  ∀ (s : State) (m : Fin 2) (count : Nat),
    let r := aFMC_RESULT m
    let busy := s.flag r FMC_RESULT.BUSY
    (busy = false → Answers (.fmcStart m) s fun u => u.flag r FMC_RESULT.BUSY = true ∧ u.fld r FMC_RESULT.DONE = 0 ∧ RegsBut s u [r] ∧ u.cores = s.cores) ∧
    (busy = true → exec (.fmcStart m) s = .next s) ∧
    (busy = true → Answers (.fmcDone m count) s fun u => u.flag r FMC_RESULT.BUSY = false ∧ u.fld r FMC_RESULT.DONE = 1 ∧ u.fld r FMC_RESULT.TIMEOUT = 0 ∧
      u.fld r FMC_RESULT.COUNT = count % 2 ^ 32 ∧ RegsBut s u [r] ∧ u.cores = s.cores) ∧
    (busy = true → Answers (.fmcTimeout m) s fun u => u.flag r FMC_RESULT.BUSY = false ∧ u.fld r FMC_RESULT.DONE = 1 ∧ u.fld r FMC_RESULT.TIMEOUT = 1 ∧
      RegsBut s u [r] ∧ u.cores = s.cores) ∧
    (busy = false → exec (.fmcDone m count) s = .next s ∧ exec (.fmcTimeout m) s = .next s)

/-- R37-R41: a request of another power state puts the module in transition, and one of the present state or during a transition does nothing; when it is reached the state
holds, a cluster with no bound core is gated in Autumn and powered in Summer, and the command that asked for it is answered. -/
def Sys2Proof.Claims.PowerStatesChange : Prop :=
  ∀ (s : State),
    let asked (i : Instr) (target : Nat) : Prop :=
      (s.pstate ≠ 3 → s.pstate ≠ target → Answers i s fun u => u.pstate = 3 ∧ u.mgmt.powerTarget = some (target + 4 * s.pstate) ∧ RegsBut s u [aPWR_STATE] ∧
        u.cores = s.cores ∧ u.images = s.images) ∧
      (s.pstate = 3 ∨ s.pstate = target → exec i s = .next s)
    asked .pwrReqSummer 0 ∧ asked .pwrReqAutumn 1 ∧ asked .pwrReqWinter 2 ∧
    (s.mgmt.powerTarget = none → exec .powerStateReached s = .next s) ∧
    ∀ target old, s.mgmt.powerTarget = some (target + 4 * old) → target < 3 → (∀ k q, s.mgmt.powerCmd = some k → s.claim? k = some q → Silent s q.packet) →
      ∃ u, exec .powerStateReached s = .next u ∧ Quiet s u ∧ u.images = s.images ∧ u.pstate = target ∧ u.mgmt.powerTarget = none ∧
        (∀ k, s.mgmt.powerCmd = some k → ∀ q ∈ u.claimed, q.id ≠ k) ∧
        ∀ k : Cluster, target ≠ 2 → (∀ c : CoreId, clusterOfCore c = k.val → s.boundTo c = none) → u.fld (aGOV_SET k) GOV_SET.GATE = target

/-- The governor, the FMCs and power states: Claims.PaceGoverned, Claims.PowerStatesChange. -/
def Obligations.PaceAndPowerStates : Prop := Claims.PaceGoverned ∧ Claims.PowerStatesChange

/-- R42-R50: a write of OPP that names an unusable entry is ignored, one during a sequence is held, and any other starts a sequence: the supply first where the frequency rises, the
loop first where it falls; its second step ends it at the new operating point, and a held write is then acted on. A source switch ends once both clocks were seen low; a lost source
makes an enabled loop coast until it locks again, which also reopens flash channels that its domain's reset closed (R49); the crystal's loss is fatal; a watchdog resets a domain that does not finish. -/
def Obligations.ClocksChange : Prop :=
  (∀ (s : State) (n : Dom) (opp : Fin 8),
    let st := aCLKD_STAT n
    let ctl := aCLKD_CTRL n
    let q := s.clk[n]
    let f (u : State) (x : Field) : Nat := u.fld st x
    let freq (k : Nat) : Nat := s.fld (aCLKD_OPP n k) CLKD_OPP.FREQ
    let volt := s.fld (aCLKD_OPP n opp) CLKD_OPP.VOLT
    let only (u : State) : Prop := RegsBut s u [st, ctl] ∧ u.cores = s.cores ∧ ∀ x : Dom, x ≠ n → u.clk[x] = s.clk[x]
    (s.flag (aCLKD_OPP n opp) CLKD_OPP.VALID = false → exec (.clkdOppWrite n opp) s = .next s) ∧
    (s.flag (aCLKD_OPP n opp) CLKD_OPP.VALID = true → f s CLKD_STAT.SEQ_BUSY = 1 → Answers (.clkdOppWrite n opp) s fun u => only u ∧ u.fld ctl CLKD_CTRL.OPP = opp ∧
      u.clk[n] = { q with held := some opp } ∧ u.reg st = s.reg st) ∧
    (s.flag (aCLKD_OPP n opp) CLKD_OPP.VALID = true → f s CLKD_STAT.SEQ_BUSY = 0 → Answers (.clkdOppWrite n opp) s fun u => only u ∧ u.fld ctl CLKD_CTRL.OPP = opp ∧
      f u CLKD_STAT.SEQ_BUSY = 1 ∧ u.clk[n].target = some opp.val ∧ u.clk[n].second = false ∧ u.clk[n].supply = q.supply ∧
      (freq (f s CLKD_STAT.CUR_OPP) < freq opp → u.clk[n].rising = true ∧ f u CLKD_STAT.LOCK = f s CLKD_STAT.LOCK) ∧
      (freq opp ≤ freq (f s CLKD_STAT.CUR_OPP) → u.clk[n].rising = false ∧ f u CLKD_STAT.LOCK = 0)) ∧
    (q.target = none → exec (.clkdSeqStepDone n) s = .next s) ∧
    (q.target = some opp.val → q.rising = true → q.second = false → Answers (.clkdSeqStepDone n) s fun u => only u ∧
      u.clk[n] = { q with supply := volt, second := true } ∧ f u CLKD_STAT.LOCK = 0) ∧
    (q.target = some opp.val → q.rising = false → q.second = false → f s CLKD_STAT.COAST = 0 → Answers (.clkdSeqStepDone n) s fun u => only u ∧
      u.clk[n] = { q with second := true } ∧ f u CLKD_STAT.CUR_OPP = opp ∧ f u CLKD_STAT.LOCK = s.fld ctl CLKD_CTRL.LOOP_EN) ∧
    (q.target = some opp.val → q.rising = true → q.second = true → q.held = none → f s CLKD_STAT.COAST = 0 → Answers (.clkdSeqStepDone n) s fun u => only u ∧
      u.clk[n] = { q with target := none, second := false } ∧ f u CLKD_STAT.SEQ_BUSY = 0 ∧ f u CLKD_STAT.CUR_OPP = opp ∧
      f u CLKD_STAT.LOCK = s.fld ctl CLKD_CTRL.LOOP_EN) ∧
    (q.target = some opp.val → q.rising = false → q.second = true → q.held = none → Answers (.clkdSeqStepDone n) s fun u => only u ∧
      u.clk[n] = { q with target := none, second := false, supply := volt } ∧ f u CLKD_STAT.SEQ_BUSY = 0 ∧ f u CLKD_STAT.LOCK = f s CLKD_STAT.LOCK) ∧
    (∀ o : Fin 8, q.target = some opp.val → q.second = true → q.held = some o.val → f s CLKD_STAT.COAST = 0 → Answers (.clkdSeqStepDone n) s fun u => only u ∧
      u.clk[n].target = some o.val ∧ u.clk[n].second = false ∧ u.clk[n].held = none ∧ f u CLKD_STAT.SEQ_BUSY = 1) ∧
    (s.crystalLost = true → exec (.clkdSwitchDone n) s = .next s) ∧
    (∀ src, Answers (.clkdSrcWrite n src) s fun u => only u ∧ u.clk = s.clk ∧ u.fld ctl CLKD_CTRL.SRC = b2n src ∧
      f u CLKD_STAT.SWITCHING = (if s.fld ctl CLKD_CTRL.SRC = b2n src then f s CLKD_STAT.SWITCHING else 1) ∧ f u CLKD_STAT.SEL = f s CLKD_STAT.SEL) ∧
    (f s CLKD_STAT.SWITCHING = 1 → s.fld ctl CLKD_CTRL.LOOP_EN = 1 → s.crystalLost = false → Answers (.clkdSwitchDone n) s fun u => only u ∧ u.clk = s.clk ∧
      f u CLKD_STAT.SEL = s.fld ctl CLKD_CTRL.SRC ∧ f u CLKD_STAT.SWITCHING = 0) ∧
    (s.fld ctl CLKD_CTRL.LOOP_EN = 1 → n ≠ 8 → n ≠ 9 → Answers (.clkdLoopLock n) s fun u => only u ∧ u.clk = s.clk ∧ f u CLKD_STAT.LOCK = 1 ∧ f u CLKD_STAT.COAST = 0) ∧
    (s.fld ctl CLKD_CTRL.LOOP_EN = 1 → n = 8 ∨ n = 9 → Answers (.clkdLoopLock n) s fun u => u.clk = s.clk ∧ u.cores = s.cores ∧ f u CLKD_STAT.LOCK = 1 ∧ f u CLKD_STAT.COAST = 0 ∧
      ∀ g ∈ flashOf n, g ∈ s.deep.closed → g ∉ u.deep.closed ∧ u.fld (aFC_STAT g) FC_STAT.READY = 1) ∧
    (s.fld ctl CLKD_CTRL.LOOP_EN = 0 → exec (.clkdLoopLock n) s = .next s ∧ exec (.clockSourceLost n) s = .next s) ∧
    (s.fld ctl CLKD_CTRL.LOOP_EN = 1 → n ≠ 10 → n ≠ 11 → Answers (.clockSourceLost n) s fun u => u.cores = s.cores ∧ f u CLKD_STAT.COAST = 1 ∧ f u CLKD_STAT.COAST_SEEN = 1 ∧
      f u CLKD_STAT.LOCK = 0 ∧ u.ports.map (·.up) = s.ports.map (·.up)) ∧
    (f s CLKD_STAT.SWITCHING = 0 → f s CLKD_STAT.SEQ_BUSY = 0 → exec (.domainWatchdogExpiry n) s = .next s) ∧
    (f s CLKD_STAT.SWITCHING = 1 ∨ f s CLKD_STAT.SEQ_BUSY = 1 → ∃ u, exec (.domainWatchdogExpiry n) s = .next u ∧ u.pending = s.pending ∧ u.clk[n] = ClkSeq.reset ∧
      u.reg ctl = resetAt ctl ∧ f u CLKD_STAT.WDOG_RESET = 1 ∧ f u CLKD_STAT.SEQ_BUSY = 0 ∧ f u CLKD_STAT.COAST_SEEN = f s CLKD_STAT.COAST_SEEN)) ∧
  ∀ s : State,
    (s.power ≠ .on → exec .crystalStopped s = .next s) ∧
    (s.power = .on → Tidy s → ∃ u, exec .crystalStopped s = .next u ∧ u.pending = s.pending ∧ u.flag (aFATAL_STAT 0) FATAL_STAT.FATAL = true ∧
      ∀ n ∈ ([0, 1, 2, 3, 4, 5, 6, 7, 8, 9, 12, 13] : List Dom), u.fld (aCLKD_STAT n) CLKD_STAT.COAST = 1 ∧ u.fld (aCLKD_STAT n) CLKD_STAT.LOCK = 0)

/-- R51-R57, R489, R500, R503, R527, R528, R552-R556: a supply warning sets its status, event and alert and takes rails without a floor to 0.600 V, and its end lifts them; an
input out of range ends in the last gasp, with every block reset; main power follows PWR_EN once the input has qualified, and after a trip once
the sensors have cooled; a trip resets every block and asserts THERMTRIP_N. -/
def Obligations.SupplyAndMainPower : Prop :=
  ∀ (s : State) (vin : Nat) (samples : List (BitVec 16)),
    let supply (u : State) (x : Field) : Nat := u.fld aSUPPLY_STAT x
    let same (u : State) : Prop := u.cores = s.cores ∧ u.images = s.images
    (s.power = .on → s.warned = false → vin ≤ 5730 → Answers (.supplyWarning vin) s fun u => same u ∧ supply u SUPPLY_STAT.VIN = vin ∧ supply u SUPPLY_STAT.WARN = 1 ∧
      supply u SUPPLY_STAT.ELASTIC_FORCED = 1 ∧ u.fld aSUPPLY_EVT SUPPLY_EVT.WARN_SEEN = 1 ∧ u.fld (aALERT_SRC 0) ALERT_SRC.SUPPLY = 1 ∧
      ∀ r : Fin 76, u.fld (aGOV_STAT r) GOV_STAT.RAIL = if s.flag aGOV_CTRL GOV_CTRL.EN ∧ s.pstate ≠ 2 ∧ s.fld (aGOV_SET r) GOV_SET.FLOOR = 0 then 0
        else s.fld (aGOV_STAT r) GOV_STAT.RAIL) ∧
    (s.power ≠ .on ∨ s.warned = true → exec (.supplyWarning vin) s = .next s) ∧
    (s.power = .on → s.warned = true → 5820 ≤ vin → vin < 8192 → Answers (.supplyWarningClear vin) s fun u => same u ∧ supply u SUPPLY_STAT.VIN = vin ∧
      supply u SUPPLY_STAT.WARN = 0 ∧ supply u SUPPLY_STAT.ELASTIC_FORCED = 0 ∧ u.fld (aALERT_SRC 0) ALERT_SRC.SUPPLY = 0 ∧
      (u.pins.alert = true → u.reg (aALERT_SRC 0) &&& u.reg (aALERT_EN 0) ≠ 0)) ∧
    (s.power = .on → ∃ u, exec (.undervoltageReset samples) s = .next u ∧ Blank s u ∧ u.power = .lastGasp ∧ u.pins.pwrGood = false ∧
      u.fld aSUPPLY_EVT SUPPLY_EVT.UV_RESET = 1) ∧
    (s.power = .on → ∃ u, exec (.overvoltageReset samples) s = .next u ∧ Blank s u ∧ u.power = .lastGasp ∧ u.pins.pwrGood = false ∧
      u.fld aSUPPLY_EVT SUPPLY_EVT.OV_RESET = 1) ∧
    (s.power = .qualified ∨ s.power = .cooling → exec (.undervoltageReset samples) s = .next { s with power := .aux } ∧
      exec (.overvoltageReset samples) s = .next { s with power := .aux }) ∧
    (s.power = .off → exec .auxPowerStart s = .next { s with power := .aux }) ∧
    (∃ u, exec .auxPowerLoss s = .next u ∧ Blank s u ∧ u.power = .off ∧ u.pins.pwrGood = false ∧ u.pins.thermtrip = false) ∧
    (s.power = .aux ∨ s.power = .lastGasp →
      (s.pins.pwrEn = false → exec .restartQualified s = .next { s with power := .qualified }) ∧
      (s.pins.pwrEn = true → s.pins.thermtrip = true → exec .restartQualified s = .next { s with power := .cooling }) ∧
      (s.pins.pwrEn = true → s.pins.thermtrip = false →
        exec .restartQualified s = .next { s with power := .on, pins := { s.pins with pwrGood := true } })) ∧
    (s.power ≠ .aux → s.power ≠ .lastGasp → exec .restartQualified s = .next s) ∧
    (s.power = .qualified → s.pins.thermtrip = false →
      exec .pwrEnRise s = .next { s with power := .on, pins := { s.pins with pwrEn := true, pwrGood := true } }) ∧
    (s.power ≠ .qualified → exec .pwrEnRise s = .next { s with pins := { s.pins with pwrEn := true } }) ∧
    (s.power = .on → ∃ u, exec .pwrEnFall s = .next u ∧ Blank s u ∧ u.power = .qualified ∧ u.pins.pwrEn = false ∧ u.pins.pwrGood = false) ∧
    (s.power = .tripped ∨ s.power = .cooling →
      exec .pwrEnFall s = .next { s with power := .qualified, pins := { s.pins with pwrEn := false, pwrGood := false } }) ∧
    (s.power = .cooling → exec .tripCooldown s = .next { s with power := .on, pins := { s.pins with pwrGood := true } }) ∧
    (s.power ≠ .cooling → exec .tripCooldown s = .next s) ∧
    (∀ (d : Die) (n : Fin 80) (temp : BitVec 16), s.power = .on → 920 ≤ temp.toInt → ∃ u, exec (.thermalTrip d n temp) s = .next u ∧ Blank s u ∧ u.power = .tripped ∧
      u.pins.thermtrip = true ∧ u.pins.pwrGood = false) ∧
    (∀ (d : Die) (n : Fin 80) (temp : BitVec 16), s.power ≠ .on ∨ temp.toInt < 920 → exec (.thermalTrip d n temp) s = .next s)

/-- R478-R486, R490: boot takes the first bank in the order of its record that verifies and is read without failure, copies it to die memory, locks the protection table, protects that bank and arms the
watchdog; with none it is in recovery with FATAL_N asserted. At READY Ahnal has its area, the staging area reads 0, the governor runs in Summer;
CONFIRM stops the watchdog, whose expiry resets every block; the standby comes up where the booted bank verifies for it. -/
def Obligations.BootRuns : Prop :=
  ∀ (s : State),
    let phase (u : State) : Nat := u.fld (aBOOT_STAT 0) BOOT_STAT.PHASE
    let r := s.bootRecOr
    let order : List Nat := if r.trial ≠ 0xFF ∧ 0 < r.tries then [r.trial, r.active] else [r.active, 1 - r.active]
    let reason (b : Nat) (ok : Bool) : Nat := s.fwReason (s.bankImage b) ok
    (∀ bad, s.power ≠ .on ∨ phase s ≠ 0 ∨ s.mgmt.booted.isSome = true ∨ s.warned = true → exec (.pwrGoodBoot bad) s = .next s) ∧
    (∀ b bad, s.power = .on → phase s = 0 → s.mgmt.booted = none → s.warned = false → (∀ x ∈ order, x < 2) → (order.find? fun x => decide (reason x (!bad.contains x) = 0)) = some b →
      ∃ u, exec (.pwrGoodBoot bad) s = .next u ∧ u.pending = s.pending ∧ u.cores = s.cores ∧ phase u = 3 ∧ u.mgmt.booted = some b ∧ u.fld (aBOOT_STAT 0) BOOT_STAT.BANK = b ∧
        u.flag (aRPT_LOCK 0) RPT_LOCK.LOCK = true ∧ u.flag (aBF_PROT 0) BF_PROT.LOCK = true ∧
        u.flag (aBF_PROT 0) (if b = 0 then BF_PROT.MARCH_WP else BF_PROT.SEPT_WP) = true ∧ u.mgmt.wdogArmed = true ∧
        (∀ i, i < bankSize → memByte u.mem (stagingBase + i) = s.flashByte (bankBase b + i)) ∧
        ∀ a, ¬(stagingBase ≤ a ∧ a < stagingBase + bankSize) → memByte u.mem a = memByte s.mem a) ∧
    (∀ bad, s.power = .on → phase s = 0 → s.mgmt.booted = none → s.warned = false → (∀ x ∈ order, x < 2) → (∀ x ∈ order, reason x (!bad.contains x) ≠ 0) →
      Answers (.pwrGoodBoot bad) s fun u => phase u = 0xE ∧ u.pins.fatal = true ∧
      u.cores = s.cores) ∧
    (s.power = .on → phase s = 3 → s.mgmt.wearTimer = false → s.warned = false → ∃ u, exec .ahnalReady s = .next u ∧ u.pending = s.pending ∧ u.cores = s.cores ∧
      phase u = 4 ∧ u.flag aGOV_CTRL GOV_CTRL.EN = true ∧ u.pstate = 0 ∧ (∀ p : Port, u.fld (aID_FW p) ID_FW.READY = 1) ∧
      (∀ i, i < stagingSize → memByte u.mem (stagingBase + i) = 0) ∧ ∀ i (h : i < s.mgmt.fwImage.length), ahnalBase + i < stagingBase → memByte u.mem (ahnalBase + i) = s.mgmt.fwImage[i]) ∧
    (phase s = 4 → exec .bootConfirm s = .next { s with mgmt := { s.mgmt with wdogArmed := false } }) ∧
    (phase s ≠ 4 → exec .bootConfirm s = .next s) ∧
    (s.power = .on → s.mgmt.wdogArmed = true → ∃ u, exec .bootWatchdogExpiry s = .next u ∧ Blank s u ∧ u.power = .on ∧ u.pins.pwrGood = s.pins.pwrGood ∧
      u.fld (aBOOT_STAT 0) BOOT_STAT.WDOG = 1 ∧ u.reg aSUPPLY_STAT = s.reg aSUPPLY_STAT) ∧
    (s.power ≠ .on ∨ s.mgmt.wdogArmed = false → exec .bootWatchdogExpiry s = .next s) ∧
    ∀ b ok,
      let m := 1 - s.activeMc
      s.mgmt.booted = some b → s.ahnal = true → s.flag (aMGMT_ROLE 0) MGMT_ROLE.STANDBY_UP = false → s.fld (aBOOT_STAT m) BOOT_STAT.PHASE ≠ 0xF →
      (reason b ok = 0 → ∃ u, exec (.standbyBoot ok) s = .next u ∧ u.pending = s.pending ∧ u.cores = s.cores ∧ u.images = s.images ∧
        u.flag (aMGMT_ROLE 0) MGMT_ROLE.STANDBY_UP = true ∧ u.fld (aBOOT_STAT m) BOOT_STAT.PHASE = 3 ∧ u.activeMc = s.activeMc) ∧
      (reason b ok ≠ 0 → Answers (.standbyBoot ok) s fun u => u.fld (aBOOT_STAT m) BOOT_STAT.PHASE = 0xF ∧ u.fld (aBOOT_STAT m) BOOT_STAT.REASON = reason b ok ∧
        RegsBut s u [aBOOT_STAT m] ∧ u.cores = s.cores)

/-- R476, R481, R489, R493, R494: the key engine signs a message it can read; RB_CTR advances by fuses and never falls, and an advance that fails stops short of its target; key
slots revoked stay so; a boot-flash operation is denied where its range is protected, held in a supply warning, and else reads, clears bits or
erases its range and no other; write protection locks. -/
def Obligations.FusesAndBootFlash : Prop :=
  ∀ (s : State) (v : Word),
    let rb := aRB_CTR 0
    let sg := aSIGN_CTL 0
    let bf := aBF_CMD 0
    let target := RB_CTR.TARGET.get v
    let steady (u : State) : Prop := u.cores = s.cores ∧ u.images = s.images
    (1 ≤ SIGN_CTL.LEN.get v → SIGN_CTL.LEN.get v ≤ 4096 → SIGN_CTL.GO.get v = 1 → Answers (.signGo v) s fun u => steady u ∧ u.fld sg SIGN_CTL.LEN = SIGN_CTL.LEN.get v ∧
      u.flag sg SIGN_CTL.BUSY = true ∧ RegsBut s u [sg]) ∧
    (let a := (s.reg (aSIGN_MSG 0)).toNat % 2 ^ 48
     let n := s.fld sg SIGN_CTL.LEN
     (s.flag sg SIGN_CTL.BUSY = true → n ≠ 0 → (∀ i, i < n → s.badByte (a + i) = false ∧ s.rptDenies (a + i) 0 false = false) → Answers .signDone s fun u => steady u ∧
        u.mgmt.signOut = Config.identitySign ((addrs a n).map (memByte s.mem)) ∧ u.flag sg SIGN_CTL.BUSY = false ∧ RegsBut s u [sg]) ∧
     (s.flag sg SIGN_CTL.BUSY = true → (n = 0 ∨ ∃ i, i < n ∧ s.badByte (a + i) = true) → Answers .signDone s fun u => steady u ∧ u.mgmt = s.mgmt ∧ u.fld sg SIGN_CTL.ERR = 1 ∧
        u.flag sg SIGN_CTL.BUSY = false)) ∧
    (target ≤ 128 → RB_CTR.GO.get v = 1 → s.flag rb RB_CTR.BUSY = false → s.warned = false → s.fld rb RB_CTR.VALUE < target → Answers (.rbCtrGo v) s fun u => steady u ∧
      u.flag rb RB_CTR.BUSY = true ∧ u.mgmt.fuseTarget = some target ∧ u.fld rb RB_CTR.VALUE = s.fld rb RB_CTR.VALUE ∧ RegsBut s u [rb]) ∧
    (target ≤ 128 → s.flag rb RB_CTR.BUSY = false → target ≤ s.fld rb RB_CTR.VALUE → Answers (.rbCtrGo v) s fun u => steady u ∧ u.flag rb RB_CTR.BUSY = false ∧
      u.mgmt = s.mgmt) ∧
    (∀ mask : BitVec 3, exec (.keyRevoke mask) s = .next { s with mgmt := { s.mgmt with fuseRevoke := s.mgmt.fuseRevoke ||| mask.toNat } }) ∧
    (∀ n, s.mgmt.fuseTarget = some n → s.fld rb RB_CTR.VALUE < n → n ≤ 128 →
      (Answers (.fuseBlowDone true) s fun u => steady u ∧ u.fld rb RB_CTR.VALUE = n ∧ u.flag rb RB_CTR.BUSY = false ∧ u.mgmt.fuseTarget = none ∧
        u.fld (aKEY_STAT 0) KEY_STAT.REVOKED = (s.fld (aKEY_STAT 0) KEY_STAT.REVOKED ||| s.mgmt.fuseRevoke) % 8) ∧
      Answers (.fuseBlowDone false) s fun u => steady u ∧ s.fld rb RB_CTR.VALUE ≤ u.fld rb RB_CTR.VALUE ∧ u.fld rb RB_CTR.VALUE < n ∧ u.fld rb RB_CTR.FAIL = 1 ∧
        u.flag rb RB_CTR.BUSY = false ∧ u.reg (aKEY_STAT 0) = s.reg (aKEY_STAT 0)) ∧
    (∀ addr : BitVec 26,
      let starts (i : Instr) (op : Nat) : Prop :=
        (s.flag bf BF_CMD.BUSY = true → exec i s = .next s) ∧
        (s.flag bf BF_CMD.BUSY = false → s.bfProtected op addr.toNat = true → Answers i s fun u => steady u ∧ u.fld bf BF_CMD.DENIED = 1 ∧
          u.flag bf BF_CMD.BUSY = false ∧ u.mgmt = s.mgmt ∧ RegsBut s u [bf]) ∧
        (s.flag bf BF_CMD.BUSY = false → s.bfProtected op addr.toNat = false → Answers i s fun u => steady u ∧ u.flag bf BF_CMD.BUSY = true ∧
          u.fld bf BF_CMD.OP = op ∧ u.fld bf BF_CMD.ADDR = addr.toNat ∧ u.fld bf BF_CMD.PAUSED = b2n (decide (op ≠ 1) && s.warned) ∧ RegsBut s u [bf] ∧
          u.mgmt = { s.mgmt with bfPending := some (op, addr.toNat) })
      starts (.bfRead addr) 1 ∧ starts (.bfProgram addr) 2 ∧ starts (.bfErase4k addr) 3 ∧ starts (.bfErase64k addr) 4) ∧
    (∀ op a, s.mgmt.bfPending = some (op, a) →
      let page := a / 256 * 256
      let free : Prop := s.flag bf BF_CMD.PAUSED = false
      let ended (u : State) : Prop := steady u ∧ u.flag bf BF_CMD.BUSY = false ∧ u.mgmt.bfPending = none
      (s.flag bf BF_CMD.PAUSED = true → exec (.bfOpDone true) s = .next s) ∧
      (op = 1 → free → Answers (.bfOpDone true) s fun u => ended u ∧ u.mgmt.bfBuf = s.flashBytes page 256 ∧ u.mgmt.flash = s.mgmt.flash) ∧
      (op = 2 → free → s.mgmt.bfBuf.length = 256 → Answers (.bfOpDone true) s fun u => ended u ∧
        (∀ i, i < 256 → u.flashByte (page + i) = s.flashByte (page + i) &&& s.mgmt.bfBuf.getD i 0) ∧
        ∀ x, ¬(page ≤ x ∧ x < page + 256) → u.flashByte x = s.flashByte x) ∧
      (∀ n, (op = 3 ∧ n = 4096) ∨ (op = 4 ∧ n = 65536) → free → Answers (.bfOpDone true) s fun u => ended u ∧
        ∀ x, u.flashByte x = if a / n * n ≤ x ∧ x < a / n * n + n then 0xFF else s.flashByte x) ∧
      (free → Answers (.bfOpDone false) s fun u => ended u ∧ u.fld bf BF_CMD.ERR = 1)) ∧
    (s.flag (aBF_PROT 0) BF_PROT.LOCK = true → exec (.bfProtWrite v) s = .next s) ∧
    (s.flag (aBF_PROT 0) BF_PROT.LOCK = false → Answers (.bfProtWrite v) s fun u => steady u ∧ RegsBut s u [aBF_PROT 0] ∧
      (∀ f ∈ [BF_PROT.MARCH_WP, BF_PROT.SEPT_WP, BF_PROT.LOCK], u.fld (aBF_PROT 0) f = f.get v) ∧
      u.fld (aBF_PROT 0) BF_PROT.CERT_WP = s.fld (aBF_PROT 0) BF_PROT.CERT_WP)

/-- R494-R498: on an endpoint that is up GET_VERSION opens a connection of version 1.3; the later requests are unexpected before the step they need, and then answer with the
capabilities, the algorithms, the digest of the certificate chain and parts of it, and with signed or unsigned measurements and a signed challenge;
any other request code is unsupported. The message layouts are log 20's. -/
def Sys2Proof.Claims.AttestationAnswers : Prop :=
  ∀ (s : State) (e : Endpoint) (req : List Byte),
    let c := s.mgmt.spdm[e]
    let is (code n : Nat) : Prop := s.endpointUp e = true ∧ field req 1 1 = code ∧ n ≤ req.length ∧ field req 0 1 = 0x13
    let ready : Prop := c.version = true ∧ c.caps = true ∧ c.algs = true
    let answers (i : Instr) (P : Spdm → Prop) : Prop := Answers i s fun u => u.regs = s.regs ∧ u.cores = s.cores ∧ P u.mgmt.spdm[e] ∧
      ∀ x : Endpoint, x ≠ e → u.mgmt.spdm[x] = s.mgmt.spdm[x]
    let unexpected (i : Instr) : Prop := answers i fun d => d = { c with sent := [0x13, 0x7F, 0x04, 0] }
    let msg (code p1 p2 : Nat) (body : List Byte) : List Byte := [0x13, BitVec.ofNat 8 code, BitVec.ofNat 8 p1, BitVec.ofNat 8 p2] ++ body
    let digest := Config.sha512 s.certChain
    (s.endpointUp e = true → field req 1 1 = 0x84 → 4 ≤ req.length → field req 0 1 = 0x10 → answers (.getVersion e req) fun d =>
      d = { Spdm.reset with version := true, vca := req ++ d.sent, sent := [0x10, 0x04, 0, 0, 0, 1, 0x00, 0x13] }) ∧
    (c.version = false →
      (is 0xE1 20 → unexpected (.getCapabilities e req)) ∧ (is 0xE3 32 → unexpected (.negotiateAlgorithms e req)) ∧ (is 0x81 4 → unexpected (.getDigests e req)) ∧
      (is 0x82 8 → unexpected (.getCertificate e req)) ∧ (is 0x83 44 → unexpected (.challenge e req)) ∧ (is 0xE0 45 → unexpected (.getMeasurements e req))) ∧
    (c.version = true → is 0xE1 20 → answers (.getCapabilities e req) fun d => d.caps = true ∧ d.version = true ∧ d.vca = c.vca ++ req ++ d.sent ∧
      d.sent = msg 0x61 0 0 [0, 14, 0, 0, 0x16, 0, 0, 0, 0, 0x10, 0, 0, 0, 0x10, 0, 0]) ∧
    (c.version = true → c.caps = true → is 0xE3 32 → bit (field req 8 4) 10 = true → bit (field req 12 4) 2 = true → answers (.negotiateAlgorithms e req) fun d =>
      d.algs = true ∧ d.vca = c.vca ++ req ++ d.sent ∧ field d.sent 12 4 = 0x400 ∧ field d.sent 16 4 = 0x4 ∧ field d.sent 0 4 = 0x6313) ∧
    (ready → is 0x81 4 → answers (.getDigests e req) fun d => d.sent = msg 0x01 1 1 digest ∧ d.certs = c.certs ++ req ++ d.sent) ∧
    (∀ o n, ready → is 0x82 8 → field req 2 1 = 0 → field req 4 2 = o → o < s.certChain.length → n = min (field req 6 2) (min 4088 (s.certChain.length - o)) →
      answers (.getCertificate e req) fun d => d.sent = msg 0x02 0 0 (toBytes 2 n ++ toBytes 2 (s.certChain.length - o - n) ++ (s.certChain.drop o).take n) ∧
        d.certs = c.certs ++ req ++ d.sent) ∧
    (ready → is 0x83 44 → field req 2 1 = 0 → field req 3 1 = 0 → answers (.challenge e req) fun d => d.certs = [] ∧ ∃ nonce : List Byte, nonce.length = 32 ∧
      let resp := msg 0x03 0 1 (digest ++ nonce ++ [0, 0] ++ (req.drop 36).take 8)
      d.sent = resp ++ Config.identitySign (spdmSigned ctxChallenge (c.vca ++ c.certs ++ req ++ resp))) ∧
    (ready → is 0xE0 12 → bit (field req 2 1) 0 = false → field req 3 1 = 0xFF → answers (.getMeasurements e req) fun d => d.meas = c.meas ++ req ++ d.sent ∧
      ∃ nonce : List Byte, nonce.length = 32 ∧ let blocks := s.measurements.flatMap measBlock
        d.sent = msg 0x60 0 0 (toBytes 1 s.measurements.length ++ toBytes 3 blocks.length ++ blocks ++ nonce ++ [0, 0] ++ (req.drop 4).take 8)) ∧
    (ready → is 0xE0 45 → bit (field req 2 1) 0 = true → field req 3 1 = 0 → field req 36 1 = 0 → answers (.getMeasurements e req) fun d => d.meas = [] ∧
      ∃ resp : List Byte, d.sent = resp ++ Config.identitySign (spdmSigned ctxMeasurements (c.vca ++ (c.meas ++ req ++ resp)))) ∧
    (s.endpointUp e = true → [0x84, 0xE1, 0xE3, 0x81, 0x82, 0x83, 0xE0].contains (field req 1 1) = false → answers (.spdmUnsupportedRequest e req) fun d =>
      d = { c with sent := msg 0x7F 0x07 (field req 1 1) [] }) ∧
    (s.endpointUp e = false → exec (.getVersion e req) s = .next s ∧ exec (.spdmUnsupportedRequest e req) s = .next s)

/-- R311, R499-R506, R510-R512, R517-R522, R526: an error found in a word of a core's memory counts and, where it is not corrected, poisons the word; a poll records the increase of each error counter; a fatal event asserts FATAL_N with its cause, stops every thread and
ends every invocation FAULTED; a lost management complex hands over to a standby and is fatal without one; a wear scan counts and records the
replicas; a resent flit counts and at its limit brings in a spare wire, and one already sent 8 times ends the link with a fatal event (the model's reading, log 116); a warning of a sensor raises the alert. -/
def Obligations.ModuleServiced : Prop :=
  (∀ s : State,
    (s.ahnal = false → exec (.errorCounterPoll []) s = .next s) ∧
    (s.ahnal = false → ∀ (c : CoreId) (w : Nat) (ok : Bool),
      (Answers (.errorCounterPoll [.coreWord c true w ok]) s fun u =>
        let f := if ok then CORE_ERR.IMEM_CE else CORE_ERR.IMEM_UE
        u.fld (aCORE_ERR c) f = min (f.size - 1) (s.fld (aCORE_ERR c) f + 1) ∧ RegsBut s u [aCORE_ERR c] ∧ CoresBut s u c ∧
          (ok = false → w % 8192 ∈ (u.core c).imemPoison)) ∧
      ∃ u, exec (.errorCounterPoll [.coreWord c false w ok]) s = .next u ∧
        let f := if ok then CORE_ERR.CMEM_CE else CORE_ERR.CMEM_UE
        u.fld (aCORE_ERR c) f = min (f.size - 1) (s.fld (aCORE_ERR c) f + 1) ∧ RegsBut s u [aCORE_ERR c] ∧ u.cores = s.cores ∧ u.mem = s.mem ∧
          u.pending = s.pending ∧ (ok = true → u.poison = s.poison) ∧ (ok = false → coreMemBase c / 8 + w % 65536 ∈ u.poison)) ∧
    (s.ahnal = true → Answers (.errorCounterPoll []) s fun u => u.cores = s.cores ∧ u.images = s.images ∧
      ∀ e ∈ errCounters, tabGet 0 u.mgmt.lastPoll (e.addr * 64 + e.fld.lo) = s.fld e.addr e.fld) ∧
    (∀ (cause : ErrCode) (source : ErrSource), s.power = .on → (cause.toNat = 0x0401 ∨ cause.toNat = 0x0402) → s.flag (aFATAL_STAT 0) FATAL_STAT.FATAL = false → Tidy s →
      ∃ u, exec (.fatalError cause source) s = .next u ∧ u.pending = s.pending ∧ u.flag (aFATAL_STAT 0) FATAL_STAT.FATAL = true ∧
        u.fld (aFATAL_STAT 0) FATAL_STAT.CAUSE = cause.toNat ∧ u.fld (aFATAL_STAT 0) FATAL_STAT.DUMP_DONE = 1 ∧ u.pins.fatal = true ∧
        (∀ (c : CoreId) t, (u.thr c t).live = false) ∧ (∀ i : Slot, ∀ im ∈ u.image i, im.state = .loaded) ∧
        ∀ i : Slot, ∀ im ∈ s.image i, im.active = true → ∃ im' ∈ u.image i, im'.lastStatus = 0x30 ∧ im'.startCmd = none) ∧
    (∀ (cause : ErrCode) (source : ErrSource), (s.power ≠ .on ∨ cause.toNat < 0x0401 ∨ 0x0404 < cause.toNat) → exec (.fatalError cause source) s = .next s) ∧
    (s.ahnal = true → s.flag (aMGMT_ROLE 0) MGMT_ROLE.STANDBY_UP = true → Answers .heartbeatTimeout s fun u => u.cores = s.cores ∧ u.images = s.images ∧
      u.fld (aBOOT_STAT s.activeMc) BOOT_STAT.PHASE = 0 ∧ RegsBut s u [aBOOT_STAT s.activeMc] ∧ u.ports = s.ports) ∧
    (s.ahnal = true → s.flag (aMGMT_ROLE 0) MGMT_ROLE.STANDBY_UP = false → s.flag (aFATAL_STAT 0) FATAL_STAT.FATAL = false → Answers .heartbeatTimeout s fun u =>
      u.cores = s.cores ∧ u.images = s.images ∧ u.flag (aFATAL_STAT 0) FATAL_STAT.FATAL = true ∧ u.fld (aFATAL_STAT 0) FATAL_STAT.CAUSE = 0x0404 ∧
      u.pins.fatal = true) ∧
    (s.flag (aMGMT_ROLE 0) MGMT_ROLE.STANDBY_UP = true → s.ahnal = false → s.power = .on → Tidy s → Answers .managementTakeover s fun u => u.cores = s.cores ∧
      u.activeMc = 1 - s.activeMc ∧ u.fld (aBOOT_STAT (1 - s.activeMc)) BOOT_STAT.PHASE = 4 ∧ u.fld (aMGMT_ROLE 0) MGMT_ROLE.TAKEOVER = 1 ∧
      u.flag (aMGMT_ROLE 0) MGMT_ROLE.STANDBY_UP = false ∧ (∀ i : Slot, ∀ im ∈ s.image i, im.state = .running → ∃ im' ∈ u.image i, im'.state = .running) ∧
      ∀ i : Slot, ∀ im ∈ s.image i, im.state = .starting → ∃ im' ∈ u.image i, im'.state = .loaded) ∧
    (exec .wearScanTimer s = .next { s with mgmt := { s.mgmt with wearTimer := true } }) ∧
    (∀ results, s.warned = true ∨ (s.mgmt.wearTimer = false ∧ s.scanAsked = none) → exec (.wearScan results) s = .next s) ∧
    (∀ results, s.warned = false → s.mgmt.wearTimer = true → s.claimed = [] → Answers (.wearScan results) s fun u => u.cores = s.cores ∧ u.images = s.images ∧
      u.mgmt.scans = s.mgmt.scans + 1 ∧ u.mgmt.wearTimer = false ∧ (results = [] → u.mgmt.scanned = s.mgmt.scanned ∧ u.mgmt.pacemax = s.mgmt.pacemax) ∧
      ∀ i n, results = [(i, n)] → i < 1240 → s.powerLimited = false → s.flag (aGOV_STAT (replicaRail i)) GOV_STAT.HOT = false →
        tabGet 0 u.mgmt.scanned i = n * 25 / 256)) ∧
  (∀ (s : State) (k : Cluster) (rp : Fin 4) (wire sends : Nat), wire < 1024 →
    let a := aLINK_REP k rp
    let n := tabGet 0 s.wires ((k.val * 4 + rp.val) * 1024 + wire)
    let resent (u : State) : Prop := u.cores = s.cores ∧ u.fld a LINK_REP.RESENT = min (LINK_REP.RESENT.size - 1) (s.fld a LINK_REP.RESENT + 1)
    (s.flag a LINK_REP.FAILED = true → exec (.flitResend k rp wire sends) s = .next s) ∧
    (s.flag a LINK_REP.FAILED = false → 8 ≤ sends → s.power = .on → s.flag (aFATAL_STAT 0) FATAL_STAT.FATAL = false → Tidy s →
      ∃ u, exec (.flitResend k rp wire sends) s = .next u ∧ u.pending = s.pending ∧ u.flag a LINK_REP.FAILED = true ∧
        u.flag (aFATAL_STAT 0) FATAL_STAT.FATAL = true ∧ u.fld (aFATAL_STAT 0) FATAL_STAT.CAUSE = 0x0402) ∧
    (s.flag a LINK_REP.FAILED = false → sends < 8 → n + 1 < s.fld a LINK_REP.WIRE_LIM → Answers (.flitResend k rp wire sends) s fun u => resent u ∧ RegsBut s u [a] ∧
      tabGet 0 u.wires ((k.val * 4 + rp.val) * 1024 + wire) = n + 1) ∧
    (s.flag a LINK_REP.FAILED = false → sends < 8 → s.fld a LINK_REP.WIRE_LIM ≤ n + 1 → s.fld a LINK_REP.USED < 32 → Answers (.flitResend k rp wire sends) s fun u => resent u ∧
      u.fld a LINK_REP.USED = s.fld a LINK_REP.USED + 1 ∧ u.fld a LINK_REP.LAST_WIRE = wire ∧ u.fld (aALERT_SRC 0) ALERT_SRC.SPARE = 1 ∧
      u.flag a LINK_REP.FAILED = false)) ∧
  ∀ (s : State) (d : Die) (n : Fin 80) (temp : BitVec 16),
    (s.flag (aSENSOR d n) SENSOR.FAILED = true ∨ temp.toInt < 840 → exec (.thermalWarning d n temp) s = .next s) ∧
    (s.flag (aSENSOR d n) SENSOR.FAILED = false → 840 ≤ temp.toInt → Answers (.thermalWarning d n temp) s fun u => u.cores = s.cores ∧
      u.fld (aSENSOR d n) SENSOR.TEMP = temp.toNat ∧ u.fld (aDIE_THERM d) DIE_THERM.WARN = 1 ∧ u.fld (aALERT_SRC 0) ALERT_SRC.THERMAL = 1 ∧
      u.pins.alert = decide (u.reg (aALERT_SRC 0) &&& u.reg (aALERT_EN 0) ≠ 0))

/-- R503, R529-R532: on SMBus from READY the module answers an alert response with its address while ALERT_N is asserted, takes an endpoint id and an event receiver, hands over
the oldest event held, and sets and reports the enables of its alert sources. The layouts of the answers are the model's. -/
def Sys2Proof.Claims.SidebandAnswers : Prop :=
  ∀ (s : State),
    let quiet (u : State) : Prop := u.cores = s.cores ∧ u.images = s.images ∧ u.ports = s.ports
    let answer (u : State) (bs : List Byte) : Prop := quiet u ∧ u.mgmt.smbReply = bs
    (s.smbusUp = true →
      (s.pins.alert = true → Answers .smbusAlertResponse s fun u => answer u [BitVec.ofNat 8 (0x60 + s.mgmt.moduleId % 8)] ∧ u.regs = s.regs ∧ u.pins = s.pins) ∧
      (s.pins.alert = false → exec .smbusAlertResponse s = .next s) ∧
      (∀ eid, eid ≠ 0 → eid ≠ 0xFF → Answers (.setEndpointId eid) s fun u => answer u [0, 0, eid, 0] ∧ u.mgmt.eid = eid ∧ u.regs = s.regs) ∧
      (∀ eid, eid = 0 ∨ eid = 0xFF → Answers (.setEndpointId eid) s fun u => answer u [2] ∧ u.mgmt.eid = s.mgmt.eid ∧ u.regs = s.regs) ∧
      (∀ r, Answers (.setEventReceiver r) s fun u => answer u [0] ∧ u.mgmt.receiver = some r ∧ u.mgmt.held = [] ∧ u.mgmt.smbOut = s.mgmt.smbOut ++ s.mgmt.held ∧
        u.regs = s.regs) ∧
      (∀ e l, s.mgmt.held = e :: l → Answers .pollForPlatformEventMessage s fun u => answer u (0 :: e.bytes) ∧ u.mgmt.held = l ∧ u.regs = s.regs) ∧
      (s.mgmt.held = [] → Answers .pollForPlatformEventMessage s fun u => answer u [0] ∧ u.mgmt.held = [] ∧ u.regs = s.regs) ∧
      (∀ states : List (Option Byte), (∀ x ∈ states, ∀ v ∈ x, v = 1 ∨ v = 2) → Answers (.setStateEffecterStates states) s fun u => answer u [0] ∧
        RegsBut s u [aALERT_EN 0] ∧ (∀ i, i < 7 → (u.reg (aALERT_EN 0)).getLsbD i = match states[i]? with
          | some (some v) => v == 1
          | _ => (s.reg (aALERT_EN 0)).getLsbD i) ∧
        u.pins.alert = decide (u.reg (aALERT_SRC 0) &&& u.reg (aALERT_EN 0) ≠ 0)) ∧
      (∀ states : List (Option Byte), (∃ x ∈ states, ∃ v ∈ x, v ≠ 1 ∧ v ≠ 2) → Answers (.setStateEffecterStates states) s fun u => answer u [0x81] ∧ u.regs = s.regs) ∧
      Answers .getStateEffecterStates s fun u => answer u (0 :: 7 :: (List.range 7).map fun i => if (s.reg (aALERT_EN 0)).getLsbD i then 1 else 2) ∧ u.regs = s.regs) ∧
    (s.smbusUp = false → ∀ eid states, exec .smbusAlertResponse s = .next s ∧ exec (.setEndpointId eid) s = .next s ∧ exec (.setEventReceiver eid) s = .next s ∧
      exec .pollForPlatformEventMessage s = .next s ∧ exec (.setStateEffecterStates states) s = .next s ∧ exec .getStateEffecterStates s = .next s)

/-- SPDM answers on an endpoint; the sideband answers: Claims.AttestationAnswers, Claims.SidebandAnswers. -/
def Obligations.AttestationAndSideband : Prop := Claims.AttestationAnswers ∧ Claims.SidebandAnswers

/-- R535-R541, R545, R546, R566: a debug path's write of DBG_CTRL asks threads to halt or lets halted ones go on, by one unit with STEP; a thread asked to halt becomes HALTED once its
work has drained; a TAP selects an instruction and what its data register captures; DBG_ACCESS makes one access of 8 bytes at its home and
then shows data or ERR. Without PWR_GOOD the TAPs take nothing. -/
def Obligations.DebugPaths : Prop :=
  (∀ (s : State) (c : CoreId) (mask : BitVec 4),
    let each (i : Instr) (f : Thread → Thread) : Prop := Answers i s fun u => CoresBut s u c ∧ u.regs = s.regs ∧
      ∀ t, u.thr c t = if mask.getLsbD t.val then f (s.thr c t) else s.thr c t
    each (.dbgCtrlHalt c mask) Thread.askHalt ∧ each (.dbgCtrlResume c mask) (·.resume false) ∧ each (.dbgCtrlStep c mask) (·.resume true) ∧
    ∀ t, (∀ q ∈ s.claimed, q.begun = false) →
      (s.haltReady c t = true → (s.thr c t).phase = none → Answers (.debugHaltTaken c t) s fun u => CoresBut s u c ∧ (u.thr c t).st = .halted ∧ (u.thr c t).haltReq = false ∧
        (u.thr c t).halt ≠ .none ∧ (u.thr c t).pc = (s.thr c t).pc ∧ ∀ x, x ≠ t → u.thr c x = s.thr c x) ∧
      (s.haltReady c t = false → exec (.debugHaltTaken c t) s = .next s)) ∧
  ∀ (s : State) (d : Die),
    let tap (u : State) : Tap := u.mgmt.taps[d]
    let selects (i : Instr) (ir : Byte) (dr : Nat) : Prop :=
      (s.pins.pwrGood = true → Answers i s fun u => tap u = ⟨ir, dr⟩ ∧ u.regs = s.regs ∧ u.cores = s.cores ∧ ∀ x : Die, x ≠ d → u.mgmt.taps[x] = s.mgmt.taps[x]) ∧
      (s.pins.pwrGood = false → exec i s = .next s)
    selects (.extest d) 0x00 (tap s).dr ∧ selects (.samplePreload d) 0x02 (tap s).dr ∧ selects (.bypass d) 0xFF 0 ∧
    selects (.idcode d) 0x01 (1 + Config.jep106.toNat * 2 + (0x4B10 + s.grade.val) * 2 ^ 12 + 0xB * 2 ^ 28) ∧
    (s.pins.pwrGood = true → Answers .jtagTrst s fun u => (tap u).ir = 0x01 ∧ u.regs = s.regs ∧ u.cores = s.cores) ∧
    (∀ (addr : BitVec 48) (data : Word), s.pins.pwrGood = true → s.mgmt.jtag = none →
      let pa := addr.toNat
      let x (op : MemOp) (p : List (Nat × Byte)) : Txn := ⟨s.nextId, .debug, homeOf s.ilv pa, pa, op, .jtag, .sent, [], [], false, p, none⟩
      (pa % 8 = 0 → s.populated pa = true → Answers (.jtagDbgAccess addr false data) s fun u => u.regs = s.regs ∧ u.cores = s.cores ∧
        u.mgmt.jtag = some (s.nextId, false) ∧ u.txns = s.txns ++ [x (.read (addrs pa 8)) []] ∧ bit (u.mgmt.taps[0]).dr 114 = true) ∧
      (pa % 8 = 0 → s.populated pa = true → Answers (.jtagDbgAccess addr true data) s fun u => u.regs = s.regs ∧ u.cores = s.cores ∧
        u.mgmt.jtag = some (s.nextId, true) ∧ u.txns = s.txns ++ [x (.write (runOf pa (toBytes 8 data.toNat))) []]) ∧
      (∀ write, pa % 8 ≠ 0 ∨ s.populated pa = false → Answers (.jtagDbgAccess addr write data) s fun u => u.regs = s.regs ∧ u.txns = s.txns ∧ u.mgmt.jtag = none ∧
        u.mgmt.jtagErr = true ∧ u.mgmt.jtagData = 0)) ∧
    (∀ addr write data, s.mgmt.jtag.isSome = true → exec (.jtagDbgAccess addr write data) s = .next s) ∧
    (s.mgmt.jtag = none → exec .jtagAccessDone s = .next s) ∧
    (∀ id write y, s.mgmt.jtag = some (id, write) → s.txn id = some y → y.answered = true → y.stage = .performed → (write = true ∨ y.poisoned = []) →
      Answers .jtagAccessDone s fun u => u.regs = s.regs ∧ u.cores = s.cores ∧ u.mgmt.jtag = none ∧ u.mgmt.jtagErr = false ∧ u.txn id = none ∧
        u.mgmt.jtagData = if write then s.mgmt.jtagData else BitVec.ofNat 64 (ofBytes y.result))

/-- The commands whose effect may write memory, or that reset or lose it. -/
def Sys2Proof.Claims.mayStore : Instr → Bool
  | .domainWatchdogExpiry _ | .crystalStopped | .undervoltageReset _ | .overvoltageReset _ | .admission | .start _ | .invocationEnd _ | .stop _
  | .unload _ | .bar2Write _ _ _ _ | .bar2Atomicop _ _ _ _ _ _ | .homeRead _ | .homeWrite _ | .homeAtomic _ | .pageWalk _ | .pageInDone _ _
  | .pageOut _ _ | .exceptionEntry _ _ | .lockupService _ | .sliceScrub _ _ _ _ _ | .tierRequest _ _ _ _ _ | .tierAttemptFail _ _ | .sliceRowCopyDone _ _ | .calibrationBurstEnd _ | .errorCounterPoll _ | .channelFailed _
  | .release _ | .adopt _ | .status _ | .memCopy _ _ | .memFill _ | .persistSave _ | .persistRestore _ | .fwUpdate _ _ _ | .debugHalt _
  | .debugResume _ | .debugRead _ | .debugWrite _ _ | .debugSyncSet _ | .pwrGoodBoot _ | .ahnalReady | .bootWatchdogExpiry | .standbyBoot _
  | .fatalError _ _ | .heartbeatTimeout | .flitResend _ _ _ _ | .thermalTrip _ _ _ | .pwrEnFall | .auxPowerLoss => true
  | _ => false

/-- A step takes the command at the front of the queue and runs it on the state with the queue's rest; on an empty queue the block idles (the
model's choice, log 9). -/
def Obligations.StepRunsFrontCommand : Prop :=
  ∀ (s : State) (c : Instr) (rest : List Instr),
    step { s with pending := c :: rest } = exec c { s with pending := rest } ∧ step { s with pending := [] } = .next { s with pending := [] }

/-- Memory keeps its canonical form over every step: addresses rise strictly and no byte listed is 0, what an unlisted address reads as (log 2). -/
def Obligations.StepKeepsMemoryForm : Prop :=
  ∀ (s u : State), Memory.wf s.mem = true → step s = .next u → Memory.wf u.mem = true

/-- Every step answers a next state and takes one command from the queue, whichever command it is; the grade stands (R1), and a command that is none of
those that may store leaves every byte of memory and every poison mark. -/
def Obligations.StepTakesOneCommand : Prop :=
  ∀ (s : State) (c : Instr) (rest : List Instr), s.pending = c :: rest → ∃ u, step s = .next u ∧ u.pending = rest ∧ u.grade = s.grade ∧
    (mayStore c = false → u.mem = s.mem ∧ u.poison = s.poison)

/-- R15, R22, R38, R42, R60, R137, R189, R222, R340, R380, R451: at reset every register of control space holds the reset value of its map, every rail the code of 0.750 V, every
clock its free-running source, no image is loaded, no thread started, no tile held, no message, access or command under way, and both
links are down. That an unlisted byte of memory reads 0 and that power is on are the model's choices (log 2, log 5). -/
def Obligations.ResetHolds : Prop :=
  let s := State.reset
  Memory.wf s.mem = true ∧ s.pending = [] ∧ (∀ a, s.reg a = resetAt a) ∧ (∀ a, memByte s.mem a = 0) ∧
    (∀ r : Fin 76, s.fld (aGOV_STAT r) GOV_STAT.RAIL = 30 ∧ s.fld (aGOV_SET r) GOV_SET.FLOOR = 0) ∧
    (∀ n : Dom, s.fld (aCLKD_STAT n) CLKD_STAT.SEL = 1 ∧ s.fld (aCLKD_CTRL n) CLKD_CTRL.SRC = 1 ∧ s.fld (aCLKD_CTRL n) CLKD_CTRL.LOOP_EN = 0) ∧
    (∀ i : Slot, s.image i = none) ∧ (∀ (c : CoreId) t, (s.thr c t).st = .notStarted) ∧ (∀ c : CoreId, (s.core c).tt = [] ∧ (s.core c).zt = []) ∧
    s.txns = [] ∧ s.msgs = [] ∧ s.claimed = [] ∧ s.parked = [] ∧ (∀ p, (s.port p).up = false) ∧ (∀ ch : DmaCh, s.dmaState ch = 0) ∧
    (∀ (p : Port) (r : Ring), s.pairOn p r = false ∧ s.fld (aCR_STAT p r) CR_STAT.STATE = 0) ∧ s.fld (aBOOT_STAT 0) BOOT_STAT.PHASE = 0 ∧
    s.flag aGOV_CTRL GOV_CTRL.EN = false ∧ s.flag (aRPT_LOCK 0) RPT_LOCK.LOCK = false
end

