-- ==== Sys2Proof/Laws/Tab.lean ====
section
/-! SUPPORT. Sparse tables and memory: what an entry, a removal and a write leave to be read, and the canonical form of
memory that every write keeps. -/

namespace Sys2Proof.Machine

/-! Tables -/

@[simp] theorem tabFind_tabIns_self {α : Type} (t : Tab α) (i : Nat) (v : α) : tabFind (tabIns t i v) i = some v := by
  induction t with
  | nil => simp [tabIns, tabFind]
  | cons p t ih =>
    obtain ⟨k, w⟩ := p
    unfold tabIns
    split
    · simp [tabFind]
    · split
      · simp [tabFind]
      · rename_i h1 h2
        simp [tabFind, ih, Ne.symm h2]

theorem tabFind_tabIns_ne {α : Type} (t : Tab α) {i j : Nat} (v : α) (h : j ≠ i) : tabFind (tabIns t i v) j = tabFind t j := by
  induction t with
  | nil => simp [tabIns, tabFind, Ne.symm h]
  | cons p t ih =>
    obtain ⟨k, w⟩ := p
    unfold tabIns
    split
    · simp [tabFind, Ne.symm h]
    · split
      · rename_i h1 h2
        subst h2
        simp [tabFind, Ne.symm h]
      · simp [tabFind, ih]

@[simp] theorem tabFind_tabDel_self {α : Type} (t : Tab α) (i : Nat) : tabFind (tabDel t i) i = none := by
  induction t with
  | nil => rfl
  | cons p t ih =>
    obtain ⟨k, w⟩ := p
    unfold tabDel
    split
    · exact ih
    · simp [tabFind, *]

theorem tabFind_tabDel_ne {α : Type} (t : Tab α) {i j : Nat} (h : j ≠ i) : tabFind (tabDel t i) j = tabFind t j := by
  induction t with
  | nil => rfl
  | cons p t ih =>
    obtain ⟨k, w⟩ := p
    unfold tabDel
    split
    · rename_i hk
      subst hk
      simp [tabFind, Ne.symm h, ih]
    · simp [tabFind, ih]

/-- A value set is the value read. -/
@[simp] theorem tabGet_tabSet_self {α : Type} [DecidableEq α] (d : α) (t : Tab α) (i : Nat) (v : α) :
    tabGet d (tabSet d t i v) i = v := by
  unfold tabSet tabGet
  split <;> simp [*]

/-- A value set leaves every other key's value. -/
theorem tabGet_tabSet_ne {α : Type} [DecidableEq α] (d : α) (t : Tab α) {i j : Nat} (v : α) (h : j ≠ i) :
    tabGet d (tabSet d t i v) j = tabGet d t j := by
  unfold tabSet tabGet
  split
  · rw [tabFind_tabDel_ne t h]
  · rw [tabFind_tabIns_ne t v h]

@[simp] theorem tabGet_tabIns_self {α : Type} (d : α) (t : Tab α) (i : Nat) (v : α) : tabGet d (tabIns t i v) i = v := by
  simp [tabGet]

theorem tabGet_tabIns_ne {α : Type} (d : α) (t : Tab α) {i j : Nat} (v : α) (h : j ≠ i) :
    tabGet d (tabIns t i v) j = tabGet d t j := by
  simp [tabGet, tabFind_tabIns_ne t v h]

/-! Memory -/

/-- A byte written is the byte read. -/
@[simp] theorem memByte_memSet_self (m : List Host.Cell) (a : Nat) (b : Byte) : memByte (memSet m a b) a = b :=
  tabGet_tabSet_self 0 m a b

/-- A byte written leaves every other byte. -/
theorem memByte_memSet_ne (m : List Host.Cell) {a x : Nat} (b : Byte) (h : x ≠ a) : memByte (memSet m a b) x = memByte m x :=
  tabGet_tabSet_ne 0 m b h

/-- Writing bytes leaves every byte at an address not written. -/
theorem memByte_memWrite_other (m : List Host.Cell) (bs : List (Nat × Byte)) (x : Nat) (h : ∀ p ∈ bs, p.1 ≠ x) :
    memByte (memWrite m bs) x = memByte m x := by
  induction bs generalizing m with
  | nil => rfl
  | cons p bs ih =>
    have h1 : x ≠ p.1 := fun e => h p (by simp) e.symm
    show memByte (memWrite (memSet m p.1 p.2) bs) x = memByte m x
    rw [ih _ (fun q hq => h q (by simp [hq])), memByte_memSet_ne m p.2 h1]

/-- Writing bytes leaves at each address the last byte written there. -/
theorem memByte_memWrite (m : List Host.Cell) (bs : List (Nat × Byte)) (x : Nat) :
    memByte (memWrite m bs) x = (bs.reverse.lookup x).getD (memByte m x) := by
  induction bs generalizing m with
  | nil => rfl
  | cons p bs ih =>
    show memByte (memWrite (memSet m p.1 p.2) bs) x = _
    rw [ih, List.reverse_cons, List.lookup_append]
    cases hl : bs.reverse.lookup x with
    | some b => simp
    | none =>
      by_cases hx : x = p.1
      · subst hx; simp [List.lookup]
      · have : (x == p.1) = false := by simp [hx]
        simp [List.lookup, this, memByte_memSet_ne m p.2 hx]

/-- The canonical form, by pairs: addresses strictly rising, no byte 0. -/
theorem memory_wf_iff (m : List Host.Cell) :
    Memory.wf m = true ↔ m.Pairwise (fun p q => p.1 < q.1) ∧ ∀ p ∈ m, p.2 ≠ 0 := by
  induction m with
  | nil => simp [Memory.wf]
  | cons p m ih =>
    cases m with
    | nil => simp [Memory.wf]
    | cons q m =>
      obtain ⟨a, b⟩ := p
      obtain ⟨a', b'⟩ := q
      rw [Memory.wf]
      simp only [Bool.and_eq_true, decide_eq_true_eq, bne_iff_ne, ih]
      constructor
      · rintro ⟨⟨h1, h2⟩, h3, h4⟩
        refine ⟨List.pairwise_cons.2 ⟨?_, h3⟩, ?_⟩
        · intro r hr
          rcases List.mem_cons.1 hr with rfl | hr
          · exact h2
          · exact lt_trans h2 ((List.pairwise_cons.1 h3).1 r hr)
        · intro r hr
          rcases List.mem_cons.1 hr with rfl | hr
          · exact h1
          · exact h4 r hr
      · rintro ⟨h1, h2⟩
        have h1' := List.pairwise_cons.1 h1
        exact ⟨⟨h2 (a, b) (by simp), h1'.1 (a', b') (by simp)⟩, h1'.2, fun r hr => h2 r (List.mem_cons_of_mem _ hr)⟩

theorem mem_tabIns {α : Type} (t : Tab α) (i : Nat) (v : α) {p : Nat × α} (h : p ∈ tabIns t i v) : p = (i, v) ∨ p ∈ t := by
  induction t with
  | nil => simpa [tabIns] using h
  | cons q t ih =>
    obtain ⟨k, w⟩ := q
    unfold tabIns at h
    split at h
    · simpa using h
    · split at h
      · rcases List.mem_cons.1 h with h | h
        · exact .inl h
        · exact .inr (by simp [h])
      · rcases List.mem_cons.1 h with h | h
        · exact .inr (by simp [h])
        · rcases ih h with h | h
          · exact .inl h
          · exact .inr (by simp [h])

theorem mem_tabDel {α : Type} (t : Tab α) (i : Nat) {p : Nat × α} (h : p ∈ tabDel t i) : p ∈ t := by
  induction t with
  | nil => simp [tabDel] at h
  | cons q t ih =>
    obtain ⟨k, w⟩ := q
    unfold tabDel at h
    split at h
    · exact by simp [ih h]
    · rcases List.mem_cons.1 h with h | h
      · simp [h]
      · simp [ih h]

theorem tabIns_sorted {α : Type} (t : Tab α) (i : Nat) (v : α) (h : t.Pairwise fun p q => p.1 < q.1) :
    (tabIns t i v).Pairwise fun p q => p.1 < q.1 := by
  induction t with
  | nil => simp [tabIns]
  | cons q t ih =>
    obtain ⟨k, w⟩ := q
    obtain ⟨h1, h2⟩ := List.pairwise_cons.1 h
    unfold tabIns
    split
    · rename_i hi
      refine List.pairwise_cons.2 ⟨fun r hr => ?_, h⟩
      rcases List.mem_cons.1 hr with rfl | hr
      · exact hi
      · exact lt_trans hi (h1 r hr)
    · split
      · rename_i hk
        subst hk
        exact List.pairwise_cons.2 ⟨h1, h2⟩
      · rename_i hi hk
        refine List.pairwise_cons.2 ⟨fun r hr => ?_, ih h2⟩
        rcases mem_tabIns t i v hr with rfl | hr
        · show k < i
          omega
        · exact h1 r hr

theorem tabDel_sorted {α : Type} (t : Tab α) (i : Nat) (h : t.Pairwise fun p q => p.1 < q.1) :
    (tabDel t i).Pairwise fun p q => p.1 < q.1 := by
  induction t with
  | nil => simp [tabDel]
  | cons q t ih =>
    obtain ⟨k, w⟩ := q
    obtain ⟨h1, h2⟩ := List.pairwise_cons.1 h
    unfold tabDel
    split
    · exact ih h2
    · exact List.pairwise_cons.2 ⟨fun r hr => h1 r (mem_tabDel t i hr), ih h2⟩

/-- A byte's write keeps the canonical form of memory. -/
theorem memSet_wf (m : List Host.Cell) (a : Nat) (b : Byte) (h : Memory.wf m = true) : Memory.wf (memSet m a b) = true := by
  rw [memory_wf_iff] at h ⊢
  unfold memSet tabSet
  split
  · exact ⟨tabDel_sorted m a h.1, fun p hp => h.2 p (mem_tabDel m a hp)⟩
  · rename_i hb
    refine ⟨tabIns_sorted m a b h.1, fun p hp => ?_⟩
    rcases mem_tabIns m a b hp with rfl | hp
    · exact hb
    · exact h.2 p hp

/-- Every write of memory keeps its canonical form. -/
theorem memWrite_wf (m : List Host.Cell) (bs : List (Nat × Byte)) (h : Memory.wf m = true) : Memory.wf (memWrite m bs) = true := by
  induction bs generalizing m with
  | nil => exact h
  | cons p bs ih => exact ih _ (memSet_wf m p.1 p.2 h)

/-- What a command leaves of memory has the canonical form where it was in it. -/
theorem commitMem_wf (s : State) (r : State × MemUpd) (h : Memory.wf s.mem = true) : Memory.wf (s.commitMem r).mem = true := by
  refine memWrite_wf _ _ ?_
  split
  · rfl
  · exact h

end Sys2Proof.Machine
end

