-- ==== Sys2Proof/Laws/Regs.lean ====
section
/-! SUPPORT. Register words: what setting a field or a register leaves to be read. -/

namespace Sys2Proof.Machine

/-- A field that lies within a register word. -/
abbrev Field.fits (f : Field) : Prop := f.lo ≤ f.hi ∧ f.hi < 64

/-- Two fields that share no bit. -/
abbrev Field.apart (f g : Field) : Prop := f.hi < g.lo ∨ g.hi < f.lo

theorem Field.put_toNat (f : Field) (w : Word) (v : Nat) (h : f.fits) :
    (f.put w v).toNat = w.toNat - f.get w * 2 ^ f.lo + v % f.size * 2 ^ f.lo ∧
      f.get w * 2 ^ f.lo ≤ w.toNat := by
  have hsz : f.size * 2 ^ f.lo ≤ 2 ^ 64 := by
    rw [Field.size, ← pow_add]
    exact Nat.pow_le_pow_right (by norm_num) (by omega)
  have hle : f.get w * 2 ^ f.lo ≤ w.toNat := by
    have : f.get w ≤ w.toNat / 2 ^ f.lo := Nat.mod_le _ _
    exact (Nat.mul_le_mul_right _ this).trans (Nat.div_mul_le_self _ _)
  refine ⟨?_, hle⟩
  rw [Field.put, BitVec.toNat_ofNat, Nat.mod_eq_of_lt]
  -- the word splits into what lies above the field, the field and what lies below
  set P := 2 ^ f.lo with hP
  have hPpos : 0 < P := by positivity
  set S := f.size with hS
  have hSpos : 0 < S := by rw [hS, Field.size]; positivity
  have hw := w.isLt
  have e1 : w.toNat = P * (w.toNat / P) + w.toNat % P := (Nat.div_add_mod _ _).symm
  have e2 : w.toNat / P = S * (w.toNat / P / S) + f.get w := (Nat.div_add_mod _ _).symm
  have hlow : w.toNat % P < P := Nat.mod_lt _ hPpos
  have hv : v % S < S := Nat.mod_lt _ hSpos
  have hexp : (64 : Nat) = f.lo + ((f.hi + 1 - f.lo) + (63 - f.hi)) := by omega
  set H := w.toNat / P / S with hH
  have hHlt : H < 2 ^ (63 - f.hi) := by
    rw [hH, Nat.div_div_eq_div_mul]
    apply Nat.div_lt_of_lt_mul
    calc w.toNat < 2 ^ 64 := hw
      _ = P * S * 2 ^ (63 - f.hi) := by rw [hP, hS, Field.size, ← pow_add, ← pow_add]; congr 1; omega
  have hkey : w.toNat - f.get w * P + v % S * P = P * (S * H + v % S) + w.toNat % P := by
    have : w.toNat = P * (S * H) + f.get w * P + w.toNat % P := by
      conv_lhs => rw [e1, e2]
      ring
    have h2 : w.toNat - f.get w * P = P * (S * H) + w.toNat % P := by omega
    rw [h2]; ring
  rw [hkey]
  have h3 : S * H + v % S + 1 ≤ S * 2 ^ (63 - f.hi) := by
    have : S * (H + 1) ≤ S * 2 ^ (63 - f.hi) := Nat.mul_le_mul_left _ hHlt
    rw [Nat.mul_add] at this
    omega
  have h4 : P * (S * H + v % S + 1) ≤ 2 ^ 64 := by
    calc P * (S * H + v % S + 1) ≤ P * (S * 2 ^ (63 - f.hi)) := Nat.mul_le_mul_left _ h3
      _ = 2 ^ 64 := by rw [hP, hS, Field.size, ← pow_add, ← pow_add]; congr 1; omega
  rw [Nat.mul_add] at h4
  omega

/-- A field set reads as the value set, modulo its size. -/
theorem Field.get_put (f : Field) (w : Word) (v : Nat) (h : f.fits) : f.get (f.put w v) = v % f.size := by
  obtain ⟨e, hle⟩ := f.put_toNat w v h
  rw [Field.get, e]
  set P := 2 ^ f.lo with hP
  have hPpos : 0 < P := by positivity
  set S := f.size with hS
  have hSpos : 0 < S := by rw [hS, Field.size]; positivity
  have e1 : w.toNat = P * (w.toNat / P) + w.toNat % P := (Nat.div_add_mod _ _).symm
  have e2 : w.toNat / P = S * (w.toNat / P / S) + f.get w := (Nat.div_add_mod _ _).symm
  have hlow : w.toNat % P < P := Nat.mod_lt _ hPpos
  have hkey : w.toNat - f.get w * P + v % S * P = w.toNat % P + P * (S * (w.toNat / P / S) + v % S) := by
    have : w.toNat = P * (S * (w.toNat / P / S)) + f.get w * P + w.toNat % P := by
      conv_lhs => rw [e1, e2]
      ring
    have h2 : w.toNat - f.get w * P = P * (S * (w.toNat / P / S)) + w.toNat % P := by omega
    rw [h2]; ring
  rw [hkey, Nat.add_mul_div_left _ _ hPpos, Nat.div_eq_of_lt hlow, Nat.zero_add, Nat.mul_add_mod,
    Nat.mod_mod]

theorem testBit_field (f : Field) (w : Word) (i : Nat) :
    (f.get w).testBit i = (decide (i < f.hi + 1 - f.lo) && w.toNat.testBit (f.lo + i)) := by
  rw [Field.get, Field.size, Nat.testBit_mod_two_pow, Nat.testBit_div_two_pow, Nat.add_comm i f.lo]

/-- Bits outside a field stand when it is set. -/
theorem Field.put_bit (f : Field) (w : Word) (v i : Nat) (h : f.fits) (hi : i < f.lo ∨ f.hi < i) :
    (f.put w v).toNat.testBit i = w.toNat.testBit i := by
  obtain ⟨e, hle⟩ := f.put_toNat w v h
  rw [e]
  set P := 2 ^ f.lo with hP
  have hPpos : 0 < P := by positivity
  set S := f.size with hS
  have hSpos : 0 < S := by rw [hS, Field.size]; positivity
  have e1 : w.toNat = P * (w.toNat / P) + w.toNat % P := (Nat.div_add_mod _ _).symm
  have e2 : w.toNat / P = S * (w.toNat / P / S) + f.get w := (Nat.div_add_mod _ _).symm
  have hlow : w.toNat % P < P := Nat.mod_lt _ hPpos
  have hv : v % S < S := Nat.mod_lt _ hSpos
  have hg : f.get w < S := Nat.mod_lt _ hSpos
  have hkey : w.toNat - f.get w * P + v % S * P = P * (S * (w.toNat / P / S) + v % S) + w.toNat % P := by
    have : w.toNat = P * (S * (w.toNat / P / S)) + f.get w * P + w.toNat % P := by
      conv_lhs => rw [e1, e2]
      ring
    have h2 : w.toNat - f.get w * P = P * (S * (w.toNat / P / S)) + w.toNat % P := by omega
    rw [h2]; ring
  have hw : w.toNat = P * (S * (w.toNat / P / S) + f.get w) + w.toNat % P := by
    conv_lhs => rw [e1, e2]
  rw [hkey]
  conv_rhs => rw [hw]
  rw [hP] at hlow ⊢
  rw [Nat.testBit_two_pow_mul_add _ hlow, Nat.testBit_two_pow_mul_add _ hlow]
  split
  · rfl
  · rename_i h1
    rw [hS, Field.size] at hv hg ⊢
    rw [Nat.testBit_two_pow_mul_add _ hv, Nat.testBit_two_pow_mul_add _ hg]
    split
    · omega
    · rfl

/-- A field set leaves every field apart from it. -/
theorem Field.get_put_apart (f g : Field) (w : Word) (v : Nat) (h : f.fits) (hg : f.apart g) :
    g.get (f.put w v) = g.get w := by
  apply Nat.eq_of_testBit_eq
  intro i
  rw [testBit_field, testBit_field]
  by_cases hi : i < g.hi + 1 - g.lo
  · rw [f.put_bit w v (g.lo + i) h (by unfold Field.apart at hg; omega)]
  · simp [hi]

/-! Registers of the state -/

@[simp] theorem State.reg_setReg_self (s : State) (a : Nat) (w : Word) : (s.setReg a w).reg a = w := by
  have h := tabGet_tabSet_self (resetAt a) s.regs a w
  simpa [State.reg, State.setReg, tabGet] using h

theorem State.reg_setReg_ne (s : State) {a b : Nat} (w : Word) (h : b ≠ a) : (s.setReg a w).reg b = s.reg b := by
  unfold State.reg State.setReg tabSet
  split
  · rw [tabFind_tabDel_ne _ h]
  · rw [tabFind_tabIns_ne _ _ h]

/-- A field set in a register reads as the value set. -/
theorem State.fld_setFld_self (s : State) (a : Nat) (f : Field) (v : Nat) (h : f.fits) :
    (s.setFld a f v).fld a f = v % f.size := by
  simp [State.fld, State.setFld, Field.get_put f _ v h]

/-- A field set leaves the fields of its register apart from it. -/
theorem State.fld_setFld_apart (s : State) (a : Nat) (f g : Field) (v : Nat) (h : f.fits) (hg : f.apart g) :
    (s.setFld a f v).fld a g = s.fld a g := by
  simp [State.fld, State.setFld, Field.get_put_apart f g _ v h hg]

/-- A field set leaves every other register. -/
theorem State.reg_setFld_ne (s : State) {a b : Nat} (f : Field) (v : Nat) (h : b ≠ a) : (s.setFld a f v).reg b = s.reg b :=
  s.reg_setReg_ne _ h

theorem State.fld_setReg_ne (s : State) {a b : Nat} (w : Word) (f : Field) (h : b ≠ a) : (s.setReg a w).fld b f = s.fld b f := by
  rw [State.fld, State.fld, s.reg_setReg_ne w h]

theorem State.fld_setFld_ne (s : State) {a b : Nat} (f g : Field) (v : Nat) (h : b ≠ a) : (s.setFld a f v).fld b g = s.fld b g :=
  s.fld_setReg_ne _ g h

@[simp] theorem State.fld_setReg_self (s : State) (a : Nat) (w : Word) (f : Field) : (s.setReg a w).fld a f = f.get w := by
  simp [State.fld]

/-- A counted field saturates. -/
theorem State.fld_incFld_self (s : State) (a : Nat) (f : Field) (n : Nat) (h : f.fits) :
    (s.incFld a f n).fld a f = min (f.size - 1) (s.fld a f + n) := by
  rw [State.incFld, State.fld_setFld_self _ _ _ _ h, satAdd, Nat.mod_eq_of_lt]
  have : 0 < f.size := by unfold Field.size; positivity
  omega

theorem State.fld_incFld_ne (s : State) {a b : Nat} (f g : Field) (n : Nat) (h : b ≠ a) : (s.incFld a f n).fld b g = s.fld b g :=
  s.fld_setFld_ne f g _ h

theorem State.fld_incFld_apart (s : State) (a : Nat) (f g : Field) (n : Nat) (h : f.fits) (hg : f.apart g) :
    (s.incFld a f n).fld a g = s.fld a g :=
  s.fld_setFld_apart a f g _ h hg

end Sys2Proof.Machine
end

