-- ==== Sys2Proof/Laws/State.lean ====
section
/-! SUPPORT. What each update of the state leaves: one lemma per update and field, and per update and accessor. -/

namespace Sys2Proof.Machine

theorem State.act_eq (s : State) (c : Nat) :
    s.act c = s.setFld (aCORE_ACT c) CORE_ACT.ACT (s.fld (aCORE_ACT c) CORE_ACT.ACT + 1) := by unfold State.act; rfl

@[simp] theorem State.setReg_pending (s : State) (a : Nat) (w : Word) : (s.setReg a w).pending = s.pending := rfl
@[simp] theorem State.setReg_grade (s : State) (a : Nat) (w : Word) : (s.setReg a w).grade = s.grade := rfl
@[simp] theorem State.setReg_mem (s : State) (a : Nat) (w : Word) : (s.setReg a w).mem = s.mem := rfl
@[simp] theorem State.setReg_poison (s : State) (a : Nat) (w : Word) : (s.setReg a w).poison = s.poison := rfl
@[simp] theorem State.setReg_failed (s : State) (a : Nat) (w : Word) : (s.setReg a w).failed = s.failed := rfl
@[simp] theorem State.setReg_imemFailed (s : State) (a : Nat) (w : Word) : (s.setReg a w).imemFailed = s.imemFailed := rfl
@[simp] theorem State.setReg_unreadable (s : State) (a : Nat) (w : Word) : (s.setReg a w).unreadable = s.unreadable := rfl
@[simp] theorem State.setReg_ilv (s : State) (a : Nat) (w : Word) : (s.setReg a w).ilv = s.ilv := rfl
@[simp] theorem State.setReg_owner (s : State) (a : Nat) (w : Word) : (s.setReg a w).owner = s.owner := rfl
@[simp] theorem State.setReg_cores (s : State) (a : Nat) (w : Word) : (s.setReg a w).cores = s.cores := rfl
@[simp] theorem State.setReg_txns (s : State) (a : Nat) (w : Word) : (s.setReg a w).txns = s.txns := rfl
@[simp] theorem State.setReg_sync (s : State) (a : Nat) (w : Word) : (s.setReg a w).sync = s.sync := rfl
@[simp] theorem State.setReg_parked (s : State) (a : Nat) (w : Word) : (s.setReg a w).parked = s.parked := rfl
@[simp] theorem State.setReg_inputs (s : State) (a : Nat) (w : Word) : (s.setReg a w).inputs = s.inputs := rfl
@[simp] theorem State.setReg_msgs (s : State) (a : Nat) (w : Word) : (s.setReg a w).msgs = s.msgs := rfl
@[simp] theorem State.setReg_tokens (s : State) (a : Nat) (w : Word) : (s.setReg a w).tokens = s.tokens := rfl
@[simp] theorem State.setReg_dmas (s : State) (a : Nat) (w : Word) : (s.setReg a w).dmas = s.dmas := rfl
@[simp] theorem State.setReg_dmaTlb (s : State) (a : Nat) (w : Word) : (s.setReg a w).dmaTlb = s.dmaTlb := rfl
@[simp] theorem State.setReg_arbs (s : State) (a : Nat) (w : Word) : (s.setReg a w).arbs = s.arbs := rfl
@[simp] theorem State.setReg_images (s : State) (a : Nat) (w : Word) : (s.setReg a w).images = s.images := rfl
@[simp] theorem State.setReg_gens (s : State) (a : Nat) (w : Word) : (s.setReg a w).gens = s.gens := rfl
@[simp] theorem State.setReg_loading (s : State) (a : Nat) (w : Word) : (s.setReg a w).loading = s.loading := rfl
@[simp] theorem State.setReg_lastLoadPort (s : State) (a : Nat) (w : Word) : (s.setReg a w).lastLoadPort = s.lastLoadPort := rfl
@[simp] theorem State.setReg_claimed (s : State) (a : Nat) (w : Word) : (s.setReg a w).claimed = s.claimed := rfl
@[simp] theorem State.setReg_ports (s : State) (a : Nat) (w : Word) : (s.setReg a w).ports = s.ports := rfl
@[simp] theorem State.setReg_tiers (s : State) (a : Nat) (w : Word) : (s.setReg a w).tiers = s.tiers := rfl
@[simp] theorem State.setReg_spareOf (s : State) (a : Nat) (w : Word) : (s.setReg a w).spareOf = s.spareOf := rfl
@[simp] theorem State.setReg_sliceReports (s : State) (a : Nat) (w : Word) : (s.setReg a w).sliceReports = s.sliceReports := rfl
@[simp] theorem State.setReg_withdrawn (s : State) (a : Nat) (w : Word) : (s.setReg a w).withdrawn = s.withdrawn := rfl
@[simp] theorem State.setReg_deep (s : State) (a : Nat) (w : Word) : (s.setReg a w).deep = s.deep := rfl
@[simp] theorem State.setReg_clk (s : State) (a : Nat) (w : Word) : (s.setReg a w).clk = s.clk := rfl
@[simp] theorem State.setReg_power (s : State) (a : Nat) (w : Word) : (s.setReg a w).power = s.power := rfl
@[simp] theorem State.setReg_breachWin (s : State) (a : Nat) (w : Word) : (s.setReg a w).breachWin = s.breachWin := rfl
@[simp] theorem State.setReg_wires (s : State) (a : Nat) (w : Word) : (s.setReg a w).wires = s.wires := rfl
@[simp] theorem State.setReg_pins (s : State) (a : Nat) (w : Word) : (s.setReg a w).pins = s.pins := rfl
@[simp] theorem State.setReg_mgmt (s : State) (a : Nat) (w : Word) : (s.setReg a w).mgmt = s.mgmt := rfl
@[simp] theorem State.setReg_nextId (s : State) (a : Nat) (w : Word) : (s.setReg a w).nextId = s.nextId := rfl
@[simp] theorem State.setReg_free (s : State) (a : Nat) (w : Word) : (s.setReg a w).free = s.free := rfl

@[simp] theorem State.setFld_pending (s : State) (a : Nat) (f : Field) (v : Nat) : (s.setFld a f v).pending = s.pending := rfl
@[simp] theorem State.setFld_grade (s : State) (a : Nat) (f : Field) (v : Nat) : (s.setFld a f v).grade = s.grade := rfl
@[simp] theorem State.setFld_mem (s : State) (a : Nat) (f : Field) (v : Nat) : (s.setFld a f v).mem = s.mem := rfl
@[simp] theorem State.setFld_poison (s : State) (a : Nat) (f : Field) (v : Nat) : (s.setFld a f v).poison = s.poison := rfl
@[simp] theorem State.setFld_failed (s : State) (a : Nat) (f : Field) (v : Nat) : (s.setFld a f v).failed = s.failed := rfl
@[simp] theorem State.setFld_imemFailed (s : State) (a : Nat) (f : Field) (v : Nat) : (s.setFld a f v).imemFailed = s.imemFailed := rfl
@[simp] theorem State.setFld_unreadable (s : State) (a : Nat) (f : Field) (v : Nat) : (s.setFld a f v).unreadable = s.unreadable := rfl
@[simp] theorem State.setFld_ilv (s : State) (a : Nat) (f : Field) (v : Nat) : (s.setFld a f v).ilv = s.ilv := rfl
@[simp] theorem State.setFld_owner (s : State) (a : Nat) (f : Field) (v : Nat) : (s.setFld a f v).owner = s.owner := rfl
@[simp] theorem State.setFld_cores (s : State) (a : Nat) (f : Field) (v : Nat) : (s.setFld a f v).cores = s.cores := rfl
@[simp] theorem State.setFld_txns (s : State) (a : Nat) (f : Field) (v : Nat) : (s.setFld a f v).txns = s.txns := rfl
@[simp] theorem State.setFld_sync (s : State) (a : Nat) (f : Field) (v : Nat) : (s.setFld a f v).sync = s.sync := rfl
@[simp] theorem State.setFld_parked (s : State) (a : Nat) (f : Field) (v : Nat) : (s.setFld a f v).parked = s.parked := rfl
@[simp] theorem State.setFld_inputs (s : State) (a : Nat) (f : Field) (v : Nat) : (s.setFld a f v).inputs = s.inputs := rfl
@[simp] theorem State.setFld_msgs (s : State) (a : Nat) (f : Field) (v : Nat) : (s.setFld a f v).msgs = s.msgs := rfl
@[simp] theorem State.setFld_tokens (s : State) (a : Nat) (f : Field) (v : Nat) : (s.setFld a f v).tokens = s.tokens := rfl
@[simp] theorem State.setFld_dmas (s : State) (a : Nat) (f : Field) (v : Nat) : (s.setFld a f v).dmas = s.dmas := rfl
@[simp] theorem State.setFld_dmaTlb (s : State) (a : Nat) (f : Field) (v : Nat) : (s.setFld a f v).dmaTlb = s.dmaTlb := rfl
@[simp] theorem State.setFld_arbs (s : State) (a : Nat) (f : Field) (v : Nat) : (s.setFld a f v).arbs = s.arbs := rfl
@[simp] theorem State.setFld_images (s : State) (a : Nat) (f : Field) (v : Nat) : (s.setFld a f v).images = s.images := rfl
@[simp] theorem State.setFld_gens (s : State) (a : Nat) (f : Field) (v : Nat) : (s.setFld a f v).gens = s.gens := rfl
@[simp] theorem State.setFld_loading (s : State) (a : Nat) (f : Field) (v : Nat) : (s.setFld a f v).loading = s.loading := rfl
@[simp] theorem State.setFld_lastLoadPort (s : State) (a : Nat) (f : Field) (v : Nat) : (s.setFld a f v).lastLoadPort = s.lastLoadPort := rfl
@[simp] theorem State.setFld_claimed (s : State) (a : Nat) (f : Field) (v : Nat) : (s.setFld a f v).claimed = s.claimed := rfl
@[simp] theorem State.setFld_ports (s : State) (a : Nat) (f : Field) (v : Nat) : (s.setFld a f v).ports = s.ports := rfl
@[simp] theorem State.setFld_tiers (s : State) (a : Nat) (f : Field) (v : Nat) : (s.setFld a f v).tiers = s.tiers := rfl
@[simp] theorem State.setFld_spareOf (s : State) (a : Nat) (f : Field) (v : Nat) : (s.setFld a f v).spareOf = s.spareOf := rfl
@[simp] theorem State.setFld_sliceReports (s : State) (a : Nat) (f : Field) (v : Nat) : (s.setFld a f v).sliceReports = s.sliceReports := rfl
@[simp] theorem State.setFld_withdrawn (s : State) (a : Nat) (f : Field) (v : Nat) : (s.setFld a f v).withdrawn = s.withdrawn := rfl
@[simp] theorem State.setFld_deep (s : State) (a : Nat) (f : Field) (v : Nat) : (s.setFld a f v).deep = s.deep := rfl
@[simp] theorem State.setFld_clk (s : State) (a : Nat) (f : Field) (v : Nat) : (s.setFld a f v).clk = s.clk := rfl
@[simp] theorem State.setFld_power (s : State) (a : Nat) (f : Field) (v : Nat) : (s.setFld a f v).power = s.power := rfl
@[simp] theorem State.setFld_breachWin (s : State) (a : Nat) (f : Field) (v : Nat) : (s.setFld a f v).breachWin = s.breachWin := rfl
@[simp] theorem State.setFld_wires (s : State) (a : Nat) (f : Field) (v : Nat) : (s.setFld a f v).wires = s.wires := rfl
@[simp] theorem State.setFld_pins (s : State) (a : Nat) (f : Field) (v : Nat) : (s.setFld a f v).pins = s.pins := rfl
@[simp] theorem State.setFld_mgmt (s : State) (a : Nat) (f : Field) (v : Nat) : (s.setFld a f v).mgmt = s.mgmt := rfl
@[simp] theorem State.setFld_nextId (s : State) (a : Nat) (f : Field) (v : Nat) : (s.setFld a f v).nextId = s.nextId := rfl
@[simp] theorem State.setFld_free (s : State) (a : Nat) (f : Field) (v : Nat) : (s.setFld a f v).free = s.free := rfl

@[simp] theorem State.incFld_pending (s : State) (a : Nat) (f : Field) (n : Nat) : (s.incFld a f n).pending = s.pending := rfl
@[simp] theorem State.incFld_grade (s : State) (a : Nat) (f : Field) (n : Nat) : (s.incFld a f n).grade = s.grade := rfl
@[simp] theorem State.incFld_mem (s : State) (a : Nat) (f : Field) (n : Nat) : (s.incFld a f n).mem = s.mem := rfl
@[simp] theorem State.incFld_poison (s : State) (a : Nat) (f : Field) (n : Nat) : (s.incFld a f n).poison = s.poison := rfl
@[simp] theorem State.incFld_failed (s : State) (a : Nat) (f : Field) (n : Nat) : (s.incFld a f n).failed = s.failed := rfl
@[simp] theorem State.incFld_imemFailed (s : State) (a : Nat) (f : Field) (n : Nat) : (s.incFld a f n).imemFailed = s.imemFailed := rfl
@[simp] theorem State.incFld_unreadable (s : State) (a : Nat) (f : Field) (n : Nat) : (s.incFld a f n).unreadable = s.unreadable := rfl
@[simp] theorem State.incFld_ilv (s : State) (a : Nat) (f : Field) (n : Nat) : (s.incFld a f n).ilv = s.ilv := rfl
@[simp] theorem State.incFld_owner (s : State) (a : Nat) (f : Field) (n : Nat) : (s.incFld a f n).owner = s.owner := rfl
@[simp] theorem State.incFld_cores (s : State) (a : Nat) (f : Field) (n : Nat) : (s.incFld a f n).cores = s.cores := rfl
@[simp] theorem State.incFld_txns (s : State) (a : Nat) (f : Field) (n : Nat) : (s.incFld a f n).txns = s.txns := rfl
@[simp] theorem State.incFld_sync (s : State) (a : Nat) (f : Field) (n : Nat) : (s.incFld a f n).sync = s.sync := rfl
@[simp] theorem State.incFld_parked (s : State) (a : Nat) (f : Field) (n : Nat) : (s.incFld a f n).parked = s.parked := rfl
@[simp] theorem State.incFld_inputs (s : State) (a : Nat) (f : Field) (n : Nat) : (s.incFld a f n).inputs = s.inputs := rfl
@[simp] theorem State.incFld_msgs (s : State) (a : Nat) (f : Field) (n : Nat) : (s.incFld a f n).msgs = s.msgs := rfl
@[simp] theorem State.incFld_tokens (s : State) (a : Nat) (f : Field) (n : Nat) : (s.incFld a f n).tokens = s.tokens := rfl
@[simp] theorem State.incFld_dmas (s : State) (a : Nat) (f : Field) (n : Nat) : (s.incFld a f n).dmas = s.dmas := rfl
@[simp] theorem State.incFld_dmaTlb (s : State) (a : Nat) (f : Field) (n : Nat) : (s.incFld a f n).dmaTlb = s.dmaTlb := rfl
@[simp] theorem State.incFld_arbs (s : State) (a : Nat) (f : Field) (n : Nat) : (s.incFld a f n).arbs = s.arbs := rfl
@[simp] theorem State.incFld_images (s : State) (a : Nat) (f : Field) (n : Nat) : (s.incFld a f n).images = s.images := rfl
@[simp] theorem State.incFld_gens (s : State) (a : Nat) (f : Field) (n : Nat) : (s.incFld a f n).gens = s.gens := rfl
@[simp] theorem State.incFld_loading (s : State) (a : Nat) (f : Field) (n : Nat) : (s.incFld a f n).loading = s.loading := rfl
@[simp] theorem State.incFld_lastLoadPort (s : State) (a : Nat) (f : Field) (n : Nat) : (s.incFld a f n).lastLoadPort = s.lastLoadPort := rfl
@[simp] theorem State.incFld_claimed (s : State) (a : Nat) (f : Field) (n : Nat) : (s.incFld a f n).claimed = s.claimed := rfl
@[simp] theorem State.incFld_ports (s : State) (a : Nat) (f : Field) (n : Nat) : (s.incFld a f n).ports = s.ports := rfl
@[simp] theorem State.incFld_tiers (s : State) (a : Nat) (f : Field) (n : Nat) : (s.incFld a f n).tiers = s.tiers := rfl
@[simp] theorem State.incFld_spareOf (s : State) (a : Nat) (f : Field) (n : Nat) : (s.incFld a f n).spareOf = s.spareOf := rfl
@[simp] theorem State.incFld_sliceReports (s : State) (a : Nat) (f : Field) (n : Nat) : (s.incFld a f n).sliceReports = s.sliceReports := rfl
@[simp] theorem State.incFld_withdrawn (s : State) (a : Nat) (f : Field) (n : Nat) : (s.incFld a f n).withdrawn = s.withdrawn := rfl
@[simp] theorem State.incFld_deep (s : State) (a : Nat) (f : Field) (n : Nat) : (s.incFld a f n).deep = s.deep := rfl
@[simp] theorem State.incFld_clk (s : State) (a : Nat) (f : Field) (n : Nat) : (s.incFld a f n).clk = s.clk := rfl
@[simp] theorem State.incFld_power (s : State) (a : Nat) (f : Field) (n : Nat) : (s.incFld a f n).power = s.power := rfl
@[simp] theorem State.incFld_breachWin (s : State) (a : Nat) (f : Field) (n : Nat) : (s.incFld a f n).breachWin = s.breachWin := rfl
@[simp] theorem State.incFld_wires (s : State) (a : Nat) (f : Field) (n : Nat) : (s.incFld a f n).wires = s.wires := rfl
@[simp] theorem State.incFld_pins (s : State) (a : Nat) (f : Field) (n : Nat) : (s.incFld a f n).pins = s.pins := rfl
@[simp] theorem State.incFld_mgmt (s : State) (a : Nat) (f : Field) (n : Nat) : (s.incFld a f n).mgmt = s.mgmt := rfl
@[simp] theorem State.incFld_nextId (s : State) (a : Nat) (f : Field) (n : Nat) : (s.incFld a f n).nextId = s.nextId := rfl
@[simp] theorem State.incFld_free (s : State) (a : Nat) (f : Field) (n : Nat) : (s.incFld a f n).free = s.free := rfl

@[simp] theorem State.act_pending (s : State) (c : Nat) : (s.act c).pending = s.pending := by rw [State.act_eq, State.setFld_pending]
@[simp] theorem State.act_grade (s : State) (c : Nat) : (s.act c).grade = s.grade := by rw [State.act_eq, State.setFld_grade]
@[simp] theorem State.act_mem (s : State) (c : Nat) : (s.act c).mem = s.mem := by rw [State.act_eq, State.setFld_mem]
@[simp] theorem State.act_poison (s : State) (c : Nat) : (s.act c).poison = s.poison := by rw [State.act_eq, State.setFld_poison]
@[simp] theorem State.act_failed (s : State) (c : Nat) : (s.act c).failed = s.failed := by rw [State.act_eq, State.setFld_failed]
@[simp] theorem State.act_imemFailed (s : State) (c : Nat) : (s.act c).imemFailed = s.imemFailed := by rw [State.act_eq, State.setFld_imemFailed]
@[simp] theorem State.act_unreadable (s : State) (c : Nat) : (s.act c).unreadable = s.unreadable := by rw [State.act_eq, State.setFld_unreadable]
@[simp] theorem State.act_ilv (s : State) (c : Nat) : (s.act c).ilv = s.ilv := by rw [State.act_eq, State.setFld_ilv]
@[simp] theorem State.act_owner (s : State) (c : Nat) : (s.act c).owner = s.owner := by rw [State.act_eq, State.setFld_owner]
@[simp] theorem State.act_cores (s : State) (c : Nat) : (s.act c).cores = s.cores := by rw [State.act_eq, State.setFld_cores]
@[simp] theorem State.act_txns (s : State) (c : Nat) : (s.act c).txns = s.txns := by rw [State.act_eq, State.setFld_txns]
@[simp] theorem State.act_sync (s : State) (c : Nat) : (s.act c).sync = s.sync := by rw [State.act_eq, State.setFld_sync]
@[simp] theorem State.act_parked (s : State) (c : Nat) : (s.act c).parked = s.parked := by rw [State.act_eq, State.setFld_parked]
@[simp] theorem State.act_inputs (s : State) (c : Nat) : (s.act c).inputs = s.inputs := by rw [State.act_eq, State.setFld_inputs]
@[simp] theorem State.act_msgs (s : State) (c : Nat) : (s.act c).msgs = s.msgs := by rw [State.act_eq, State.setFld_msgs]
@[simp] theorem State.act_tokens (s : State) (c : Nat) : (s.act c).tokens = s.tokens := by rw [State.act_eq, State.setFld_tokens]
@[simp] theorem State.act_dmas (s : State) (c : Nat) : (s.act c).dmas = s.dmas := by rw [State.act_eq, State.setFld_dmas]
@[simp] theorem State.act_dmaTlb (s : State) (c : Nat) : (s.act c).dmaTlb = s.dmaTlb := by rw [State.act_eq, State.setFld_dmaTlb]
@[simp] theorem State.act_arbs (s : State) (c : Nat) : (s.act c).arbs = s.arbs := by rw [State.act_eq, State.setFld_arbs]
@[simp] theorem State.act_images (s : State) (c : Nat) : (s.act c).images = s.images := by rw [State.act_eq, State.setFld_images]
@[simp] theorem State.act_gens (s : State) (c : Nat) : (s.act c).gens = s.gens := by rw [State.act_eq, State.setFld_gens]
@[simp] theorem State.act_loading (s : State) (c : Nat) : (s.act c).loading = s.loading := by rw [State.act_eq, State.setFld_loading]
@[simp] theorem State.act_lastLoadPort (s : State) (c : Nat) : (s.act c).lastLoadPort = s.lastLoadPort := by rw [State.act_eq, State.setFld_lastLoadPort]
@[simp] theorem State.act_claimed (s : State) (c : Nat) : (s.act c).claimed = s.claimed := by rw [State.act_eq, State.setFld_claimed]
@[simp] theorem State.act_ports (s : State) (c : Nat) : (s.act c).ports = s.ports := by rw [State.act_eq, State.setFld_ports]
@[simp] theorem State.act_tiers (s : State) (c : Nat) : (s.act c).tiers = s.tiers := by rw [State.act_eq, State.setFld_tiers]
@[simp] theorem State.act_spareOf (s : State) (c : Nat) : (s.act c).spareOf = s.spareOf := by rw [State.act_eq, State.setFld_spareOf]
@[simp] theorem State.act_sliceReports (s : State) (c : Nat) : (s.act c).sliceReports = s.sliceReports := by rw [State.act_eq, State.setFld_sliceReports]
@[simp] theorem State.act_withdrawn (s : State) (c : Nat) : (s.act c).withdrawn = s.withdrawn := by rw [State.act_eq, State.setFld_withdrawn]
@[simp] theorem State.act_deep (s : State) (c : Nat) : (s.act c).deep = s.deep := by rw [State.act_eq, State.setFld_deep]
@[simp] theorem State.act_clk (s : State) (c : Nat) : (s.act c).clk = s.clk := by rw [State.act_eq, State.setFld_clk]
@[simp] theorem State.act_power (s : State) (c : Nat) : (s.act c).power = s.power := by rw [State.act_eq, State.setFld_power]
@[simp] theorem State.act_breachWin (s : State) (c : Nat) : (s.act c).breachWin = s.breachWin := by rw [State.act_eq, State.setFld_breachWin]
@[simp] theorem State.act_wires (s : State) (c : Nat) : (s.act c).wires = s.wires := by rw [State.act_eq, State.setFld_wires]
@[simp] theorem State.act_pins (s : State) (c : Nat) : (s.act c).pins = s.pins := by rw [State.act_eq, State.setFld_pins]
@[simp] theorem State.act_mgmt (s : State) (c : Nat) : (s.act c).mgmt = s.mgmt := by rw [State.act_eq, State.setFld_mgmt]
@[simp] theorem State.act_nextId (s : State) (c : Nat) : (s.act c).nextId = s.nextId := by rw [State.act_eq, State.setFld_nextId]
@[simp] theorem State.act_free (s : State) (c : Nat) : (s.act c).free = s.free := by rw [State.act_eq, State.setFld_free]

@[simp] theorem State.setCore_pending (s : State) (c : Nat) (k : Core) : (s.setCore c k).pending = s.pending := rfl
@[simp] theorem State.setCore_grade (s : State) (c : Nat) (k : Core) : (s.setCore c k).grade = s.grade := rfl
@[simp] theorem State.setCore_regs (s : State) (c : Nat) (k : Core) : (s.setCore c k).regs = s.regs := rfl
@[simp] theorem State.setCore_mem (s : State) (c : Nat) (k : Core) : (s.setCore c k).mem = s.mem := rfl
@[simp] theorem State.setCore_poison (s : State) (c : Nat) (k : Core) : (s.setCore c k).poison = s.poison := rfl
@[simp] theorem State.setCore_failed (s : State) (c : Nat) (k : Core) : (s.setCore c k).failed = s.failed := rfl
@[simp] theorem State.setCore_imemFailed (s : State) (c : Nat) (k : Core) : (s.setCore c k).imemFailed = s.imemFailed := rfl
@[simp] theorem State.setCore_unreadable (s : State) (c : Nat) (k : Core) : (s.setCore c k).unreadable = s.unreadable := rfl
@[simp] theorem State.setCore_ilv (s : State) (c : Nat) (k : Core) : (s.setCore c k).ilv = s.ilv := rfl
@[simp] theorem State.setCore_owner (s : State) (c : Nat) (k : Core) : (s.setCore c k).owner = s.owner := rfl
@[simp] theorem State.setCore_txns (s : State) (c : Nat) (k : Core) : (s.setCore c k).txns = s.txns := rfl
@[simp] theorem State.setCore_sync (s : State) (c : Nat) (k : Core) : (s.setCore c k).sync = s.sync := rfl
@[simp] theorem State.setCore_parked (s : State) (c : Nat) (k : Core) : (s.setCore c k).parked = s.parked := rfl
@[simp] theorem State.setCore_inputs (s : State) (c : Nat) (k : Core) : (s.setCore c k).inputs = s.inputs := rfl
@[simp] theorem State.setCore_msgs (s : State) (c : Nat) (k : Core) : (s.setCore c k).msgs = s.msgs := rfl
@[simp] theorem State.setCore_tokens (s : State) (c : Nat) (k : Core) : (s.setCore c k).tokens = s.tokens := rfl
@[simp] theorem State.setCore_dmas (s : State) (c : Nat) (k : Core) : (s.setCore c k).dmas = s.dmas := rfl
@[simp] theorem State.setCore_dmaTlb (s : State) (c : Nat) (k : Core) : (s.setCore c k).dmaTlb = s.dmaTlb := rfl
@[simp] theorem State.setCore_arbs (s : State) (c : Nat) (k : Core) : (s.setCore c k).arbs = s.arbs := rfl
@[simp] theorem State.setCore_images (s : State) (c : Nat) (k : Core) : (s.setCore c k).images = s.images := rfl
@[simp] theorem State.setCore_gens (s : State) (c : Nat) (k : Core) : (s.setCore c k).gens = s.gens := rfl
@[simp] theorem State.setCore_loading (s : State) (c : Nat) (k : Core) : (s.setCore c k).loading = s.loading := rfl
@[simp] theorem State.setCore_lastLoadPort (s : State) (c : Nat) (k : Core) : (s.setCore c k).lastLoadPort = s.lastLoadPort := rfl
@[simp] theorem State.setCore_claimed (s : State) (c : Nat) (k : Core) : (s.setCore c k).claimed = s.claimed := rfl
@[simp] theorem State.setCore_ports (s : State) (c : Nat) (k : Core) : (s.setCore c k).ports = s.ports := rfl
@[simp] theorem State.setCore_tiers (s : State) (c : Nat) (k : Core) : (s.setCore c k).tiers = s.tiers := rfl
@[simp] theorem State.setCore_spareOf (s : State) (c : Nat) (k : Core) : (s.setCore c k).spareOf = s.spareOf := rfl
@[simp] theorem State.setCore_sliceReports (s : State) (c : Nat) (k : Core) : (s.setCore c k).sliceReports = s.sliceReports := rfl
@[simp] theorem State.setCore_withdrawn (s : State) (c : Nat) (k : Core) : (s.setCore c k).withdrawn = s.withdrawn := rfl
@[simp] theorem State.setCore_deep (s : State) (c : Nat) (k : Core) : (s.setCore c k).deep = s.deep := rfl
@[simp] theorem State.setCore_clk (s : State) (c : Nat) (k : Core) : (s.setCore c k).clk = s.clk := rfl
@[simp] theorem State.setCore_power (s : State) (c : Nat) (k : Core) : (s.setCore c k).power = s.power := rfl
@[simp] theorem State.setCore_breachWin (s : State) (c : Nat) (k : Core) : (s.setCore c k).breachWin = s.breachWin := rfl
@[simp] theorem State.setCore_wires (s : State) (c : Nat) (k : Core) : (s.setCore c k).wires = s.wires := rfl
@[simp] theorem State.setCore_pins (s : State) (c : Nat) (k : Core) : (s.setCore c k).pins = s.pins := rfl
@[simp] theorem State.setCore_mgmt (s : State) (c : Nat) (k : Core) : (s.setCore c k).mgmt = s.mgmt := rfl
@[simp] theorem State.setCore_nextId (s : State) (c : Nat) (k : Core) : (s.setCore c k).nextId = s.nextId := rfl
@[simp] theorem State.setCore_free (s : State) (c : Nat) (k : Core) : (s.setCore c k).free = s.free := rfl

@[simp] theorem State.modCore_pending (s : State) (c : Nat) (f : Core → Core) : (s.modCore c f).pending = s.pending := rfl
@[simp] theorem State.modCore_grade (s : State) (c : Nat) (f : Core → Core) : (s.modCore c f).grade = s.grade := rfl
@[simp] theorem State.modCore_regs (s : State) (c : Nat) (f : Core → Core) : (s.modCore c f).regs = s.regs := rfl
@[simp] theorem State.modCore_mem (s : State) (c : Nat) (f : Core → Core) : (s.modCore c f).mem = s.mem := rfl
@[simp] theorem State.modCore_poison (s : State) (c : Nat) (f : Core → Core) : (s.modCore c f).poison = s.poison := rfl
@[simp] theorem State.modCore_failed (s : State) (c : Nat) (f : Core → Core) : (s.modCore c f).failed = s.failed := rfl
@[simp] theorem State.modCore_imemFailed (s : State) (c : Nat) (f : Core → Core) : (s.modCore c f).imemFailed = s.imemFailed := rfl
@[simp] theorem State.modCore_unreadable (s : State) (c : Nat) (f : Core → Core) : (s.modCore c f).unreadable = s.unreadable := rfl
@[simp] theorem State.modCore_ilv (s : State) (c : Nat) (f : Core → Core) : (s.modCore c f).ilv = s.ilv := rfl
@[simp] theorem State.modCore_owner (s : State) (c : Nat) (f : Core → Core) : (s.modCore c f).owner = s.owner := rfl
@[simp] theorem State.modCore_txns (s : State) (c : Nat) (f : Core → Core) : (s.modCore c f).txns = s.txns := rfl
@[simp] theorem State.modCore_sync (s : State) (c : Nat) (f : Core → Core) : (s.modCore c f).sync = s.sync := rfl
@[simp] theorem State.modCore_parked (s : State) (c : Nat) (f : Core → Core) : (s.modCore c f).parked = s.parked := rfl
@[simp] theorem State.modCore_inputs (s : State) (c : Nat) (f : Core → Core) : (s.modCore c f).inputs = s.inputs := rfl
@[simp] theorem State.modCore_msgs (s : State) (c : Nat) (f : Core → Core) : (s.modCore c f).msgs = s.msgs := rfl
@[simp] theorem State.modCore_tokens (s : State) (c : Nat) (f : Core → Core) : (s.modCore c f).tokens = s.tokens := rfl
@[simp] theorem State.modCore_dmas (s : State) (c : Nat) (f : Core → Core) : (s.modCore c f).dmas = s.dmas := rfl
@[simp] theorem State.modCore_dmaTlb (s : State) (c : Nat) (f : Core → Core) : (s.modCore c f).dmaTlb = s.dmaTlb := rfl
@[simp] theorem State.modCore_arbs (s : State) (c : Nat) (f : Core → Core) : (s.modCore c f).arbs = s.arbs := rfl
@[simp] theorem State.modCore_images (s : State) (c : Nat) (f : Core → Core) : (s.modCore c f).images = s.images := rfl
@[simp] theorem State.modCore_gens (s : State) (c : Nat) (f : Core → Core) : (s.modCore c f).gens = s.gens := rfl
@[simp] theorem State.modCore_loading (s : State) (c : Nat) (f : Core → Core) : (s.modCore c f).loading = s.loading := rfl
@[simp] theorem State.modCore_lastLoadPort (s : State) (c : Nat) (f : Core → Core) : (s.modCore c f).lastLoadPort = s.lastLoadPort := rfl
@[simp] theorem State.modCore_claimed (s : State) (c : Nat) (f : Core → Core) : (s.modCore c f).claimed = s.claimed := rfl
@[simp] theorem State.modCore_ports (s : State) (c : Nat) (f : Core → Core) : (s.modCore c f).ports = s.ports := rfl
@[simp] theorem State.modCore_tiers (s : State) (c : Nat) (f : Core → Core) : (s.modCore c f).tiers = s.tiers := rfl
@[simp] theorem State.modCore_spareOf (s : State) (c : Nat) (f : Core → Core) : (s.modCore c f).spareOf = s.spareOf := rfl
@[simp] theorem State.modCore_sliceReports (s : State) (c : Nat) (f : Core → Core) : (s.modCore c f).sliceReports = s.sliceReports := rfl
@[simp] theorem State.modCore_withdrawn (s : State) (c : Nat) (f : Core → Core) : (s.modCore c f).withdrawn = s.withdrawn := rfl
@[simp] theorem State.modCore_deep (s : State) (c : Nat) (f : Core → Core) : (s.modCore c f).deep = s.deep := rfl
@[simp] theorem State.modCore_clk (s : State) (c : Nat) (f : Core → Core) : (s.modCore c f).clk = s.clk := rfl
@[simp] theorem State.modCore_power (s : State) (c : Nat) (f : Core → Core) : (s.modCore c f).power = s.power := rfl
@[simp] theorem State.modCore_breachWin (s : State) (c : Nat) (f : Core → Core) : (s.modCore c f).breachWin = s.breachWin := rfl
@[simp] theorem State.modCore_wires (s : State) (c : Nat) (f : Core → Core) : (s.modCore c f).wires = s.wires := rfl
@[simp] theorem State.modCore_pins (s : State) (c : Nat) (f : Core → Core) : (s.modCore c f).pins = s.pins := rfl
@[simp] theorem State.modCore_mgmt (s : State) (c : Nat) (f : Core → Core) : (s.modCore c f).mgmt = s.mgmt := rfl
@[simp] theorem State.modCore_nextId (s : State) (c : Nat) (f : Core → Core) : (s.modCore c f).nextId = s.nextId := rfl
@[simp] theorem State.modCore_free (s : State) (c : Nat) (f : Core → Core) : (s.modCore c f).free = s.free := rfl

@[simp] theorem State.modThr_pending (s : State) (c : Nat) (t : Thr) (f : Thread → Thread) : (s.modThr c t f).pending = s.pending := rfl
@[simp] theorem State.modThr_grade (s : State) (c : Nat) (t : Thr) (f : Thread → Thread) : (s.modThr c t f).grade = s.grade := rfl
@[simp] theorem State.modThr_regs (s : State) (c : Nat) (t : Thr) (f : Thread → Thread) : (s.modThr c t f).regs = s.regs := rfl
@[simp] theorem State.modThr_mem (s : State) (c : Nat) (t : Thr) (f : Thread → Thread) : (s.modThr c t f).mem = s.mem := rfl
@[simp] theorem State.modThr_poison (s : State) (c : Nat) (t : Thr) (f : Thread → Thread) : (s.modThr c t f).poison = s.poison := rfl
@[simp] theorem State.modThr_failed (s : State) (c : Nat) (t : Thr) (f : Thread → Thread) : (s.modThr c t f).failed = s.failed := rfl
@[simp] theorem State.modThr_imemFailed (s : State) (c : Nat) (t : Thr) (f : Thread → Thread) : (s.modThr c t f).imemFailed = s.imemFailed := rfl
@[simp] theorem State.modThr_unreadable (s : State) (c : Nat) (t : Thr) (f : Thread → Thread) : (s.modThr c t f).unreadable = s.unreadable := rfl
@[simp] theorem State.modThr_ilv (s : State) (c : Nat) (t : Thr) (f : Thread → Thread) : (s.modThr c t f).ilv = s.ilv := rfl
@[simp] theorem State.modThr_owner (s : State) (c : Nat) (t : Thr) (f : Thread → Thread) : (s.modThr c t f).owner = s.owner := rfl
@[simp] theorem State.modThr_txns (s : State) (c : Nat) (t : Thr) (f : Thread → Thread) : (s.modThr c t f).txns = s.txns := rfl
@[simp] theorem State.modThr_sync (s : State) (c : Nat) (t : Thr) (f : Thread → Thread) : (s.modThr c t f).sync = s.sync := rfl
@[simp] theorem State.modThr_parked (s : State) (c : Nat) (t : Thr) (f : Thread → Thread) : (s.modThr c t f).parked = s.parked := rfl
@[simp] theorem State.modThr_inputs (s : State) (c : Nat) (t : Thr) (f : Thread → Thread) : (s.modThr c t f).inputs = s.inputs := rfl
@[simp] theorem State.modThr_msgs (s : State) (c : Nat) (t : Thr) (f : Thread → Thread) : (s.modThr c t f).msgs = s.msgs := rfl
@[simp] theorem State.modThr_tokens (s : State) (c : Nat) (t : Thr) (f : Thread → Thread) : (s.modThr c t f).tokens = s.tokens := rfl
@[simp] theorem State.modThr_dmas (s : State) (c : Nat) (t : Thr) (f : Thread → Thread) : (s.modThr c t f).dmas = s.dmas := rfl
@[simp] theorem State.modThr_dmaTlb (s : State) (c : Nat) (t : Thr) (f : Thread → Thread) : (s.modThr c t f).dmaTlb = s.dmaTlb := rfl
@[simp] theorem State.modThr_arbs (s : State) (c : Nat) (t : Thr) (f : Thread → Thread) : (s.modThr c t f).arbs = s.arbs := rfl
@[simp] theorem State.modThr_images (s : State) (c : Nat) (t : Thr) (f : Thread → Thread) : (s.modThr c t f).images = s.images := rfl
@[simp] theorem State.modThr_gens (s : State) (c : Nat) (t : Thr) (f : Thread → Thread) : (s.modThr c t f).gens = s.gens := rfl
@[simp] theorem State.modThr_loading (s : State) (c : Nat) (t : Thr) (f : Thread → Thread) : (s.modThr c t f).loading = s.loading := rfl
@[simp] theorem State.modThr_lastLoadPort (s : State) (c : Nat) (t : Thr) (f : Thread → Thread) : (s.modThr c t f).lastLoadPort = s.lastLoadPort := rfl
@[simp] theorem State.modThr_claimed (s : State) (c : Nat) (t : Thr) (f : Thread → Thread) : (s.modThr c t f).claimed = s.claimed := rfl
@[simp] theorem State.modThr_ports (s : State) (c : Nat) (t : Thr) (f : Thread → Thread) : (s.modThr c t f).ports = s.ports := rfl
@[simp] theorem State.modThr_tiers (s : State) (c : Nat) (t : Thr) (f : Thread → Thread) : (s.modThr c t f).tiers = s.tiers := rfl
@[simp] theorem State.modThr_spareOf (s : State) (c : Nat) (t : Thr) (f : Thread → Thread) : (s.modThr c t f).spareOf = s.spareOf := rfl
@[simp] theorem State.modThr_sliceReports (s : State) (c : Nat) (t : Thr) (f : Thread → Thread) : (s.modThr c t f).sliceReports = s.sliceReports := rfl
@[simp] theorem State.modThr_withdrawn (s : State) (c : Nat) (t : Thr) (f : Thread → Thread) : (s.modThr c t f).withdrawn = s.withdrawn := rfl
@[simp] theorem State.modThr_deep (s : State) (c : Nat) (t : Thr) (f : Thread → Thread) : (s.modThr c t f).deep = s.deep := rfl
@[simp] theorem State.modThr_clk (s : State) (c : Nat) (t : Thr) (f : Thread → Thread) : (s.modThr c t f).clk = s.clk := rfl
@[simp] theorem State.modThr_power (s : State) (c : Nat) (t : Thr) (f : Thread → Thread) : (s.modThr c t f).power = s.power := rfl
@[simp] theorem State.modThr_breachWin (s : State) (c : Nat) (t : Thr) (f : Thread → Thread) : (s.modThr c t f).breachWin = s.breachWin := rfl
@[simp] theorem State.modThr_wires (s : State) (c : Nat) (t : Thr) (f : Thread → Thread) : (s.modThr c t f).wires = s.wires := rfl
@[simp] theorem State.modThr_pins (s : State) (c : Nat) (t : Thr) (f : Thread → Thread) : (s.modThr c t f).pins = s.pins := rfl
@[simp] theorem State.modThr_mgmt (s : State) (c : Nat) (t : Thr) (f : Thread → Thread) : (s.modThr c t f).mgmt = s.mgmt := rfl
@[simp] theorem State.modThr_nextId (s : State) (c : Nat) (t : Thr) (f : Thread → Thread) : (s.modThr c t f).nextId = s.nextId := rfl
@[simp] theorem State.modThr_free (s : State) (c : Nat) (t : Thr) (f : Thread → Thread) : (s.modThr c t f).free = s.free := rfl

@[simp] theorem State.interrupt_pending (s : State) (c : Nat) (t : Thr) (v : Nat) : (s.interrupt c t v).pending = s.pending := rfl
@[simp] theorem State.interrupt_grade (s : State) (c : Nat) (t : Thr) (v : Nat) : (s.interrupt c t v).grade = s.grade := rfl
@[simp] theorem State.interrupt_regs (s : State) (c : Nat) (t : Thr) (v : Nat) : (s.interrupt c t v).regs = s.regs := rfl
@[simp] theorem State.interrupt_mem (s : State) (c : Nat) (t : Thr) (v : Nat) : (s.interrupt c t v).mem = s.mem := rfl
@[simp] theorem State.interrupt_poison (s : State) (c : Nat) (t : Thr) (v : Nat) : (s.interrupt c t v).poison = s.poison := rfl
@[simp] theorem State.interrupt_failed (s : State) (c : Nat) (t : Thr) (v : Nat) : (s.interrupt c t v).failed = s.failed := rfl
@[simp] theorem State.interrupt_imemFailed (s : State) (c : Nat) (t : Thr) (v : Nat) : (s.interrupt c t v).imemFailed = s.imemFailed := rfl
@[simp] theorem State.interrupt_unreadable (s : State) (c : Nat) (t : Thr) (v : Nat) : (s.interrupt c t v).unreadable = s.unreadable := rfl
@[simp] theorem State.interrupt_ilv (s : State) (c : Nat) (t : Thr) (v : Nat) : (s.interrupt c t v).ilv = s.ilv := rfl
@[simp] theorem State.interrupt_owner (s : State) (c : Nat) (t : Thr) (v : Nat) : (s.interrupt c t v).owner = s.owner := rfl
@[simp] theorem State.interrupt_txns (s : State) (c : Nat) (t : Thr) (v : Nat) : (s.interrupt c t v).txns = s.txns := rfl
@[simp] theorem State.interrupt_sync (s : State) (c : Nat) (t : Thr) (v : Nat) : (s.interrupt c t v).sync = s.sync := rfl
@[simp] theorem State.interrupt_parked (s : State) (c : Nat) (t : Thr) (v : Nat) : (s.interrupt c t v).parked = s.parked := rfl
@[simp] theorem State.interrupt_inputs (s : State) (c : Nat) (t : Thr) (v : Nat) : (s.interrupt c t v).inputs = s.inputs := rfl
@[simp] theorem State.interrupt_msgs (s : State) (c : Nat) (t : Thr) (v : Nat) : (s.interrupt c t v).msgs = s.msgs := rfl
@[simp] theorem State.interrupt_tokens (s : State) (c : Nat) (t : Thr) (v : Nat) : (s.interrupt c t v).tokens = s.tokens := rfl
@[simp] theorem State.interrupt_dmas (s : State) (c : Nat) (t : Thr) (v : Nat) : (s.interrupt c t v).dmas = s.dmas := rfl
@[simp] theorem State.interrupt_dmaTlb (s : State) (c : Nat) (t : Thr) (v : Nat) : (s.interrupt c t v).dmaTlb = s.dmaTlb := rfl
@[simp] theorem State.interrupt_arbs (s : State) (c : Nat) (t : Thr) (v : Nat) : (s.interrupt c t v).arbs = s.arbs := rfl
@[simp] theorem State.interrupt_images (s : State) (c : Nat) (t : Thr) (v : Nat) : (s.interrupt c t v).images = s.images := rfl
@[simp] theorem State.interrupt_gens (s : State) (c : Nat) (t : Thr) (v : Nat) : (s.interrupt c t v).gens = s.gens := rfl
@[simp] theorem State.interrupt_loading (s : State) (c : Nat) (t : Thr) (v : Nat) : (s.interrupt c t v).loading = s.loading := rfl
@[simp] theorem State.interrupt_lastLoadPort (s : State) (c : Nat) (t : Thr) (v : Nat) : (s.interrupt c t v).lastLoadPort = s.lastLoadPort := rfl
@[simp] theorem State.interrupt_claimed (s : State) (c : Nat) (t : Thr) (v : Nat) : (s.interrupt c t v).claimed = s.claimed := rfl
@[simp] theorem State.interrupt_ports (s : State) (c : Nat) (t : Thr) (v : Nat) : (s.interrupt c t v).ports = s.ports := rfl
@[simp] theorem State.interrupt_tiers (s : State) (c : Nat) (t : Thr) (v : Nat) : (s.interrupt c t v).tiers = s.tiers := rfl
@[simp] theorem State.interrupt_spareOf (s : State) (c : Nat) (t : Thr) (v : Nat) : (s.interrupt c t v).spareOf = s.spareOf := rfl
@[simp] theorem State.interrupt_sliceReports (s : State) (c : Nat) (t : Thr) (v : Nat) : (s.interrupt c t v).sliceReports = s.sliceReports := rfl
@[simp] theorem State.interrupt_withdrawn (s : State) (c : Nat) (t : Thr) (v : Nat) : (s.interrupt c t v).withdrawn = s.withdrawn := rfl
@[simp] theorem State.interrupt_deep (s : State) (c : Nat) (t : Thr) (v : Nat) : (s.interrupt c t v).deep = s.deep := rfl
@[simp] theorem State.interrupt_clk (s : State) (c : Nat) (t : Thr) (v : Nat) : (s.interrupt c t v).clk = s.clk := rfl
@[simp] theorem State.interrupt_power (s : State) (c : Nat) (t : Thr) (v : Nat) : (s.interrupt c t v).power = s.power := rfl
@[simp] theorem State.interrupt_breachWin (s : State) (c : Nat) (t : Thr) (v : Nat) : (s.interrupt c t v).breachWin = s.breachWin := rfl
@[simp] theorem State.interrupt_wires (s : State) (c : Nat) (t : Thr) (v : Nat) : (s.interrupt c t v).wires = s.wires := rfl
@[simp] theorem State.interrupt_pins (s : State) (c : Nat) (t : Thr) (v : Nat) : (s.interrupt c t v).pins = s.pins := rfl
@[simp] theorem State.interrupt_mgmt (s : State) (c : Nat) (t : Thr) (v : Nat) : (s.interrupt c t v).mgmt = s.mgmt := rfl
@[simp] theorem State.interrupt_nextId (s : State) (c : Nat) (t : Thr) (v : Nat) : (s.interrupt c t v).nextId = s.nextId := rfl
@[simp] theorem State.interrupt_free (s : State) (c : Nat) (t : Thr) (v : Nat) : (s.interrupt c t v).free = s.free := rfl

@[simp] theorem State.modPort_pending (s : State) (p : Port) (f : PortSt → PortSt) : (s.modPort p f).pending = s.pending := rfl
@[simp] theorem State.modPort_grade (s : State) (p : Port) (f : PortSt → PortSt) : (s.modPort p f).grade = s.grade := rfl
@[simp] theorem State.modPort_regs (s : State) (p : Port) (f : PortSt → PortSt) : (s.modPort p f).regs = s.regs := rfl
@[simp] theorem State.modPort_mem (s : State) (p : Port) (f : PortSt → PortSt) : (s.modPort p f).mem = s.mem := rfl
@[simp] theorem State.modPort_poison (s : State) (p : Port) (f : PortSt → PortSt) : (s.modPort p f).poison = s.poison := rfl
@[simp] theorem State.modPort_failed (s : State) (p : Port) (f : PortSt → PortSt) : (s.modPort p f).failed = s.failed := rfl
@[simp] theorem State.modPort_imemFailed (s : State) (p : Port) (f : PortSt → PortSt) : (s.modPort p f).imemFailed = s.imemFailed := rfl
@[simp] theorem State.modPort_unreadable (s : State) (p : Port) (f : PortSt → PortSt) : (s.modPort p f).unreadable = s.unreadable := rfl
@[simp] theorem State.modPort_ilv (s : State) (p : Port) (f : PortSt → PortSt) : (s.modPort p f).ilv = s.ilv := rfl
@[simp] theorem State.modPort_owner (s : State) (p : Port) (f : PortSt → PortSt) : (s.modPort p f).owner = s.owner := rfl
@[simp] theorem State.modPort_cores (s : State) (p : Port) (f : PortSt → PortSt) : (s.modPort p f).cores = s.cores := rfl
@[simp] theorem State.modPort_txns (s : State) (p : Port) (f : PortSt → PortSt) : (s.modPort p f).txns = s.txns := rfl
@[simp] theorem State.modPort_sync (s : State) (p : Port) (f : PortSt → PortSt) : (s.modPort p f).sync = s.sync := rfl
@[simp] theorem State.modPort_parked (s : State) (p : Port) (f : PortSt → PortSt) : (s.modPort p f).parked = s.parked := rfl
@[simp] theorem State.modPort_inputs (s : State) (p : Port) (f : PortSt → PortSt) : (s.modPort p f).inputs = s.inputs := rfl
@[simp] theorem State.modPort_msgs (s : State) (p : Port) (f : PortSt → PortSt) : (s.modPort p f).msgs = s.msgs := rfl
@[simp] theorem State.modPort_tokens (s : State) (p : Port) (f : PortSt → PortSt) : (s.modPort p f).tokens = s.tokens := rfl
@[simp] theorem State.modPort_dmas (s : State) (p : Port) (f : PortSt → PortSt) : (s.modPort p f).dmas = s.dmas := rfl
@[simp] theorem State.modPort_dmaTlb (s : State) (p : Port) (f : PortSt → PortSt) : (s.modPort p f).dmaTlb = s.dmaTlb := rfl
@[simp] theorem State.modPort_arbs (s : State) (p : Port) (f : PortSt → PortSt) : (s.modPort p f).arbs = s.arbs := rfl
@[simp] theorem State.modPort_images (s : State) (p : Port) (f : PortSt → PortSt) : (s.modPort p f).images = s.images := rfl
@[simp] theorem State.modPort_gens (s : State) (p : Port) (f : PortSt → PortSt) : (s.modPort p f).gens = s.gens := rfl
@[simp] theorem State.modPort_loading (s : State) (p : Port) (f : PortSt → PortSt) : (s.modPort p f).loading = s.loading := rfl
@[simp] theorem State.modPort_lastLoadPort (s : State) (p : Port) (f : PortSt → PortSt) : (s.modPort p f).lastLoadPort = s.lastLoadPort := rfl
@[simp] theorem State.modPort_claimed (s : State) (p : Port) (f : PortSt → PortSt) : (s.modPort p f).claimed = s.claimed := rfl
@[simp] theorem State.modPort_tiers (s : State) (p : Port) (f : PortSt → PortSt) : (s.modPort p f).tiers = s.tiers := rfl
@[simp] theorem State.modPort_spareOf (s : State) (p : Port) (f : PortSt → PortSt) : (s.modPort p f).spareOf = s.spareOf := rfl
@[simp] theorem State.modPort_sliceReports (s : State) (p : Port) (f : PortSt → PortSt) : (s.modPort p f).sliceReports = s.sliceReports := rfl
@[simp] theorem State.modPort_withdrawn (s : State) (p : Port) (f : PortSt → PortSt) : (s.modPort p f).withdrawn = s.withdrawn := rfl
@[simp] theorem State.modPort_deep (s : State) (p : Port) (f : PortSt → PortSt) : (s.modPort p f).deep = s.deep := rfl
@[simp] theorem State.modPort_clk (s : State) (p : Port) (f : PortSt → PortSt) : (s.modPort p f).clk = s.clk := rfl
@[simp] theorem State.modPort_power (s : State) (p : Port) (f : PortSt → PortSt) : (s.modPort p f).power = s.power := rfl
@[simp] theorem State.modPort_breachWin (s : State) (p : Port) (f : PortSt → PortSt) : (s.modPort p f).breachWin = s.breachWin := rfl
@[simp] theorem State.modPort_wires (s : State) (p : Port) (f : PortSt → PortSt) : (s.modPort p f).wires = s.wires := rfl
@[simp] theorem State.modPort_pins (s : State) (p : Port) (f : PortSt → PortSt) : (s.modPort p f).pins = s.pins := rfl
@[simp] theorem State.modPort_mgmt (s : State) (p : Port) (f : PortSt → PortSt) : (s.modPort p f).mgmt = s.mgmt := rfl
@[simp] theorem State.modPort_nextId (s : State) (p : Port) (f : PortSt → PortSt) : (s.modPort p f).nextId = s.nextId := rfl
@[simp] theorem State.modPort_free (s : State) (p : Port) (f : PortSt → PortSt) : (s.modPort p f).free = s.free := rfl

@[simp] theorem State.emit_pending (s : State) (p : Port) (tlp : Tlp) : (s.emit p tlp).pending = s.pending := rfl
@[simp] theorem State.emit_grade (s : State) (p : Port) (tlp : Tlp) : (s.emit p tlp).grade = s.grade := rfl
@[simp] theorem State.emit_regs (s : State) (p : Port) (tlp : Tlp) : (s.emit p tlp).regs = s.regs := rfl
@[simp] theorem State.emit_mem (s : State) (p : Port) (tlp : Tlp) : (s.emit p tlp).mem = s.mem := rfl
@[simp] theorem State.emit_poison (s : State) (p : Port) (tlp : Tlp) : (s.emit p tlp).poison = s.poison := rfl
@[simp] theorem State.emit_failed (s : State) (p : Port) (tlp : Tlp) : (s.emit p tlp).failed = s.failed := rfl
@[simp] theorem State.emit_imemFailed (s : State) (p : Port) (tlp : Tlp) : (s.emit p tlp).imemFailed = s.imemFailed := rfl
@[simp] theorem State.emit_unreadable (s : State) (p : Port) (tlp : Tlp) : (s.emit p tlp).unreadable = s.unreadable := rfl
@[simp] theorem State.emit_ilv (s : State) (p : Port) (tlp : Tlp) : (s.emit p tlp).ilv = s.ilv := rfl
@[simp] theorem State.emit_owner (s : State) (p : Port) (tlp : Tlp) : (s.emit p tlp).owner = s.owner := rfl
@[simp] theorem State.emit_cores (s : State) (p : Port) (tlp : Tlp) : (s.emit p tlp).cores = s.cores := rfl
@[simp] theorem State.emit_txns (s : State) (p : Port) (tlp : Tlp) : (s.emit p tlp).txns = s.txns := rfl
@[simp] theorem State.emit_sync (s : State) (p : Port) (tlp : Tlp) : (s.emit p tlp).sync = s.sync := rfl
@[simp] theorem State.emit_parked (s : State) (p : Port) (tlp : Tlp) : (s.emit p tlp).parked = s.parked := rfl
@[simp] theorem State.emit_inputs (s : State) (p : Port) (tlp : Tlp) : (s.emit p tlp).inputs = s.inputs := rfl
@[simp] theorem State.emit_msgs (s : State) (p : Port) (tlp : Tlp) : (s.emit p tlp).msgs = s.msgs := rfl
@[simp] theorem State.emit_tokens (s : State) (p : Port) (tlp : Tlp) : (s.emit p tlp).tokens = s.tokens := rfl
@[simp] theorem State.emit_dmas (s : State) (p : Port) (tlp : Tlp) : (s.emit p tlp).dmas = s.dmas := rfl
@[simp] theorem State.emit_dmaTlb (s : State) (p : Port) (tlp : Tlp) : (s.emit p tlp).dmaTlb = s.dmaTlb := rfl
@[simp] theorem State.emit_arbs (s : State) (p : Port) (tlp : Tlp) : (s.emit p tlp).arbs = s.arbs := rfl
@[simp] theorem State.emit_images (s : State) (p : Port) (tlp : Tlp) : (s.emit p tlp).images = s.images := rfl
@[simp] theorem State.emit_gens (s : State) (p : Port) (tlp : Tlp) : (s.emit p tlp).gens = s.gens := rfl
@[simp] theorem State.emit_loading (s : State) (p : Port) (tlp : Tlp) : (s.emit p tlp).loading = s.loading := rfl
@[simp] theorem State.emit_lastLoadPort (s : State) (p : Port) (tlp : Tlp) : (s.emit p tlp).lastLoadPort = s.lastLoadPort := rfl
@[simp] theorem State.emit_claimed (s : State) (p : Port) (tlp : Tlp) : (s.emit p tlp).claimed = s.claimed := rfl
@[simp] theorem State.emit_tiers (s : State) (p : Port) (tlp : Tlp) : (s.emit p tlp).tiers = s.tiers := rfl
@[simp] theorem State.emit_spareOf (s : State) (p : Port) (tlp : Tlp) : (s.emit p tlp).spareOf = s.spareOf := rfl
@[simp] theorem State.emit_sliceReports (s : State) (p : Port) (tlp : Tlp) : (s.emit p tlp).sliceReports = s.sliceReports := rfl
@[simp] theorem State.emit_withdrawn (s : State) (p : Port) (tlp : Tlp) : (s.emit p tlp).withdrawn = s.withdrawn := rfl
@[simp] theorem State.emit_deep (s : State) (p : Port) (tlp : Tlp) : (s.emit p tlp).deep = s.deep := rfl
@[simp] theorem State.emit_clk (s : State) (p : Port) (tlp : Tlp) : (s.emit p tlp).clk = s.clk := rfl
@[simp] theorem State.emit_power (s : State) (p : Port) (tlp : Tlp) : (s.emit p tlp).power = s.power := rfl
@[simp] theorem State.emit_breachWin (s : State) (p : Port) (tlp : Tlp) : (s.emit p tlp).breachWin = s.breachWin := rfl
@[simp] theorem State.emit_wires (s : State) (p : Port) (tlp : Tlp) : (s.emit p tlp).wires = s.wires := rfl
@[simp] theorem State.emit_pins (s : State) (p : Port) (tlp : Tlp) : (s.emit p tlp).pins = s.pins := rfl
@[simp] theorem State.emit_mgmt (s : State) (p : Port) (tlp : Tlp) : (s.emit p tlp).mgmt = s.mgmt := rfl
@[simp] theorem State.emit_nextId (s : State) (p : Port) (tlp : Tlp) : (s.emit p tlp).nextId = s.nextId := rfl
@[simp] theorem State.emit_free (s : State) (p : Port) (tlp : Tlp) : (s.emit p tlp).free = s.free := rfl

@[simp] theorem State.modTier_pending (s : State) (n : Nat) (f : Tier → Tier) : (s.modTier n f).pending = s.pending := rfl
@[simp] theorem State.modTier_grade (s : State) (n : Nat) (f : Tier → Tier) : (s.modTier n f).grade = s.grade := rfl
@[simp] theorem State.modTier_regs (s : State) (n : Nat) (f : Tier → Tier) : (s.modTier n f).regs = s.regs := rfl
@[simp] theorem State.modTier_mem (s : State) (n : Nat) (f : Tier → Tier) : (s.modTier n f).mem = s.mem := rfl
@[simp] theorem State.modTier_poison (s : State) (n : Nat) (f : Tier → Tier) : (s.modTier n f).poison = s.poison := rfl
@[simp] theorem State.modTier_failed (s : State) (n : Nat) (f : Tier → Tier) : (s.modTier n f).failed = s.failed := rfl
@[simp] theorem State.modTier_imemFailed (s : State) (n : Nat) (f : Tier → Tier) : (s.modTier n f).imemFailed = s.imemFailed := rfl
@[simp] theorem State.modTier_unreadable (s : State) (n : Nat) (f : Tier → Tier) : (s.modTier n f).unreadable = s.unreadable := rfl
@[simp] theorem State.modTier_ilv (s : State) (n : Nat) (f : Tier → Tier) : (s.modTier n f).ilv = s.ilv := rfl
@[simp] theorem State.modTier_owner (s : State) (n : Nat) (f : Tier → Tier) : (s.modTier n f).owner = s.owner := rfl
@[simp] theorem State.modTier_cores (s : State) (n : Nat) (f : Tier → Tier) : (s.modTier n f).cores = s.cores := rfl
@[simp] theorem State.modTier_txns (s : State) (n : Nat) (f : Tier → Tier) : (s.modTier n f).txns = s.txns := rfl
@[simp] theorem State.modTier_sync (s : State) (n : Nat) (f : Tier → Tier) : (s.modTier n f).sync = s.sync := rfl
@[simp] theorem State.modTier_parked (s : State) (n : Nat) (f : Tier → Tier) : (s.modTier n f).parked = s.parked := rfl
@[simp] theorem State.modTier_inputs (s : State) (n : Nat) (f : Tier → Tier) : (s.modTier n f).inputs = s.inputs := rfl
@[simp] theorem State.modTier_msgs (s : State) (n : Nat) (f : Tier → Tier) : (s.modTier n f).msgs = s.msgs := rfl
@[simp] theorem State.modTier_tokens (s : State) (n : Nat) (f : Tier → Tier) : (s.modTier n f).tokens = s.tokens := rfl
@[simp] theorem State.modTier_dmas (s : State) (n : Nat) (f : Tier → Tier) : (s.modTier n f).dmas = s.dmas := rfl
@[simp] theorem State.modTier_dmaTlb (s : State) (n : Nat) (f : Tier → Tier) : (s.modTier n f).dmaTlb = s.dmaTlb := rfl
@[simp] theorem State.modTier_arbs (s : State) (n : Nat) (f : Tier → Tier) : (s.modTier n f).arbs = s.arbs := rfl
@[simp] theorem State.modTier_images (s : State) (n : Nat) (f : Tier → Tier) : (s.modTier n f).images = s.images := rfl
@[simp] theorem State.modTier_gens (s : State) (n : Nat) (f : Tier → Tier) : (s.modTier n f).gens = s.gens := rfl
@[simp] theorem State.modTier_loading (s : State) (n : Nat) (f : Tier → Tier) : (s.modTier n f).loading = s.loading := rfl
@[simp] theorem State.modTier_lastLoadPort (s : State) (n : Nat) (f : Tier → Tier) : (s.modTier n f).lastLoadPort = s.lastLoadPort := rfl
@[simp] theorem State.modTier_claimed (s : State) (n : Nat) (f : Tier → Tier) : (s.modTier n f).claimed = s.claimed := rfl
@[simp] theorem State.modTier_ports (s : State) (n : Nat) (f : Tier → Tier) : (s.modTier n f).ports = s.ports := rfl
@[simp] theorem State.modTier_spareOf (s : State) (n : Nat) (f : Tier → Tier) : (s.modTier n f).spareOf = s.spareOf := rfl
@[simp] theorem State.modTier_sliceReports (s : State) (n : Nat) (f : Tier → Tier) : (s.modTier n f).sliceReports = s.sliceReports := rfl
@[simp] theorem State.modTier_withdrawn (s : State) (n : Nat) (f : Tier → Tier) : (s.modTier n f).withdrawn = s.withdrawn := rfl
@[simp] theorem State.modTier_deep (s : State) (n : Nat) (f : Tier → Tier) : (s.modTier n f).deep = s.deep := rfl
@[simp] theorem State.modTier_clk (s : State) (n : Nat) (f : Tier → Tier) : (s.modTier n f).clk = s.clk := rfl
@[simp] theorem State.modTier_power (s : State) (n : Nat) (f : Tier → Tier) : (s.modTier n f).power = s.power := rfl
@[simp] theorem State.modTier_breachWin (s : State) (n : Nat) (f : Tier → Tier) : (s.modTier n f).breachWin = s.breachWin := rfl
@[simp] theorem State.modTier_wires (s : State) (n : Nat) (f : Tier → Tier) : (s.modTier n f).wires = s.wires := rfl
@[simp] theorem State.modTier_pins (s : State) (n : Nat) (f : Tier → Tier) : (s.modTier n f).pins = s.pins := rfl
@[simp] theorem State.modTier_mgmt (s : State) (n : Nat) (f : Tier → Tier) : (s.modTier n f).mgmt = s.mgmt := rfl
@[simp] theorem State.modTier_nextId (s : State) (n : Nat) (f : Tier → Tier) : (s.modTier n f).nextId = s.nextId := rfl
@[simp] theorem State.modTier_free (s : State) (n : Nat) (f : Tier → Tier) : (s.modTier n f).free = s.free := rfl

@[simp] theorem State.modDma_pending (s : State) (n : Nat) (f : Dma → Dma) : (s.modDma n f).pending = s.pending := rfl
@[simp] theorem State.modDma_grade (s : State) (n : Nat) (f : Dma → Dma) : (s.modDma n f).grade = s.grade := rfl
@[simp] theorem State.modDma_regs (s : State) (n : Nat) (f : Dma → Dma) : (s.modDma n f).regs = s.regs := rfl
@[simp] theorem State.modDma_mem (s : State) (n : Nat) (f : Dma → Dma) : (s.modDma n f).mem = s.mem := rfl
@[simp] theorem State.modDma_poison (s : State) (n : Nat) (f : Dma → Dma) : (s.modDma n f).poison = s.poison := rfl
@[simp] theorem State.modDma_failed (s : State) (n : Nat) (f : Dma → Dma) : (s.modDma n f).failed = s.failed := rfl
@[simp] theorem State.modDma_imemFailed (s : State) (n : Nat) (f : Dma → Dma) : (s.modDma n f).imemFailed = s.imemFailed := rfl
@[simp] theorem State.modDma_unreadable (s : State) (n : Nat) (f : Dma → Dma) : (s.modDma n f).unreadable = s.unreadable := rfl
@[simp] theorem State.modDma_ilv (s : State) (n : Nat) (f : Dma → Dma) : (s.modDma n f).ilv = s.ilv := rfl
@[simp] theorem State.modDma_owner (s : State) (n : Nat) (f : Dma → Dma) : (s.modDma n f).owner = s.owner := rfl
@[simp] theorem State.modDma_cores (s : State) (n : Nat) (f : Dma → Dma) : (s.modDma n f).cores = s.cores := rfl
@[simp] theorem State.modDma_txns (s : State) (n : Nat) (f : Dma → Dma) : (s.modDma n f).txns = s.txns := rfl
@[simp] theorem State.modDma_sync (s : State) (n : Nat) (f : Dma → Dma) : (s.modDma n f).sync = s.sync := rfl
@[simp] theorem State.modDma_parked (s : State) (n : Nat) (f : Dma → Dma) : (s.modDma n f).parked = s.parked := rfl
@[simp] theorem State.modDma_inputs (s : State) (n : Nat) (f : Dma → Dma) : (s.modDma n f).inputs = s.inputs := rfl
@[simp] theorem State.modDma_msgs (s : State) (n : Nat) (f : Dma → Dma) : (s.modDma n f).msgs = s.msgs := rfl
@[simp] theorem State.modDma_tokens (s : State) (n : Nat) (f : Dma → Dma) : (s.modDma n f).tokens = s.tokens := rfl
@[simp] theorem State.modDma_dmaTlb (s : State) (n : Nat) (f : Dma → Dma) : (s.modDma n f).dmaTlb = s.dmaTlb := rfl
@[simp] theorem State.modDma_arbs (s : State) (n : Nat) (f : Dma → Dma) : (s.modDma n f).arbs = s.arbs := rfl
@[simp] theorem State.modDma_images (s : State) (n : Nat) (f : Dma → Dma) : (s.modDma n f).images = s.images := rfl
@[simp] theorem State.modDma_gens (s : State) (n : Nat) (f : Dma → Dma) : (s.modDma n f).gens = s.gens := rfl
@[simp] theorem State.modDma_loading (s : State) (n : Nat) (f : Dma → Dma) : (s.modDma n f).loading = s.loading := rfl
@[simp] theorem State.modDma_lastLoadPort (s : State) (n : Nat) (f : Dma → Dma) : (s.modDma n f).lastLoadPort = s.lastLoadPort := rfl
@[simp] theorem State.modDma_claimed (s : State) (n : Nat) (f : Dma → Dma) : (s.modDma n f).claimed = s.claimed := rfl
@[simp] theorem State.modDma_ports (s : State) (n : Nat) (f : Dma → Dma) : (s.modDma n f).ports = s.ports := rfl
@[simp] theorem State.modDma_tiers (s : State) (n : Nat) (f : Dma → Dma) : (s.modDma n f).tiers = s.tiers := rfl
@[simp] theorem State.modDma_spareOf (s : State) (n : Nat) (f : Dma → Dma) : (s.modDma n f).spareOf = s.spareOf := rfl
@[simp] theorem State.modDma_sliceReports (s : State) (n : Nat) (f : Dma → Dma) : (s.modDma n f).sliceReports = s.sliceReports := rfl
@[simp] theorem State.modDma_withdrawn (s : State) (n : Nat) (f : Dma → Dma) : (s.modDma n f).withdrawn = s.withdrawn := rfl
@[simp] theorem State.modDma_deep (s : State) (n : Nat) (f : Dma → Dma) : (s.modDma n f).deep = s.deep := rfl
@[simp] theorem State.modDma_clk (s : State) (n : Nat) (f : Dma → Dma) : (s.modDma n f).clk = s.clk := rfl
@[simp] theorem State.modDma_power (s : State) (n : Nat) (f : Dma → Dma) : (s.modDma n f).power = s.power := rfl
@[simp] theorem State.modDma_breachWin (s : State) (n : Nat) (f : Dma → Dma) : (s.modDma n f).breachWin = s.breachWin := rfl
@[simp] theorem State.modDma_wires (s : State) (n : Nat) (f : Dma → Dma) : (s.modDma n f).wires = s.wires := rfl
@[simp] theorem State.modDma_pins (s : State) (n : Nat) (f : Dma → Dma) : (s.modDma n f).pins = s.pins := rfl
@[simp] theorem State.modDma_mgmt (s : State) (n : Nat) (f : Dma → Dma) : (s.modDma n f).mgmt = s.mgmt := rfl
@[simp] theorem State.modDma_nextId (s : State) (n : Nat) (f : Dma → Dma) : (s.modDma n f).nextId = s.nextId := rfl
@[simp] theorem State.modDma_free (s : State) (n : Nat) (f : Dma → Dma) : (s.modDma n f).free = s.free := rfl

@[simp] theorem State.modMgmt_pending (s : State) (f : Mgmt → Mgmt) : (s.modMgmt f).pending = s.pending := rfl
@[simp] theorem State.modMgmt_grade (s : State) (f : Mgmt → Mgmt) : (s.modMgmt f).grade = s.grade := rfl
@[simp] theorem State.modMgmt_regs (s : State) (f : Mgmt → Mgmt) : (s.modMgmt f).regs = s.regs := rfl
@[simp] theorem State.modMgmt_mem (s : State) (f : Mgmt → Mgmt) : (s.modMgmt f).mem = s.mem := rfl
@[simp] theorem State.modMgmt_poison (s : State) (f : Mgmt → Mgmt) : (s.modMgmt f).poison = s.poison := rfl
@[simp] theorem State.modMgmt_failed (s : State) (f : Mgmt → Mgmt) : (s.modMgmt f).failed = s.failed := rfl
@[simp] theorem State.modMgmt_imemFailed (s : State) (f : Mgmt → Mgmt) : (s.modMgmt f).imemFailed = s.imemFailed := rfl
@[simp] theorem State.modMgmt_unreadable (s : State) (f : Mgmt → Mgmt) : (s.modMgmt f).unreadable = s.unreadable := rfl
@[simp] theorem State.modMgmt_ilv (s : State) (f : Mgmt → Mgmt) : (s.modMgmt f).ilv = s.ilv := rfl
@[simp] theorem State.modMgmt_owner (s : State) (f : Mgmt → Mgmt) : (s.modMgmt f).owner = s.owner := rfl
@[simp] theorem State.modMgmt_cores (s : State) (f : Mgmt → Mgmt) : (s.modMgmt f).cores = s.cores := rfl
@[simp] theorem State.modMgmt_txns (s : State) (f : Mgmt → Mgmt) : (s.modMgmt f).txns = s.txns := rfl
@[simp] theorem State.modMgmt_sync (s : State) (f : Mgmt → Mgmt) : (s.modMgmt f).sync = s.sync := rfl
@[simp] theorem State.modMgmt_parked (s : State) (f : Mgmt → Mgmt) : (s.modMgmt f).parked = s.parked := rfl
@[simp] theorem State.modMgmt_inputs (s : State) (f : Mgmt → Mgmt) : (s.modMgmt f).inputs = s.inputs := rfl
@[simp] theorem State.modMgmt_msgs (s : State) (f : Mgmt → Mgmt) : (s.modMgmt f).msgs = s.msgs := rfl
@[simp] theorem State.modMgmt_tokens (s : State) (f : Mgmt → Mgmt) : (s.modMgmt f).tokens = s.tokens := rfl
@[simp] theorem State.modMgmt_dmas (s : State) (f : Mgmt → Mgmt) : (s.modMgmt f).dmas = s.dmas := rfl
@[simp] theorem State.modMgmt_dmaTlb (s : State) (f : Mgmt → Mgmt) : (s.modMgmt f).dmaTlb = s.dmaTlb := rfl
@[simp] theorem State.modMgmt_arbs (s : State) (f : Mgmt → Mgmt) : (s.modMgmt f).arbs = s.arbs := rfl
@[simp] theorem State.modMgmt_images (s : State) (f : Mgmt → Mgmt) : (s.modMgmt f).images = s.images := rfl
@[simp] theorem State.modMgmt_gens (s : State) (f : Mgmt → Mgmt) : (s.modMgmt f).gens = s.gens := rfl
@[simp] theorem State.modMgmt_loading (s : State) (f : Mgmt → Mgmt) : (s.modMgmt f).loading = s.loading := rfl
@[simp] theorem State.modMgmt_lastLoadPort (s : State) (f : Mgmt → Mgmt) : (s.modMgmt f).lastLoadPort = s.lastLoadPort := rfl
@[simp] theorem State.modMgmt_claimed (s : State) (f : Mgmt → Mgmt) : (s.modMgmt f).claimed = s.claimed := rfl
@[simp] theorem State.modMgmt_ports (s : State) (f : Mgmt → Mgmt) : (s.modMgmt f).ports = s.ports := rfl
@[simp] theorem State.modMgmt_tiers (s : State) (f : Mgmt → Mgmt) : (s.modMgmt f).tiers = s.tiers := rfl
@[simp] theorem State.modMgmt_spareOf (s : State) (f : Mgmt → Mgmt) : (s.modMgmt f).spareOf = s.spareOf := rfl
@[simp] theorem State.modMgmt_sliceReports (s : State) (f : Mgmt → Mgmt) : (s.modMgmt f).sliceReports = s.sliceReports := rfl
@[simp] theorem State.modMgmt_withdrawn (s : State) (f : Mgmt → Mgmt) : (s.modMgmt f).withdrawn = s.withdrawn := rfl
@[simp] theorem State.modMgmt_deep (s : State) (f : Mgmt → Mgmt) : (s.modMgmt f).deep = s.deep := rfl
@[simp] theorem State.modMgmt_clk (s : State) (f : Mgmt → Mgmt) : (s.modMgmt f).clk = s.clk := rfl
@[simp] theorem State.modMgmt_power (s : State) (f : Mgmt → Mgmt) : (s.modMgmt f).power = s.power := rfl
@[simp] theorem State.modMgmt_breachWin (s : State) (f : Mgmt → Mgmt) : (s.modMgmt f).breachWin = s.breachWin := rfl
@[simp] theorem State.modMgmt_wires (s : State) (f : Mgmt → Mgmt) : (s.modMgmt f).wires = s.wires := rfl
@[simp] theorem State.modMgmt_pins (s : State) (f : Mgmt → Mgmt) : (s.modMgmt f).pins = s.pins := rfl
@[simp] theorem State.modMgmt_nextId (s : State) (f : Mgmt → Mgmt) : (s.modMgmt f).nextId = s.nextId := rfl
@[simp] theorem State.modMgmt_free (s : State) (f : Mgmt → Mgmt) : (s.modMgmt f).free = s.free := rfl

@[simp] theorem State.modTxn_pending (s : State) (i : Nat) (f : Txn → Txn) : (s.modTxn i f).pending = s.pending := rfl
@[simp] theorem State.modTxn_grade (s : State) (i : Nat) (f : Txn → Txn) : (s.modTxn i f).grade = s.grade := rfl
@[simp] theorem State.modTxn_regs (s : State) (i : Nat) (f : Txn → Txn) : (s.modTxn i f).regs = s.regs := rfl
@[simp] theorem State.modTxn_mem (s : State) (i : Nat) (f : Txn → Txn) : (s.modTxn i f).mem = s.mem := rfl
@[simp] theorem State.modTxn_poison (s : State) (i : Nat) (f : Txn → Txn) : (s.modTxn i f).poison = s.poison := rfl
@[simp] theorem State.modTxn_failed (s : State) (i : Nat) (f : Txn → Txn) : (s.modTxn i f).failed = s.failed := rfl
@[simp] theorem State.modTxn_imemFailed (s : State) (i : Nat) (f : Txn → Txn) : (s.modTxn i f).imemFailed = s.imemFailed := rfl
@[simp] theorem State.modTxn_unreadable (s : State) (i : Nat) (f : Txn → Txn) : (s.modTxn i f).unreadable = s.unreadable := rfl
@[simp] theorem State.modTxn_ilv (s : State) (i : Nat) (f : Txn → Txn) : (s.modTxn i f).ilv = s.ilv := rfl
@[simp] theorem State.modTxn_owner (s : State) (i : Nat) (f : Txn → Txn) : (s.modTxn i f).owner = s.owner := rfl
@[simp] theorem State.modTxn_cores (s : State) (i : Nat) (f : Txn → Txn) : (s.modTxn i f).cores = s.cores := rfl
@[simp] theorem State.modTxn_sync (s : State) (i : Nat) (f : Txn → Txn) : (s.modTxn i f).sync = s.sync := rfl
@[simp] theorem State.modTxn_parked (s : State) (i : Nat) (f : Txn → Txn) : (s.modTxn i f).parked = s.parked := rfl
@[simp] theorem State.modTxn_inputs (s : State) (i : Nat) (f : Txn → Txn) : (s.modTxn i f).inputs = s.inputs := rfl
@[simp] theorem State.modTxn_msgs (s : State) (i : Nat) (f : Txn → Txn) : (s.modTxn i f).msgs = s.msgs := rfl
@[simp] theorem State.modTxn_tokens (s : State) (i : Nat) (f : Txn → Txn) : (s.modTxn i f).tokens = s.tokens := rfl
@[simp] theorem State.modTxn_dmas (s : State) (i : Nat) (f : Txn → Txn) : (s.modTxn i f).dmas = s.dmas := rfl
@[simp] theorem State.modTxn_dmaTlb (s : State) (i : Nat) (f : Txn → Txn) : (s.modTxn i f).dmaTlb = s.dmaTlb := rfl
@[simp] theorem State.modTxn_arbs (s : State) (i : Nat) (f : Txn → Txn) : (s.modTxn i f).arbs = s.arbs := rfl
@[simp] theorem State.modTxn_images (s : State) (i : Nat) (f : Txn → Txn) : (s.modTxn i f).images = s.images := rfl
@[simp] theorem State.modTxn_gens (s : State) (i : Nat) (f : Txn → Txn) : (s.modTxn i f).gens = s.gens := rfl
@[simp] theorem State.modTxn_loading (s : State) (i : Nat) (f : Txn → Txn) : (s.modTxn i f).loading = s.loading := rfl
@[simp] theorem State.modTxn_lastLoadPort (s : State) (i : Nat) (f : Txn → Txn) : (s.modTxn i f).lastLoadPort = s.lastLoadPort := rfl
@[simp] theorem State.modTxn_claimed (s : State) (i : Nat) (f : Txn → Txn) : (s.modTxn i f).claimed = s.claimed := rfl
@[simp] theorem State.modTxn_ports (s : State) (i : Nat) (f : Txn → Txn) : (s.modTxn i f).ports = s.ports := rfl
@[simp] theorem State.modTxn_tiers (s : State) (i : Nat) (f : Txn → Txn) : (s.modTxn i f).tiers = s.tiers := rfl
@[simp] theorem State.modTxn_spareOf (s : State) (i : Nat) (f : Txn → Txn) : (s.modTxn i f).spareOf = s.spareOf := rfl
@[simp] theorem State.modTxn_sliceReports (s : State) (i : Nat) (f : Txn → Txn) : (s.modTxn i f).sliceReports = s.sliceReports := rfl
@[simp] theorem State.modTxn_withdrawn (s : State) (i : Nat) (f : Txn → Txn) : (s.modTxn i f).withdrawn = s.withdrawn := rfl
@[simp] theorem State.modTxn_deep (s : State) (i : Nat) (f : Txn → Txn) : (s.modTxn i f).deep = s.deep := rfl
@[simp] theorem State.modTxn_clk (s : State) (i : Nat) (f : Txn → Txn) : (s.modTxn i f).clk = s.clk := rfl
@[simp] theorem State.modTxn_power (s : State) (i : Nat) (f : Txn → Txn) : (s.modTxn i f).power = s.power := rfl
@[simp] theorem State.modTxn_breachWin (s : State) (i : Nat) (f : Txn → Txn) : (s.modTxn i f).breachWin = s.breachWin := rfl
@[simp] theorem State.modTxn_wires (s : State) (i : Nat) (f : Txn → Txn) : (s.modTxn i f).wires = s.wires := rfl
@[simp] theorem State.modTxn_pins (s : State) (i : Nat) (f : Txn → Txn) : (s.modTxn i f).pins = s.pins := rfl
@[simp] theorem State.modTxn_mgmt (s : State) (i : Nat) (f : Txn → Txn) : (s.modTxn i f).mgmt = s.mgmt := rfl
@[simp] theorem State.modTxn_nextId (s : State) (i : Nat) (f : Txn → Txn) : (s.modTxn i f).nextId = s.nextId := rfl
@[simp] theorem State.modTxn_free (s : State) (i : Nat) (f : Txn → Txn) : (s.modTxn i f).free = s.free := rfl

@[simp] theorem State.dropTxn_pending (s : State) (i : Nat) : (s.dropTxn i).pending = s.pending := rfl
@[simp] theorem State.dropTxn_grade (s : State) (i : Nat) : (s.dropTxn i).grade = s.grade := rfl
@[simp] theorem State.dropTxn_regs (s : State) (i : Nat) : (s.dropTxn i).regs = s.regs := rfl
@[simp] theorem State.dropTxn_mem (s : State) (i : Nat) : (s.dropTxn i).mem = s.mem := rfl
@[simp] theorem State.dropTxn_poison (s : State) (i : Nat) : (s.dropTxn i).poison = s.poison := rfl
@[simp] theorem State.dropTxn_failed (s : State) (i : Nat) : (s.dropTxn i).failed = s.failed := rfl
@[simp] theorem State.dropTxn_imemFailed (s : State) (i : Nat) : (s.dropTxn i).imemFailed = s.imemFailed := rfl
@[simp] theorem State.dropTxn_unreadable (s : State) (i : Nat) : (s.dropTxn i).unreadable = s.unreadable := rfl
@[simp] theorem State.dropTxn_ilv (s : State) (i : Nat) : (s.dropTxn i).ilv = s.ilv := rfl
@[simp] theorem State.dropTxn_owner (s : State) (i : Nat) : (s.dropTxn i).owner = s.owner := rfl
@[simp] theorem State.dropTxn_cores (s : State) (i : Nat) : (s.dropTxn i).cores = s.cores := rfl
@[simp] theorem State.dropTxn_sync (s : State) (i : Nat) : (s.dropTxn i).sync = s.sync := rfl
@[simp] theorem State.dropTxn_parked (s : State) (i : Nat) : (s.dropTxn i).parked = s.parked := rfl
@[simp] theorem State.dropTxn_inputs (s : State) (i : Nat) : (s.dropTxn i).inputs = s.inputs := rfl
@[simp] theorem State.dropTxn_msgs (s : State) (i : Nat) : (s.dropTxn i).msgs = s.msgs := rfl
@[simp] theorem State.dropTxn_tokens (s : State) (i : Nat) : (s.dropTxn i).tokens = s.tokens := rfl
@[simp] theorem State.dropTxn_dmas (s : State) (i : Nat) : (s.dropTxn i).dmas = s.dmas := rfl
@[simp] theorem State.dropTxn_dmaTlb (s : State) (i : Nat) : (s.dropTxn i).dmaTlb = s.dmaTlb := rfl
@[simp] theorem State.dropTxn_arbs (s : State) (i : Nat) : (s.dropTxn i).arbs = s.arbs := rfl
@[simp] theorem State.dropTxn_images (s : State) (i : Nat) : (s.dropTxn i).images = s.images := rfl
@[simp] theorem State.dropTxn_gens (s : State) (i : Nat) : (s.dropTxn i).gens = s.gens := rfl
@[simp] theorem State.dropTxn_loading (s : State) (i : Nat) : (s.dropTxn i).loading = s.loading := rfl
@[simp] theorem State.dropTxn_lastLoadPort (s : State) (i : Nat) : (s.dropTxn i).lastLoadPort = s.lastLoadPort := rfl
@[simp] theorem State.dropTxn_claimed (s : State) (i : Nat) : (s.dropTxn i).claimed = s.claimed := rfl
@[simp] theorem State.dropTxn_ports (s : State) (i : Nat) : (s.dropTxn i).ports = s.ports := rfl
@[simp] theorem State.dropTxn_tiers (s : State) (i : Nat) : (s.dropTxn i).tiers = s.tiers := rfl
@[simp] theorem State.dropTxn_spareOf (s : State) (i : Nat) : (s.dropTxn i).spareOf = s.spareOf := rfl
@[simp] theorem State.dropTxn_sliceReports (s : State) (i : Nat) : (s.dropTxn i).sliceReports = s.sliceReports := rfl
@[simp] theorem State.dropTxn_withdrawn (s : State) (i : Nat) : (s.dropTxn i).withdrawn = s.withdrawn := rfl
@[simp] theorem State.dropTxn_deep (s : State) (i : Nat) : (s.dropTxn i).deep = s.deep := rfl
@[simp] theorem State.dropTxn_clk (s : State) (i : Nat) : (s.dropTxn i).clk = s.clk := rfl
@[simp] theorem State.dropTxn_power (s : State) (i : Nat) : (s.dropTxn i).power = s.power := rfl
@[simp] theorem State.dropTxn_breachWin (s : State) (i : Nat) : (s.dropTxn i).breachWin = s.breachWin := rfl
@[simp] theorem State.dropTxn_wires (s : State) (i : Nat) : (s.dropTxn i).wires = s.wires := rfl
@[simp] theorem State.dropTxn_pins (s : State) (i : Nat) : (s.dropTxn i).pins = s.pins := rfl
@[simp] theorem State.dropTxn_mgmt (s : State) (i : Nat) : (s.dropTxn i).mgmt = s.mgmt := rfl
@[simp] theorem State.dropTxn_nextId (s : State) (i : Nat) : (s.dropTxn i).nextId = s.nextId := rfl
@[simp] theorem State.dropTxn_free (s : State) (i : Nat) : (s.dropTxn i).free = s.free := rfl

@[simp] theorem State.modDeep_pending (s : State) (f : Deep → Deep) : (s.modDeep f).pending = s.pending := rfl
@[simp] theorem State.modDeep_grade (s : State) (f : Deep → Deep) : (s.modDeep f).grade = s.grade := rfl
@[simp] theorem State.modDeep_regs (s : State) (f : Deep → Deep) : (s.modDeep f).regs = s.regs := rfl
@[simp] theorem State.modDeep_mem (s : State) (f : Deep → Deep) : (s.modDeep f).mem = s.mem := rfl
@[simp] theorem State.modDeep_poison (s : State) (f : Deep → Deep) : (s.modDeep f).poison = s.poison := rfl
@[simp] theorem State.modDeep_failed (s : State) (f : Deep → Deep) : (s.modDeep f).failed = s.failed := rfl
@[simp] theorem State.modDeep_imemFailed (s : State) (f : Deep → Deep) : (s.modDeep f).imemFailed = s.imemFailed := rfl
@[simp] theorem State.modDeep_unreadable (s : State) (f : Deep → Deep) : (s.modDeep f).unreadable = s.unreadable := rfl
@[simp] theorem State.modDeep_ilv (s : State) (f : Deep → Deep) : (s.modDeep f).ilv = s.ilv := rfl
@[simp] theorem State.modDeep_owner (s : State) (f : Deep → Deep) : (s.modDeep f).owner = s.owner := rfl
@[simp] theorem State.modDeep_cores (s : State) (f : Deep → Deep) : (s.modDeep f).cores = s.cores := rfl
@[simp] theorem State.modDeep_txns (s : State) (f : Deep → Deep) : (s.modDeep f).txns = s.txns := rfl
@[simp] theorem State.modDeep_sync (s : State) (f : Deep → Deep) : (s.modDeep f).sync = s.sync := rfl
@[simp] theorem State.modDeep_parked (s : State) (f : Deep → Deep) : (s.modDeep f).parked = s.parked := rfl
@[simp] theorem State.modDeep_inputs (s : State) (f : Deep → Deep) : (s.modDeep f).inputs = s.inputs := rfl
@[simp] theorem State.modDeep_msgs (s : State) (f : Deep → Deep) : (s.modDeep f).msgs = s.msgs := rfl
@[simp] theorem State.modDeep_tokens (s : State) (f : Deep → Deep) : (s.modDeep f).tokens = s.tokens := rfl
@[simp] theorem State.modDeep_dmas (s : State) (f : Deep → Deep) : (s.modDeep f).dmas = s.dmas := rfl
@[simp] theorem State.modDeep_dmaTlb (s : State) (f : Deep → Deep) : (s.modDeep f).dmaTlb = s.dmaTlb := rfl
@[simp] theorem State.modDeep_arbs (s : State) (f : Deep → Deep) : (s.modDeep f).arbs = s.arbs := rfl
@[simp] theorem State.modDeep_images (s : State) (f : Deep → Deep) : (s.modDeep f).images = s.images := rfl
@[simp] theorem State.modDeep_gens (s : State) (f : Deep → Deep) : (s.modDeep f).gens = s.gens := rfl
@[simp] theorem State.modDeep_loading (s : State) (f : Deep → Deep) : (s.modDeep f).loading = s.loading := rfl
@[simp] theorem State.modDeep_lastLoadPort (s : State) (f : Deep → Deep) : (s.modDeep f).lastLoadPort = s.lastLoadPort := rfl
@[simp] theorem State.modDeep_claimed (s : State) (f : Deep → Deep) : (s.modDeep f).claimed = s.claimed := rfl
@[simp] theorem State.modDeep_ports (s : State) (f : Deep → Deep) : (s.modDeep f).ports = s.ports := rfl
@[simp] theorem State.modDeep_tiers (s : State) (f : Deep → Deep) : (s.modDeep f).tiers = s.tiers := rfl
@[simp] theorem State.modDeep_spareOf (s : State) (f : Deep → Deep) : (s.modDeep f).spareOf = s.spareOf := rfl
@[simp] theorem State.modDeep_sliceReports (s : State) (f : Deep → Deep) : (s.modDeep f).sliceReports = s.sliceReports := rfl
@[simp] theorem State.modDeep_withdrawn (s : State) (f : Deep → Deep) : (s.modDeep f).withdrawn = s.withdrawn := rfl
@[simp] theorem State.modDeep_clk (s : State) (f : Deep → Deep) : (s.modDeep f).clk = s.clk := rfl
@[simp] theorem State.modDeep_power (s : State) (f : Deep → Deep) : (s.modDeep f).power = s.power := rfl
@[simp] theorem State.modDeep_breachWin (s : State) (f : Deep → Deep) : (s.modDeep f).breachWin = s.breachWin := rfl
@[simp] theorem State.modDeep_wires (s : State) (f : Deep → Deep) : (s.modDeep f).wires = s.wires := rfl
@[simp] theorem State.modDeep_pins (s : State) (f : Deep → Deep) : (s.modDeep f).pins = s.pins := rfl
@[simp] theorem State.modDeep_mgmt (s : State) (f : Deep → Deep) : (s.modDeep f).mgmt = s.mgmt := rfl
@[simp] theorem State.modDeep_nextId (s : State) (f : Deep → Deep) : (s.modDeep f).nextId = s.nextId := rfl
@[simp] theorem State.modDeep_free (s : State) (f : Deep → Deep) : (s.modDeep f).free = s.free := rfl

@[simp] theorem State.draw_pending (s : State) : (s.draw.2).pending = s.pending := rfl
@[simp] theorem State.draw_grade (s : State) : (s.draw.2).grade = s.grade := rfl
@[simp] theorem State.draw_regs (s : State) : (s.draw.2).regs = s.regs := rfl
@[simp] theorem State.draw_mem (s : State) : (s.draw.2).mem = s.mem := rfl
@[simp] theorem State.draw_poison (s : State) : (s.draw.2).poison = s.poison := rfl
@[simp] theorem State.draw_failed (s : State) : (s.draw.2).failed = s.failed := rfl
@[simp] theorem State.draw_imemFailed (s : State) : (s.draw.2).imemFailed = s.imemFailed := rfl
@[simp] theorem State.draw_unreadable (s : State) : (s.draw.2).unreadable = s.unreadable := rfl
@[simp] theorem State.draw_ilv (s : State) : (s.draw.2).ilv = s.ilv := rfl
@[simp] theorem State.draw_owner (s : State) : (s.draw.2).owner = s.owner := rfl
@[simp] theorem State.draw_cores (s : State) : (s.draw.2).cores = s.cores := rfl
@[simp] theorem State.draw_txns (s : State) : (s.draw.2).txns = s.txns := rfl
@[simp] theorem State.draw_sync (s : State) : (s.draw.2).sync = s.sync := rfl
@[simp] theorem State.draw_parked (s : State) : (s.draw.2).parked = s.parked := rfl
@[simp] theorem State.draw_inputs (s : State) : (s.draw.2).inputs = s.inputs := rfl
@[simp] theorem State.draw_msgs (s : State) : (s.draw.2).msgs = s.msgs := rfl
@[simp] theorem State.draw_tokens (s : State) : (s.draw.2).tokens = s.tokens := rfl
@[simp] theorem State.draw_dmas (s : State) : (s.draw.2).dmas = s.dmas := rfl
@[simp] theorem State.draw_dmaTlb (s : State) : (s.draw.2).dmaTlb = s.dmaTlb := rfl
@[simp] theorem State.draw_arbs (s : State) : (s.draw.2).arbs = s.arbs := rfl
@[simp] theorem State.draw_images (s : State) : (s.draw.2).images = s.images := rfl
@[simp] theorem State.draw_gens (s : State) : (s.draw.2).gens = s.gens := rfl
@[simp] theorem State.draw_loading (s : State) : (s.draw.2).loading = s.loading := rfl
@[simp] theorem State.draw_lastLoadPort (s : State) : (s.draw.2).lastLoadPort = s.lastLoadPort := rfl
@[simp] theorem State.draw_claimed (s : State) : (s.draw.2).claimed = s.claimed := rfl
@[simp] theorem State.draw_ports (s : State) : (s.draw.2).ports = s.ports := rfl
@[simp] theorem State.draw_tiers (s : State) : (s.draw.2).tiers = s.tiers := rfl
@[simp] theorem State.draw_spareOf (s : State) : (s.draw.2).spareOf = s.spareOf := rfl
@[simp] theorem State.draw_sliceReports (s : State) : (s.draw.2).sliceReports = s.sliceReports := rfl
@[simp] theorem State.draw_withdrawn (s : State) : (s.draw.2).withdrawn = s.withdrawn := rfl
@[simp] theorem State.draw_deep (s : State) : (s.draw.2).deep = s.deep := rfl
@[simp] theorem State.draw_clk (s : State) : (s.draw.2).clk = s.clk := rfl
@[simp] theorem State.draw_power (s : State) : (s.draw.2).power = s.power := rfl
@[simp] theorem State.draw_breachWin (s : State) : (s.draw.2).breachWin = s.breachWin := rfl
@[simp] theorem State.draw_wires (s : State) : (s.draw.2).wires = s.wires := rfl
@[simp] theorem State.draw_pins (s : State) : (s.draw.2).pins = s.pins := rfl
@[simp] theorem State.draw_mgmt (s : State) : (s.draw.2).mgmt = s.mgmt := rfl
@[simp] theorem State.draw_nextId (s : State) : (s.draw.2).nextId = s.nextId := rfl

@[simp] theorem State.fresh_pending (s : State) : (s.fresh.2).pending = s.pending := rfl
@[simp] theorem State.fresh_grade (s : State) : (s.fresh.2).grade = s.grade := rfl
@[simp] theorem State.fresh_regs (s : State) : (s.fresh.2).regs = s.regs := rfl
@[simp] theorem State.fresh_mem (s : State) : (s.fresh.2).mem = s.mem := rfl
@[simp] theorem State.fresh_poison (s : State) : (s.fresh.2).poison = s.poison := rfl
@[simp] theorem State.fresh_failed (s : State) : (s.fresh.2).failed = s.failed := rfl
@[simp] theorem State.fresh_imemFailed (s : State) : (s.fresh.2).imemFailed = s.imemFailed := rfl
@[simp] theorem State.fresh_unreadable (s : State) : (s.fresh.2).unreadable = s.unreadable := rfl
@[simp] theorem State.fresh_ilv (s : State) : (s.fresh.2).ilv = s.ilv := rfl
@[simp] theorem State.fresh_owner (s : State) : (s.fresh.2).owner = s.owner := rfl
@[simp] theorem State.fresh_cores (s : State) : (s.fresh.2).cores = s.cores := rfl
@[simp] theorem State.fresh_txns (s : State) : (s.fresh.2).txns = s.txns := rfl
@[simp] theorem State.fresh_sync (s : State) : (s.fresh.2).sync = s.sync := rfl
@[simp] theorem State.fresh_parked (s : State) : (s.fresh.2).parked = s.parked := rfl
@[simp] theorem State.fresh_inputs (s : State) : (s.fresh.2).inputs = s.inputs := rfl
@[simp] theorem State.fresh_msgs (s : State) : (s.fresh.2).msgs = s.msgs := rfl
@[simp] theorem State.fresh_tokens (s : State) : (s.fresh.2).tokens = s.tokens := rfl
@[simp] theorem State.fresh_dmas (s : State) : (s.fresh.2).dmas = s.dmas := rfl
@[simp] theorem State.fresh_dmaTlb (s : State) : (s.fresh.2).dmaTlb = s.dmaTlb := rfl
@[simp] theorem State.fresh_arbs (s : State) : (s.fresh.2).arbs = s.arbs := rfl
@[simp] theorem State.fresh_images (s : State) : (s.fresh.2).images = s.images := rfl
@[simp] theorem State.fresh_gens (s : State) : (s.fresh.2).gens = s.gens := rfl
@[simp] theorem State.fresh_loading (s : State) : (s.fresh.2).loading = s.loading := rfl
@[simp] theorem State.fresh_lastLoadPort (s : State) : (s.fresh.2).lastLoadPort = s.lastLoadPort := rfl
@[simp] theorem State.fresh_claimed (s : State) : (s.fresh.2).claimed = s.claimed := rfl
@[simp] theorem State.fresh_ports (s : State) : (s.fresh.2).ports = s.ports := rfl
@[simp] theorem State.fresh_tiers (s : State) : (s.fresh.2).tiers = s.tiers := rfl
@[simp] theorem State.fresh_spareOf (s : State) : (s.fresh.2).spareOf = s.spareOf := rfl
@[simp] theorem State.fresh_sliceReports (s : State) : (s.fresh.2).sliceReports = s.sliceReports := rfl
@[simp] theorem State.fresh_withdrawn (s : State) : (s.fresh.2).withdrawn = s.withdrawn := rfl
@[simp] theorem State.fresh_deep (s : State) : (s.fresh.2).deep = s.deep := rfl
@[simp] theorem State.fresh_clk (s : State) : (s.fresh.2).clk = s.clk := rfl
@[simp] theorem State.fresh_power (s : State) : (s.fresh.2).power = s.power := rfl
@[simp] theorem State.fresh_breachWin (s : State) : (s.fresh.2).breachWin = s.breachWin := rfl
@[simp] theorem State.fresh_wires (s : State) : (s.fresh.2).wires = s.wires := rfl
@[simp] theorem State.fresh_pins (s : State) : (s.fresh.2).pins = s.pins := rfl
@[simp] theorem State.fresh_mgmt (s : State) : (s.fresh.2).mgmt = s.mgmt := rfl
@[simp] theorem State.fresh_free (s : State) : (s.fresh.2).free = s.free := rfl

@[simp] theorem State.alertPin_pending (s : State) : (s.alertPin).pending = s.pending := rfl
@[simp] theorem State.alertPin_grade (s : State) : (s.alertPin).grade = s.grade := rfl
@[simp] theorem State.alertPin_regs (s : State) : (s.alertPin).regs = s.regs := rfl
@[simp] theorem State.alertPin_mem (s : State) : (s.alertPin).mem = s.mem := rfl
@[simp] theorem State.alertPin_poison (s : State) : (s.alertPin).poison = s.poison := rfl
@[simp] theorem State.alertPin_failed (s : State) : (s.alertPin).failed = s.failed := rfl
@[simp] theorem State.alertPin_imemFailed (s : State) : (s.alertPin).imemFailed = s.imemFailed := rfl
@[simp] theorem State.alertPin_unreadable (s : State) : (s.alertPin).unreadable = s.unreadable := rfl
@[simp] theorem State.alertPin_ilv (s : State) : (s.alertPin).ilv = s.ilv := rfl
@[simp] theorem State.alertPin_owner (s : State) : (s.alertPin).owner = s.owner := rfl
@[simp] theorem State.alertPin_cores (s : State) : (s.alertPin).cores = s.cores := rfl
@[simp] theorem State.alertPin_txns (s : State) : (s.alertPin).txns = s.txns := rfl
@[simp] theorem State.alertPin_sync (s : State) : (s.alertPin).sync = s.sync := rfl
@[simp] theorem State.alertPin_parked (s : State) : (s.alertPin).parked = s.parked := rfl
@[simp] theorem State.alertPin_inputs (s : State) : (s.alertPin).inputs = s.inputs := rfl
@[simp] theorem State.alertPin_msgs (s : State) : (s.alertPin).msgs = s.msgs := rfl
@[simp] theorem State.alertPin_tokens (s : State) : (s.alertPin).tokens = s.tokens := rfl
@[simp] theorem State.alertPin_dmas (s : State) : (s.alertPin).dmas = s.dmas := rfl
@[simp] theorem State.alertPin_dmaTlb (s : State) : (s.alertPin).dmaTlb = s.dmaTlb := rfl
@[simp] theorem State.alertPin_arbs (s : State) : (s.alertPin).arbs = s.arbs := rfl
@[simp] theorem State.alertPin_images (s : State) : (s.alertPin).images = s.images := rfl
@[simp] theorem State.alertPin_gens (s : State) : (s.alertPin).gens = s.gens := rfl
@[simp] theorem State.alertPin_loading (s : State) : (s.alertPin).loading = s.loading := rfl
@[simp] theorem State.alertPin_lastLoadPort (s : State) : (s.alertPin).lastLoadPort = s.lastLoadPort := rfl
@[simp] theorem State.alertPin_claimed (s : State) : (s.alertPin).claimed = s.claimed := rfl
@[simp] theorem State.alertPin_ports (s : State) : (s.alertPin).ports = s.ports := rfl
@[simp] theorem State.alertPin_tiers (s : State) : (s.alertPin).tiers = s.tiers := rfl
@[simp] theorem State.alertPin_spareOf (s : State) : (s.alertPin).spareOf = s.spareOf := rfl
@[simp] theorem State.alertPin_sliceReports (s : State) : (s.alertPin).sliceReports = s.sliceReports := rfl
@[simp] theorem State.alertPin_withdrawn (s : State) : (s.alertPin).withdrawn = s.withdrawn := rfl
@[simp] theorem State.alertPin_deep (s : State) : (s.alertPin).deep = s.deep := rfl
@[simp] theorem State.alertPin_clk (s : State) : (s.alertPin).clk = s.clk := rfl
@[simp] theorem State.alertPin_power (s : State) : (s.alertPin).power = s.power := rfl
@[simp] theorem State.alertPin_breachWin (s : State) : (s.alertPin).breachWin = s.breachWin := rfl
@[simp] theorem State.alertPin_wires (s : State) : (s.alertPin).wires = s.wires := rfl
@[simp] theorem State.alertPin_mgmt (s : State) : (s.alertPin).mgmt = s.mgmt := rfl
@[simp] theorem State.alertPin_nextId (s : State) : (s.alertPin).nextId = s.nextId := rfl
@[simp] theorem State.alertPin_free (s : State) : (s.alertPin).free = s.free := rfl

@[simp] theorem State.alert_pending (s : State) (f : Field) : (s.alert f).pending = s.pending := rfl
@[simp] theorem State.alert_grade (s : State) (f : Field) : (s.alert f).grade = s.grade := rfl
@[simp] theorem State.alert_mem (s : State) (f : Field) : (s.alert f).mem = s.mem := rfl
@[simp] theorem State.alert_poison (s : State) (f : Field) : (s.alert f).poison = s.poison := rfl
@[simp] theorem State.alert_failed (s : State) (f : Field) : (s.alert f).failed = s.failed := rfl
@[simp] theorem State.alert_imemFailed (s : State) (f : Field) : (s.alert f).imemFailed = s.imemFailed := rfl
@[simp] theorem State.alert_unreadable (s : State) (f : Field) : (s.alert f).unreadable = s.unreadable := rfl
@[simp] theorem State.alert_ilv (s : State) (f : Field) : (s.alert f).ilv = s.ilv := rfl
@[simp] theorem State.alert_owner (s : State) (f : Field) : (s.alert f).owner = s.owner := rfl
@[simp] theorem State.alert_cores (s : State) (f : Field) : (s.alert f).cores = s.cores := rfl
@[simp] theorem State.alert_txns (s : State) (f : Field) : (s.alert f).txns = s.txns := rfl
@[simp] theorem State.alert_sync (s : State) (f : Field) : (s.alert f).sync = s.sync := rfl
@[simp] theorem State.alert_parked (s : State) (f : Field) : (s.alert f).parked = s.parked := rfl
@[simp] theorem State.alert_inputs (s : State) (f : Field) : (s.alert f).inputs = s.inputs := rfl
@[simp] theorem State.alert_msgs (s : State) (f : Field) : (s.alert f).msgs = s.msgs := rfl
@[simp] theorem State.alert_tokens (s : State) (f : Field) : (s.alert f).tokens = s.tokens := rfl
@[simp] theorem State.alert_dmas (s : State) (f : Field) : (s.alert f).dmas = s.dmas := rfl
@[simp] theorem State.alert_dmaTlb (s : State) (f : Field) : (s.alert f).dmaTlb = s.dmaTlb := rfl
@[simp] theorem State.alert_arbs (s : State) (f : Field) : (s.alert f).arbs = s.arbs := rfl
@[simp] theorem State.alert_images (s : State) (f : Field) : (s.alert f).images = s.images := rfl
@[simp] theorem State.alert_gens (s : State) (f : Field) : (s.alert f).gens = s.gens := rfl
@[simp] theorem State.alert_loading (s : State) (f : Field) : (s.alert f).loading = s.loading := rfl
@[simp] theorem State.alert_lastLoadPort (s : State) (f : Field) : (s.alert f).lastLoadPort = s.lastLoadPort := rfl
@[simp] theorem State.alert_claimed (s : State) (f : Field) : (s.alert f).claimed = s.claimed := rfl
@[simp] theorem State.alert_ports (s : State) (f : Field) : (s.alert f).ports = s.ports := rfl
@[simp] theorem State.alert_tiers (s : State) (f : Field) : (s.alert f).tiers = s.tiers := rfl
@[simp] theorem State.alert_spareOf (s : State) (f : Field) : (s.alert f).spareOf = s.spareOf := rfl
@[simp] theorem State.alert_sliceReports (s : State) (f : Field) : (s.alert f).sliceReports = s.sliceReports := rfl
@[simp] theorem State.alert_withdrawn (s : State) (f : Field) : (s.alert f).withdrawn = s.withdrawn := rfl
@[simp] theorem State.alert_deep (s : State) (f : Field) : (s.alert f).deep = s.deep := rfl
@[simp] theorem State.alert_clk (s : State) (f : Field) : (s.alert f).clk = s.clk := rfl
@[simp] theorem State.alert_power (s : State) (f : Field) : (s.alert f).power = s.power := rfl
@[simp] theorem State.alert_breachWin (s : State) (f : Field) : (s.alert f).breachWin = s.breachWin := rfl
@[simp] theorem State.alert_wires (s : State) (f : Field) : (s.alert f).wires = s.wires := rfl
@[simp] theorem State.alert_mgmt (s : State) (f : Field) : (s.alert f).mgmt = s.mgmt := rfl
@[simp] theorem State.alert_nextId (s : State) (f : Field) : (s.alert f).nextId = s.nextId := rfl
@[simp] theorem State.alert_free (s : State) (f : Field) : (s.alert f).free = s.free := rfl

@[simp] theorem State.send_pending (s : State) (src : Source) (a : Nat) (op : MemOp) (p : Purpose) (o : List (Nat × Byte)) (v : Option Nat) : (s.send src a op p o v).pending = s.pending := rfl
@[simp] theorem State.send_grade (s : State) (src : Source) (a : Nat) (op : MemOp) (p : Purpose) (o : List (Nat × Byte)) (v : Option Nat) : (s.send src a op p o v).grade = s.grade := rfl
@[simp] theorem State.send_regs (s : State) (src : Source) (a : Nat) (op : MemOp) (p : Purpose) (o : List (Nat × Byte)) (v : Option Nat) : (s.send src a op p o v).regs = s.regs := rfl
@[simp] theorem State.send_mem (s : State) (src : Source) (a : Nat) (op : MemOp) (p : Purpose) (o : List (Nat × Byte)) (v : Option Nat) : (s.send src a op p o v).mem = s.mem := rfl
@[simp] theorem State.send_poison (s : State) (src : Source) (a : Nat) (op : MemOp) (p : Purpose) (o : List (Nat × Byte)) (v : Option Nat) : (s.send src a op p o v).poison = s.poison := rfl
@[simp] theorem State.send_failed (s : State) (src : Source) (a : Nat) (op : MemOp) (p : Purpose) (o : List (Nat × Byte)) (v : Option Nat) : (s.send src a op p o v).failed = s.failed := rfl
@[simp] theorem State.send_imemFailed (s : State) (src : Source) (a : Nat) (op : MemOp) (p : Purpose) (o : List (Nat × Byte)) (v : Option Nat) : (s.send src a op p o v).imemFailed = s.imemFailed := rfl
@[simp] theorem State.send_unreadable (s : State) (src : Source) (a : Nat) (op : MemOp) (p : Purpose) (o : List (Nat × Byte)) (v : Option Nat) : (s.send src a op p o v).unreadable = s.unreadable := rfl
@[simp] theorem State.send_ilv (s : State) (src : Source) (a : Nat) (op : MemOp) (p : Purpose) (o : List (Nat × Byte)) (v : Option Nat) : (s.send src a op p o v).ilv = s.ilv := rfl
@[simp] theorem State.send_owner (s : State) (src : Source) (a : Nat) (op : MemOp) (p : Purpose) (o : List (Nat × Byte)) (v : Option Nat) : (s.send src a op p o v).owner = s.owner := rfl
@[simp] theorem State.send_cores (s : State) (src : Source) (a : Nat) (op : MemOp) (p : Purpose) (o : List (Nat × Byte)) (v : Option Nat) : (s.send src a op p o v).cores = s.cores := rfl
@[simp] theorem State.send_sync (s : State) (src : Source) (a : Nat) (op : MemOp) (p : Purpose) (o : List (Nat × Byte)) (v : Option Nat) : (s.send src a op p o v).sync = s.sync := rfl
@[simp] theorem State.send_parked (s : State) (src : Source) (a : Nat) (op : MemOp) (p : Purpose) (o : List (Nat × Byte)) (v : Option Nat) : (s.send src a op p o v).parked = s.parked := rfl
@[simp] theorem State.send_inputs (s : State) (src : Source) (a : Nat) (op : MemOp) (p : Purpose) (o : List (Nat × Byte)) (v : Option Nat) : (s.send src a op p o v).inputs = s.inputs := rfl
@[simp] theorem State.send_msgs (s : State) (src : Source) (a : Nat) (op : MemOp) (p : Purpose) (o : List (Nat × Byte)) (v : Option Nat) : (s.send src a op p o v).msgs = s.msgs := rfl
@[simp] theorem State.send_tokens (s : State) (src : Source) (a : Nat) (op : MemOp) (p : Purpose) (o : List (Nat × Byte)) (v : Option Nat) : (s.send src a op p o v).tokens = s.tokens := rfl
@[simp] theorem State.send_dmas (s : State) (src : Source) (a : Nat) (op : MemOp) (p : Purpose) (o : List (Nat × Byte)) (v : Option Nat) : (s.send src a op p o v).dmas = s.dmas := rfl
@[simp] theorem State.send_dmaTlb (s : State) (src : Source) (a : Nat) (op : MemOp) (p : Purpose) (o : List (Nat × Byte)) (v : Option Nat) : (s.send src a op p o v).dmaTlb = s.dmaTlb := rfl
@[simp] theorem State.send_arbs (s : State) (src : Source) (a : Nat) (op : MemOp) (p : Purpose) (o : List (Nat × Byte)) (v : Option Nat) : (s.send src a op p o v).arbs = s.arbs := rfl
@[simp] theorem State.send_images (s : State) (src : Source) (a : Nat) (op : MemOp) (p : Purpose) (o : List (Nat × Byte)) (v : Option Nat) : (s.send src a op p o v).images = s.images := rfl
@[simp] theorem State.send_gens (s : State) (src : Source) (a : Nat) (op : MemOp) (p : Purpose) (o : List (Nat × Byte)) (v : Option Nat) : (s.send src a op p o v).gens = s.gens := rfl
@[simp] theorem State.send_loading (s : State) (src : Source) (a : Nat) (op : MemOp) (p : Purpose) (o : List (Nat × Byte)) (v : Option Nat) : (s.send src a op p o v).loading = s.loading := rfl
@[simp] theorem State.send_lastLoadPort (s : State) (src : Source) (a : Nat) (op : MemOp) (p : Purpose) (o : List (Nat × Byte)) (v : Option Nat) : (s.send src a op p o v).lastLoadPort = s.lastLoadPort := rfl
@[simp] theorem State.send_claimed (s : State) (src : Source) (a : Nat) (op : MemOp) (p : Purpose) (o : List (Nat × Byte)) (v : Option Nat) : (s.send src a op p o v).claimed = s.claimed := rfl
@[simp] theorem State.send_ports (s : State) (src : Source) (a : Nat) (op : MemOp) (p : Purpose) (o : List (Nat × Byte)) (v : Option Nat) : (s.send src a op p o v).ports = s.ports := rfl
@[simp] theorem State.send_tiers (s : State) (src : Source) (a : Nat) (op : MemOp) (p : Purpose) (o : List (Nat × Byte)) (v : Option Nat) : (s.send src a op p o v).tiers = s.tiers := rfl
@[simp] theorem State.send_spareOf (s : State) (src : Source) (a : Nat) (op : MemOp) (p : Purpose) (o : List (Nat × Byte)) (v : Option Nat) : (s.send src a op p o v).spareOf = s.spareOf := rfl
@[simp] theorem State.send_sliceReports (s : State) (src : Source) (a : Nat) (op : MemOp) (p : Purpose) (o : List (Nat × Byte)) (v : Option Nat) : (s.send src a op p o v).sliceReports = s.sliceReports := rfl
@[simp] theorem State.send_withdrawn (s : State) (src : Source) (a : Nat) (op : MemOp) (p : Purpose) (o : List (Nat × Byte)) (v : Option Nat) : (s.send src a op p o v).withdrawn = s.withdrawn := rfl
@[simp] theorem State.send_deep (s : State) (src : Source) (a : Nat) (op : MemOp) (p : Purpose) (o : List (Nat × Byte)) (v : Option Nat) : (s.send src a op p o v).deep = s.deep := rfl
@[simp] theorem State.send_clk (s : State) (src : Source) (a : Nat) (op : MemOp) (p : Purpose) (o : List (Nat × Byte)) (v : Option Nat) : (s.send src a op p o v).clk = s.clk := rfl
@[simp] theorem State.send_power (s : State) (src : Source) (a : Nat) (op : MemOp) (p : Purpose) (o : List (Nat × Byte)) (v : Option Nat) : (s.send src a op p o v).power = s.power := rfl
@[simp] theorem State.send_breachWin (s : State) (src : Source) (a : Nat) (op : MemOp) (p : Purpose) (o : List (Nat × Byte)) (v : Option Nat) : (s.send src a op p o v).breachWin = s.breachWin := rfl
@[simp] theorem State.send_wires (s : State) (src : Source) (a : Nat) (op : MemOp) (p : Purpose) (o : List (Nat × Byte)) (v : Option Nat) : (s.send src a op p o v).wires = s.wires := rfl
@[simp] theorem State.send_pins (s : State) (src : Source) (a : Nat) (op : MemOp) (p : Purpose) (o : List (Nat × Byte)) (v : Option Nat) : (s.send src a op p o v).pins = s.pins := rfl
@[simp] theorem State.send_mgmt (s : State) (src : Source) (a : Nat) (op : MemOp) (p : Purpose) (o : List (Nat × Byte)) (v : Option Nat) : (s.send src a op p o v).mgmt = s.mgmt := rfl
@[simp] theorem State.send_free (s : State) (src : Source) (a : Nat) (op : MemOp) (p : Purpose) (o : List (Nat × Byte)) (v : Option Nat) : (s.send src a op p o v).free = s.free := rfl

@[simp] theorem State.sendSync_pending (s : State) (who : Waiter) (c : Nat) (o : SyncObj) (k : SyncKind) (sl : Nat) (pc : Addr) (pr : Nat) : (s.sendSync who c o k sl pc pr).pending = s.pending := rfl
@[simp] theorem State.sendSync_grade (s : State) (who : Waiter) (c : Nat) (o : SyncObj) (k : SyncKind) (sl : Nat) (pc : Addr) (pr : Nat) : (s.sendSync who c o k sl pc pr).grade = s.grade := rfl
@[simp] theorem State.sendSync_regs (s : State) (who : Waiter) (c : Nat) (o : SyncObj) (k : SyncKind) (sl : Nat) (pc : Addr) (pr : Nat) : (s.sendSync who c o k sl pc pr).regs = s.regs := rfl
@[simp] theorem State.sendSync_mem (s : State) (who : Waiter) (c : Nat) (o : SyncObj) (k : SyncKind) (sl : Nat) (pc : Addr) (pr : Nat) : (s.sendSync who c o k sl pc pr).mem = s.mem := rfl
@[simp] theorem State.sendSync_poison (s : State) (who : Waiter) (c : Nat) (o : SyncObj) (k : SyncKind) (sl : Nat) (pc : Addr) (pr : Nat) : (s.sendSync who c o k sl pc pr).poison = s.poison := rfl
@[simp] theorem State.sendSync_failed (s : State) (who : Waiter) (c : Nat) (o : SyncObj) (k : SyncKind) (sl : Nat) (pc : Addr) (pr : Nat) : (s.sendSync who c o k sl pc pr).failed = s.failed := rfl
@[simp] theorem State.sendSync_imemFailed (s : State) (who : Waiter) (c : Nat) (o : SyncObj) (k : SyncKind) (sl : Nat) (pc : Addr) (pr : Nat) : (s.sendSync who c o k sl pc pr).imemFailed = s.imemFailed := rfl
@[simp] theorem State.sendSync_unreadable (s : State) (who : Waiter) (c : Nat) (o : SyncObj) (k : SyncKind) (sl : Nat) (pc : Addr) (pr : Nat) : (s.sendSync who c o k sl pc pr).unreadable = s.unreadable := rfl
@[simp] theorem State.sendSync_ilv (s : State) (who : Waiter) (c : Nat) (o : SyncObj) (k : SyncKind) (sl : Nat) (pc : Addr) (pr : Nat) : (s.sendSync who c o k sl pc pr).ilv = s.ilv := rfl
@[simp] theorem State.sendSync_owner (s : State) (who : Waiter) (c : Nat) (o : SyncObj) (k : SyncKind) (sl : Nat) (pc : Addr) (pr : Nat) : (s.sendSync who c o k sl pc pr).owner = s.owner := rfl
@[simp] theorem State.sendSync_cores (s : State) (who : Waiter) (c : Nat) (o : SyncObj) (k : SyncKind) (sl : Nat) (pc : Addr) (pr : Nat) : (s.sendSync who c o k sl pc pr).cores = s.cores := rfl
@[simp] theorem State.sendSync_txns (s : State) (who : Waiter) (c : Nat) (o : SyncObj) (k : SyncKind) (sl : Nat) (pc : Addr) (pr : Nat) : (s.sendSync who c o k sl pc pr).txns = s.txns := rfl
@[simp] theorem State.sendSync_parked (s : State) (who : Waiter) (c : Nat) (o : SyncObj) (k : SyncKind) (sl : Nat) (pc : Addr) (pr : Nat) : (s.sendSync who c o k sl pc pr).parked = s.parked := rfl
@[simp] theorem State.sendSync_inputs (s : State) (who : Waiter) (c : Nat) (o : SyncObj) (k : SyncKind) (sl : Nat) (pc : Addr) (pr : Nat) : (s.sendSync who c o k sl pc pr).inputs = s.inputs := rfl
@[simp] theorem State.sendSync_msgs (s : State) (who : Waiter) (c : Nat) (o : SyncObj) (k : SyncKind) (sl : Nat) (pc : Addr) (pr : Nat) : (s.sendSync who c o k sl pc pr).msgs = s.msgs := rfl
@[simp] theorem State.sendSync_tokens (s : State) (who : Waiter) (c : Nat) (o : SyncObj) (k : SyncKind) (sl : Nat) (pc : Addr) (pr : Nat) : (s.sendSync who c o k sl pc pr).tokens = s.tokens := rfl
@[simp] theorem State.sendSync_dmas (s : State) (who : Waiter) (c : Nat) (o : SyncObj) (k : SyncKind) (sl : Nat) (pc : Addr) (pr : Nat) : (s.sendSync who c o k sl pc pr).dmas = s.dmas := rfl
@[simp] theorem State.sendSync_dmaTlb (s : State) (who : Waiter) (c : Nat) (o : SyncObj) (k : SyncKind) (sl : Nat) (pc : Addr) (pr : Nat) : (s.sendSync who c o k sl pc pr).dmaTlb = s.dmaTlb := rfl
@[simp] theorem State.sendSync_arbs (s : State) (who : Waiter) (c : Nat) (o : SyncObj) (k : SyncKind) (sl : Nat) (pc : Addr) (pr : Nat) : (s.sendSync who c o k sl pc pr).arbs = s.arbs := rfl
@[simp] theorem State.sendSync_images (s : State) (who : Waiter) (c : Nat) (o : SyncObj) (k : SyncKind) (sl : Nat) (pc : Addr) (pr : Nat) : (s.sendSync who c o k sl pc pr).images = s.images := rfl
@[simp] theorem State.sendSync_gens (s : State) (who : Waiter) (c : Nat) (o : SyncObj) (k : SyncKind) (sl : Nat) (pc : Addr) (pr : Nat) : (s.sendSync who c o k sl pc pr).gens = s.gens := rfl
@[simp] theorem State.sendSync_loading (s : State) (who : Waiter) (c : Nat) (o : SyncObj) (k : SyncKind) (sl : Nat) (pc : Addr) (pr : Nat) : (s.sendSync who c o k sl pc pr).loading = s.loading := rfl
@[simp] theorem State.sendSync_lastLoadPort (s : State) (who : Waiter) (c : Nat) (o : SyncObj) (k : SyncKind) (sl : Nat) (pc : Addr) (pr : Nat) : (s.sendSync who c o k sl pc pr).lastLoadPort = s.lastLoadPort := rfl
@[simp] theorem State.sendSync_claimed (s : State) (who : Waiter) (c : Nat) (o : SyncObj) (k : SyncKind) (sl : Nat) (pc : Addr) (pr : Nat) : (s.sendSync who c o k sl pc pr).claimed = s.claimed := rfl
@[simp] theorem State.sendSync_ports (s : State) (who : Waiter) (c : Nat) (o : SyncObj) (k : SyncKind) (sl : Nat) (pc : Addr) (pr : Nat) : (s.sendSync who c o k sl pc pr).ports = s.ports := rfl
@[simp] theorem State.sendSync_tiers (s : State) (who : Waiter) (c : Nat) (o : SyncObj) (k : SyncKind) (sl : Nat) (pc : Addr) (pr : Nat) : (s.sendSync who c o k sl pc pr).tiers = s.tiers := rfl
@[simp] theorem State.sendSync_spareOf (s : State) (who : Waiter) (c : Nat) (o : SyncObj) (k : SyncKind) (sl : Nat) (pc : Addr) (pr : Nat) : (s.sendSync who c o k sl pc pr).spareOf = s.spareOf := rfl
@[simp] theorem State.sendSync_sliceReports (s : State) (who : Waiter) (c : Nat) (o : SyncObj) (k : SyncKind) (sl : Nat) (pc : Addr) (pr : Nat) : (s.sendSync who c o k sl pc pr).sliceReports = s.sliceReports := rfl
@[simp] theorem State.sendSync_withdrawn (s : State) (who : Waiter) (c : Nat) (o : SyncObj) (k : SyncKind) (sl : Nat) (pc : Addr) (pr : Nat) : (s.sendSync who c o k sl pc pr).withdrawn = s.withdrawn := rfl
@[simp] theorem State.sendSync_deep (s : State) (who : Waiter) (c : Nat) (o : SyncObj) (k : SyncKind) (sl : Nat) (pc : Addr) (pr : Nat) : (s.sendSync who c o k sl pc pr).deep = s.deep := rfl
@[simp] theorem State.sendSync_clk (s : State) (who : Waiter) (c : Nat) (o : SyncObj) (k : SyncKind) (sl : Nat) (pc : Addr) (pr : Nat) : (s.sendSync who c o k sl pc pr).clk = s.clk := rfl
@[simp] theorem State.sendSync_power (s : State) (who : Waiter) (c : Nat) (o : SyncObj) (k : SyncKind) (sl : Nat) (pc : Addr) (pr : Nat) : (s.sendSync who c o k sl pc pr).power = s.power := rfl
@[simp] theorem State.sendSync_breachWin (s : State) (who : Waiter) (c : Nat) (o : SyncObj) (k : SyncKind) (sl : Nat) (pc : Addr) (pr : Nat) : (s.sendSync who c o k sl pc pr).breachWin = s.breachWin := rfl
@[simp] theorem State.sendSync_wires (s : State) (who : Waiter) (c : Nat) (o : SyncObj) (k : SyncKind) (sl : Nat) (pc : Addr) (pr : Nat) : (s.sendSync who c o k sl pc pr).wires = s.wires := rfl
@[simp] theorem State.sendSync_pins (s : State) (who : Waiter) (c : Nat) (o : SyncObj) (k : SyncKind) (sl : Nat) (pc : Addr) (pr : Nat) : (s.sendSync who c o k sl pc pr).pins = s.pins := rfl
@[simp] theorem State.sendSync_mgmt (s : State) (who : Waiter) (c : Nat) (o : SyncObj) (k : SyncKind) (sl : Nat) (pc : Addr) (pr : Nat) : (s.sendSync who c o k sl pc pr).mgmt = s.mgmt := rfl
@[simp] theorem State.sendSync_free (s : State) (who : Waiter) (c : Nat) (o : SyncObj) (k : SyncKind) (sl : Nat) (pc : Addr) (pr : Nat) : (s.sendSync who c o k sl pc pr).free = s.free := rfl

@[simp] theorem State.commit_pending (s t : State) : (s.commit t).pending = s.pending := rfl
@[simp] theorem State.commit_grade (s t : State) : (s.commit t).grade = s.grade := rfl
@[simp] theorem State.commit_regs (s t : State) : (s.commit t).regs = t.regs := rfl
@[simp] theorem State.commit_mem (s t : State) : (s.commit t).mem = s.mem := rfl
@[simp] theorem State.commit_poison (s t : State) : (s.commit t).poison = s.poison := rfl
@[simp] theorem State.commit_failed (s t : State) : (s.commit t).failed = t.failed := rfl
@[simp] theorem State.commit_imemFailed (s t : State) : (s.commit t).imemFailed = t.imemFailed := rfl
@[simp] theorem State.commit_unreadable (s t : State) : (s.commit t).unreadable = t.unreadable := rfl
@[simp] theorem State.commit_ilv (s t : State) : (s.commit t).ilv = t.ilv := rfl
@[simp] theorem State.commit_owner (s t : State) : (s.commit t).owner = t.owner := rfl
@[simp] theorem State.commit_cores (s t : State) : (s.commit t).cores = t.cores := rfl
@[simp] theorem State.commit_txns (s t : State) : (s.commit t).txns = t.txns := rfl
@[simp] theorem State.commit_sync (s t : State) : (s.commit t).sync = t.sync := rfl
@[simp] theorem State.commit_parked (s t : State) : (s.commit t).parked = t.parked := rfl
@[simp] theorem State.commit_inputs (s t : State) : (s.commit t).inputs = t.inputs := rfl
@[simp] theorem State.commit_msgs (s t : State) : (s.commit t).msgs = t.msgs := rfl
@[simp] theorem State.commit_tokens (s t : State) : (s.commit t).tokens = t.tokens := rfl
@[simp] theorem State.commit_dmas (s t : State) : (s.commit t).dmas = t.dmas := rfl
@[simp] theorem State.commit_dmaTlb (s t : State) : (s.commit t).dmaTlb = t.dmaTlb := rfl
@[simp] theorem State.commit_arbs (s t : State) : (s.commit t).arbs = t.arbs := rfl
@[simp] theorem State.commit_images (s t : State) : (s.commit t).images = t.images := rfl
@[simp] theorem State.commit_gens (s t : State) : (s.commit t).gens = t.gens := rfl
@[simp] theorem State.commit_loading (s t : State) : (s.commit t).loading = t.loading := rfl
@[simp] theorem State.commit_lastLoadPort (s t : State) : (s.commit t).lastLoadPort = t.lastLoadPort := rfl
@[simp] theorem State.commit_claimed (s t : State) : (s.commit t).claimed = t.claimed := rfl
@[simp] theorem State.commit_ports (s t : State) : (s.commit t).ports = t.ports := rfl
@[simp] theorem State.commit_tiers (s t : State) : (s.commit t).tiers = t.tiers := rfl
@[simp] theorem State.commit_spareOf (s t : State) : (s.commit t).spareOf = t.spareOf := rfl
@[simp] theorem State.commit_sliceReports (s t : State) : (s.commit t).sliceReports = t.sliceReports := rfl
@[simp] theorem State.commit_withdrawn (s t : State) : (s.commit t).withdrawn = t.withdrawn := rfl
@[simp] theorem State.commit_deep (s t : State) : (s.commit t).deep = t.deep := rfl
@[simp] theorem State.commit_clk (s t : State) : (s.commit t).clk = t.clk := rfl
@[simp] theorem State.commit_power (s t : State) : (s.commit t).power = t.power := rfl
@[simp] theorem State.commit_breachWin (s t : State) : (s.commit t).breachWin = t.breachWin := rfl
@[simp] theorem State.commit_wires (s t : State) : (s.commit t).wires = t.wires := rfl
@[simp] theorem State.commit_pins (s t : State) : (s.commit t).pins = t.pins := rfl
@[simp] theorem State.commit_mgmt (s t : State) : (s.commit t).mgmt = t.mgmt := rfl
@[simp] theorem State.commit_nextId (s t : State) : (s.commit t).nextId = t.nextId := rfl
@[simp] theorem State.commit_free (s t : State) : (s.commit t).free = t.free := rfl

@[simp] theorem State.commitMem_pending (s : State) (r : State × MemUpd) : (s.commitMem r).pending = s.pending := rfl
@[simp] theorem State.commitMem_grade (s : State) (r : State × MemUpd) : (s.commitMem r).grade = s.grade := rfl
@[simp] theorem State.commitMem_regs (s : State) (r : State × MemUpd) : (s.commitMem r).regs = r.1.regs := rfl
@[simp] theorem State.commitMem_failed (s : State) (r : State × MemUpd) : (s.commitMem r).failed = r.1.failed := rfl
@[simp] theorem State.commitMem_imemFailed (s : State) (r : State × MemUpd) : (s.commitMem r).imemFailed = r.1.imemFailed := rfl
@[simp] theorem State.commitMem_unreadable (s : State) (r : State × MemUpd) : (s.commitMem r).unreadable = r.1.unreadable := rfl
@[simp] theorem State.commitMem_ilv (s : State) (r : State × MemUpd) : (s.commitMem r).ilv = r.1.ilv := rfl
@[simp] theorem State.commitMem_owner (s : State) (r : State × MemUpd) : (s.commitMem r).owner = r.1.owner := rfl
@[simp] theorem State.commitMem_cores (s : State) (r : State × MemUpd) : (s.commitMem r).cores = r.1.cores := rfl
@[simp] theorem State.commitMem_txns (s : State) (r : State × MemUpd) : (s.commitMem r).txns = r.1.txns := rfl
@[simp] theorem State.commitMem_sync (s : State) (r : State × MemUpd) : (s.commitMem r).sync = r.1.sync := rfl
@[simp] theorem State.commitMem_parked (s : State) (r : State × MemUpd) : (s.commitMem r).parked = r.1.parked := rfl
@[simp] theorem State.commitMem_inputs (s : State) (r : State × MemUpd) : (s.commitMem r).inputs = r.1.inputs := rfl
@[simp] theorem State.commitMem_msgs (s : State) (r : State × MemUpd) : (s.commitMem r).msgs = r.1.msgs := rfl
@[simp] theorem State.commitMem_tokens (s : State) (r : State × MemUpd) : (s.commitMem r).tokens = r.1.tokens := rfl
@[simp] theorem State.commitMem_dmas (s : State) (r : State × MemUpd) : (s.commitMem r).dmas = r.1.dmas := rfl
@[simp] theorem State.commitMem_dmaTlb (s : State) (r : State × MemUpd) : (s.commitMem r).dmaTlb = r.1.dmaTlb := rfl
@[simp] theorem State.commitMem_arbs (s : State) (r : State × MemUpd) : (s.commitMem r).arbs = r.1.arbs := rfl
@[simp] theorem State.commitMem_images (s : State) (r : State × MemUpd) : (s.commitMem r).images = r.1.images := rfl
@[simp] theorem State.commitMem_gens (s : State) (r : State × MemUpd) : (s.commitMem r).gens = r.1.gens := rfl
@[simp] theorem State.commitMem_loading (s : State) (r : State × MemUpd) : (s.commitMem r).loading = r.1.loading := rfl
@[simp] theorem State.commitMem_lastLoadPort (s : State) (r : State × MemUpd) : (s.commitMem r).lastLoadPort = r.1.lastLoadPort := rfl
@[simp] theorem State.commitMem_claimed (s : State) (r : State × MemUpd) : (s.commitMem r).claimed = r.1.claimed := rfl
@[simp] theorem State.commitMem_ports (s : State) (r : State × MemUpd) : (s.commitMem r).ports = r.1.ports := rfl
@[simp] theorem State.commitMem_tiers (s : State) (r : State × MemUpd) : (s.commitMem r).tiers = r.1.tiers := rfl
@[simp] theorem State.commitMem_spareOf (s : State) (r : State × MemUpd) : (s.commitMem r).spareOf = r.1.spareOf := rfl
@[simp] theorem State.commitMem_sliceReports (s : State) (r : State × MemUpd) : (s.commitMem r).sliceReports = r.1.sliceReports := rfl
@[simp] theorem State.commitMem_withdrawn (s : State) (r : State × MemUpd) : (s.commitMem r).withdrawn = r.1.withdrawn := rfl
@[simp] theorem State.commitMem_deep (s : State) (r : State × MemUpd) : (s.commitMem r).deep = r.1.deep := rfl
@[simp] theorem State.commitMem_clk (s : State) (r : State × MemUpd) : (s.commitMem r).clk = r.1.clk := rfl
@[simp] theorem State.commitMem_power (s : State) (r : State × MemUpd) : (s.commitMem r).power = r.1.power := rfl
@[simp] theorem State.commitMem_breachWin (s : State) (r : State × MemUpd) : (s.commitMem r).breachWin = r.1.breachWin := rfl
@[simp] theorem State.commitMem_wires (s : State) (r : State × MemUpd) : (s.commitMem r).wires = r.1.wires := rfl
@[simp] theorem State.commitMem_pins (s : State) (r : State × MemUpd) : (s.commitMem r).pins = r.1.pins := rfl
@[simp] theorem State.commitMem_mgmt (s : State) (r : State × MemUpd) : (s.commitMem r).mgmt = r.1.mgmt := rfl
@[simp] theorem State.commitMem_nextId (s : State) (r : State × MemUpd) : (s.commitMem r).nextId = r.1.nextId := rfl
@[simp] theorem State.commitMem_free (s : State) (r : State × MemUpd) : (s.commitMem r).free = r.1.free := rfl

@[simp] theorem State.setImage_pending (s : State) (k : Nat) (i : Option Image) : (s.setImage k i).pending = s.pending := by unfold State.setImage; split <;> rfl
@[simp] theorem State.setImage_grade (s : State) (k : Nat) (i : Option Image) : (s.setImage k i).grade = s.grade := by unfold State.setImage; split <;> rfl
@[simp] theorem State.setImage_regs (s : State) (k : Nat) (i : Option Image) : (s.setImage k i).regs = s.regs := by unfold State.setImage; split <;> rfl
@[simp] theorem State.setImage_mem (s : State) (k : Nat) (i : Option Image) : (s.setImage k i).mem = s.mem := by unfold State.setImage; split <;> rfl
@[simp] theorem State.setImage_poison (s : State) (k : Nat) (i : Option Image) : (s.setImage k i).poison = s.poison := by unfold State.setImage; split <;> rfl
@[simp] theorem State.setImage_failed (s : State) (k : Nat) (i : Option Image) : (s.setImage k i).failed = s.failed := by unfold State.setImage; split <;> rfl
@[simp] theorem State.setImage_imemFailed (s : State) (k : Nat) (i : Option Image) : (s.setImage k i).imemFailed = s.imemFailed := by unfold State.setImage; split <;> rfl
@[simp] theorem State.setImage_unreadable (s : State) (k : Nat) (i : Option Image) : (s.setImage k i).unreadable = s.unreadable := by unfold State.setImage; split <;> rfl
@[simp] theorem State.setImage_ilv (s : State) (k : Nat) (i : Option Image) : (s.setImage k i).ilv = s.ilv := by unfold State.setImage; split <;> rfl
@[simp] theorem State.setImage_owner (s : State) (k : Nat) (i : Option Image) : (s.setImage k i).owner = s.owner := by unfold State.setImage; split <;> rfl
@[simp] theorem State.setImage_cores (s : State) (k : Nat) (i : Option Image) : (s.setImage k i).cores = s.cores := by unfold State.setImage; split <;> rfl
@[simp] theorem State.setImage_txns (s : State) (k : Nat) (i : Option Image) : (s.setImage k i).txns = s.txns := by unfold State.setImage; split <;> rfl
@[simp] theorem State.setImage_sync (s : State) (k : Nat) (i : Option Image) : (s.setImage k i).sync = s.sync := by unfold State.setImage; split <;> rfl
@[simp] theorem State.setImage_parked (s : State) (k : Nat) (i : Option Image) : (s.setImage k i).parked = s.parked := by unfold State.setImage; split <;> rfl
@[simp] theorem State.setImage_inputs (s : State) (k : Nat) (i : Option Image) : (s.setImage k i).inputs = s.inputs := by unfold State.setImage; split <;> rfl
@[simp] theorem State.setImage_msgs (s : State) (k : Nat) (i : Option Image) : (s.setImage k i).msgs = s.msgs := by unfold State.setImage; split <;> rfl
@[simp] theorem State.setImage_tokens (s : State) (k : Nat) (i : Option Image) : (s.setImage k i).tokens = s.tokens := by unfold State.setImage; split <;> rfl
@[simp] theorem State.setImage_dmas (s : State) (k : Nat) (i : Option Image) : (s.setImage k i).dmas = s.dmas := by unfold State.setImage; split <;> rfl
@[simp] theorem State.setImage_dmaTlb (s : State) (k : Nat) (i : Option Image) : (s.setImage k i).dmaTlb = s.dmaTlb := by unfold State.setImage; split <;> rfl
@[simp] theorem State.setImage_arbs (s : State) (k : Nat) (i : Option Image) : (s.setImage k i).arbs = s.arbs := by unfold State.setImage; split <;> rfl
@[simp] theorem State.setImage_gens (s : State) (k : Nat) (i : Option Image) : (s.setImage k i).gens = s.gens := by unfold State.setImage; split <;> rfl
@[simp] theorem State.setImage_loading (s : State) (k : Nat) (i : Option Image) : (s.setImage k i).loading = s.loading := by unfold State.setImage; split <;> rfl
@[simp] theorem State.setImage_lastLoadPort (s : State) (k : Nat) (i : Option Image) : (s.setImage k i).lastLoadPort = s.lastLoadPort := by unfold State.setImage; split <;> rfl
@[simp] theorem State.setImage_claimed (s : State) (k : Nat) (i : Option Image) : (s.setImage k i).claimed = s.claimed := by unfold State.setImage; split <;> rfl
@[simp] theorem State.setImage_ports (s : State) (k : Nat) (i : Option Image) : (s.setImage k i).ports = s.ports := by unfold State.setImage; split <;> rfl
@[simp] theorem State.setImage_tiers (s : State) (k : Nat) (i : Option Image) : (s.setImage k i).tiers = s.tiers := by unfold State.setImage; split <;> rfl
@[simp] theorem State.setImage_spareOf (s : State) (k : Nat) (i : Option Image) : (s.setImage k i).spareOf = s.spareOf := by unfold State.setImage; split <;> rfl
@[simp] theorem State.setImage_sliceReports (s : State) (k : Nat) (i : Option Image) : (s.setImage k i).sliceReports = s.sliceReports := by unfold State.setImage; split <;> rfl
@[simp] theorem State.setImage_withdrawn (s : State) (k : Nat) (i : Option Image) : (s.setImage k i).withdrawn = s.withdrawn := by unfold State.setImage; split <;> rfl
@[simp] theorem State.setImage_deep (s : State) (k : Nat) (i : Option Image) : (s.setImage k i).deep = s.deep := by unfold State.setImage; split <;> rfl
@[simp] theorem State.setImage_clk (s : State) (k : Nat) (i : Option Image) : (s.setImage k i).clk = s.clk := by unfold State.setImage; split <;> rfl
@[simp] theorem State.setImage_power (s : State) (k : Nat) (i : Option Image) : (s.setImage k i).power = s.power := by unfold State.setImage; split <;> rfl
@[simp] theorem State.setImage_breachWin (s : State) (k : Nat) (i : Option Image) : (s.setImage k i).breachWin = s.breachWin := by unfold State.setImage; split <;> rfl
@[simp] theorem State.setImage_wires (s : State) (k : Nat) (i : Option Image) : (s.setImage k i).wires = s.wires := by unfold State.setImage; split <;> rfl
@[simp] theorem State.setImage_pins (s : State) (k : Nat) (i : Option Image) : (s.setImage k i).pins = s.pins := by unfold State.setImage; split <;> rfl
@[simp] theorem State.setImage_mgmt (s : State) (k : Nat) (i : Option Image) : (s.setImage k i).mgmt = s.mgmt := by unfold State.setImage; split <;> rfl
@[simp] theorem State.setImage_nextId (s : State) (k : Nat) (i : Option Image) : (s.setImage k i).nextId = s.nextId := by unfold State.setImage; split <;> rfl
@[simp] theorem State.setImage_free (s : State) (k : Nat) (i : Option Image) : (s.setImage k i).free = s.free := by unfold State.setImage; split <;> rfl

@[simp] theorem State.modImage_pending (s : State) (k : Nat) (g : Image → Image) : (s.modImage k g).pending = s.pending := by unfold State.modImage; split <;> simp
@[simp] theorem State.modImage_grade (s : State) (k : Nat) (g : Image → Image) : (s.modImage k g).grade = s.grade := by unfold State.modImage; split <;> simp
@[simp] theorem State.modImage_regs (s : State) (k : Nat) (g : Image → Image) : (s.modImage k g).regs = s.regs := by unfold State.modImage; split <;> simp
@[simp] theorem State.modImage_mem (s : State) (k : Nat) (g : Image → Image) : (s.modImage k g).mem = s.mem := by unfold State.modImage; split <;> simp
@[simp] theorem State.modImage_poison (s : State) (k : Nat) (g : Image → Image) : (s.modImage k g).poison = s.poison := by unfold State.modImage; split <;> simp
@[simp] theorem State.modImage_failed (s : State) (k : Nat) (g : Image → Image) : (s.modImage k g).failed = s.failed := by unfold State.modImage; split <;> simp
@[simp] theorem State.modImage_imemFailed (s : State) (k : Nat) (g : Image → Image) : (s.modImage k g).imemFailed = s.imemFailed := by unfold State.modImage; split <;> simp
@[simp] theorem State.modImage_unreadable (s : State) (k : Nat) (g : Image → Image) : (s.modImage k g).unreadable = s.unreadable := by unfold State.modImage; split <;> simp
@[simp] theorem State.modImage_ilv (s : State) (k : Nat) (g : Image → Image) : (s.modImage k g).ilv = s.ilv := by unfold State.modImage; split <;> simp
@[simp] theorem State.modImage_owner (s : State) (k : Nat) (g : Image → Image) : (s.modImage k g).owner = s.owner := by unfold State.modImage; split <;> simp
@[simp] theorem State.modImage_cores (s : State) (k : Nat) (g : Image → Image) : (s.modImage k g).cores = s.cores := by unfold State.modImage; split <;> simp
@[simp] theorem State.modImage_txns (s : State) (k : Nat) (g : Image → Image) : (s.modImage k g).txns = s.txns := by unfold State.modImage; split <;> simp
@[simp] theorem State.modImage_sync (s : State) (k : Nat) (g : Image → Image) : (s.modImage k g).sync = s.sync := by unfold State.modImage; split <;> simp
@[simp] theorem State.modImage_parked (s : State) (k : Nat) (g : Image → Image) : (s.modImage k g).parked = s.parked := by unfold State.modImage; split <;> simp
@[simp] theorem State.modImage_inputs (s : State) (k : Nat) (g : Image → Image) : (s.modImage k g).inputs = s.inputs := by unfold State.modImage; split <;> simp
@[simp] theorem State.modImage_msgs (s : State) (k : Nat) (g : Image → Image) : (s.modImage k g).msgs = s.msgs := by unfold State.modImage; split <;> simp
@[simp] theorem State.modImage_tokens (s : State) (k : Nat) (g : Image → Image) : (s.modImage k g).tokens = s.tokens := by unfold State.modImage; split <;> simp
@[simp] theorem State.modImage_dmas (s : State) (k : Nat) (g : Image → Image) : (s.modImage k g).dmas = s.dmas := by unfold State.modImage; split <;> simp
@[simp] theorem State.modImage_dmaTlb (s : State) (k : Nat) (g : Image → Image) : (s.modImage k g).dmaTlb = s.dmaTlb := by unfold State.modImage; split <;> simp
@[simp] theorem State.modImage_arbs (s : State) (k : Nat) (g : Image → Image) : (s.modImage k g).arbs = s.arbs := by unfold State.modImage; split <;> simp
@[simp] theorem State.modImage_gens (s : State) (k : Nat) (g : Image → Image) : (s.modImage k g).gens = s.gens := by unfold State.modImage; split <;> simp
@[simp] theorem State.modImage_loading (s : State) (k : Nat) (g : Image → Image) : (s.modImage k g).loading = s.loading := by unfold State.modImage; split <;> simp
@[simp] theorem State.modImage_lastLoadPort (s : State) (k : Nat) (g : Image → Image) : (s.modImage k g).lastLoadPort = s.lastLoadPort := by unfold State.modImage; split <;> simp
@[simp] theorem State.modImage_claimed (s : State) (k : Nat) (g : Image → Image) : (s.modImage k g).claimed = s.claimed := by unfold State.modImage; split <;> simp
@[simp] theorem State.modImage_ports (s : State) (k : Nat) (g : Image → Image) : (s.modImage k g).ports = s.ports := by unfold State.modImage; split <;> simp
@[simp] theorem State.modImage_tiers (s : State) (k : Nat) (g : Image → Image) : (s.modImage k g).tiers = s.tiers := by unfold State.modImage; split <;> simp
@[simp] theorem State.modImage_spareOf (s : State) (k : Nat) (g : Image → Image) : (s.modImage k g).spareOf = s.spareOf := by unfold State.modImage; split <;> simp
@[simp] theorem State.modImage_sliceReports (s : State) (k : Nat) (g : Image → Image) : (s.modImage k g).sliceReports = s.sliceReports := by unfold State.modImage; split <;> simp
@[simp] theorem State.modImage_withdrawn (s : State) (k : Nat) (g : Image → Image) : (s.modImage k g).withdrawn = s.withdrawn := by unfold State.modImage; split <;> simp
@[simp] theorem State.modImage_deep (s : State) (k : Nat) (g : Image → Image) : (s.modImage k g).deep = s.deep := by unfold State.modImage; split <;> simp
@[simp] theorem State.modImage_clk (s : State) (k : Nat) (g : Image → Image) : (s.modImage k g).clk = s.clk := by unfold State.modImage; split <;> simp
@[simp] theorem State.modImage_power (s : State) (k : Nat) (g : Image → Image) : (s.modImage k g).power = s.power := by unfold State.modImage; split <;> simp
@[simp] theorem State.modImage_breachWin (s : State) (k : Nat) (g : Image → Image) : (s.modImage k g).breachWin = s.breachWin := by unfold State.modImage; split <;> simp
@[simp] theorem State.modImage_wires (s : State) (k : Nat) (g : Image → Image) : (s.modImage k g).wires = s.wires := by unfold State.modImage; split <;> simp
@[simp] theorem State.modImage_pins (s : State) (k : Nat) (g : Image → Image) : (s.modImage k g).pins = s.pins := by unfold State.modImage; split <;> simp
@[simp] theorem State.modImage_mgmt (s : State) (k : Nat) (g : Image → Image) : (s.modImage k g).mgmt = s.mgmt := by unfold State.modImage; split <;> simp
@[simp] theorem State.modImage_nextId (s : State) (k : Nat) (g : Image → Image) : (s.modImage k g).nextId = s.nextId := by unfold State.modImage; split <;> simp
@[simp] theorem State.modImage_free (s : State) (k : Nat) (g : Image → Image) : (s.modImage k g).free = s.free := by unfold State.modImage; split <;> simp

@[simp] theorem State.core_setReg (s : State) (a : Nat) (w : Word) (x : Nat) : (s.setReg a w).core x = s.core x := rfl
@[simp] theorem State.thr_setReg (s : State) (a : Nat) (w : Word) (x : Nat) (y : Thr) : (s.setReg a w).thr x y = s.thr x y := rfl
@[simp] theorem State.port_setReg (s : State) (a : Nat) (w : Word) (x : Port) : (s.setReg a w).port x = s.port x := rfl
@[simp] theorem State.tier_setReg (s : State) (a : Nat) (w : Word) (x : Nat) : (s.setReg a w).tier x = s.tier x := rfl
@[simp] theorem State.dma_setReg (s : State) (a : Nat) (w : Word) (x : Nat) : (s.setReg a w).dma x = s.dma x := rfl
@[simp] theorem State.txn_setReg (s : State) (a : Nat) (w : Word) (x : Nat) : (s.setReg a w).txn x = s.txn x := rfl
@[simp] theorem State.image_setReg (s : State) (a : Nat) (w : Word) (x : Nat) : (s.setReg a w).image x = s.image x := rfl

@[simp] theorem State.core_setFld (s : State) (a : Nat) (f : Field) (v : Nat) (x : Nat) : (s.setFld a f v).core x = s.core x := rfl
@[simp] theorem State.thr_setFld (s : State) (a : Nat) (f : Field) (v : Nat) (x : Nat) (y : Thr) : (s.setFld a f v).thr x y = s.thr x y := rfl
@[simp] theorem State.port_setFld (s : State) (a : Nat) (f : Field) (v : Nat) (x : Port) : (s.setFld a f v).port x = s.port x := rfl
@[simp] theorem State.tier_setFld (s : State) (a : Nat) (f : Field) (v : Nat) (x : Nat) : (s.setFld a f v).tier x = s.tier x := rfl
@[simp] theorem State.dma_setFld (s : State) (a : Nat) (f : Field) (v : Nat) (x : Nat) : (s.setFld a f v).dma x = s.dma x := rfl
@[simp] theorem State.txn_setFld (s : State) (a : Nat) (f : Field) (v : Nat) (x : Nat) : (s.setFld a f v).txn x = s.txn x := rfl
@[simp] theorem State.image_setFld (s : State) (a : Nat) (f : Field) (v : Nat) (x : Nat) : (s.setFld a f v).image x = s.image x := rfl

@[simp] theorem State.core_incFld (s : State) (a : Nat) (f : Field) (n : Nat) (x : Nat) : (s.incFld a f n).core x = s.core x := rfl
@[simp] theorem State.thr_incFld (s : State) (a : Nat) (f : Field) (n : Nat) (x : Nat) (y : Thr) : (s.incFld a f n).thr x y = s.thr x y := rfl
@[simp] theorem State.port_incFld (s : State) (a : Nat) (f : Field) (n : Nat) (x : Port) : (s.incFld a f n).port x = s.port x := rfl
@[simp] theorem State.tier_incFld (s : State) (a : Nat) (f : Field) (n : Nat) (x : Nat) : (s.incFld a f n).tier x = s.tier x := rfl
@[simp] theorem State.dma_incFld (s : State) (a : Nat) (f : Field) (n : Nat) (x : Nat) : (s.incFld a f n).dma x = s.dma x := rfl
@[simp] theorem State.txn_incFld (s : State) (a : Nat) (f : Field) (n : Nat) (x : Nat) : (s.incFld a f n).txn x = s.txn x := rfl
@[simp] theorem State.image_incFld (s : State) (a : Nat) (f : Field) (n : Nat) (x : Nat) : (s.incFld a f n).image x = s.image x := rfl

@[simp] theorem State.core_act (s : State) (c : Nat) (x : Nat) : (s.act c).core x = s.core x := by rw [State.act_eq, State.core_setFld]
@[simp] theorem State.thr_act (s : State) (c : Nat) (x : Nat) (y : Thr) : (s.act c).thr x y = s.thr x y := by rw [State.act_eq, State.thr_setFld]
@[simp] theorem State.port_act (s : State) (c : Nat) (x : Port) : (s.act c).port x = s.port x := by rw [State.act_eq, State.port_setFld]
@[simp] theorem State.tier_act (s : State) (c : Nat) (x : Nat) : (s.act c).tier x = s.tier x := by rw [State.act_eq, State.tier_setFld]
@[simp] theorem State.dma_act (s : State) (c : Nat) (x : Nat) : (s.act c).dma x = s.dma x := by rw [State.act_eq, State.dma_setFld]
@[simp] theorem State.txn_act (s : State) (c : Nat) (x : Nat) : (s.act c).txn x = s.txn x := by rw [State.act_eq, State.txn_setFld]
@[simp] theorem State.image_act (s : State) (c : Nat) (x : Nat) : (s.act c).image x = s.image x := by rw [State.act_eq, State.image_setFld]

@[simp] theorem State.reg_setCore (s : State) (c : Nat) (k : Core) (x : Nat) : (s.setCore c k).reg x = s.reg x := rfl
@[simp] theorem State.fld_setCore (s : State) (c : Nat) (k : Core) (x : Nat) (g : Field) : (s.setCore c k).fld x g = s.fld x g := rfl
@[simp] theorem State.flag_setCore (s : State) (c : Nat) (k : Core) (x : Nat) (g : Field) : (s.setCore c k).flag x g = s.flag x g := rfl
@[simp] theorem State.port_setCore (s : State) (c : Nat) (k : Core) (x : Port) : (s.setCore c k).port x = s.port x := rfl
@[simp] theorem State.tier_setCore (s : State) (c : Nat) (k : Core) (x : Nat) : (s.setCore c k).tier x = s.tier x := rfl
@[simp] theorem State.dma_setCore (s : State) (c : Nat) (k : Core) (x : Nat) : (s.setCore c k).dma x = s.dma x := rfl
@[simp] theorem State.txn_setCore (s : State) (c : Nat) (k : Core) (x : Nat) : (s.setCore c k).txn x = s.txn x := rfl
@[simp] theorem State.image_setCore (s : State) (c : Nat) (k : Core) (x : Nat) : (s.setCore c k).image x = s.image x := rfl

@[simp] theorem State.reg_modCore (s : State) (c : Nat) (f : Core → Core) (x : Nat) : (s.modCore c f).reg x = s.reg x := rfl
@[simp] theorem State.fld_modCore (s : State) (c : Nat) (f : Core → Core) (x : Nat) (g : Field) : (s.modCore c f).fld x g = s.fld x g := rfl
@[simp] theorem State.flag_modCore (s : State) (c : Nat) (f : Core → Core) (x : Nat) (g : Field) : (s.modCore c f).flag x g = s.flag x g := rfl
@[simp] theorem State.port_modCore (s : State) (c : Nat) (f : Core → Core) (x : Port) : (s.modCore c f).port x = s.port x := rfl
@[simp] theorem State.tier_modCore (s : State) (c : Nat) (f : Core → Core) (x : Nat) : (s.modCore c f).tier x = s.tier x := rfl
@[simp] theorem State.dma_modCore (s : State) (c : Nat) (f : Core → Core) (x : Nat) : (s.modCore c f).dma x = s.dma x := rfl
@[simp] theorem State.txn_modCore (s : State) (c : Nat) (f : Core → Core) (x : Nat) : (s.modCore c f).txn x = s.txn x := rfl
@[simp] theorem State.image_modCore (s : State) (c : Nat) (f : Core → Core) (x : Nat) : (s.modCore c f).image x = s.image x := rfl

@[simp] theorem State.reg_modThr (s : State) (c : Nat) (t : Thr) (f : Thread → Thread) (x : Nat) : (s.modThr c t f).reg x = s.reg x := rfl
@[simp] theorem State.fld_modThr (s : State) (c : Nat) (t : Thr) (f : Thread → Thread) (x : Nat) (g : Field) : (s.modThr c t f).fld x g = s.fld x g := rfl
@[simp] theorem State.flag_modThr (s : State) (c : Nat) (t : Thr) (f : Thread → Thread) (x : Nat) (g : Field) : (s.modThr c t f).flag x g = s.flag x g := rfl
@[simp] theorem State.port_modThr (s : State) (c : Nat) (t : Thr) (f : Thread → Thread) (x : Port) : (s.modThr c t f).port x = s.port x := rfl
@[simp] theorem State.tier_modThr (s : State) (c : Nat) (t : Thr) (f : Thread → Thread) (x : Nat) : (s.modThr c t f).tier x = s.tier x := rfl
@[simp] theorem State.dma_modThr (s : State) (c : Nat) (t : Thr) (f : Thread → Thread) (x : Nat) : (s.modThr c t f).dma x = s.dma x := rfl
@[simp] theorem State.txn_modThr (s : State) (c : Nat) (t : Thr) (f : Thread → Thread) (x : Nat) : (s.modThr c t f).txn x = s.txn x := rfl
@[simp] theorem State.image_modThr (s : State) (c : Nat) (t : Thr) (f : Thread → Thread) (x : Nat) : (s.modThr c t f).image x = s.image x := rfl

@[simp] theorem State.reg_interrupt (s : State) (c : Nat) (t : Thr) (v : Nat) (x : Nat) : (s.interrupt c t v).reg x = s.reg x := rfl
@[simp] theorem State.fld_interrupt (s : State) (c : Nat) (t : Thr) (v : Nat) (x : Nat) (g : Field) : (s.interrupt c t v).fld x g = s.fld x g := rfl
@[simp] theorem State.flag_interrupt (s : State) (c : Nat) (t : Thr) (v : Nat) (x : Nat) (g : Field) : (s.interrupt c t v).flag x g = s.flag x g := rfl
@[simp] theorem State.port_interrupt (s : State) (c : Nat) (t : Thr) (v : Nat) (x : Port) : (s.interrupt c t v).port x = s.port x := rfl
@[simp] theorem State.tier_interrupt (s : State) (c : Nat) (t : Thr) (v : Nat) (x : Nat) : (s.interrupt c t v).tier x = s.tier x := rfl
@[simp] theorem State.dma_interrupt (s : State) (c : Nat) (t : Thr) (v : Nat) (x : Nat) : (s.interrupt c t v).dma x = s.dma x := rfl
@[simp] theorem State.txn_interrupt (s : State) (c : Nat) (t : Thr) (v : Nat) (x : Nat) : (s.interrupt c t v).txn x = s.txn x := rfl
@[simp] theorem State.image_interrupt (s : State) (c : Nat) (t : Thr) (v : Nat) (x : Nat) : (s.interrupt c t v).image x = s.image x := rfl

@[simp] theorem State.reg_modPort (s : State) (p : Port) (f : PortSt → PortSt) (x : Nat) : (s.modPort p f).reg x = s.reg x := rfl
@[simp] theorem State.fld_modPort (s : State) (p : Port) (f : PortSt → PortSt) (x : Nat) (g : Field) : (s.modPort p f).fld x g = s.fld x g := rfl
@[simp] theorem State.flag_modPort (s : State) (p : Port) (f : PortSt → PortSt) (x : Nat) (g : Field) : (s.modPort p f).flag x g = s.flag x g := rfl
@[simp] theorem State.core_modPort (s : State) (p : Port) (f : PortSt → PortSt) (x : Nat) : (s.modPort p f).core x = s.core x := rfl
@[simp] theorem State.thr_modPort (s : State) (p : Port) (f : PortSt → PortSt) (x : Nat) (y : Thr) : (s.modPort p f).thr x y = s.thr x y := rfl
@[simp] theorem State.tier_modPort (s : State) (p : Port) (f : PortSt → PortSt) (x : Nat) : (s.modPort p f).tier x = s.tier x := rfl
@[simp] theorem State.dma_modPort (s : State) (p : Port) (f : PortSt → PortSt) (x : Nat) : (s.modPort p f).dma x = s.dma x := rfl
@[simp] theorem State.txn_modPort (s : State) (p : Port) (f : PortSt → PortSt) (x : Nat) : (s.modPort p f).txn x = s.txn x := rfl
@[simp] theorem State.image_modPort (s : State) (p : Port) (f : PortSt → PortSt) (x : Nat) : (s.modPort p f).image x = s.image x := rfl

@[simp] theorem State.reg_emit (s : State) (p : Port) (tlp : Tlp) (x : Nat) : (s.emit p tlp).reg x = s.reg x := rfl
@[simp] theorem State.fld_emit (s : State) (p : Port) (tlp : Tlp) (x : Nat) (g : Field) : (s.emit p tlp).fld x g = s.fld x g := rfl
@[simp] theorem State.flag_emit (s : State) (p : Port) (tlp : Tlp) (x : Nat) (g : Field) : (s.emit p tlp).flag x g = s.flag x g := rfl
@[simp] theorem State.core_emit (s : State) (p : Port) (tlp : Tlp) (x : Nat) : (s.emit p tlp).core x = s.core x := rfl
@[simp] theorem State.thr_emit (s : State) (p : Port) (tlp : Tlp) (x : Nat) (y : Thr) : (s.emit p tlp).thr x y = s.thr x y := rfl
@[simp] theorem State.tier_emit (s : State) (p : Port) (tlp : Tlp) (x : Nat) : (s.emit p tlp).tier x = s.tier x := rfl
@[simp] theorem State.dma_emit (s : State) (p : Port) (tlp : Tlp) (x : Nat) : (s.emit p tlp).dma x = s.dma x := rfl
@[simp] theorem State.txn_emit (s : State) (p : Port) (tlp : Tlp) (x : Nat) : (s.emit p tlp).txn x = s.txn x := rfl
@[simp] theorem State.image_emit (s : State) (p : Port) (tlp : Tlp) (x : Nat) : (s.emit p tlp).image x = s.image x := rfl

@[simp] theorem State.reg_modTier (s : State) (n : Nat) (f : Tier → Tier) (x : Nat) : (s.modTier n f).reg x = s.reg x := rfl
@[simp] theorem State.fld_modTier (s : State) (n : Nat) (f : Tier → Tier) (x : Nat) (g : Field) : (s.modTier n f).fld x g = s.fld x g := rfl
@[simp] theorem State.flag_modTier (s : State) (n : Nat) (f : Tier → Tier) (x : Nat) (g : Field) : (s.modTier n f).flag x g = s.flag x g := rfl
@[simp] theorem State.core_modTier (s : State) (n : Nat) (f : Tier → Tier) (x : Nat) : (s.modTier n f).core x = s.core x := rfl
@[simp] theorem State.thr_modTier (s : State) (n : Nat) (f : Tier → Tier) (x : Nat) (y : Thr) : (s.modTier n f).thr x y = s.thr x y := rfl
@[simp] theorem State.port_modTier (s : State) (n : Nat) (f : Tier → Tier) (x : Port) : (s.modTier n f).port x = s.port x := rfl
@[simp] theorem State.dma_modTier (s : State) (n : Nat) (f : Tier → Tier) (x : Nat) : (s.modTier n f).dma x = s.dma x := rfl
@[simp] theorem State.txn_modTier (s : State) (n : Nat) (f : Tier → Tier) (x : Nat) : (s.modTier n f).txn x = s.txn x := rfl
@[simp] theorem State.image_modTier (s : State) (n : Nat) (f : Tier → Tier) (x : Nat) : (s.modTier n f).image x = s.image x := rfl

@[simp] theorem State.reg_modDma (s : State) (n : Nat) (f : Dma → Dma) (x : Nat) : (s.modDma n f).reg x = s.reg x := rfl
@[simp] theorem State.fld_modDma (s : State) (n : Nat) (f : Dma → Dma) (x : Nat) (g : Field) : (s.modDma n f).fld x g = s.fld x g := rfl
@[simp] theorem State.flag_modDma (s : State) (n : Nat) (f : Dma → Dma) (x : Nat) (g : Field) : (s.modDma n f).flag x g = s.flag x g := rfl
@[simp] theorem State.core_modDma (s : State) (n : Nat) (f : Dma → Dma) (x : Nat) : (s.modDma n f).core x = s.core x := rfl
@[simp] theorem State.thr_modDma (s : State) (n : Nat) (f : Dma → Dma) (x : Nat) (y : Thr) : (s.modDma n f).thr x y = s.thr x y := rfl
@[simp] theorem State.port_modDma (s : State) (n : Nat) (f : Dma → Dma) (x : Port) : (s.modDma n f).port x = s.port x := rfl
@[simp] theorem State.tier_modDma (s : State) (n : Nat) (f : Dma → Dma) (x : Nat) : (s.modDma n f).tier x = s.tier x := rfl
@[simp] theorem State.txn_modDma (s : State) (n : Nat) (f : Dma → Dma) (x : Nat) : (s.modDma n f).txn x = s.txn x := rfl
@[simp] theorem State.image_modDma (s : State) (n : Nat) (f : Dma → Dma) (x : Nat) : (s.modDma n f).image x = s.image x := rfl

@[simp] theorem State.reg_modMgmt (s : State) (f : Mgmt → Mgmt) (x : Nat) : (s.modMgmt f).reg x = s.reg x := rfl
@[simp] theorem State.fld_modMgmt (s : State) (f : Mgmt → Mgmt) (x : Nat) (g : Field) : (s.modMgmt f).fld x g = s.fld x g := rfl
@[simp] theorem State.flag_modMgmt (s : State) (f : Mgmt → Mgmt) (x : Nat) (g : Field) : (s.modMgmt f).flag x g = s.flag x g := rfl
@[simp] theorem State.core_modMgmt (s : State) (f : Mgmt → Mgmt) (x : Nat) : (s.modMgmt f).core x = s.core x := rfl
@[simp] theorem State.thr_modMgmt (s : State) (f : Mgmt → Mgmt) (x : Nat) (y : Thr) : (s.modMgmt f).thr x y = s.thr x y := rfl
@[simp] theorem State.port_modMgmt (s : State) (f : Mgmt → Mgmt) (x : Port) : (s.modMgmt f).port x = s.port x := rfl
@[simp] theorem State.tier_modMgmt (s : State) (f : Mgmt → Mgmt) (x : Nat) : (s.modMgmt f).tier x = s.tier x := rfl
@[simp] theorem State.dma_modMgmt (s : State) (f : Mgmt → Mgmt) (x : Nat) : (s.modMgmt f).dma x = s.dma x := rfl
@[simp] theorem State.txn_modMgmt (s : State) (f : Mgmt → Mgmt) (x : Nat) : (s.modMgmt f).txn x = s.txn x := rfl
@[simp] theorem State.image_modMgmt (s : State) (f : Mgmt → Mgmt) (x : Nat) : (s.modMgmt f).image x = s.image x := rfl

@[simp] theorem State.reg_modTxn (s : State) (i : Nat) (f : Txn → Txn) (x : Nat) : (s.modTxn i f).reg x = s.reg x := rfl
@[simp] theorem State.fld_modTxn (s : State) (i : Nat) (f : Txn → Txn) (x : Nat) (g : Field) : (s.modTxn i f).fld x g = s.fld x g := rfl
@[simp] theorem State.flag_modTxn (s : State) (i : Nat) (f : Txn → Txn) (x : Nat) (g : Field) : (s.modTxn i f).flag x g = s.flag x g := rfl
@[simp] theorem State.core_modTxn (s : State) (i : Nat) (f : Txn → Txn) (x : Nat) : (s.modTxn i f).core x = s.core x := rfl
@[simp] theorem State.thr_modTxn (s : State) (i : Nat) (f : Txn → Txn) (x : Nat) (y : Thr) : (s.modTxn i f).thr x y = s.thr x y := rfl
@[simp] theorem State.port_modTxn (s : State) (i : Nat) (f : Txn → Txn) (x : Port) : (s.modTxn i f).port x = s.port x := rfl
@[simp] theorem State.tier_modTxn (s : State) (i : Nat) (f : Txn → Txn) (x : Nat) : (s.modTxn i f).tier x = s.tier x := rfl
@[simp] theorem State.dma_modTxn (s : State) (i : Nat) (f : Txn → Txn) (x : Nat) : (s.modTxn i f).dma x = s.dma x := rfl
@[simp] theorem State.image_modTxn (s : State) (i : Nat) (f : Txn → Txn) (x : Nat) : (s.modTxn i f).image x = s.image x := rfl

@[simp] theorem State.reg_dropTxn (s : State) (i : Nat) (x : Nat) : (s.dropTxn i).reg x = s.reg x := rfl
@[simp] theorem State.fld_dropTxn (s : State) (i : Nat) (x : Nat) (g : Field) : (s.dropTxn i).fld x g = s.fld x g := rfl
@[simp] theorem State.flag_dropTxn (s : State) (i : Nat) (x : Nat) (g : Field) : (s.dropTxn i).flag x g = s.flag x g := rfl
@[simp] theorem State.core_dropTxn (s : State) (i : Nat) (x : Nat) : (s.dropTxn i).core x = s.core x := rfl
@[simp] theorem State.thr_dropTxn (s : State) (i : Nat) (x : Nat) (y : Thr) : (s.dropTxn i).thr x y = s.thr x y := rfl
@[simp] theorem State.port_dropTxn (s : State) (i : Nat) (x : Port) : (s.dropTxn i).port x = s.port x := rfl
@[simp] theorem State.tier_dropTxn (s : State) (i : Nat) (x : Nat) : (s.dropTxn i).tier x = s.tier x := rfl
@[simp] theorem State.dma_dropTxn (s : State) (i : Nat) (x : Nat) : (s.dropTxn i).dma x = s.dma x := rfl
@[simp] theorem State.image_dropTxn (s : State) (i : Nat) (x : Nat) : (s.dropTxn i).image x = s.image x := rfl

@[simp] theorem State.reg_modDeep (s : State) (f : Deep → Deep) (x : Nat) : (s.modDeep f).reg x = s.reg x := rfl
@[simp] theorem State.fld_modDeep (s : State) (f : Deep → Deep) (x : Nat) (g : Field) : (s.modDeep f).fld x g = s.fld x g := rfl
@[simp] theorem State.flag_modDeep (s : State) (f : Deep → Deep) (x : Nat) (g : Field) : (s.modDeep f).flag x g = s.flag x g := rfl
@[simp] theorem State.core_modDeep (s : State) (f : Deep → Deep) (x : Nat) : (s.modDeep f).core x = s.core x := rfl
@[simp] theorem State.thr_modDeep (s : State) (f : Deep → Deep) (x : Nat) (y : Thr) : (s.modDeep f).thr x y = s.thr x y := rfl
@[simp] theorem State.port_modDeep (s : State) (f : Deep → Deep) (x : Port) : (s.modDeep f).port x = s.port x := rfl
@[simp] theorem State.tier_modDeep (s : State) (f : Deep → Deep) (x : Nat) : (s.modDeep f).tier x = s.tier x := rfl
@[simp] theorem State.dma_modDeep (s : State) (f : Deep → Deep) (x : Nat) : (s.modDeep f).dma x = s.dma x := rfl
@[simp] theorem State.txn_modDeep (s : State) (f : Deep → Deep) (x : Nat) : (s.modDeep f).txn x = s.txn x := rfl
@[simp] theorem State.image_modDeep (s : State) (f : Deep → Deep) (x : Nat) : (s.modDeep f).image x = s.image x := rfl

@[simp] theorem State.reg_draw (s : State) (x : Nat) : (s.draw.2).reg x = s.reg x := rfl
@[simp] theorem State.fld_draw (s : State) (x : Nat) (g : Field) : (s.draw.2).fld x g = s.fld x g := rfl
@[simp] theorem State.flag_draw (s : State) (x : Nat) (g : Field) : (s.draw.2).flag x g = s.flag x g := rfl
@[simp] theorem State.core_draw (s : State) (x : Nat) : (s.draw.2).core x = s.core x := rfl
@[simp] theorem State.thr_draw (s : State) (x : Nat) (y : Thr) : (s.draw.2).thr x y = s.thr x y := rfl
@[simp] theorem State.port_draw (s : State) (x : Port) : (s.draw.2).port x = s.port x := rfl
@[simp] theorem State.tier_draw (s : State) (x : Nat) : (s.draw.2).tier x = s.tier x := rfl
@[simp] theorem State.dma_draw (s : State) (x : Nat) : (s.draw.2).dma x = s.dma x := rfl
@[simp] theorem State.txn_draw (s : State) (x : Nat) : (s.draw.2).txn x = s.txn x := rfl
@[simp] theorem State.image_draw (s : State) (x : Nat) : (s.draw.2).image x = s.image x := rfl

@[simp] theorem State.reg_fresh (s : State) (x : Nat) : (s.fresh.2).reg x = s.reg x := rfl
@[simp] theorem State.fld_fresh (s : State) (x : Nat) (g : Field) : (s.fresh.2).fld x g = s.fld x g := rfl
@[simp] theorem State.flag_fresh (s : State) (x : Nat) (g : Field) : (s.fresh.2).flag x g = s.flag x g := rfl
@[simp] theorem State.core_fresh (s : State) (x : Nat) : (s.fresh.2).core x = s.core x := rfl
@[simp] theorem State.thr_fresh (s : State) (x : Nat) (y : Thr) : (s.fresh.2).thr x y = s.thr x y := rfl
@[simp] theorem State.port_fresh (s : State) (x : Port) : (s.fresh.2).port x = s.port x := rfl
@[simp] theorem State.tier_fresh (s : State) (x : Nat) : (s.fresh.2).tier x = s.tier x := rfl
@[simp] theorem State.dma_fresh (s : State) (x : Nat) : (s.fresh.2).dma x = s.dma x := rfl
@[simp] theorem State.txn_fresh (s : State) (x : Nat) : (s.fresh.2).txn x = s.txn x := rfl
@[simp] theorem State.image_fresh (s : State) (x : Nat) : (s.fresh.2).image x = s.image x := rfl

@[simp] theorem State.reg_alertPin (s : State) (x : Nat) : (s.alertPin).reg x = s.reg x := rfl
@[simp] theorem State.fld_alertPin (s : State) (x : Nat) (g : Field) : (s.alertPin).fld x g = s.fld x g := rfl
@[simp] theorem State.flag_alertPin (s : State) (x : Nat) (g : Field) : (s.alertPin).flag x g = s.flag x g := rfl
@[simp] theorem State.core_alertPin (s : State) (x : Nat) : (s.alertPin).core x = s.core x := rfl
@[simp] theorem State.thr_alertPin (s : State) (x : Nat) (y : Thr) : (s.alertPin).thr x y = s.thr x y := rfl
@[simp] theorem State.port_alertPin (s : State) (x : Port) : (s.alertPin).port x = s.port x := rfl
@[simp] theorem State.tier_alertPin (s : State) (x : Nat) : (s.alertPin).tier x = s.tier x := rfl
@[simp] theorem State.dma_alertPin (s : State) (x : Nat) : (s.alertPin).dma x = s.dma x := rfl
@[simp] theorem State.txn_alertPin (s : State) (x : Nat) : (s.alertPin).txn x = s.txn x := rfl
@[simp] theorem State.image_alertPin (s : State) (x : Nat) : (s.alertPin).image x = s.image x := rfl

@[simp] theorem State.core_alert (s : State) (f : Field) (x : Nat) : (s.alert f).core x = s.core x := rfl
@[simp] theorem State.thr_alert (s : State) (f : Field) (x : Nat) (y : Thr) : (s.alert f).thr x y = s.thr x y := rfl
@[simp] theorem State.port_alert (s : State) (f : Field) (x : Port) : (s.alert f).port x = s.port x := rfl
@[simp] theorem State.tier_alert (s : State) (f : Field) (x : Nat) : (s.alert f).tier x = s.tier x := rfl
@[simp] theorem State.dma_alert (s : State) (f : Field) (x : Nat) : (s.alert f).dma x = s.dma x := rfl
@[simp] theorem State.txn_alert (s : State) (f : Field) (x : Nat) : (s.alert f).txn x = s.txn x := rfl
@[simp] theorem State.image_alert (s : State) (f : Field) (x : Nat) : (s.alert f).image x = s.image x := rfl

@[simp] theorem State.reg_send (s : State) (src : Source) (a : Nat) (op : MemOp) (p : Purpose) (o : List (Nat × Byte)) (v : Option Nat) (x : Nat) : (s.send src a op p o v).reg x = s.reg x := rfl
@[simp] theorem State.fld_send (s : State) (src : Source) (a : Nat) (op : MemOp) (p : Purpose) (o : List (Nat × Byte)) (v : Option Nat) (x : Nat) (g : Field) : (s.send src a op p o v).fld x g = s.fld x g := rfl
@[simp] theorem State.flag_send (s : State) (src : Source) (a : Nat) (op : MemOp) (p : Purpose) (o : List (Nat × Byte)) (v : Option Nat) (x : Nat) (g : Field) : (s.send src a op p o v).flag x g = s.flag x g := rfl
@[simp] theorem State.core_send (s : State) (src : Source) (a : Nat) (op : MemOp) (p : Purpose) (o : List (Nat × Byte)) (v : Option Nat) (x : Nat) : (s.send src a op p o v).core x = s.core x := rfl
@[simp] theorem State.thr_send (s : State) (src : Source) (a : Nat) (op : MemOp) (p : Purpose) (o : List (Nat × Byte)) (v : Option Nat) (x : Nat) (y : Thr) : (s.send src a op p o v).thr x y = s.thr x y := rfl
@[simp] theorem State.port_send (s : State) (src : Source) (a : Nat) (op : MemOp) (p : Purpose) (o : List (Nat × Byte)) (v : Option Nat) (x : Port) : (s.send src a op p o v).port x = s.port x := rfl
@[simp] theorem State.tier_send (s : State) (src : Source) (a : Nat) (op : MemOp) (p : Purpose) (o : List (Nat × Byte)) (v : Option Nat) (x : Nat) : (s.send src a op p o v).tier x = s.tier x := rfl
@[simp] theorem State.dma_send (s : State) (src : Source) (a : Nat) (op : MemOp) (p : Purpose) (o : List (Nat × Byte)) (v : Option Nat) (x : Nat) : (s.send src a op p o v).dma x = s.dma x := rfl
@[simp] theorem State.image_send (s : State) (src : Source) (a : Nat) (op : MemOp) (p : Purpose) (o : List (Nat × Byte)) (v : Option Nat) (x : Nat) : (s.send src a op p o v).image x = s.image x := rfl

@[simp] theorem State.reg_sendSync (s : State) (who : Waiter) (c : Nat) (o : SyncObj) (k : SyncKind) (sl : Nat) (pc : Addr) (pr : Nat) (x : Nat) : (s.sendSync who c o k sl pc pr).reg x = s.reg x := rfl
@[simp] theorem State.fld_sendSync (s : State) (who : Waiter) (c : Nat) (o : SyncObj) (k : SyncKind) (sl : Nat) (pc : Addr) (pr : Nat) (x : Nat) (g : Field) : (s.sendSync who c o k sl pc pr).fld x g = s.fld x g := rfl
@[simp] theorem State.flag_sendSync (s : State) (who : Waiter) (c : Nat) (o : SyncObj) (k : SyncKind) (sl : Nat) (pc : Addr) (pr : Nat) (x : Nat) (g : Field) : (s.sendSync who c o k sl pc pr).flag x g = s.flag x g := rfl
@[simp] theorem State.core_sendSync (s : State) (who : Waiter) (c : Nat) (o : SyncObj) (k : SyncKind) (sl : Nat) (pc : Addr) (pr : Nat) (x : Nat) : (s.sendSync who c o k sl pc pr).core x = s.core x := rfl
@[simp] theorem State.thr_sendSync (s : State) (who : Waiter) (c : Nat) (o : SyncObj) (k : SyncKind) (sl : Nat) (pc : Addr) (pr : Nat) (x : Nat) (y : Thr) : (s.sendSync who c o k sl pc pr).thr x y = s.thr x y := rfl
@[simp] theorem State.port_sendSync (s : State) (who : Waiter) (c : Nat) (o : SyncObj) (k : SyncKind) (sl : Nat) (pc : Addr) (pr : Nat) (x : Port) : (s.sendSync who c o k sl pc pr).port x = s.port x := rfl
@[simp] theorem State.tier_sendSync (s : State) (who : Waiter) (c : Nat) (o : SyncObj) (k : SyncKind) (sl : Nat) (pc : Addr) (pr : Nat) (x : Nat) : (s.sendSync who c o k sl pc pr).tier x = s.tier x := rfl
@[simp] theorem State.dma_sendSync (s : State) (who : Waiter) (c : Nat) (o : SyncObj) (k : SyncKind) (sl : Nat) (pc : Addr) (pr : Nat) (x : Nat) : (s.sendSync who c o k sl pc pr).dma x = s.dma x := rfl
@[simp] theorem State.txn_sendSync (s : State) (who : Waiter) (c : Nat) (o : SyncObj) (k : SyncKind) (sl : Nat) (pc : Addr) (pr : Nat) (x : Nat) : (s.sendSync who c o k sl pc pr).txn x = s.txn x := rfl
@[simp] theorem State.image_sendSync (s : State) (who : Waiter) (c : Nat) (o : SyncObj) (k : SyncKind) (sl : Nat) (pc : Addr) (pr : Nat) (x : Nat) : (s.sendSync who c o k sl pc pr).image x = s.image x := rfl

@[simp] theorem State.reg_commit (s t : State) (x : Nat) : (s.commit t).reg x = t.reg x := rfl
@[simp] theorem State.reg_commitMem (s : State) (r : State × MemUpd) (x : Nat) : (s.commitMem r).reg x = r.1.reg x := rfl
@[simp] theorem State.reg_modImage (s : State) (k : Nat) (i : Image → Image) (x : Nat) : (s.modImage k i).reg x = s.reg x := by simp [State.modImage]; split <;> simp [State.reg, State.reg]
@[simp] theorem State.fld_commit (s t : State) (x : Nat) (g : Field) : (s.commit t).fld x g = t.fld x g := rfl
@[simp] theorem State.fld_commitMem (s : State) (r : State × MemUpd) (x : Nat) (g : Field) : (s.commitMem r).fld x g = r.1.fld x g := rfl
@[simp] theorem State.fld_modImage (s : State) (k : Nat) (i : Image → Image) (x : Nat) (g : Field) : (s.modImage k i).fld x g = s.fld x g := by simp [State.modImage]; split <;> simp [State.fld, State.reg, State.fld]
@[simp] theorem State.flag_commit (s t : State) (x : Nat) (g : Field) : (s.commit t).flag x g = t.flag x g := rfl
@[simp] theorem State.flag_commitMem (s : State) (r : State × MemUpd) (x : Nat) (g : Field) : (s.commitMem r).flag x g = r.1.flag x g := rfl
@[simp] theorem State.flag_modImage (s : State) (k : Nat) (i : Image → Image) (x : Nat) (g : Field) : (s.modImage k i).flag x g = s.flag x g := by simp [State.modImage]; split <;> simp [State.flag, State.reg, State.fld]
@[simp] theorem State.core_commit (s t : State) (x : Nat) : (s.commit t).core x = t.core x := rfl
@[simp] theorem State.core_commitMem (s : State) (r : State × MemUpd) (x : Nat) : (s.commitMem r).core x = r.1.core x := rfl
@[simp] theorem State.core_modImage (s : State) (k : Nat) (i : Image → Image) (x : Nat) : (s.modImage k i).core x = s.core x := by simp [State.modImage]; split <;> simp [State.core]
@[simp] theorem State.thr_commit (s t : State) (x : Nat) (y : Thr) : (s.commit t).thr x y = t.thr x y := rfl
@[simp] theorem State.thr_commitMem (s : State) (r : State × MemUpd) (x : Nat) (y : Thr) : (s.commitMem r).thr x y = r.1.thr x y := rfl
@[simp] theorem State.thr_modImage (s : State) (k : Nat) (i : Image → Image) (x : Nat) (y : Thr) : (s.modImage k i).thr x y = s.thr x y := by simp [State.modImage]; split <;> simp [State.thr, State.core]
@[simp] theorem State.port_commit (s t : State) (x : Port) : (s.commit t).port x = t.port x := rfl
@[simp] theorem State.port_commitMem (s : State) (r : State × MemUpd) (x : Port) : (s.commitMem r).port x = r.1.port x := rfl
@[simp] theorem State.port_modImage (s : State) (k : Nat) (i : Image → Image) (x : Port) : (s.modImage k i).port x = s.port x := by simp [State.modImage]; split <;> simp [State.port]
@[simp] theorem State.tier_commit (s t : State) (x : Nat) : (s.commit t).tier x = t.tier x := rfl
@[simp] theorem State.tier_commitMem (s : State) (r : State × MemUpd) (x : Nat) : (s.commitMem r).tier x = r.1.tier x := rfl
@[simp] theorem State.tier_modImage (s : State) (k : Nat) (i : Image → Image) (x : Nat) : (s.modImage k i).tier x = s.tier x := by simp [State.modImage]; split <;> simp [State.tier]
@[simp] theorem State.dma_commit (s t : State) (x : Nat) : (s.commit t).dma x = t.dma x := rfl
@[simp] theorem State.dma_commitMem (s : State) (r : State × MemUpd) (x : Nat) : (s.commitMem r).dma x = r.1.dma x := rfl
@[simp] theorem State.dma_modImage (s : State) (k : Nat) (i : Image → Image) (x : Nat) : (s.modImage k i).dma x = s.dma x := by simp [State.modImage]; split <;> simp [State.dma]
@[simp] theorem State.txn_commit (s t : State) (x : Nat) : (s.commit t).txn x = t.txn x := rfl
@[simp] theorem State.txn_commitMem (s : State) (r : State × MemUpd) (x : Nat) : (s.commitMem r).txn x = r.1.txn x := rfl
@[simp] theorem State.txn_modImage (s : State) (k : Nat) (i : Image → Image) (x : Nat) : (s.modImage k i).txn x = s.txn x := by simp [State.modImage]; split <;> simp [State.txn]
@[simp] theorem State.image_commit (s t : State) (x : Nat) : (s.commit t).image x = t.image x := rfl
@[simp] theorem State.image_commitMem (s : State) (r : State × MemUpd) (x : Nat) : (s.commitMem r).image x = r.1.image x := rfl
/-! What an update sets -/

@[simp] theorem State.core_setCore_self (s : State) (c : Nat) (k : Core) : (s.setCore c k).core c = k := by
  simp [State.core, State.setCore]

theorem State.core_setCore_ne (s : State) {c x : Nat} (k : Core) (h : x ≠ c) : (s.setCore c k).core x = s.core x :=
  tabGet_tabIns_ne _ _ _ h

@[simp] theorem State.core_modCore_self (s : State) (c : Nat) (f : Core → Core) : (s.modCore c f).core c = f (s.core c) := by
  simp [State.modCore]

theorem State.core_modCore_ne (s : State) {c x : Nat} (f : Core → Core) (h : x ≠ c) : (s.modCore c f).core x = s.core x :=
  s.core_setCore_ne _ h

@[simp] theorem State.core_modThr_self (s : State) (c : Nat) (t : Thr) (f : Thread → Thread) :
    (s.modThr c t f).core c = (s.core c).modThr t f := by
  simp [State.modThr]

theorem State.core_modThr_ne (s : State) {c x : Nat} (t : Thr) (f : Thread → Thread) (h : x ≠ c) :
    (s.modThr c t f).core x = s.core x :=
  s.core_modCore_ne _ h

@[simp] theorem State.thr_modThr_self (s : State) (c : Nat) (t : Thr) (f : Thread → Thread) :
    (s.modThr c t f).thr c t = f (s.thr c t) := by
  simp [State.thr, Core.modThr]

theorem State.thr_modThr_ne (s : State) {c x : Nat} {t y : Thr} (f : Thread → Thread) (h : ¬(x = c ∧ y = t)) :
    (s.modThr c t f).thr x y = s.thr x y := by
  by_cases hx : x = c
  · subst hx
    have hy : t ≠ y := fun e => h ⟨rfl, e.symm⟩
    have hv : t.val ≠ y.val := fun e => hy (Fin.ext e)
    simp [State.thr, Core.modThr, hv]
  · simp [State.thr, s.core_modThr_ne t f hx]

@[simp] theorem State.port_modPort_self (s : State) (p : Port) (f : PortSt → PortSt) : (s.modPort p f).port p = f (s.port p) := by
  simp [State.port, State.modPort]

theorem State.port_modPort_ne (s : State) {p x : Port} (f : PortSt → PortSt) (h : x ≠ p) : (s.modPort p f).port x = s.port x := by
  have hv : p.val ≠ x.val := fun e => h (Fin.ext e.symm)
  simp [State.port, State.modPort, hv]

@[simp] theorem State.tier_modTier_self (s : State) (n : Nat) (f : Tier → Tier) : (s.modTier n f).tier n = f (s.tier n) := by
  simp [State.tier, State.modTier]

theorem State.tier_modTier_ne (s : State) {n x : Nat} (f : Tier → Tier) (h : x ≠ n) : (s.modTier n f).tier x = s.tier x :=
  tabGet_tabIns_ne _ _ _ h

@[simp] theorem State.dma_modDma_self (s : State) (n : Nat) (f : Dma → Dma) : (s.modDma n f).dma n = f (s.dma n) := by
  simp [State.dma, State.modDma]

@[simp] theorem State.mgmt_modMgmt (s : State) (f : Mgmt → Mgmt) : (s.modMgmt f).mgmt = f s.mgmt := rfl

@[simp] theorem State.deep_modDeep (s : State) (f : Deep → Deep) : (s.modDeep f).deep = f s.deep := rfl

theorem State.image_setImage_self (s : State) (k : Nat) (i : Option Image) (h : k < 16) : (s.setImage k i).image k = i := by
  simp [State.image, State.setImage, h]

theorem State.image_setImage_ne (s : State) {k x : Nat} (i : Option Image) (h : x ≠ k) : (s.setImage k i).image x = s.image x := by
  unfold State.image State.setImage
  split
  · split
    · rename_i h1 h2
      simp [Ne.symm h]
    · rfl
  · rfl

theorem State.image_modImage_self (s : State) (k : Nat) (f : Image → Image) : (s.modImage k f).image k = (s.image k).map f := by
  unfold State.modImage
  cases h : s.image k with
  | none => simp [h]
  | some i =>
    have hk : k < 16 := by
      by_contra hk
      simp [State.image, hk] at h
    simp [State.image_setImage_self _ _ _ hk]

theorem State.image_modImage_ne (s : State) {k x : Nat} (f : Image → Image) (h : x ≠ k) : (s.modImage k f).image x = s.image x := by
  unfold State.modImage
  split
  · exact s.image_setImage_ne _ h
  · rfl

/-- The answers of `done` and `doneMem`. -/
theorem State.done_eq (s t : State) : s.done t = .next (s.commit t) := rfl
theorem State.doneMem_eq (s : State) (r : State × MemUpd) : s.doneMem r = .next (s.commitMem r) := rfl

/-- A command that writes no memory leaves every byte. -/
@[simp] theorem State.commitMem_none_mem (s t : State) : (s.commitMem (t, .none)).mem = s.mem := rfl

@[simp] theorem State.commitMem_none_poison (s t : State) : (s.commitMem (t, .none)).poison = s.poison := rfl

/-- Folding an update that keeps a quantity keeps it. -/
theorem State.forAll_keeps {α β : Type} (q : State → β) (l : List α) (f : State → α → State) (h : ∀ s, ∀ a ∈ l, q (f s a) = q s)
    (s : State) : q (s.forAll l f) = q s := by
  induction l generalizing s with
  | nil => rfl
  | cons a l ih =>
    have := ih (fun s b hb => h s b (by simp [hb])) (f s a)
    simpa [State.forAll] using this.trans (h s a (by simp))

/-- A property that each of a folded update's steps keeps holds after them all. -/
theorem State.forAll_inv {α : Type} (P : State → Prop) (l : List α) (f : State → α → State) (h : ∀ s, ∀ a ∈ l, P s → P (f s a))
    (s : State) (hs : P s) : P (s.forAll l f) := by
  induction l generalizing s with
  | nil => exact hs
  | cons a l ih => exact ih (fun s b hb => h s b (by simp [hb])) (f s a) (h s a (by simp) hs)

end Sys2Proof.Machine
end

