-- ==== Sys2Proof/Laws/Issue.lean ====
section
/-! SUPPORT. What the issue of an instruction does and leaves: an instruction that issues runs its body, and beside its body
only what the sequencing of instructions moves has changed. -/

namespace Sys2Proof.Machine
open Sys2Proof.Claims

theorem gateHere_congr {a b : Thread} (h1 : a.gate = b.gate) (h2 : a.tstatus = b.tstatus) (h3 : a.rplstat = b.rplstat) (h4 : a.pc = b.pc) :
    a.gateHere = b.gateHere := by
  unfold Thread.gateHere Thread.depth Thread.wordAddr Thread.replaying
  rw [h1, h2, h3, h4]

theorem State.scObj_modThr (s : State) (c x : Nat) (t : Thr) (f : Thread → Thread) (w : Word) : (s.modThr c t f).scObj x w = s.scObj x w := rfl

theorem State.scBad_modThr (s : State) (c : CoreId) (t : Thr) (n : Nat) (f : Thread → Thread) (h : (f (s.thr c t)).sc = (s.thr c t).sc) :
    (s.modThr c t f).scBad c t n = s.scBad c t n := by
  unfold State.scBad Thread.scOf Thread.readSC
  rw [State.scObj_modThr, State.thr_modThr_self, h]

theorem unenter_gateHere (th : Thread) : th.unenter.gateHere = th.gateHere := rfl
theorem unenter_scOf (th : Thread) (n : Nat) : th.unenter.scOf n = th.scOf n := rfl
theorem unenter_flagCount (th : Thread) (n : Nat) : th.unenter.flagCount n = th.flagCount n := rfl
theorem unenter_waitPassed (th : Thread) : th.unenter.waitPassed = th.waitPassed := rfl

/-- A fetched word changes of its core the thread's `entering` and the use of the instruction cache's ways alone. -/
theorem State.core_entered (s : State) (c : CoreId) (t : Thr) :
    ∃ v, (s.entered c t).core c =
      let q := (s.core c).modThr t Thread.unenter
      { q with icache := { q.icache with plru := v } } := by
  unfold State.entered
  split
  · rw [State.core_modCore_self, State.core_modThr_self]
    unfold Core.touchInstr
    split
    · exact ⟨_, rfl⟩
    · exact ⟨_, rfl⟩
  · exact ⟨_, State.core_modThr_self ..⟩

theorem State.core_entered_ne (s : State) (c : CoreId) (t : Thr) {x : Nat} (h : x ≠ c.val) : (s.entered c t).core x = s.core x := by
  unfold State.entered
  split
  · rw [State.core_modCore_ne _ _ h, State.core_modThr_ne _ _ _ h]
  · rw [State.core_modThr_ne _ _ _ h]

@[simp] theorem State.thr_entered (s : State) (c : CoreId) (t : Thr) : (s.entered c t).thr c t = (s.thr c t).unenter := by
  obtain ⟨v, h⟩ := s.core_entered c t
  unfold State.thr
  rw [h]
  simp [Core.modThr]

theorem State.scObj_entered (s : State) (c : CoreId) (t : Thr) (x : Nat) (w : Word) : (s.entered c t).scObj x w = s.scObj x w := by
  unfold State.entered
  split <;> rfl

theorem State.scBad_entered (s : State) (c : CoreId) (t : Thr) (n : Nat) : (s.entered c t).scBad c t n = s.scBad c t n := by
  unfold State.scBad
  rw [State.scObj_entered, State.thr_entered, unenter_scOf]

theorem State.tryWait_entered (s : State) (c : CoreId) (t : Thr) (n : Nat) (h : s.tryWait c t n = none) :
    (s.entered c t).tryWait c t n = none := by
  unfold State.tryWait at h ⊢
  simp only [State.thr_entered, State.scObj_entered, unenter_gateHere, unenter_scOf, unenter_flagCount, unenter_waitPassed] at h ⊢
  split at h
  · rename_i h0; rw [if_pos h0]
  · rename_i h0; rw [if_neg h0]
    split at h
    · rename_i h1; rw [if_pos h1]
      split at h
      · rename_i h2; rw [if_pos h2]
      · cases h
    · rename_i h1; rw [if_neg h1]
      split at h
      · rfl
      · split at h
        · rename_i hz; simp only [hz, if_true]
        · cases h
      · cases h

theorem State.preciseHeld_entered (s : State) (c : CoreId) (t : Thr) :
    ((s.entered c t).core c).preciseHeld t = (s.core c).preciseHeld t := by
  obtain ⟨v, h⟩ := s.core_entered c t
  have e : ((s.entered c t).core c).thr[t] = ((s.core c).thr[t]).unenter := s.thr_entered c t
  have e1 : ((s.entered c t).core c).unitOps = (s.core c).unitOps := by rw [h]; rfl
  have e2 : ∀ w, ((s.entered c t).core c).floats w = (s.core c).floats w := by intro w; rw [h]; rfl
  unfold Core.preciseHeld
  simp only [e, e1, e2]
  rfl

theorem State.nextKey_entered (s : State) (c : CoreId) (t : Thr) : ((s.entered c t).core c).nextKey = (s.core c).nextKey := by
  obtain ⟨v, h⟩ := s.core_entered c t
  rw [h]; rfl

/-- An instruction that issues runs its body, and goes on from what that came to. -/
theorem State.issue_runs {s : State} {c : CoreId} {t : Thr} {w : Word} {regs : List Nat} (h : Issues s c t w regs)
    {mine : Word → Bool} (hm : mine w = true) {irregular : Thread → Option Nat} (hi : irregular (s.thr c t) = none)
    (body : Nat → State → State × Res) :
    s.issue c t w mine irregular regs body =
      (body ((s.core c).nextKey + 1) ((s.entered c t).atBody c t)).1.afterBody c t w (s.core c).nextKey
        (body ((s.core c).nextKey + 1) ((s.entered c t).atBody c t)).2 := by
  obtain ⟨h1, h2, hph, h3, h4, h5, h6, h7, h8, ⟨h9, h9'⟩, h10, h11⟩ := h
  have e1 : (decide ((s.thr c t).st ≠ TState.running) || (s.thr c t).mustEnter || (s.thr c t).phase.isSome) = false := by rw [h1, h2, hph]; rfl
  have e2 : ((s.thr c t).repeating && REPCNT.COUNT.get (s.thr c t).repcnt == 0) = false := by
    cases hr : (s.thr c t).repeating with
    | false => rfl
    | true => simpa using (h5 hr).1
  have e3 : ((s.thr c t).repeating && !repeatable w) = false := by
    cases hr : (s.thr c t).repeating with
    | false => rfl
    | true => simpa using (h5 hr).2
  have e4 : ((commonIrregular (s.thr c t) w).orElse fun _ => irregular (s.thr c t)) = none := by rw [hi, h6]; rfl
  have e5 : (s.thr c t).unenter.owes regs = false := h7
  have e6 : ((s.entered c t).scBad c t (wWait w) || (s.entered c t).scBad c t (wSig w)) = false := by
    rw [State.scBad_entered, State.scBad_entered, h9, h9']; rfl
  have e7 : (decide (1 ≤ wSig w ∧ wSig w ≤ 11) && (s.thr c t).unenter.flagCount (wSig w) == 15 &&
      ((s.thr c t).unenter.gateHere.getD none).isNone) = false := by
    rw [unenter_flagCount, unenter_gateHere]
    by_contra hc
    apply h11
    simp only [Bool.not_eq_false, Bool.and_eq_true, decide_eq_true_eq, beq_iff_eq] at hc
    exact ⟨hc.1.1.1, hc.1.1.2, hc.1.2, hc.2⟩
  unfold State.issue
  simp only [e1, h3, h4, hm, e2, e3, e4, Bool.false_eq_true, if_false, ne_eq, not_true_eq_false, Bool.not_true, decide_false, Bool.or_self]
  unfold State.issueBody
  simp only [State.thr_entered, e5, State.preciseHeld_entered, h8, e6, State.tryWait_entered s c t _ h10, e7, State.nextKey_entered,
    Bool.false_eq_true, if_false]


/-! What completion leaves -/

@[simp] theorem besides_clearGate (th : Thread) : besides th.clearGate = besides th := rfl

theorem besides_loopBack (n : Nat) (th : Thread) (pc : Addr) : besides (loopBack n th pc) = besides th := by
  induction n generalizing th with
  | zero => rfl
  | succ n ih =>
    unfold loopBack
    dsimp only
    generalize (if h : n < 3 then th.le[n] else 0) = le
    generalize (if h : n < 3 then th.lc[n] else 0) = lc
    by_cases h1 : pc = le
    · rw [if_pos h1]
      by_cases h2 : 1 < lc.toNat
      · rw [if_pos h2]; rfl
      · rw [if_neg h2, ih]; rfl
    · rw [if_neg h1]; rfl

@[simp] theorem besides_advance (th : Thread) : besides th.advance = besides th := by
  unfold Thread.advance
  split
  · dsimp only
    split
    · rfl
    · rw [besides_loopBack]; rfl
  · rw [besides_loopBack]

@[simp] theorem besides_stepTraps (th : Thread) (a : Addr) : besides (th.stepTraps a) = besides th := by
  unfold Thread.stepTraps
  dsimp only
  repeat' split
  all_goals rfl

@[simp] theorem besides_retire (th : Thread) : besides th.retire = besides th := by
  unfold Thread.retire
  split
  · dsimp only
    split
    · rw [besides_stepTraps]; rfl
    · rw [besides_stepTraps, besides_advance]; rfl
  · rw [besides_stepTraps, besides_advance, besides_clearGate]

@[simp] theorem besides_jump (th : Thread) (a : Addr) : besides (th.jump a) = besides th := by
  unfold Thread.jump
  rw [besides_stepTraps]; rfl

theorem besides_flagUp (th : Thread) (n : Nat) : besides (th.flagUp n) = besides th := rfl

theorem besides_flagDown (th : Thread) (n : Nat) (h : th.st ≠ .stalled) : besides (th.flagDown n) = besides th := by
  unfold Thread.flagDown
  dsimp only
  split
  · unfold Thread.wake
    rw [if_neg h]
    rfl
  · rfl

end Sys2Proof.Machine

namespace Sys2Proof.Claims
open Sys2Proof.Machine

theorem Apart.refl (s : State) (c : CoreId) (t : Thr) : Apart s s c t :=
  ⟨rfl, fun _ _ => rfl, rfl, fun _ _ => rfl, fun _ _ => rfl, List.prefix_refl _⟩

theorem Apart.trans {s u v : State} {c : CoreId} {t : Thr} (h : Apart s u c t) (k : Apart u v c t) : Apart s v c t := by
  refine ⟨k.rest.trans h.rest, fun x hx => (k.cores x hx).trans (h.cores x hx), ?_, fun x hx => (k.threads x hx).trans (h.threads x hx),
    fun a ha => (k.regs a ha).trans (h.regs a ha), h.sync.trans k.sync⟩
  have h1 := h.core
  have h2 := k.core
  rw [← h1]
  conv_rhs => rw [← h2]

theorem Apart.modThr (s : State) (c : CoreId) (t : Thr) (f : Thread → Thread) : Apart s (s.modThr c t f) c t := by
  refine ⟨rfl, fun x hx => s.core_modThr_ne t f hx, ?_, fun x hx => s.thr_modThr_ne f fun h => hx h.2, fun _ _ => rfl, List.prefix_refl _⟩
  rw [State.core_modThr_self]; rfl

theorem Apart.sendSync (s : State) (c : CoreId) (t : Thr) (who : Waiter) (n : Nat) (o : SyncObj) (k : SyncKind) (sl : Nat) (pc : Addr) (pr : Nat) :
    Apart s (s.sendSync who n o k sl pc pr) c t :=
  ⟨rfl, fun _ _ => rfl, rfl, fun _ _ => rfl, fun _ _ => rfl, List.prefix_append _ _⟩

@[simp] theorem elsewhere_setReg (s : State) (a : Nat) (v : Word) : elsewhere (s.setReg a v) = elsewhere s := rfl
@[simp] theorem elsewhere_setFld (s : State) (a : Nat) (f : Field) (v : Nat) : elsewhere (s.setFld a f v) = elsewhere s := by
  unfold State.setFld; rw [elsewhere_setReg]

theorem Apart.act (s : State) (c : CoreId) (t : Thr) : Apart s (s.act c) c t := by
  refine ⟨by rw [State.act_eq, elsewhere_setFld], fun _ _ => by simp, by simp, fun _ _ => by simp, fun a ha => ?_, by simp⟩
  rw [State.act_eq, State.reg_setFld_ne _ _ _ ha]

theorem Apart.fire (s : State) (c : CoreId) (t : Thr) (n : Nat) (sc : Word) (pc : Addr) (pr : Nat) : Apart s (s.fire c t n sc pc pr) c t := by
  unfold State.fire
  split
  · exact Apart.refl s c t
  · split
    · exact Apart.modThr s c t _
    · split
      · exact Apart.sendSync ..
      · exact Apart.sendSync ..
      · exact Apart.refl s c t

theorem Apart.land (s : State) (c : CoreId) (t : Thr) (key : Nat) : Apart s (s.land c t key) c t := by
  unfold State.land
  split
  · exact Apart.refl s c t
  · dsimp only
    have h1 := Apart.modThr s c t fun th => { th with flights := th.flights.filter (·.key ≠ key) }
    have h2 := fun n sc pc pr => h1.trans (Apart.fire _ c t n sc pc pr)
    split
    · exact h2 ..
    · split
      · split
        · exact ((h2 ..).trans (Apart.modThr ..)).trans (Apart.fire ..)
        · exact h2 ..
      · exact h2 ..


/-- Nothing but sequencing has changed: the thread stands as it did beside it, all else as it was. -/
structure Still (s u : State) (c : CoreId) (t : Thr) : Prop where
  thr : besides (u.thr c t) = besides (s.thr c t)
  apart : Apart s u c t

theorem Still.refl (s : State) (c : CoreId) (t : Thr) : Still s s c t := ⟨rfl, .refl s c t⟩

theorem Still.trans {s u v : State} {c : CoreId} {t : Thr} (h : Still s u c t) (k : Still u v c t) : Still s v c t :=
  ⟨k.thr.trans h.thr, h.apart.trans k.apart⟩

theorem Still.modThr (s : State) (c : CoreId) (t : Thr) (f : Thread → Thread) (h : besides (f (s.thr c t)) = besides (s.thr c t)) :
    Still s (s.modThr c t f) c t := ⟨by rw [State.thr_modThr_self]; exact h, .modThr s c t f⟩

theorem Still.st {s u : State} {c : CoreId} {t : Thr} (h : Still s u c t) : (u.thr c t).st = (s.thr c t).st := by
  have := congrArg Thread.st h.thr
  exact this

theorem Still.act (s : State) (c : CoreId) (t : Thr) : Still s (s.act c) c t := ⟨by simp, .act s c t⟩

theorem Still.fire (s : State) (c : CoreId) (t : Thr) (n : Nat) (sc : Word) (pc : Addr) (pr : Nat) (h : (s.thr c t).st ≠ .stalled) :
    Still s (s.fire c t n sc pc pr) c t := by
  unfold State.fire
  split
  · exact .refl ..
  · split
    · exact .modThr _ _ _ _ (besides_flagDown _ _ h)
    · split
      · exact ⟨rfl, .sendSync ..⟩
      · exact ⟨rfl, .sendSync ..⟩
      · exact .refl ..

theorem Still.thenThr {s u : State} {c : CoreId} {t : Thr} (h : Still s u c t) (f : Thread → Thread)
    (hf : ∀ th, besides (f th) = besides th) : Still s (u.modThr c t f) c t := h.trans (.modThr _ _ _ _ (hf _))

theorem Still.thenFire {s u : State} {c : CoreId} {t : Thr} (h : Still s u c t) (hs : (s.thr c t).st ≠ .stalled) (n : Nat)
    (sc : Word) (pc : Addr) (pr : Nat) : Still s (u.fire c t n sc pc pr) c t := h.trans (.fire _ _ _ _ _ _ _ (by rw [h.st]; exact hs))

theorem Still.land (s : State) (c : CoreId) (t : Thr) (key : Nat) (h : (s.thr c t).st ≠ .stalled) : Still s (s.land c t key) c t := by
  unfold State.land
  split
  · exact .refl ..
  · dsimp only
    have h2 := fun n sc pc pr => ((Still.refl s c t).thenThr (fun th => { th with flights := th.flights.filter (·.key ≠ key) })
      (fun _ => rfl)).thenFire h n sc pc pr
    split
    · exact h2 ..
    · split
      · split
        · refine Still.thenFire (Still.thenThr ?_ _ ?_) h _ _ _ _
          · exact h2 ..
          · exact fun _ => rfl
        · exact h2 ..
      · exact h2 ..

theorem Still.retire (s : State) (c : CoreId) (t : Thr) : Still s (s.modThr c t (·.retire)) c t := .modThr _ _ _ _ (besides_retire _)

theorem Still.launch (s : State) (c : CoreId) (t : Thr) (n key : Nat) (fl : Bool) (tl : Option Nat) :
    Still s (s.launch c t n key fl tl) c t := by
  unfold State.launch
  dsimp only
  have up : ∀ (th : Thread), besides (if 1 ≤ n ∧ n ≤ 11 then th.flagUp n else th) = besides th := by
    intro th; split <;> rfl
  split
  · split
    · split
      · refine Still.thenThr (Still.thenThr (Still.thenThr (.refl ..) _ ?_) _ ?_) _ ?_
        all_goals first | exact fun _ => rfl | exact fun _ => up _
      · refine Still.thenThr (Still.thenThr (.refl ..) _ ?_) _ ?_
        all_goals exact fun _ => rfl
    · split
      · refine Still.thenThr (Still.thenThr (.refl ..) _ ?_) _ ?_
        all_goals first | exact fun _ => rfl | exact fun _ => up _
      · refine Still.thenThr (.refl ..) _ ?_
        exact fun _ => rfl
  · split
    · refine Still.thenThr (.refl ..) _ ?_
      exact fun _ => up _
    · exact .refl ..

theorem Still.thenRetire {s u : State} {c : CoreId} {t : Thr} (h : Still s u c t) : Still s (u.modThr c t (·.retire)) c t :=
  h.thenThr _ besides_retire

theorem Still.thenLand {s u : State} {c : CoreId} {t : Thr} (h : Still s u c t) (hs : (s.thr c t).st ≠ .stalled) (key : Nat) :
    Still s (u.land c t key) c t := h.trans (.land _ _ _ _ (by rw [h.st]; exact hs))

theorem Still.ite {s a b : State} {c : CoreId} {t : Thr} {p : Prop} [Decidable p] (ha : Still s a c t) (hb : Still s b c t) :
    Still s (if p then a else b) c t := by
  split
  · exact ha
  · exact hb

theorem Still.conclude (s : State) (c : CoreId) (t : Thr) (n key : Nat) (now : Bool) (h : (s.thr c t).st ≠ .stalled) :
    Still s (s.conclude c t n key now) c t := by
  unfold State.conclude
  dsimp only
  have h0 : ∀ f : Thread → List Flight, Still s (if REPCNT.COUNT.get (s.thr c t).repcnt ≤ 1 then
      s.modThr c t fun th => { th with flights := f th } else s) c t := fun f => .ite (.modThr _ _ _ _ rfl) (.refl ..)
  refine .ite (.ite (.ite (Still.thenLand (Still.thenRetire ?_) h _) (Still.thenThr (Still.thenRetire ?_) _ ?_)) (Still.thenRetire ?_))
    (.retire ..)
  all_goals first | exact fun _ => rfl | exact (by simpa using h0 _)

theorem Still.finish (s : State) (c : CoreId) (t : Thr) (n key : Nat) (r : Res) (h : (s.thr c t).st ≠ .stalled) :
    Still s (s.finish c t n key r) c t := by
  have hl : ∀ fl tl now, Still s ((s.launch c t n key fl tl).conclude c t n key now) c t := fun fl tl now =>
    (Still.launch ..).trans (.conclude _ _ _ _ _ _ (by rw [(Still.launch ..).st]; exact h))
  have up : ∀ (th : Thread), besides (if 1 ≤ n ∧ n ≤ 11 then th.flagUp n else th) = besides th := by
    intro th; split <;> rfl
  unfold State.finish
  dsimp only
  split
  · exact hl ..
  · have k : Still s ((s.launch c t n key true (some ‹_›)).modThr c t (·.markDue (key + 1))) c t := Still.thenThr (Still.launch ..) _ fun _ => rfl
    exact k.trans (.conclude _ _ _ _ _ _ (by rw [k.st]; exact h))
  · refine .ite (hl ..) (.ite (.retire ..) (.ite ?_ ?_))
    · refine Still.thenRetire (Still.thenFire (Still.thenThr (.refl ..) _ ?_) h _ _ _ _)
      exact fun _ => up _
    · refine Still.thenRetire (Still.thenThr (.refl ..) _ ?_)
      exact fun _ => up _


theorem Apart.bump (s : State) (c : CoreId) (t : Thr) : Apart s (s.modCore c Core.bumpKey) c t := by
  refine ⟨rfl, fun x hx => s.core_modCore_ne _ hx, ?_, fun x _ => ?_, fun _ _ => rfl, List.prefix_refl _⟩
  · rw [State.core_modCore_self]; rfl
  · unfold State.thr; rw [State.core_modCore_self]; rfl

/-- The state on which the body runs differs from `s` in sequencing alone. -/
theorem Still.entered (s : State) (c : CoreId) (t : Thr) : Still s (s.entered c t) c t := by
  obtain ⟨v, hv⟩ := s.core_entered c t
  refine ⟨by rw [State.thr_entered]; rfl, ?_, fun x hx => s.core_entered_ne c t hx, by rw [hv]; rfl, fun x hx => ?_, fun a _ => ?_, ?_⟩
  · unfold State.entered; split <;> rfl
  · have k := s.thr_modThr_ne (c := c) (x := c) (y := x) (t := t) Thread.unenter fun h => hx h.2
    unfold State.thr at k ⊢
    rw [hv, ← k, State.core_modThr_self]
  · unfold State.entered; split <;> rfl
  · unfold State.entered; split <;> exact List.prefix_refl _

theorem Still.atBody (s : State) (c : CoreId) (t : Thr) : Still s ((s.entered c t).atBody c t) c t := by
  have h1 : Still s ((s.entered c t).modThr c t Thread.passGate) c t := (Still.entered s c t).thenThr _ fun _ => rfl
  refine h1.trans ⟨?_, .bump _ c t⟩
  unfold State.atBody State.thr
  rw [State.core_modCore_self]; rfl

theorem Still.afterBody (s : State) (c : CoreId) (t : Thr) (w : Word) (key : Nat) {r : Res} (hr : r = .now ∨ r = .due ∨ ∃ l, r = .launched l)
    (h : (s.thr c t).st ≠ .stalled) : Still s (s.afterBody c t w key r) c t := by
  have k := (Still.finish s c t (wSig w) key r h).trans (.act _ c t)
  obtain rfl | rfl | ⟨l, rfl⟩ := hr <;> exact k

/-- An issued instruction leaves what its body left, beside sequencing. -/
theorem issue_still {s : State} {c : CoreId} {t : Thr} {w : Word} {regs : List Nat} (h : Issues s c t w regs)
    {mine : Word → Bool} (hm : mine w = true) {irregular : Thread → Option Nat} (hi : irregular (s.thr c t) = none)
    {body : Nat → State → State × Res} {s1 : State} {r : Res}
    (hb : body ((s.core c).nextKey + 1) ((s.entered c t).atBody c t) = (s1, r))
    (hr : r = .now ∨ r = .due ∨ ∃ l, r = .launched l) (hs : (s1.thr c t).st ≠ .stalled) :
    Still s1 (s.issue c t w mine irregular regs body) c t := by
  rw [State.issue_runs h hm hi, hb]
  exact .afterBody _ _ _ _ _ hr hs


/-! The place -/

theorem inLine_of {a b : Thread} (h : inLine a) (h1 : b.repcnt = a.repcnt) (h2 : b.rplstat = a.rplstat) (h3 : b.lstat = a.lstat) : inLine b := by
  unfold inLine Thread.repeating Thread.replaying Thread.loops at *
  rw [h1, h2, h3]; exact h

theorem pc_stepTraps (th : Thread) (a : Addr) : (th.stepTraps a).pc = th.pc := by
  unfold Thread.stepTraps
  dsimp only
  repeat' split
  all_goals rfl

theorem pc_retire {th : Thread} (h : inLine th) : th.retire.pc = th.pc + 8 := by
  obtain ⟨h1, h2, h3⟩ := h
  have h2' : th.clearGate.replaying = false := h2
  have h3' : th.clearGate.loops = 0 := h3
  unfold Thread.retire
  rw [h1, if_neg (by decide), pc_stepTraps]
  unfold Thread.advance
  rw [h2', h3']
  rfl

/-- A change of a thread that leaves where it stands. -/
def Stays (a b : Thread) : Prop := b.pc = a.pc ∧ b.repcnt = a.repcnt ∧ b.rplstat = a.rplstat ∧ b.lstat = a.lstat

theorem Stays.trans {a b d : Thread} (h : Stays a b) (k : Stays b d) : Stays a d :=
  ⟨k.1.trans h.1, k.2.1.trans h.2.1, k.2.2.1.trans h.2.2.1, k.2.2.2.trans h.2.2.2⟩

theorem Stays.inLine {a b : Thread} (h : Stays a b) (k : inLine a) : inLine b := inLine_of k h.2.1 h.2.2.1 h.2.2.2

theorem stays_flagDown (th : Thread) (n : Nat) : Stays th (th.flagDown n) := by
  unfold Thread.flagDown Thread.wake
  dsimp only
  repeat' split
  all_goals exact ⟨rfl, rfl, rfl, rfl⟩

theorem stays_fire (s : State) (c : CoreId) (t : Thr) (n : Nat) (sc : Word) (pc : Addr) (pr : Nat) : Stays (s.thr c t) ((s.fire c t n sc pc pr).thr c t) := by
  unfold State.fire
  split
  · exact ⟨rfl, rfl, rfl, rfl⟩
  · split
    · rw [State.thr_modThr_self]; exact stays_flagDown _ _
    · split <;> exact ⟨rfl, rfl, rfl, rfl⟩

theorem pc_finish {s : State} {c : CoreId} {t : Thr} (n key : Nat) (r : Res) (h : inLine (s.thr c t)) :
    ((s.finish c t n key r).thr c t).pc = (s.thr c t).pc + 8 := by
  have hr := h.1
  have up : ∀ (th : Thread), Stays th (if 1 ≤ n ∧ n ≤ 11 then th.flagUp n else th) := by
    intro th; split <;> exact ⟨rfl, rfl, rfl, rfl⟩
  have fin : ∀ u : State, Stays (s.thr c t) (u.thr c t) → ((u.modThr c t (·.retire)).thr c t).pc = (s.thr c t).pc + 8 := by
    intro u k
    rw [State.thr_modThr_self, pc_retire (k.inLine h), k.1]
  unfold State.finish
  dsimp only
  split
  · unfold State.launch State.conclude
    simp only [hr, Bool.false_and, Bool.false_eq_true, if_false, if_true]
    have k : ∀ l : Thread → List Flight, Stays (s.thr c t) ((s.modThr c t fun th => if 1 ≤ n ∧ n ≤ 11 then
        Thread.flagUp { th with flights := l th } n else { th with flights := l th }).thr c t) := by
      intro l; rw [State.thr_modThr_self]; exact up { s.thr c t with flights := l (s.thr c t) }
    rename_i tile
    have k' := k fun th => th.flights ++ [⟨key + 1, n, (s.thr c t).scOf n, (s.thr c t).wordAddr, tile, false, false, none, th.priv⟩]
    rw [if_neg]
    · exact fin _ k'
    · rw [(k'.inLine h).1]; simp
  · unfold State.launch State.conclude
    simp only [hr, Bool.false_and, Bool.false_eq_true, if_false, if_true]
    have k : ∀ l : Thread → List Flight, Stays (s.thr c t) (((s.modThr c t fun th => if 1 ≤ n ∧ n ≤ 11 then
        Thread.flagUp { th with flights := l th } n else { th with flights := l th }).modThr c t (·.markDue (key + 1))).thr c t) := by
      intro l; rw [State.thr_modThr_self, State.thr_modThr_self]; exact (up { s.thr c t with flights := l (s.thr c t) }).trans ⟨rfl, rfl, rfl, rfl⟩
    rename_i tile
    have k' := k fun th => th.flights ++ [⟨key + 1, n, (s.thr c t).scOf n, (s.thr c t).wordAddr, some tile, false, false, none, th.priv⟩]
    rw [if_neg]
    · exact fin _ k'
    · rw [(k'.inLine h).1]; simp
  · simp only [hr, Bool.false_and, Bool.false_eq_true, if_false]
    split
    · exact fin s ⟨rfl, rfl, rfl, rfl⟩
    · split
      · refine fin _ ?_
        have k1 : Stays (s.thr c t) ((s.modThr c t fun th => if 1 ≤ n ∧ n ≤ 11 then th.flagUp n else th).thr c t) := by
          rw [State.thr_modThr_self]; exact up _
        have k2 := stays_fire (s.modThr c t fun th => if 1 ≤ n ∧ n ≤ 11 then th.flagUp n else th) c t n ((s.thr c t).scOf n) (s.thr c t).wordAddr
          (s.thr c t).priv
        exact ⟨k2.1.trans k1.1, k2.2.1.trans k1.2.1, k2.2.2.1.trans k1.2.2.1, k2.2.2.2.trans k1.2.2.2⟩
      · refine fin _ ?_
        rw [State.thr_modThr_self]; exact up { s.thr c t with flights := _ }

/-- An issued instruction that leaves its thread where it stood goes on to the next word. -/
theorem issue_pc {s : State} {c : CoreId} {t : Thr} {w : Word} {regs : List Nat} (h : Issues s c t w regs)
    {mine : Word → Bool} (hm : mine w = true) {irregular : Thread → Option Nat} (hi : irregular (s.thr c t) = none)
    {body : Nat → State → State × Res} {s1 : State} {r : Res}
    (hb : body ((s.core c).nextKey + 1) ((s.entered c t).atBody c t) = (s1, r))
    (hr : r = .now ∨ r = .due ∨ ∃ l, r = .launched l) (hs : Stays (s.thr c t) (s1.thr c t)) (hl : inLine (s.thr c t)) :
    ((s.issue c t w mine irregular regs body).thr c t).pc = (s.thr c t).pc + 8 := by
  rw [State.issue_runs h hm hi, hb]
  have k := pc_finish (wSig w) (s.core c).nextKey r (hs.inLine hl)
  rw [hs.1] at k
  obtain rfl | rfl | ⟨l, rfl⟩ := hr <;>
  · unfold State.afterBody
    dsimp only
    rw [State.thr_act]; exact k

/-- A change of a thread that works beside sequencing and leaves the place. -/
structure Beside (f : Thread → Thread) : Prop where
  comm : ∀ th, besides (f th) = f (besides th)
  stays : ∀ th, Stays th (f th)
  st : ∀ th, (f th).st = th.st

theorem Apart.commit {s u : State} {c : CoreId} {t : Thr} (h : Apart s u c t) : Apart s (s.commit u) c t := by
  refine ⟨?_, h.cores, h.core, h.threads, h.regs, h.sync⟩
  have k := h.rest
  have e : s.commit u = u := by
    have k1 : u.pending = s.pending := by
      have e : (elsewhere u).pending = (elsewhere s).pending := by rw [k]
      exact e
    have k2 : u.grade = s.grade := by
      have e : (elsewhere u).grade = (elsewhere s).grade := by rw [k]
      exact e
    have k3 : u.mem = s.mem := by
      have e : (elsewhere u).mem = (elsewhere s).mem := by rw [k]
      exact e
    have k4 : u.poison = s.poison := by
      have e : (elsewhere u).poison = (elsewhere s).poison := by rw [k]
      exact e
    unfold State.commit
    rw [← k1, ← k2, ← k3, ← k4]
  rw [e, k]

/-- The thread as its body finds it. -/
theorem thr_atBody (s : State) (c : CoreId) (t : Thr) :
    ((s.entered c t).atBody c t).thr c t = (s.thr c t).unenter.passGate := by
  unfold State.atBody State.thr
  rw [State.core_modCore_self]
  show ((s.entered c t).modThr c t Thread.passGate).thr c t = _
  rw [State.thr_modThr_self, State.thr_entered]; rfl

/-- A body that changes its thread by `f`, leaves all else, and comes to `r`. -/
def Does (body : State → State × Res) (c : CoreId) (t : Thr) (f : Thread → Thread) (r : Res) (th : Thread) : Prop :=
  ∀ v : State, v.thr c t = th → ∃ v', body v = (v', r) ∧ v'.thr c t = f th ∧ Apart v v' c t

theorem does_thr {body : State → State × Res} {c : CoreId} {t : Thr} {f : Thread → Thread} {r : Res} {th : Thread}
    (h : ∀ v : State, v.thr c t = th → body v = (v.modThr c t f, r)) : Does body c t f r th :=
  fun v hv => ⟨_, h v hv, by rw [State.thr_modThr_self, hv], .modThr ..⟩

theorem does_none {body : State → State × Res} {c : CoreId} {t : Thr} {r : Res} {th : Thread}
    (h : ∀ v : State, v.thr c t = th → body v = (v, r)) : Does body c t id r th :=
  fun v hv => ⟨_, h v hv, hv, .refl ..⟩

/-- The thread as a body finds it. -/
abbrev found (th : Thread) : Thread := th.unenter.passGate

theorem stays_found (th : Thread) : Stays th (found th) := ⟨rfl, rfl, rfl, rfl⟩

theorem besides_found (th : Thread) : besides (found th) = besides th := rfl

/-- An instruction that issues, and whose body changes its thread alone. -/
theorem yields {i : Instr} {s : State} {c : CoreId} {t : Thr} {w : Word} {regs : List Nat} (h : Issues s c t w regs)
    {mine : Word → Bool} (hm : mine w = true) {irregular : Thread → Option Nat} (hi : irregular (s.thr c t) = none)
    {body : Nat → State → State × Res} {f : Thread → Thread} (hf : Beside f) {r : Res} (hr : r = .now ∨ r = .due ∨ ∃ l, r = .launched l)
    (hb : Does (body ((s.core c).nextKey + 1)) c t f r (found (s.thr c t)))
    (he : exec i s = s.done (s.issue c t w mine irregular regs body)) : Yields i s c t (f (s.thr c t)) := by
  have k0 := Still.atBody s c t
  obtain ⟨v', hb', hv, ha⟩ := hb _ (thr_atBody s c t)
  have hst : (v'.thr c t).st ≠ .stalled := by
    have e : (found (s.thr c t)).st = (s.thr c t).st := rfl
    rw [hv, hf.st, e, h.running]; decide
  have k1 := issue_still h hm hi hb' hr hst
  refine ⟨_, he.trans (s.done_eq _), ?_, ?_, fun hl => ?_⟩
  · have e : ∀ u : State, (s.commit u).thr c t = u.thr c t := fun _ => rfl
    rw [e, k1.thr, hv, hf.comm, besides_found, hf.comm]
  · exact ((k0.apart.trans ha).trans k1.apart).commit
  · have k3 : Stays (s.thr c t) (v'.thr c t) := by
      rw [hv]
      obtain ⟨a, b, d, e⟩ := hf.stays (found (s.thr c t))
      exact ⟨a, b, d, e⟩
    exact issue_pc h hm hi hb' hr k3 hl

theorem stays_writeReg (th : Thread) (r : Nat) (v : Word) : Stays th (th.writeReg r v) := by
  unfold Thread.writeReg
  repeat' split
  all_goals exact ⟨rfl, rfl, rfl, rfl⟩

theorem st_writeReg (th : Thread) (r : Nat) (v : Word) : (th.writeReg r v).st = th.st := by
  unfold Thread.writeReg
  repeat' split
  all_goals rfl

theorem besides_writeReg (th : Thread) (r : Nat) (v : Word) : besides (th.writeReg r v) = (besides th).writeReg r v := by
  unfold Thread.writeReg
  repeat' split
  all_goals rfl

theorem beside_writeReg (r : Nat) (g : Thread → Word) (h : ∀ th, g (besides th) = g th) : Beside fun th => th.writeReg r (g th) :=
  ⟨fun th => by rw [besides_writeReg, h], fun th => stays_writeReg _ _ _, fun th => st_writeReg _ _ _⟩

/-- An instruction that issues, and whose body transfers control. -/
theorem goes {i : Instr} {s : State} {c : CoreId} {t : Thr} {w : Word} {regs : List Nat} (h : Issues s c t w regs)
    {mine : Word → Bool} (hm : mine w = true) {irregular : Thread → Option Nat} (hi : irregular (s.thr c t) = none)
    {body : Nat → State → State × Res} {f : Thread → Thread} (hf : ∀ th, besides (f th) = f (besides th)) {a : Addr}
    (hb : Does (body ((s.core c).nextKey + 1)) c t f (.jump a) (found (s.thr c t)))
    (he : exec i s = s.done (s.issue c t w mine irregular regs body)) : Goes i s c t (f (s.thr c t)) a := by
  have k0 := Still.atBody s c t
  obtain ⟨v', hb', hv, ha⟩ := hb _ (thr_atBody s c t)
  have e : ∀ u : State, (s.commit u).thr c t = u.thr c t := fun _ => rfl
  have hr := State.issue_runs h hm hi body
  rw [hb'] at hr
  have hr' : (s.issue c t w mine irregular regs body).thr c t = (f (found (s.thr c t))).jump a := by
    rw [hr]; unfold State.afterBody; dsimp only
    rw [State.thr_act, State.thr_modThr_self, hv]
  refine ⟨_, he.trans (s.done_eq _), ?_, ?_, ?_⟩
  · rw [hr]
    exact (((k0.apart.trans ha).trans (.modThr ..)).trans (.act ..)).commit
  · rw [e, hr', besides_jump, hf, besides_found, hf]
  · rw [e, hr']; exact pc_stepTraps _ _

/-- An instruction that issues, and whose body sets what follows. -/
theorem ends_set {i : Instr} {s : State} {c : CoreId} {t : Thr} {w : Word} {regs : List Nat} (h : Issues s c t w regs)
    {mine : Word → Bool} (hm : mine w = true) {irregular : Thread → Option Nat} (hi : irregular (s.thr c t) = none)
    {body : Nat → State → State × Res} {f : Thread → Thread}
    (hb : Does (body ((s.core c).nextKey + 1)) c t f .set (found (s.thr c t)))
    (he : exec i s = s.done (s.issue c t w mine irregular regs body)) {P : Thread → Prop} (hP : P (f (found (s.thr c t)))) :
    Ends i s c t P := by
  have k0 := Still.atBody s c t
  obtain ⟨v', hb', hv, ha⟩ := hb _ (thr_atBody s c t)
  have hr := State.issue_runs h hm hi body
  rw [hb'] at hr
  refine ⟨_, he.trans (s.done_eq _), ?_, ?_⟩
  · rw [hr]
    exact ((k0.apart.trans ha).trans (.act ..)).commit
  · have e : ∀ u : State, (s.commit u).thr c t = u.thr c t := fun _ => rfl
    rw [e, hr]
    unfold State.afterBody
    dsimp only
    rw [State.thr_act, hv]
    exact hP

theorem besides_fault (x : Thread) (vec cause va : Nat) (wr fe : Bool) :
    besides (x.fault vec cause va wr fe) = besides ((besides x).fault vec cause va wr fe) := by
  unfold Thread.fault
  dsimp only
  split <;> rfl

theorem pc_fault (x : Thread) (vec cause va : Nat) (wr fe : Bool) : (x.fault vec cause va wr fe).pc = x.pc := by
  unfold Thread.fault
  dsimp only
  split <;> rfl

theorem wordAddr_of {a b : Thread} (h : Stays a b) : b.wordAddr = a.wordAddr := by
  unfold Thread.wordAddr Thread.replaying
  rw [h.1, h.2.2.1]

theorem priv_of {a b : Thread} (h : b.tstatus = a.tstatus) : b.priv = a.priv := by
  unfold Thread.priv
  rw [h]

theorem entry_fault (x : Thread) (vec cause va : Nat) (wr fe : Bool) :
    (x.fault vec cause va wr fe).entry = some ⟨vec, cause, x.pc, x.wordAddr, false, x.priv⟩ := by
  have h : ∀ f, Thread.wordAddr { x with trFault := f } = x.wordAddr := fun f => wordAddr_of ⟨rfl, rfl, rfl, rfl⟩
  have k : ∀ f, Thread.priv { x with trFault := f } = x.priv := fun f => priv_of rfl
  unfold Thread.fault
  dsimp only
  split
  · rw [h, k]
  · rfl

/-- An instruction that issues, and whose body raises a precise exception. -/
theorem raises {i : Instr} {s : State} {c : CoreId} {t : Thr} {w : Word} {regs : List Nat} (h : Issues s c t w regs)
    {mine : Word → Bool} (hm : mine w = true) {irregular : Thread → Option Nat} (hi : irregular (s.thr c t) = none)
    {body : Nat → State → State × Res} {f : Thread → Thread} {vec cause va : Nat} {wr : Bool} (hf : Beside f) (hp : ∀ th, (f th).tstatus = th.tstatus)
    (hb : Does (body ((s.core c).nextKey + 1)) c t f (.fault vec cause va wr) (found (s.thr c t)))
    (he : exec i s = s.done (s.issue c t w mine irregular regs body)) :
    Raises i s c t vec cause ((f (s.thr c t)).fault vec cause va wr false) := by
  have k0 := Still.atBody s c t
  obtain ⟨v', hb', hv, ha⟩ := hb _ (thr_atBody s c t)
  have k1 : Stays (s.thr c t) (f (found (s.thr c t))) := (stays_found _).trans (hf.stays _)
  have e : ∀ u : State, (s.commit u).thr c t = u.thr c t := fun _ => rfl
  have hr := State.issue_runs h hm hi body
  rw [hb'] at hr
  have hr' : (s.issue c t w mine irregular regs body).thr c t = (f (found (s.thr c t))).fault vec cause va wr false := by
    rw [hr]; unfold State.afterBody; dsimp only
    rw [State.thr_modThr_self, hv]
  refine ⟨_, he.trans (s.done_eq _), ?_, ?_, ?_, ?_⟩
  · rw [hr]
    exact ((k0.apart.trans ha).trans (.modThr ..)).commit
  · rw [e, hr', besides_fault, hf.comm, besides_found, ← hf.comm, ← besides_fault]
  · rw [e, hr', pc_fault]; exact k1.1
  · have kp : (f (found (s.thr c t))).priv = (s.thr c t).priv :=
      (priv_of (hp (found (s.thr c t)))).trans (priv_of (a := s.thr c t) (b := found (s.thr c t)) rfl)
    rw [e, hr', entry_fault, k1.1, wordAddr_of k1, kp]

end Sys2Proof.Claims
end

