-- ==== Sys2Proof/Laws/Scalar.lean ====
section
/-! SUPPORT. What scalar instructions that issue do, by shape: the lemmas that the statements about them come down to. -/

open Sys2Proof Sys2Proof.Machine

namespace Sys2Proof.Claims

/-- Sign extension of 32 bits as the bit vector's own. -/
theorem sext_eq (k : Nat) : sext 32 k = (BitVec.ofNat 32 k).toInt := by
  unfold sext
  rw [BitVec.toInt_eq_toNat_cond, BitVec.toNat_ofNat]
  split <;> split <;> omega

/-- Where a near branch goes (R136, R164). -/
theorem near_eq (th : Thread) (w : Word) : th.branchTarget w =
    th.pc + (BitVec.ofNat 32 (if lPM w then (th.readP (lPsel w)).toNat % 2 ^ 32 else lImm w)).signExtend 48 * 8 := by
  unfold Thread.branchTarget addrAdd BitVec.signExtend Thread.imm
  rw [sext_eq, BitVec.ofInt_mul]
  rfl

/-- Where a register jump goes (R164). -/
theorem far_eq (th : Thread) (w : Word) : th.jrTarget w = (th.readReg (lRs w)).setWidth 48 +
    (BitVec.ofNat 32 (if lPM w then (th.readP (lPsel w)).toNat % 2 ^ 32 else lImm w)).signExtend 48 := by
  unfold Thread.jrTarget addrAdd BitVec.signExtend Thread.imm
  rw [sext_eq]

/-- Two changes of a thread that agree on it agree on the state. -/
theorem modThr_congr {s : State} {c : CoreId} {t : Thr} {f g : Thread → Thread} (h : f (s.thr c t) = g (s.thr c t)) :
    s.modThr c t f = s.modThr c t g := by
  unfold State.modThr Core.modThr State.modCore
  have e : (s.core c).thr[t] = s.thr c t := rfl
  simp only [e, h]

/-- No change is beside the sequencing. -/
theorem beside_id : Beside id := ⟨fun _ => rfl, fun _ => ⟨rfl, rfl, rfl, rfl⟩, fun _ => rfl⟩

/-- Leading zeros by the logarithm. -/
theorem clz_eq (a : Word) : BitVec.ofNat 64 (if a = 0 then 64 else 63 - Nat.log2 a.toNat) = a.clz := by
  by_cases h : a = 0
  · subst h; decide
  · rw [if_neg h]
    have h0 : a.toNat ≠ 0 := fun h' => h (BitVec.eq_of_toNat_eq h')
    have h1 := BitVec.two_pow_sub_clz_le_toNat_of_ne_zero (by decide) h
    have h2 := BitVec.toNat_lt_two_pow_sub_clz (x := a)
    have h3 : a.clz.toNat < 64 := by
      by_contra hc
      have : 64 - a.clz.toNat = 0 := by omega
      rw [this] at h2; omega
    have : Nat.log2 a.toNat = 63 - a.clz.toNat := (Nat.log2_eq_iff h0).2 ⟨h1, by
      have e : 63 - a.clz.toNat + 1 = 64 - a.clz.toNat := by omega
      rw [e]; exact h2⟩
    apply BitVec.eq_of_toNat_eq
    rw [this, BitVec.toNat_ofNat]
    omega

/-- An integer instruction that issues yields its result (R155). -/
theorem kInt_yields {s : State} {c : CoreId} {t : Thr} {w : Word} (mk : CoreId → Thr → Word → Instr) (fn n : Nat) (g : Word → Word → Word → Word)
    (h1 : wMajor w = 1) (h2 : kRes w = 0) (h3 : kFn w = fn) (h : Issues s c t w (kRegs n w))
    (he : exec (mk c t w) s = s.done (s.kInt c t w fn n g)) {v : Word}
    (hv : g ((s.thr c t).readReg (kRs1 w)) ((s.thr c t).readReg (kRs2 w)) ((s.thr c t).readReg (kRs3 w)) = v) :
    Yields (mk c t w) s c t ((s.thr c t).writeReg (kRd w) v) := by
  subst hv
  exact yields h (mine := (fun w => wMajor w == 1 && kFn w == fn)) (by simp [*]) (irregular := (fun _ => checks [(kRes w != 0, 0x03)])) (by simp [checks, h2])
    (f := fun th => th.writeReg (kRd w) (g (th.readReg (kRs1 w)) (th.readReg (kRs2 w)) (th.readReg (kRs3 w)))) (beside_writeReg _ _ fun _ => rfl) (.inr (.inl rfl)) (does_thr fun _ _ => rfl) he

/-- An immediate instruction that issues yields its result (R157). -/
theorem imm_yields {s : State} {c : CoreId} {t : Thr} {w : Word} (mk : CoreId → Thr → Word → Instr) (major : Nat) (irr : Thread → Option Nat) (g : Thread → Word → Word)
    (h1 : wMajor w = major) (h : Issues s c t w ([lRd w, lRs w] ++ lReads w)) (hi : irr (s.thr c t) = none) (hg : ∀ th a, g (besides th) a = g th a)
    (he : exec (mk c t w) s = s.done (s.lImmediate c t w major irr g)) {v : Word}
    (hv : g (s.thr c t) ((s.thr c t).readReg (lRs w)) = v) :
    Yields (mk c t w) s c t ((s.thr c t).writeReg (lRd w) v) := by
  subst hv
  exact yields h (mine := (fun w => wMajor w == major)) (by simp [*]) (irregular := irr) hi
    (f := fun th => th.writeReg (lRd w) (g th (th.readReg (lRs w)))) (beside_writeReg _ _ fun _ => hg _ _) (.inr (.inl rfl)) (does_thr fun _ _ => rfl) he

/-- The sign-extended immediate (R142). -/
theorem immS_eq (th : Thread) (w : Word) : th.immS w = (BitVec.ofNat 32 (if lPM w then (th.readP (lPsel w)).toNat % 2 ^ 32 else lImm w)).signExtend 64 := by
  unfold Thread.immS Thread.imm BitVec.signExtend
  rw [sext_eq]

/-- A write of a P register is beside the sequencing. -/
theorem beside_writeP (r : Nat) (g : Thread → Word) (h : ∀ th, g (besides th) = g th) : Beside fun th => th.writeP r (g th) := by
  refine ⟨fun th => ?_, fun th => ?_, fun th => ?_⟩
  · rw [h]; unfold Thread.writeP; split <;> rfl
  · unfold Thread.writeP; split <;> exact ⟨rfl, rfl, rfl, rfl⟩
  · unfold Thread.writeP; split <;> rfl

/-- An instruction of the P registers that issues yields its change. -/
theorem param_yields {s : State} {c : CoreId} {t : Thr} {w : Word} (mk : CoreId → Thr → Word → Instr) (major : Nat) (regs : List Nat) (f : Thread → Thread)
    (h1 : wMajor w = major) (h0 : lPM w = false) (h : Issues s c t w regs) (hf : Beside f)
    (he : exec (mk c t w) s = s.done (s.param c t w major regs f)) : Yields (mk c t w) s c t (f (s.thr c t)) :=
  yields h (mine := (fun w => wMajor w == major)) (by simp [*]) (irregular := (fun _ => checks [(lPM w, 0x03)])) (by simp [checks, h0]) hf (.inl rfl) (does_thr fun _ _ => rfl) he

/-- Rounding leaves the registers. -/
theorem readReg_rounding (th : Thread) (r : Nat) : th.rounding.2.readReg r = th.readReg r := by
  unfold Thread.rounding; split <;> rfl

/-- Rounding leaves the place. -/
theorem wordAddr_rounding (th : Thread) : th.rounding.2.wordAddr = th.wordAddr := by
  unfold Thread.rounding; split <;> rfl

/-- Sign extension of a register's low 32 bits. -/
theorem sext_eq' (k : Word) : sext 32 k.toNat = (k.setWidth 32).toInt := by
  unfold sext
  rw [BitVec.toInt_eq_toNat_cond, BitVec.toNat_setWidth]
  split <;> split <;> omega

/-- Rounding looks only at what is beside the sequencing. -/
theorem besides_rounding (th : Thread) : (besides th).rounding = (th.rounding.1, besides th.rounding.2) := by
  unfold Thread.rounding
  have e1 : (besides th).fpctl = th.fpctl := rfl
  have e2 : (besides th).lfsr = th.lfsr := rfl
  rw [e1, e2]
  split <;> rfl

/-- Rounding leaves the sequencing. -/
theorem stays_rounding (th : Thread) : Stays th th.rounding.2 ∧ th.rounding.2.st = th.st := by
  unfold Thread.rounding
  split <;> exact ⟨⟨rfl, rfl, rfl, rfl⟩, rfl⟩

/-- An FP32 instruction that issues yields its result (R156). -/
theorem float_yields {s : State} {c : CoreId} {t : Thr} {w : Word} (mk : CoreId → Thr → Word → Instr) (fn n : Nat) (rounds : Bool) (g : RMode → Word → Word → Word → Nat × FFlags)
    (h1 : wMajor w = 2) (h2 : kRes w = 0) (h3 : kFn w = fn) (h4 : (kRegs n w).all isD = true) (h : Issues s c t w (kRegs n w))
    (he : exec (mk c t w) s = s.done (s.kFloat c t w fn n rounds g)) {th' : Thread}
    (hv : (let v := g (if rounds then (s.thr c t).rounding.1 else RMode.rne) ((s.thr c t).readReg (kRs1 w)) ((s.thr c t).readReg (kRs2 w)) ((s.thr c t).readReg (kRs3 w))
       ((if rounds then (s.thr c t).rounding.2 else s.thr c t).writeReg (kRd w) (BitVec.ofNat 64 v.1)).raiseArith v.2 (s.thr c t).wordAddr) = th') :
    Yields (mk c t w) s c t th' := by
  subst hv
  let f : Thread → Thread := fun th =>
    let v := g (if rounds then th.rounding.1 else RMode.rne) (th.readReg (kRs1 w)) (th.readReg (kRs2 w)) (th.readReg (kRs3 w))
    ((if rounds then th.rounding.2 else th).writeReg (kRd w) (BitVec.ofNat 64 v.1)).raiseArith v.2 (s.thr c t).wordAddr
  have hf : Beside f := by
    have hr : ∀ (th : Thread) fl pc, besides (th.raiseArith fl pc) = (besides th).raiseArith fl pc := fun _ _ _ => rfl
    refine ⟨fun th => ?_, fun th => ?_, fun th => ?_⟩
    · dsimp only [f]
      rw [hr, besides_writeReg, besides_rounding]
      cases rounds <;> rfl
    · cases rounds
      · exact stays_writeReg _ _ _
      · obtain ⟨⟨a1, a2, a3, a4⟩, _⟩ := stays_rounding th
        have k := stays_writeReg th.rounding.2 (kRd w) (BitVec.ofNat 64 (g th.rounding.1 (th.readReg (kRs1 w)) (th.readReg (kRs2 w)) (th.readReg (kRs3 w))).1)
        exact ⟨k.1.trans a1, k.2.1.trans a2, k.2.2.1.trans a3, k.2.2.2.trans a4⟩
    · cases rounds
      · exact st_writeReg _ _ _
      · exact (st_writeReg _ _ _).trans (stays_rounding th).2
  refine yields h (mine := (fun w => wMajor w == 2 && kFn w == fn)) (by simp [*])
    (irregular := (fun _ => checks [(kRes w != 0, 0x03), (!(kRegs n w).all isD, 0x04)])) (by simp [checks, h2, h4])
    hf (r := if FPCTL.PRECISE.get (s.thr c t).fpctl = 1 then .now else .due) (by split <;> simp) (does_thr fun v hv => ?_) he
  rw [Prod.mk.injEq]
  refine ⟨?_, ?_⟩
  · apply modThr_congr
    rw [hv]
    dsimp only [f]
    cases rounds
    · rfl
    · simp only [if_true, readReg_rounding, wordAddr_rounding]; rfl
  · rw [hv]; rfl

/-- A branch that issues goes where its condition says (R164). -/
theorem branch_ok {s : State} {c : CoreId} {t : Thr} {w : Word} (mk : CoreId → Thr → Word → Instr) (major : Nat) (p : Prop) (f : Word → Word → Bool)
    (hp : p ↔ f ((s.thr c t).readReg (lRd w)) ((s.thr c t).readReg (lRs w)) = true) (he : exec (mk c t w) s = s.done (s.branchIf c t w major f)) :
    wMajor w = major → Issues s c t w ([lRd w, lRs w] ++ lReads w) →
        (p → Goes (mk c t w) s c t (s.thr c t) ((s.thr c t).branchTarget w)) ∧ (¬p → Yields (mk c t w) s c t (s.thr c t)) := by
  intro h1 h
  constructor
  · intro hx
    refine goes h (mine := fun w => wMajor w == major) (by simp [h1]) (irregular := fun _ => none) rfl (f := id) (fun _ => rfl) (does_none fun v hv => ?_) he
    have e : f ((s.thr c t).readReg (lRd w)) ((s.thr c t).readReg (lRs w)) = true := hp.1 hx
    simp only [hv]
    have e2 : f ((s.thr c t).unenter.passGate.readReg (lRd w)) ((s.thr c t).unenter.passGate.readReg (lRs w)) = true := e
    rw [e2]
    rfl
  · intro hx
    refine yields h (mine := fun w => wMajor w == major) (by simp [h1]) (irregular := fun _ => none) rfl (f := id) beside_id (.inl rfl) (does_none fun v hv => ?_) he
    simp only [hv]
    rw [if_neg]
    exact fun h => hx (hp.2 h)

/-- A push on the return stack is beside the sequencing. -/
theorem besides_push (th : Thread) (a : Addr) (x : Thread) (h : th.push a = some x) : (besides th).push a = some (besides x) := by
  unfold Thread.push Thread.rsTrap at *
  have e1 : (besides th).rstack = th.rstack := rfl
  have e2 : (besides th).rsctl = th.rsctl := rfl
  rw [e1, e2]
  split at h
  · rename_i h0; rw [if_pos h0]; cases h; rfl
  · rename_i h0; rw [if_neg h0]
    split at h
    · cases h
    · rename_i h0; rw [if_neg h0]; cases h; rfl

/-- A call that issues pushes the place after it, or traps (R178-R180). -/
theorem calls_ok {s : State} {c : CoreId} {t : Thr} {w : Word} (mk : CoreId → Thr → Word → Instr) (target : Addr) {regs : List Nat} (h : Issues s c t w regs)
    {mine : Word → Bool} (hm : mine w = true) {irregular : Thread → Option Nat} (hi : irregular (s.thr c t) = none)
    {body : Nat → State → State × Res}
    (hb : ∀ v : State, v.thr c t = found (s.thr c t) → body ((s.core c).nextKey + 1) v = match (found (s.thr c t)).push ((s.thr c t).pc + 8) with
       | some th' => (v.modThr c t fun _ => th', .jump target)
       | none => v.pushFull c t)
    (he : exec (mk c t w) s = s.done (s.issue c t w mine irregular regs body)) :
    ((s.thr c t).rstack.length < 16 → Goes (mk c t w) s c t { s.thr c t with rstack := (s.thr c t).rstack ++ [(s.thr c t).pc + 8], rsctl := RSCTL.DEPTH.put (s.thr c t).rsctl ((s.thr c t).rstack.length + 1) } target) ∧
      (16 ≤ (s.thr c t).rstack.length → RSCTL.MODE.get (s.thr c t).rsctl ≠ 1 → Goes (mk c t w) s c t { s.thr c t with rstack := (s.thr c t).rstack.tail ++ [(s.thr c t).pc + 8], rsctl := RSCTL.LOST.put (s.thr c t).rsctl 1 } target) ∧
      (16 ≤ (s.thr c t).rstack.length → RSCTL.MODE.get (s.thr c t).rsctl = 1 → Raises (mk c t w) s c t 0x05 0 { s.thr c t with rsctl := RSCTL.UNDER.put (s.thr c t).rsctl 0 }) := by
  refine ⟨fun h1 => ?_, fun h1 h2 => ?_, fun h1 h2 => ?_⟩
  · refine goes h hm hi (f := fun th => { th with rstack := (s.thr c t).rstack ++ [(s.thr c t).pc + 8], rsctl := RSCTL.DEPTH.put (s.thr c t).rsctl ((s.thr c t).rstack.length + 1) }) (fun _ => rfl)
      (does_thr fun v hv => ?_) he
    rw [hb v hv]
    unfold Thread.push
    have e1 : (found (s.thr c t)).rstack = (s.thr c t).rstack := rfl
    have e2 : (found (s.thr c t)).rsctl = (s.thr c t).rsctl := rfl
    rw [e1, e2, if_pos h1]
    dsimp only
    rw [Prod.mk.injEq]
    refine ⟨modThr_congr ?_, rfl⟩
    rw [hv]
  · refine goes h hm hi (f := fun th => { th with rstack := (s.thr c t).rstack.tail ++ [(s.thr c t).pc + 8], rsctl := RSCTL.LOST.put (s.thr c t).rsctl 1 }) (fun _ => rfl)
      (does_thr fun v hv => ?_) he
    rw [hb v hv]
    unfold Thread.push Thread.rsTrap
    have e1 : (found (s.thr c t)).rstack = (s.thr c t).rstack := rfl
    have e2 : (found (s.thr c t)).rsctl = (s.thr c t).rsctl := rfl
    rw [e1, e2, if_neg (by omega), if_neg (by simpa using h2)]
    dsimp only
    rw [Prod.mk.injEq]
    refine ⟨modThr_congr ?_, rfl⟩
    rw [hv]
  · have k := raises h hm hi (vec := 5) (cause := 0) (va := 0) (wr := false) (f := fun th => { th with rsctl := RSCTL.UNDER.put th.rsctl 0 }) ⟨fun _ => rfl, fun _ => ⟨rfl, rfl, rfl, rfl⟩, fun _ => rfl⟩
      (fun _ => rfl) (does_thr fun v hv => ?_) he
    · exact k
    rw [hb v hv]
    unfold Thread.push Thread.rsTrap
    have e1 : (found (s.thr c t)).rstack = (s.thr c t).rstack := rfl
    have e2 : (found (s.thr c t)).rsctl = (s.thr c t).rsctl := rfl
    rw [e1, e2, if_neg (by omega), if_pos (by simpa using h2)]
    rfl

/-- A jump to no multiple of 8 raises misalignment. -/
theorem misalign_ok {s : State} {c : CoreId} {t : Thr} {w : Word} (mk : CoreId → Thr → Word → Instr) {regs : List Nat} (h : Issues s c t w regs)
    {mine : Word → Bool} (hm : mine w = true) {irregular : Thread → Option Nat} (hi : irregular (s.thr c t) = none)
    {body : Nat → State → State × Res} (a : Addr)
    (hb : ∀ v : State, v.thr c t = found (s.thr c t) → body ((s.core c).nextKey + 1) v = (v, .fault 0x04 0xA a.toNat false))
    (he : exec (mk c t w) s = s.done (s.issue c t w mine irregular regs body)) :
    Raises (mk c t w) s c t 0x04 0xA { s.thr c t with trFault := faultWord a.toNat 0xA 0 0 } := by
  obtain ⟨u, h1, h2, h3, h4⟩ := raises h hm hi beside_id (fun _ => rfl) (va := a.toNat) (wr := false) (does_none fun v hv => hb v hv) he
  refine ⟨u, h1, h2, h3.trans ?_, h4⟩
  unfold Thread.fault faultWord
  dsimp only
  rw [if_pos (by decide)]
  rfl

/-- A pop of an empty stack traps in trap mode (R180). -/
theorem under_ok {s : State} {c : CoreId} {t : Thr} {w : Word} (mk : CoreId → Thr → Word → Instr) {regs : List Nat} (h : Issues s c t w regs)
    {mine : Word → Bool} (hm : mine w = true) {irregular : Thread → Option Nat} (hi : irregular (s.thr c t) = none)
    {body : Nat → State → State × Res}
    (hb : ∀ v : State, v.thr c t = found (s.thr c t) → body ((s.core c).nextKey + 1) v = v.popEmpty c t)
    (he : exec (mk c t w) s = s.done (s.issue c t w mine irregular regs body)) :
    Raises (mk c t w) s c t 0x05 0 { s.thr c t with rsctl := RSCTL.UNDER.put (s.thr c t).rsctl 1 } := by
  have k := raises h hm hi (vec := 5) (cause := 0) (va := 0) (wr := false) (f := fun th => { th with rsctl := RSCTL.UNDER.put th.rsctl 1 }) ⟨fun _ => rfl, fun _ => ⟨rfl, rfl, rfl, rfl⟩, fun _ => rfl⟩
      (fun _ => rfl) (does_thr fun v hv => ?_) he
  · exact k
  · rw [hb v hv]
    rfl

/-- A pop takes the newest entry. -/
theorem pop_ok {th : Thread} {l : List Addr} {top : Addr} (h : th.rstack = l ++ [top]) :
    th.pop = some (top, { th with rstack := l, rsctl := RSCTL.DEPTH.put th.rsctl l.length }) := by
  unfold Thread.pop
  simp [h]

/-- An empty stack gives nothing. -/
theorem pop_none {th : Thread} (h : th.rstack = []) : th.pop = none := by
  unfold Thread.pop
  simp [h]

end Sys2Proof.Claims
end

