-- ==== Sys2Proof/Laws/Step.lean ====
section
/-! SUPPORT. What every command's answer is: a next state, with the queue and the grade as they were and memory in its form. -/

namespace Sys2Proof.Machine

/-- What a command that leaves memory keeps. -/
theorem commit_keeps (s t : State) : (s.commit t).mem = s.mem ∧ (s.commit t).poison = s.poison ∧ (s.commit t).pending = s.pending ∧
    (s.commit t).grade = s.grade := ⟨rfl, rfl, rfl, rfl⟩

/-- The queue and the grade stand, and memory keeps its canonical form. -/
structure Keeps (s u : State) : Prop where
  pending : u.pending = s.pending
  grade : u.grade = s.grade
  wf : Memory.wf s.mem = true → Memory.wf u.mem = true

theorem keeps_commit (s t : State) : Keeps s (s.commit t) := ⟨rfl, rfl, id⟩

theorem keeps_commitMem (s : State) (r : State × MemUpd) : Keeps s (s.commitMem r) := ⟨rfl, rfl, commitMem_wf s r⟩

theorem Keeps.trans {s u v : State} (h : Keeps s u) (k : Keeps u v) : Keeps s v :=
  ⟨k.pending.trans h.pending, k.grade.trans h.grade, fun x => k.wf (h.wf x)⟩

/-- BAR2 accesses that waited keep the queue, the grade and memory's form. -/
theorem keeps_bar2Drain {s u : State} (h : Keeps s u) : Keeps s u.bar2Drain := by
  have all : ∀ (l : List (Port × Bar2Op)) (r : State × List (Port × Bar2Op)), Keeps s r.1 → Keeps s (l.foldl (fun r x =>
      if !(r.1.port x.1).live then r
      else if r.1.bar2Waits x.1 x.2 r.2 then (r.1, r.2 ++ [x])
      else (r.1.commitMem (r.1.bar2Do x.1 x.2), r.2)) r).1 := by
    intro l
    induction l with
    | nil => exact fun r h => h
    | cons x l ih =>
      intro r h
      rw [List.foldl_cons]
      refine ih _ ?_
      split
      · exact h
      · split
        · exact h
        · exact h.trans (keeps_commitMem _ _)
  have k := all u.bar2 (u, []) h
  exact ⟨k.pending, k.grade, k.wf⟩

/-- Every command answers a next state that keeps the queue, the grade and memory's form. -/
theorem exec_answers (i : Instr) (s : State) : ∃ u, exec i s = .next u ∧ Keeps s u := by
  cases i <;> first
    | exact ⟨_, rfl, keeps_commit _ _⟩
    | exact ⟨_, rfl, keeps_commitMem _ _⟩
    | exact ⟨_, rfl, keeps_bar2Drain (keeps_commit _ _)⟩
    | exact ⟨_, rfl, keeps_bar2Drain (keeps_commitMem _ _)⟩

end Sys2Proof.Machine
end

