-- ==== Sys2Proof/Safety.lean ====
section
/-! DEFINITION. What counts as a safe run: every command it takes is answered by a next state. -/

namespace Sys2Proof

/-- `n` steps from a state all answer a next state. -/
def Safe (s : Machine.State) (n : Nat) : Prop := ∃ t, Host.Core.run Sys2Proof.core n s = .next t

end Sys2Proof
end

