-- ==== Sys2Proof/WellFormed.lean ====
section
/-! DEFINITION. Which commands the surroundings can send: operands that a length or a place in the module
bounds. `exec` answers every command; a claim about what the module does may ask for a well-formed one. -/

namespace Sys2Proof

/-- Data a host's memory answers, of a given length. -/
def HostData.fits (n : Nat) : HostData → Bool
  | .data bytes => bytes.length == n
  | _ => true

/-- Whether a command's operands can occur. -/
def Instr.wellFormed : Instr → Bool
  | .govWindowEnd counts sensors pin => counts.length == 1240 && sensors.length ≤ 320 && pin < 4096
  | .undervoltageReset samples | .overvoltageReset samples => samples.length == 16
  | .supplyWarning vin | .supplyWarningClear vin => vin < 8192
  | .fmcDone _ count => count < 2 ^ 32
  | .registerWrite (.config _) n _ _ => n < 8
  | .registerWrite _ addr _ four => addr % (if four then 4 else 8) == 0 && 0x1200_0000_0000 ≤ addr && addr < 0x1200_1000_0000
  | .bar2Read _ off len => 0 < len && off + len ≤ 2 ^ 41
  | .bar2Write _ off data _ => 0 < data.length && off + data.length ≤ 2 ^ 41
  | .imemDataWrite _ _ size _ => size == 1 || size == 2 || size == 4 || size == 8
  | .sliceRepairGo _ _ row => row < 2048
  | .sliceScrub _ _ row corrected poisoned => row < 2048 && corrected ≤ 256 && poisoned.length ≤ 256
  | .dmaStart _ j _ _ | .dmaStop _ j _ _ | .dmaResume _ j _ _ | .dmaCqbaseWrite _ j _ _ => j < 32
  | .trInvOne _ vpn | .dmaTrinvOne _ _ vpn => vpn < 2 ^ 27
  | .packetFetch _ _ d => d.fits 64
  | .linkUp _ lanes speed => (lanes == 1 || lanes == 2 || lanes == 4 || lanes == 8) && 1 ≤ speed && speed ≤ 6
  | .nsSubstCopy _ _ rate => 1000 ≤ rate && rate ≤ 20000
  | .flashSparesLow _ pct => pct ≤ 100
  | .flitResend _ _ wire sends => wire < 1024 && 1 ≤ sends && sends ≤ 8
  | .setStateEffecterStates states => states.length == 7
  | .deviceTemperatureChange _ temp => temp < 256
  | _ => true

end Sys2Proof
end

