-- ==== Sys2Proof/Tests/Slice0.lean ====
section
/-! SUPPORT. The model's own tests: an ill-formed command for each check of WellFormed, and for each statement of Obligations states and
operands that meet its hypotheses, with what the command then leaves. -/

open Sys2Proof Sys2Proof.Machine Sys2Proof.Claims

namespace Sys2Proof.Tests

-- Each proof evaluates in the kernel: one at a time, so that the checker's memory is enough.
set_option Elab.async false

/-- Core 0's thread 0 runs at the start of its pinned instruction memory, whose first word is w. -/
def runs (w : Word) (f : Thread → Thread := id) : State :=
  (State.reset.modCore 0 fun q => { q with imem := [(0, w)] }).modThr 0 0 fun th => f { th with st := .running, pc := BitVec.ofNat 48 pinnedPage }

/-- Words of the K, L, M, X and T formats (R135-R140). -/
def wk (major fn rd a b c : Nat) : Word := mkWord major 0 0 (rd * 2 ^ 42 + a * 2 ^ 36 + b * 2 ^ 30 + c * 2 ^ 24 + fn * 2 ^ 16)
def wl (major rd rs imm : Nat) : Word := mkWord major 0 0 (rd * 2 ^ 42 + rs * 2 ^ 36 + imm)
def wm (major rt an mn kind mode off : Nat) : Word :=
  mkWord major 0 0 (rt * 2 ^ 42 + an * 2 ^ 38 + mn * 2 ^ 34 + kind * 2 ^ 30 + mode * 2 ^ 28 + off)
def wx (major fn reg op : Nat) : Word := mkWord major 0 0 (fn * 2 ^ 40 + reg * 2 ^ 34 + op)
def wt (major fn td rest : Nat) : Word := mkWord major 0 0 (fn * 2 ^ 40 + td * 2 ^ 35 + rest)

/-- Whether the word at a thread's place issues now. -/
def issuesIn (s : State) (c : CoreId) (t : Thr) (w : Word) (regs : List Nat) : Bool :=
  decide ((s.thr c t).st = .running) && decide ((s.thr c t).phase = none) && !(s.thr c t).mustEnter && !s.breakpoint c t && decide (s.fetch c t = .word w) &&
  (!(s.thr c t).repeating || (decide (REPCNT.COUNT.get (s.thr c t).repcnt ≠ 0) && repeatable w)) && decide (commonIrregular (s.thr c t) w = none) &&
  !(s.thr c t).owes regs && !(s.core c).preciseHeld t && !s.scBad c t (wWait w) && !s.scBad c t (wSig w) && decide (s.tryWait c t (wWait w) = none) &&
  !(decide (1 ≤ wSig w ∧ wSig w ≤ 11 ∧ (s.thr c t).flagCount (wSig w) = 15) && ((s.thr c t).gateHere.getD none).isNone)

theorem issues_of {s : State} {c : CoreId} {t : Thr} {w : Word} {regs : List Nat} (h : issuesIn s c t w regs = true) : Issues s c t w regs := by
  simp only [issuesIn, Bool.and_eq_true, decide_eq_true_eq, Bool.not_eq_true'] at h
  obtain ⟨⟨⟨⟨⟨⟨⟨⟨⟨⟨⟨⟨h1, h0⟩, h2⟩, h3⟩, h4⟩, h5⟩, h6⟩, h7⟩, h8⟩, h9⟩, h10⟩, h11⟩, h12⟩ := h
  refine ⟨h1, h2, h0, h3, h4, ?_, h6, h7, h8, ⟨h9, h10⟩, h11, ?_⟩
  · intro hr; simpa [hr] using h5
  · rintro ⟨a, b, d, e⟩
    rw [e] at h12
    simp [a, b, d] at h12

/-- The word issues in thread 0 of core 0. -/
def issues (s : State) (w : Word) (regs : List Nat) : Bool := issuesIn s 0 0 w regs

/-- A thread's place in its pinned instruction memory. -/
def place (n : Nat) : Addr := BitVec.ofNat 48 (pinnedPage + 8 * n)

/-- The state a command answers. -/
def out (i : Instr) (s : State) : State := match exec i s with | .next u => u | _ => s

/-- The smallest image: Elastic, one core, no declaration record, one start record of thread 0 at 0x1000 with room for one frame. -/
def blob : List Byte :=
  [(0, 4, 0x494C_4853), (4, 2, 1), (6, 1, 1), (0x0A, 2, 1), (0x30, 8, 0x80), (0x38, 8, 0x80), (0x40, 4, 1), (0x80, 1, 6), (0x88, 8, 0xA0), (0x90, 8, 112),
    (0xA2, 1, 1), (0xA3, 1, 1), (0xB0, 8, 0x1000), (0xC0, 4, 0x500)].foldl (fun p (x : Nat × Nat × Nat) => putField p x.1 x.2.1 x.2.2) (zeros 272)

/-- A RUNNING image of one core, core 0, in slot 0, that port 0 owns. -/
def image : Image where
  handle := 16
  owner := some 0
  state := .running
  elastic := false
  static := false
  floor := 0
  k := 1
  bytes := []
  bind := [0]
  bindPhys := [0]
  regions := []
  ptBlocks := []
  ptUsed := []
  barriers := (0, 1)
  quotas := []
  attach := []
  weights := []
  rates := []
  limits := []
  startCmd := none
  stopCmds := []
  windows := 0
  invocations := 1
  ending := .none
  firstFault := none
  breach := false
  lastStatus := 0
  lastDetail := 0
  lastResult := []
  probe := none

/-- The image is loaded; it has counter 0 of cluster 0, barrier unit 0, and channel 5 from core 0 to its queue 7. -/
def bound (s : State) : State :=
  ((((s.setImage 0 (some image)).setReg (aBAR_MAP 0) (BAR_MAP.COUNT.put 0 1)).setReg (aSALLOC 0 0) (SALLOC.COUNT.put 0 1)).setReg (aDIR0 5)
    (DIR0.V.put (DIR0.QUEUE.put (DIR0.CRED.put 0 1) 7) 1)).setReg (aQCFG 0 7) (QCFG.DECL.put 0 1)

/-- A message of one payload word. -/
def message : Message := ⟨BitVec.ofNat 64 (2 ^ 6 + 3), [0xAB], some 5, 1⟩

/-! Witnesses: for each statement, states and operands that meet its hypotheses, and what the command then leaves. -/

/-- IntegerResults: every function code, with destinations and sources at both ends of the 64 specifiers; -7 / 2 and 2^64 - 7 remainder 2. -/
theorem witness_integer_results :
    ((List.range 26).all fun fn => let w := wk 1 fn 63 0 31 48; wMajor w == 1 && kRes w == 0 && kFn w == fn && issues (runs w) w (kRegs 3 w)) ∧
    (let f : Thread → Thread := fun th => (th.writeReg 1 (-7)).writeReg 2 2
     let r (i : CoreId → Thr → Word → Instr) (fn : Nat) : Word := let w := wk 1 fn 63 1 2 0; ((out (i 0 0 w) (runs w f)).thr 0 0).readReg 63
     (r .div 5, r .remu 8, r .sub 1, r .sar 14, r .clz 0x18) = (-3, 1, -9, -2, 0)) := by decide +kernel

/-- ImmediateResults: each major opcode with its form's own conditions. -/
theorem witness_immediate_results :
    ((List.range 10).all fun n => let w := wl (0x10 + n) 63 (if n = 7 then 0 else 1) 0x3F; issues (runs w) w ([lRd w, lRs w] ++ lReads w)) ∧
    (let w := wl 0x1A 0x20 1 63; isA (lRd w) ∧ issues (runs w) w ([lRd w, lRs w] ++ lReads w)) ∧
    ([0x47, 0x48, 0x49].all fun n => let w := wl n (if n = 0x49 then 31 else 0) (if n = 0x47 then 31 else 0) (7 * 2 ^ 32 + (if n = 0x48 then 0xFFFF_FFFF else 0))
      !lPM w && issues (runs w) w [lRd w, lRs w]) ∧
    (let w := wl 0x10 5 5 0xFFFF_FFFF; ((out (.addi 0 0 w) (runs w (·.writeReg 5 1))).thr 0 0).readReg 5 = 0) := by decide +kernel

/-- FloatResults: every function code on D registers; 1.5 + 0.25 = 1.75, exactly. -/
theorem witness_float_results :
    ((List.range 13).all fun fn => let w := wk 2 fn 0 31 1 2; kRes w == 0 && (kRegs 3 w).all isD && issues (runs w) w (kRegs 3 w)) ∧
    (let w := wk 2 0 0 1 2 0
     ((out (.fadd 0 0 w) (runs w fun th => (th.writeReg 1 0x3FC00000).writeReg 2 0x3E800000)).thr 0 0).readReg 0 = 0x3FE00000) := by decide +kernel

/-- TransfersOfControl: branches taken and not, calls with room, lost and trapping, a jump to an odd place, returns, and the return stack's moves. -/
theorem witness_transfers_of_control :
    ((List.range 6).all fun n => let w := wl (0x31 + n) 1 2 8; issues (runs w) w ([lRd w, lRs w] ++ lReads w)) ∧
    ([0x30, 0x37].all fun n => let w := wl n 0 0 1; issues (runs w) w []) ∧
    ([0x38, 0x39].all fun n => let w := wl n 0 0x2F 0; isA (lRs w) && issues (runs w) w [0x2F]) ∧
    ([0, 15, 16].all fun n => let w := wl 0x37 0 0 1; let f : Thread → Thread := fun th => { th with rstack := .replicate n 8 }
      [0, 1].all fun m => issues (runs w fun th => { f th with rsctl := RSCTL.MODE.put 0 m }) w []) ∧
    ([0, 16].all fun n => let w := wl 0x3A 0 0 0; issues (runs w fun th => { th with rstack := .replicate n 8, rsctl := RSCTL.MODE.put 0 1 }) w []) ∧
    ([8, 9].all fun fn => [0, 15, 16].all fun n => let w := wx 0x50 fn 63 0; issues (runs w fun th => { th with rstack := .replicate n 8 }) w [63]) ∧
    (let w := wl 0x37 0 0 0xFFFF_FFFF; let x := (out (.call 0 0 w) (runs w)).thr 0 0; x.pc = BitVec.ofNat 48 (pinnedPage - 8) ∧ x.rstack = [BitVec.ofNat 48 (pinnedPage + 8)]) ∧
    (let w := wl 0x38 0 0x20 4; ((out (.jr 0 0 w) (runs w)).thr 0 0).entry.map (·.vector) = some 4) := by decide +kernel

/-- LoopsRepetitionAndReplay: counts 0 and not 0, a parameter count, the innermost loop left, the buffer recorded and started. -/
theorem witness_loops_repetition_and_replay :
    ([0, 1].all fun n => let w := wl 0x40 0 0 (n * 4096 + 3); issues (runs w) w [] && !((runs w).thr 0 0).loopBad 3) ∧
    ([0, 5].all fun n => let w := wl 0x41 0 1 4095; issues (runs w (·.writeReg 1 n)) w [1]) ∧
    (let w := wl 0x42 0 0 0; let s := runs w fun th => { th with lstat := 1 }; issues s w [] ∧ (s.thr 0 0).loops = 1) ∧
    ([0, 65535].all fun n => let w := wl 0x43 0 0 n; issues (runs w) w []) ∧
    (let w := wl 0x44 0 1 0; issues (runs w (·.writeReg 1 0x1_0000)) w [1]) ∧
    (let w := wl 0x46 0 0 0; issues (runs w fun th => { th with rplstat := RPLSTAT.LEN.put 0 1 }) w []) ∧
    (let w := wl 0x45 0 0 1; let s := (runs w).modCore 0 fun q => { q with imem := [(0, w), (1, wx 0x50 0 0 0)] }
     issues s w [] ∧ s.span 0 0 1 = [.word (wx 0x50 0 0 0)] ∧ recordable true (wx 0x50 0 0 0) = true ∧
       ((out (.recWords 0 0 w) s).thr 0 0).pc = place 2 ∧ ((out (.recWords 0 0 w) s).thr 0 0).replay[0] = wx 0x50 0 0 0) ∧
    (let w := wl 0x40 0 0 (2 * 4096 + 3); let x := (out (.loopi 0 0 w) (runs w)).thr 0 0; x.pc = place 1 ∧ x.le[0] = place 3 ∧ x.lc[0] = 2) ∧
    (let w := wl 0x40 0 0 3; let x := (out (.loopi 0 0 w) (runs w)).thr 0 0; x.pc = place 4 ∧ x.loops = 0) ∧
    (let w := wl 0x44 0 1 0; REPCNT.COUNT.get ((out (.repr 0 0 w) (runs w (·.writeReg 1 0x1_0000))).thr 0 0).repcnt = 65535) := by decide +kernel

/-- SystemRegisters: registers read and written in user and supervisor mode. -/
theorem witness_system_registers :
    ([(0, 0, 0), (1, 0, 0), (2, 31, 0x000), (2, 0, 0x130), (2, 0, 0x060), (2, 31, 0x112), (3, 0, 0x110), (3, 31, 0x010), (3, 31, 0x114)].all fun x =>
      let w := wx 0x50 x.1 x.2.1 x.2.2; issues (runs w) w [xReg w]) ∧
    ([0x020, 0x022, 0x02C, 0x030, 0x031, 0x050, 0x100, 0x103, 0x112, 0x130].all fun n => let w := wx 0x50 3 31 n
      issues (runs w fun th => { th with tstatus := TSTATUS.PRIV.put 0 1 }) w [31]) ∧
    (let w := wx 0x50 2 7 0x060; ((out (.mfs 0 0 w) (runs w)).thr 0 0).readReg 7 = 0x3FF) ∧
    (let w := wx 0x50 3 7 0x130; ((out (.mts 0 0 w) (runs w fun th => { th.writeReg 7 0xF with tstatus := TSTATUS.PRIV.put 0 1 })).core 0).tspriv = 0xE) ∧
    (let w := wx 0x50 3 7 0x100; ((out (.mts 0 0 w) (runs w fun th => th.writeReg 7 1)).thr 0 0).tstatus = 0) := by decide +kernel

/-- TrapsRaiseTheirVectors: the first and the last trap number, and BRK. -/
theorem witness_traps :
    ([0, 15].all fun n => let w := wx 0x50 4 0 n; issues (runs w) w [] &&
      (((out (.trap 0 0 w) (runs w)).thr 0 0).entry == some ⟨0x10 + n, 0, place 1, place 0, false, 0⟩)) ∧
    (let w := wx 0x50 0x0C 0 0; issues (runs w) w [] ∧ ((out (.brk 0 0 w) (runs w)).thr 0 0).entry.map (·.vector) = some 0x0C) := by decide +kernel

/-- A thread that stands to take TRAP 0, with room for one frame and a valid descriptor whose handler is at 0x1000. -/
def enters : State :=
  { runs 0 fun th => { th with tsbp := TSBP.OFFSET.put 0 5, tsblim := 0, entry := some ⟨0x10, 0, place 1, place 0, false, 0⟩ } with
    mem := [(coreMemBase 0 + 0x101, 0x10), (coreMemBase 0 + 0x106, 0x03)] }

/-- ExceptionEntry: the last frame that fits; the handler runs in supervisor mode one frame deeper. -/
theorem witness_exception_entry :
    let s := enters
    let p := s.stopPhase 0 0
    let e : PendEntry := ⟨0x10, 0, place 1, place 0, false, 0⟩
    let u := out (.exceptionEntry 0 0) s
    let x := u.thr 0 0
    ((s.thr 0 0).st = .running ∧ s.waiting (.thread 0 0) = false ∧ s.drained 0 0 = true ∧ (s.thr 0 0).entering = none ∧ (s.thr 0 0).taken = some e ∧
      (p.thr 0 0).depth < 255 ∧ TSBP.OFFSET.get (p.thr 0 0).tsblim + 5 ≤ TSBP.OFFSET.get (p.thr 0 0).tsbp ∧
      p.isPoisoned (coreMemBase 0 + 0x100) 16 = false ∧ wb (BitVec.ofNat 64 (p.load (coreMemBase 0 + 0x100) 8)) 48 48 = 1 ∧ s.failed = []) ∧
    x.pc = 0x1000 ∧ TSTATUS.PRIV.get x.tstatus = 1 ∧ x.depth = 1 ∧ TSBP.OFFSET.get x.tsbp = 0 := by
  decide +kernel

/-- ReturnFromException: to the place that a frame of zeros holds. -/
theorem witness_return_from_exception :
    let w := wx 0x50 5 0 0
    let s := runs w fun th => { th with tstatus := TSTATUS.DEPTH.put (TSTATUS.PRIV.put 0 1) 1 }
    issues s w [] = true ∧ 0 < (s.thr 0 0).depth ∧ s.framePoisoned 0 (s.thr 0 0) = false ∧ TSTATUS.PRIV.get (s.thr 0 0).tstatus = 1 ∧
      ((out (.rte 0 0 w) s).thr 0 0).pc = 0 := by decide +kernel

/-- ThreadsStartAndExit: thread 1 has a sound frame area, thread 2 none; thread 3, FAULTED one frame deep, is resumed; a thread exits. -/
theorem witness_threads_start_and_exit :
    (let w := wx 0x50 6 3 6
     let s := (runs w fun th => { th with tstatus := TSTATUS.PRIV.put 0 1 }).modCore 0 fun q => { q with tstsb := q.tstsb.set 1 0x500 }
     issues s w [3] = true ∧ (s.core 0).lock = 0 ∧ (out (.tstart 0 0 w) s |>.thr 0 0).readReg 3 = 2 ∧ (out (.tstart 0 0 w) s |>.thr 0 1).st = .ready ∧
       (out (.tstart 0 0 w) s |>.thr 0 2).st = .notStarted) ∧
    (let w := wx 0x50 6 3 24
     let s := (runs w fun th => { th with tstatus := TSTATUS.PRIV.put 0 1 }).modThr 0 3 fun th => { th with st := .faulted, tstatus := TSTATUS.DEPTH.put 0 1 }
     issues s w [3] = true ∧ s.framePoisoned 0 (s.thr 0 3) = false ∧ (out (.tstart 0 0 w) s |>.thr 0 0).readReg 3 = 8 ∧
       (out (.tstart 0 0 w) s |>.thr 0 3).st = .ready ∧ (out (.tstart 0 0 w) s |>.thr 0 3).depth = 0) ∧
    (let w := wx 0x50 7 0 0; issues (runs w) w [] = true ∧ (runs w).outstanding 0 0 = false ∧ ((runs w).thr 0 0).flights = [] ∧
       ((runs w).thr 0 0).unenter.pending = false ∧ (out (.texit 0 0 w) (runs w) |>.thr 0 0).st = .exited) := by
  decide +kernel

/-- ThreadsTakeTurns: a free issue stage; an urgent thread beside a running one; the countdown's end; a flight that is due. -/
theorem witness_threads_take_turns :
    (let s := (State.reset.modThr 0 3 fun th => { th with st := .ready }).modCore 0 ({ · with next := none })
     (s.core 0).running = none ∧ (s.core 0).next = none ∧ (after (s.core 0).lastIssue).find? (fun x => (s.core 0).thr[x].st == .ready) = some 3 ∧
       (out (.threadSwitch 0) s |>.thr 0 3).st = .running) ∧
    (let s := (runs 0).modThr 0 1 fun th => { th with st := .ready, tstatus := TSTATUS.IE.put (TSTATUS.URGENT.put 0 1) 1, ipend := 8, ien := 8 }
     (s.core 0).running = some 0 ∧ (s.thr 0 0).entry = none ∧ (s.thr 0 0).entering = none ∧ (s.thr 0 0).waitPassed = false ∧ (s.core 0).unitBusy 0 = false ∧
       (out (.threadSwitch 0) s |>.thr 0 1).st = .running ∧ (out (.threadSwitch 0) s |>.thr 0 0).st = .ready) ∧
    (let s := ((State.reset.modThr 0 3 fun th => { th with st := .ready }).modThr 0 1 fun th => { th with st := .ready }).modCore 0 ({ · with next := some 3 })
     (s.core 0).running = none ∧ (out (.threadSwitch 0) s |>.thr 0 3).st = .running ∧ (out (.threadSwitch 0) s |>.thr 0 1).st = .ready) ∧
    (let s := State.reset.modThr 0 0 fun th => { th with hscd := HSCD.EN.put (HSCD.COUNT.put 0 1) 1 }
     HSCD.COUNT.get (s.thr 0 0).hscd = 1 ∧ HSCD.EN.get (s.thr 0 0).hscd = 1 ∧ (out (.hscdExpiry 0 0) s |>.thr 0 0).ipend = 0x20) ∧
    (let s := State.reset.modThr 0 0 fun th => { th with hscd := HSCD.COUNT.put 0 0xFFFF_FFFF }
     (out (.hscdExpiry 0 0) s |>.thr 0 0) = { s.thr 0 0 with hscd := 0 }) ∧
    (let f : Flight := ⟨7, 12, SC.SIG_N.put 0 3, place 1, none, true, false, none, 1⟩
     let s := bound (State.reset.modThr 0 0 fun th => { th with flights := [f] })
     s.scObj 0 f.sc = some (.counter 0 0) ∧ (out (.instructionComplete 0 0 7) s).sync = [⟨0, .thread 0 0, 0, .counter 0 0, .add 3, 0, place 1, 1⟩] ∧
       (out (.instructionComplete 0 0 7) s |>.thr 0 0).flights = []) ∧
    (let s := State.reset.modThr 0 0 fun th => { th with flights := [⟨7, 11, 0, 0, none, true, false, none, 0⟩], flags := th.flags }
     (s.thr 0 0).flights.find? (·.key = 7) = some ⟨7, 11, 0, 0, none, true, false, none, 0⟩ ∧ (out (.instructionComplete 0 0 7) s |>.thr 0 0).flights = []) := by
  decide +kernel

/-- Page 0 of the virtual addresses lies on page 5 of the near tier, cacheable or not. -/
def mapped (c : Nat) (s : State) : State :=
  (s.setFld (aTR_ROOT 0) TR_ROOT.EN 1).modCore 0 fun q =>
    { q with tlb := [(0, some (PTE2.C.put (PTE2.PPA.put (PTE2.X.put (PTE2.W.put (PTE2.V.put 0 1) 1) 1) 5) c))] }

/-- A load or store reaches its home. -/
def reaches (s : State) (w : Word) (n : Nat) (write cacheable : Bool) : Bool :=
  let ea := effective (s.thr 0 0) w
  decide (ea % n = 0) && decide (s.resolve 0 ea false write = .ok (5 * 2 ^ 21 + ea) cacheable (some 0)) &&
    decide (s.homeCheck 0 0 ea (5 * 2 ^ 21 + ea) n write false 0 ((accessing (s.thr 0 0) w).readReg (mRt w)) = none)

theorem reaches_of {s : State} {w : Word} {n : Nat} {write ca : Bool} (h : reaches s w n write ca = true) :
    Reaches s 0 0 w n write (5 * 2 ^ 21 + effective (s.thr 0 0) w) ca (some 0) := by
  simp only [reaches, Bool.and_eq_true, decide_eq_true_eq] at h
  exact ⟨h.1.1, h.1.2, h.2⟩

/-- AccessesSetOut: every kind of load and store, in every mode, at the page's last places. -/
theorem witness_accesses_set_out :
    ([(0x20, 6), (0x22, 6), (0x21, 3), (0x23, 3)].all fun x => (List.range (x.2 + 1)).all fun kind => [0, 1, 2].all fun mode =>
      let w := wm x.1 63 3 15 kind mode 8
      let s := mapped 0 (runs w fun th => { th with a := th.a.set 3 0x1F_FFF0, m := th.m.set 15 (-16) })
      issues s w (mRt w :: addrRegs w) && reaches s w (kindSize kind) (x.1 % 2 == 1) false) ∧
    (let w := wm 0x23 1 0 0 2 0 8
     let s := (mapped 0 (runs w fun th => th.writeReg 1 0x11223344)).setFld (aCCTL 0) CCTL.DC_EN 0
     s.dcOn 0 = false ∧ (out (.stu 0 0 w) s).txns.map (·.op) = [.write (runOf (5 * 2 ^ 21 + 8) [0x44, 0x33, 0x22, 0x11])]) := by decide +kernel

/-- AtomicsSetOut: every operation and type that exists, compare and swap at the last pair of registers. -/
theorem witness_atomics_set_out :
    [0x28, 0x29].all fun major => (List.range 8).all fun kind => (List.range 4).all fun ty =>
      let w := wm major 30 3 0 kind ty 8
      let s := mapped 0 (runs w)
      (atomicOp kind ty).isNone || (issues s w (atomicRegs w) && decide (s.resolve 0 8 false true = .ok (5 * 2 ^ 21 + 8) false (some 0)) &&
        decide (s.homeCheck 0 0 8 (5 * 2 ^ 21 + 8) 8 true true kind 0 = none)) := by decide +kernel

/-- MisalignedAccessesFault: the access of 2 bytes at an odd place and of 8 bytes at 4. -/
theorem witness_misaligned_accesses :
    ([0x20, 0x21, 0x22, 0x23].all fun major => [(1, 1), (3, 4)].all fun k =>
      let w := wm major 0 0 0 k.1 0 k.2
      issues (runs w) w (mRt w :: addrRegs w) && effective ((runs w).thr 0 0) w % kindSize k.1 != 0) ∧
    (let w := wm 0x21 0 0 0 3 0 4; let x := (out (.st 0 0 w) (runs w)).thr 0 0; x.trFault = faultWord 4 0xA 1 0 ∧ x.pc = place 0) := by decide +kernel

/-- Line 0 of page 5 in the data cache, with byte 0 dirty. -/
def cached (w : Word) : State :=
  ((mapped 1 (runs w)).setFld (aCCTL 0) CCTL.DC_EN 1).modCore 0 fun q =>
    { q with dcache := ⟨[(0, some ⟨5 * 2 ^ 15, BitVec.allOnes 64, 1, 0, .replicate 64 0x5A⟩)], []⟩ }

/-- CachedAccesses: a hit of the last 8 bytes, and a store into the line. -/
theorem witness_cached_accesses :
    (let w := wm 0x20 1 0 0 3 0 56
     let s := cached w
     s.dcOn 0 && issues s w (mRt w :: addrRegs w) && reaches s w 8 false true && decide ((s.dcLine 0 (5 * 2 ^ 15)).1.any (·.has 56 8)) &&
       decide (((out (.ld 0 0 w) s).thr 0 0).readReg 1 = 0x5A5A_5A5A_5A5A_5A5A)) ∧
    (let w := wm 0x21 1 0 0 3 0 56
     let s := cached w
     s.dcOn 0 && issues s w (mRt w :: addrRegs w) && reaches s w 8 true true && decide (s.dcDis 0 = 0) &&
       decide ((((out (.st 0 0 w) s).dcLine 0 (5 * 2 ^ 15)).1.map (·.bytes 48 16)) = some (.replicate 8 0x5A ++ .replicate 8 0))) := by decide +kernel

/-- CacheMaintenance: each instruction on a line that is dirty, PREF of a line that is not near, and DCSW in its three forms. -/
theorem witness_cache_maintenance :
    ([0x24, 0x25, 0x26, 0x27, 0x2A].all fun major =>
      let w := wm major 0 0 0 0 0 0
      let s := cached w
      issues s w (addrRegs w) && decide (s.resolve 0 0 false false = .ok (5 * 2 ^ 21) true (some 0)) && s.lineNear 0 (5 * 2 ^ 15)) ∧
    (let w := wm 0x24 0 0 0 0 0 64; issues (cached w) w (addrRegs w) && !(cached w).lineNear 0 (5 * 2 ^ 15 + 1)) ∧
    (let w := wm 0x24 0 3 0 0 0 0; let s := runs w fun th => { th with a := th.a.set 3 0xF000_0000_0000 }
     issues s w (addrRegs w) && (match s.resolve 0 (effective (s.thr 0 0) w) false false with | .fault _ _ => true | _ => false) &&
       decide ((out (.pref 0 0 w) s).thr 0 0 = (s.thr 0 0).advance ∧ (out (.pref 0 0 w) s).txns = [])) ∧
    ([0, 1, 2].all fun op => let w := wx 0x50 0x0A 31 op; issues (cached w) w [31]) ∧
    ([4, 5, 6, 13].all fun op => let w := wx 0x50 0x0A 0 op; issues (cached w) w []) ∧
    (let w := wm 0x27 0 0 0 0 0 0; let u := out (.clinv 0 0 w) (cached w)
     (u.core 0).dcache.lines = [] ∧ u.txns.map (·.op) = [.write [(5 * 2 ^ 21, 0x5A, false)]]) := by decide +kernel

/-- T tiles 0 and 1 HELD with one row of four bytes, INT8 (R217), and Z tile 16 HELD. -/
def tiled (w : Word) : State :=
  (mapped 0 (runs w fun th => { th with m := th.m.set 1 64 })).modCore 0 fun q =>
    { q with tt := [(0, ⟨1, 4, 5, true, 0, [(0, 2), (1, 0xFF)]⟩), (1, ⟨1, 4, 5, true, 0, [(0, 3), (1, 5)]⟩)] }

/-- TileConfiguration: a new shape, the same shape, the last tiles released, and the state words of both kinds. -/
theorem witness_tile_configuration :
    ([(0, 0xA00), (15, 0xBFF)].all fun x => let w := wt 0x82 0 x.1 x.2; let s := tiled w
      issues s w [] && !(s.core 0).tileBusy (· == x.1) && decide (((out (.tcfg 0 0 w) s).core 0).held x.1 = (x.1 == 0))) ∧
    ([0, 15, 16, 23].all fun i => let w := wt 0x83 0 i 0; let s := tiled w
      issues s w [] && !(s.core 0).tileBusy (· == i) && !((out (.trel 0 0 w) s).core 0).held i) ∧
    (let w := wt 0x84 0 0 0; issues (tiled w) w [] && !((tiled w).core 0).tileBusy (fun _ => true) && !((out (.trela 0 0 w) (tiled w)).core 0).held 1) ∧
    ([0, 23].all fun i => let w := wt 0x85 0 i 31; issues (tiled w) w [31]) := by decide +kernel

/-- T tiles 0 and 1 with two rows. -/
def twice (w : Word) : State :=
  (tiled w).modCore 0 fun q => (q.setT 0 { q.tTile 0 with rows := 2 }).setT 1 { q.tTile 1 with rows := 2 }

/-- Every byte of the page's first n takes the access. -/
def pageTakes (s : State) (n : Nat) (write : Bool) : Bool := (List.range n).all fun va =>
  decide (s.resolve 0 va false write = .ok (5 * 2 ^ 21 + va) false (some 0)) && decide (s.homeCheck 0 0 va (5 * 2 ^ 21 + va) 1 write false 0 0 = none)

/-- Thread 0 of core 0 stands in a request phase of the kind and word and may go on with it. -/
def goesOn (s : State) (w : Word) (kind : Nat) : Bool :=
  (s.thr 0 0).phase.any (fun p => p.word == w && p.kind == kind) && !s.walking 0 0 && decide ((s.thr 0 0).st = .running) && !(s.thr 0 0).mustEnter

theorem continues_of {s : State} {w : Word} {kind : Nat} (h : goesOn s w kind = true) : ∃ ph, Continues s 0 0 w kind ph := by
  simp only [goesOn, Bool.and_eq_true, Bool.not_eq_true', decide_eq_true_eq, Option.any_eq_true, beq_iff_eq] at h
  obtain ⟨⟨⟨⟨ph, h1, h2, h3⟩, h4⟩, h5⟩, h6⟩ := h
  exact ⟨ph, h1, h2, h3, h4, .inr ⟨h5, h6⟩⟩

/-- TileLoads, TileStoresAndContext: a phase of two rows goes on with its second, and ends; a context's rows, its header, and what comes once the
header has arrived. -/
theorem witness_request_phases_go_on :
    (let w := wt 0x80 0 1 (1 * 2 ^ 27) ||| BitVec.ofNat 64 (5 * 2 ^ 44)
     let u := out (.tld 0 0 w) (twice w)
     let v := out (.tld 0 0 w) u
     goesOn u w 0 && pageTakes u 68 false && decide ((u.thr 0 0).phase.map (·.row) = some 1 ∧ (u.thr 0 0).tileOps.map (·.rows.map (·.place)) = [[32]] ∧
       (v.thr 0 0).phase = none ∧ (v.thr 0 0).tileOps.map (·.rows.map (·.place)) = [[32, 33]] ∧ (v.thr 0 0).pc = place 1)) ∧
    (let w := wt 0x81 0 0 (1 * 2 ^ 27)
     let u := out (.tst 0 0 w) ((twice w).setFld (aCCTL 0) CCTL.DC_EN 0)
     let v := out (.tst 0 0 w) u
     goesOn u w 1 && decide ((u.thr 0 0).phase.map (·.row) = some 1 ∧ (v.thr 0 0).phase = none ∧ (v.thr 0 0).pc = place 1 ∧
       v.txns.map (·.op) = [.write (runOf (5 * 2 ^ 21) [2, 0xFF, 0, 0]), .write (runOf (5 * 2 ^ 21 + 64) [0, 0, 0, 0])])) ∧
    (let w := wt 0x86 0 0 0 ||| BitVec.ofNat 64 (2 ^ 42)
     let u := out (.tctxs 0 0 w) ((tiled w).setFld (aCCTL 0) CCTL.DC_EN 0)
     let v := out (.tctxs 0 0 w) u
     let x := out (.tctxs 0 0 w) v
     goesOn u w 2 && goesOn v w 2 && decide ((u.thr 0 0).phase.map (fun p => (p.slot, p.row)) = some (1, 0) ∧
       (v.thr 0 0).phase.map (fun p => (p.slot, p.row)) = some (24, 0) ∧ (x.thr 0 0).phase = none ∧ (x.core 0).held 0 = false ∧ (v.core 0).held 0 = true)) ∧
    (let w := wt 0x87 0 0 0
     let u := out (.tctxr 0 0 w) (tiled w)
     let v := u.modThr 0 0 fun th => { th with phase := th.phase.map ({ · with hdr := true }), st := .running }
     let x := out (.tctxr 0 0 w) v
     goesOn v w 3 && decide ((u.thr 0 0).phase.map (fun p => (p.kind, p.asked, p.hdr)) = some (3, true, false) ∧
       (x.thr 0 0).phase.map (fun p => (p.slot, p.row)) = some (1, 0))) := by decide +kernel

/-- TileLoads: one row of four bytes of INT8 is asked for, comes, and is written. -/
theorem witness_tile_loads :
    (let w := wt 0x80 0 1 (1 * 2 ^ 27) ||| BitVec.ofNat 64 (5 * 2 ^ 44)
     let s := tiled w
     let u := out (.tld 0 0 w) s
     (s.thr 0 0).tileOps = [] ∧ (s.thr 0 0).phase = none ∧ TLPROG.ACTIVE.get (s.thr 0 0).tlprog = 0 ∧ s.tldIrregular 0 w = none ∧ issues s w [0x20, 0x31] = true ∧
       rowMisaligned 5 false 0 64 0 4 = none ∧
       ((rowVas 5 false 0 64 0 0 4).all fun va => decide (s.resolve 0 va false false = .ok (5 * 2 ^ 21 + va) false (some 0)) &&
         decide (s.homeCheck 0 0 va (5 * 2 ^ 21 + va) 1 false false 0 0 = none)) = true ∧
       u.txns.map (·.op) = [.read (addrs (5 * 2 ^ 21) 4)] ∧ (u.core 0).held 1 = true) ∧
    (let s := { (tiled 0).modThr 0 0 (fun th => { th with tileOps := [⟨9, 5, false, 5, 4, 0, 64, 0, 0, 0, 0, [⟨32, 0, []⟩], []⟩] }) with
        txns := [⟨3, .thread 0 0, .near 0, 5 * 2 ^ 21, .read (addrs (5 * 2 ^ 21) 4), .tileRow 0 9 32 [(0, 5 * 2 ^ 21), (1, 5 * 2 ^ 21 + 1), (2, 5 * 2 ^ 21 + 2),
          (3, 5 * 2 ^ 21 + 3)] false, .performed, [7, 8, 9, 0x80], [], false, [], some 0⟩] }
     let xs := s.rowTxns 0 0 9 32
     xs.length = 1 ∧ ([0, 1, 2, 3].map fun a => (rowByte xs a).map (·.2)) = .replicate 4 (some false) ∧
       ((List.range 4).map fun b => tabGet 0 (((out (.tileRowArrival 3) s).core 0).tTile 1).data b) = [7, 8, 9, 0x80]) := by decide +kernel

/-- TileStoresAndContext: a row is stored past the data cache; the context is saved and asked for. -/
theorem witness_tile_stores_and_context :
    (let w := wt 0x81 0 0 (1 * 2 ^ 27)
     let s := (tiled w).setFld (aCCTL 0) CCTL.DC_EN 0
     let u := out (.tst 0 0 w) s
     issues s w [0x20, 0x31] = true ∧ (s.core 0).held 0 = true ∧ (s.core 0).rowOf 0 0 = [2, 0xFF, 0, 0] ∧ 0 % (s.core 0).alignOf 0 = 0 ∧
       u.txns.map (·.op) = [.write (runOf (5 * 2 ^ 21) [2, 0xFF, 0, 0])] ∧ (u.thr 0 0).phase = none) ∧
    ([0x86, 0x87].all fun major =>
      let w := wt major 0 0 0; let s := tiled w
      decide (contextIrregular w (major == 0x86) = none) && !(s.core 0).tileBusy (fun _ => true) && issues s w (contextRegs w) &&
        ([0, 0xC0FF].all fun va => decide (s.resolve 0 va false true = .ok (5 * 2 ^ 21 + va) false (some 0)))) := by decide +kernel

/-- T tiles 0 and 1 HELD, FP32, of 16 and 32 rows of 64 bytes; Z tiles 16 and 17 HELD as the two halves of a pair. -/
def whole : State :=
  (runs 0).modCore 0 fun q => { q with tt := [(0, ⟨16, 64, 0, true, 0, []⟩), (1, ⟨32, 64, 0, true, 0, []⟩)], zt := [(0, ⟨2, true, 0, []⟩), (1, ⟨3, true, 0, []⟩)] }

/-- UnitsIssueAndComplete: every product and every vector function issues; a queued one begins; one completes. -/
theorem witness_units :
    ([(0, 18), (1, 18), (2, 16), (3, 16)].all fun x => decide (whole.mmaIrregular 0 (wt 0xC0 x.1 x.2 0) = none)) ∧
    ((List.range 27).all fun fn => let td := if fn = 0x18 ∨ fn = 0x19 then 16 else if fn = 0x1A then 1 else 0; let ta := if fn = 0x1A then 16 else if fn = 0x18 then 1 else 0
      decide ((0x15 ≤ fn ∧ fn ≤ 0x17) ∨ whole.vecIrregular 0 (wt 0xC1 fn td (ta * 2 ^ 30)) = none)) ∧
    (let w := wt 0xC0 1 16 (0 * 2 ^ 30 + 1 * 2 ^ 25)
     (tiled w).mmaIrregular 0 w = none ∧ issues (tiled w) w [] = true ∧ (((out (.mmaz 0 0 w) (tiled w)).core 0).eng true).running.map (·.word) = some w ∧
       tabGet 0 (((out (.unitInstructionComplete 0 .matrix) (out (.mmaz 0 0 w) (tiled w))).core 0).zTile 0).data 0 = 1) ∧
    (let w := wt 0xC1 0 0 (0 * 2 ^ 30 + 1 * 2 ^ 25 + 5)
     (tiled w).vecIrregular 0 w = none ∧ issues (tiled w) w [] = true ∧
       tabGet 0 (((out (.unitInstructionComplete 0 .vector) (out (.vadd 0 0 w) (tiled w))).core 0).tTile 0).data 0 = 5) ∧
    (let o : UnitOp := ⟨0, wt 0xC1 0x0B 0 5, 0, 0, 0, 0, 0, 0⟩
     let s := (tiled 0).modCore 0 fun q => q.setEng false { q.vx with queued := some o }
     ((s.core 0).eng false).running = none ∧ (((out (.unitInstructionBegin 0 .vector) s).core 0).eng false).running = some o) ∧
    (let o : UnitOp := ⟨0, wt 0xC1 0x0B 0 5, 0, 0, 0, 0, 0, 0⟩
     let s := (tiled 0).modCore 0 fun q => q.setEng false { q.vx with running := some o }
     let u := out (.unitInstructionBegin 0 .vector) s
     ((s.core 0).eng false).ending = none ∧ ((u.core 0).eng false) = ⟨none, none, some (o, (s.core 0).tt, (s.core 0).zt)⟩ ∧
       (((out (.unitInstructionComplete 0 .vector) u).core 0).eng false).ending = none) := by decide +kernel

/-- MatrixResults and VectorElementResults: 2 x 3 - 1 x 5 in a 32-bit accumulator; a sum in INT8 wraps. -/
theorem witness_matrix_and_vector_results :
    (let o : UnitOp := ⟨0, wt 0xC0 1 16 (1 * 2 ^ 25), 0, 0, 0, 0, 0, 0⟩
     let q := (tiled 0).core 0
     (q.tTile 0).elems = 4 ∧ (q.tTile 1).elems = 4 ∧ fmtFloat (q.tTile 0).fmt = none ∧ tabGet 0 ((q.runMma o).1.zTile 0).data 0 = 1) ∧
    (let o : UnitOp := ⟨0, wt 0xC1 0 0 5, 0, 0, 0, 0, 0, 0⟩; fmtFloat (vTy o.word) = none ∧ vecElem o .rne 0x7F 1 0 = (0x80, .none)) := by decide +kernel

/-- MessagesSentAndTaken: the compose buffer's ends, a SEND with one credit and one on a SHUT channel, the queue's instructions with a
message there, and a dispatch. -/
theorem witness_messages_sent_and_taken :
    ([(0, 1), (0, 7), (1, 0), (1, 7)].all fun x => let w := wx 0x60 x.1 31 x.2; issues (runs w) w [31]) ∧
    ([0, 1].all fun shut =>
      let w := wx 0x60 2 1 (3 * 2 ^ 18 + 2 ^ 15 + 7)
      let s := (bound (runs w)).setReg (aDIR1 5) (DIR1.SHUT.put (DIR1.AVAIL.put 0 1) shut)
      let u := out (.send 0 0 w) s
      issues s w [1] && decide (s.boundTo 0 = some (0, 0) ∧ s.channel 0 0 0 0 0 7 = some 5 ∧ (u.thr 0 0).readReg 1 = (if shut = 1 then 0x33 else 0) ∧
        u.msgs.length = 1 - shut)) ∧
    (let w := wx 0x60 3 1 31; let s := bound (runs w (·.writeReg 31 7)); issues s w [1, 31] ∧ opKind 7 = 0) ∧
    ([(4, [31]), (5, [31]), (7, []), (8, [])].all fun x =>
      let w := wx 0x60 x.1 (if x.1 = 4 ∨ x.1 = 5 then 31 else 0) (if x.1 = 8 then 32 * 16 + 15 else 7)
      let s := (bound (runs w)).modQueue 0 7 fun k => { k with msgs := [message] }
      issues s w x.2 && s.flag (aQCFG 0 (qOf w)) QCFG.DECL && decide (s.reader 0 (qOf w) = 0)) ∧
    ([0, 1].all fun pos => let w := wx 0x60 4 31 7
      let s := (bound (runs w)).modQueue 0 7 fun k => { k with msgs := [message], pos := pos }
      let u := out (.qpop 0 0 w) s
      issues s w [31] && decide ((u.thr 0 0).readReg 31 = (if pos = 0 then message.header else 0xAB) ∧ (u.queue 0 7).pos = 1 - pos ∧
        (u.queue 0 7).msgs.length = 1 - pos)) ∧
    (let w := wx 0x60 6 31 7
     let s := ((bound (runs w)).modQueue 0 7 fun k => { k with msgs := [message] }).setReg (aHENT 0 3) (HENT.V.put (HENT.HANDLER.put 0 0x200) 1)
     let u := out (.qdisp 0 0 w) s
     issues s w [31] ∧ s.flag (aHENT 0 (wb message.header 5 0)) HENT.V = true ∧ (u.thr 0 0).pc = 0x1000 ∧ (u.thr 0 0).readReg 31 = message.header ∧
       (u.queue 0 7).pos = 1) := by decide +kernel

/-- A message on its way to queue 7 of core 0. -/
def coming : NetMsg := ⟨2, message, 0, 7, 0, none, 0⟩

/-- MessagesArrive: into a queue with its last free slot, at a closed one, as a contribution that is not the last and one that is; and each token. -/
theorem witness_messages_arrive :
    (let s := { (bound State.reset).modQueue 0 7 fun k => { k with msgs := .replicate 31 message } with msgs := [coming] }
     s.netMsg 2 = some coming ∧ s.mustFollow coming = false ∧ s.fld (aQCFG 0 7) QCFG.COMB = 0 ∧
       ((out (.messageEntry 2) s).queue 0 7).msgs.length = 32 ∧ (out (.messageEntry 2) s).tokens.map (·.kind) = [.entryAck]) ∧
    (let s := { (bound State.reset).modQueue 0 7 fun k => { k with closed := true } with msgs := [coming] }
     ((out (.messageEntry 2) s).queue 0 7).msgs = [] ∧ (out (.messageEntry 2) s).fld (aDIR1 5) DIR1.CLOSED_N = 1) ∧
    (let s := { ((bound State.reset).setReg (aQCFG 0 7) (QCFG.COMB.put (QCFG.DECL.put 0 1) 1)).modQueue 0 7 ({ · with closed := true }) with msgs := [coming] }
     s.fld (aQCFG 0 7) QCFG.COMB ≠ 0 ∧ (out (.contributionArrival 2) s).msgs = [] ∧ QCNT.DISCARDED.get ((out (.contributionArrival 2) s).reg (aQCNT 0 7)) = 1) ∧
    ([2, 3].all fun n =>
      let s := { ((bound State.reset).setReg (aQCFG 0 7) (QCFG.COMB.put (QCFG.ELEMS.put (QCFG.NPER.put (QCFG.DECL.put 0 1) n) 1) 2)).modQueue 0 7
        fun k => { k with round := some ⟨3, [1], [4]⟩ } with msgs := [coming] }
      let u := out (.contributionArrival 2) s
      decide (s.fld (aQCFG 0 7) QCFG.COMB ≠ 0 ∧ if n = 3 then (u.queue 0 7).round = some ⟨3, [0xAC], [4, 5]⟩
        else (u.queue 0 7).round = none ∧ (u.queue 0 7).msgs.length = 1)) ∧
    ([TokenKind.entryAck, .credit, .closure].all fun k =>
      let s := { (bound State.reset).setReg (aDIR1 5) (DIR1.OUT.put 0 1) with tokens := [⟨9, k, 5⟩] }
      let i : Instr := match k with | .entryAck => .entryAck 9 | .credit => .creditReturn 9 | .closure => .closureNotice 9
      decide ((out i s).tokens = [] ∧ (out i s).reg (aDIR1 5) = match k with
        | .entryAck => 0 | .credit => DIR1.AVAIL.put (DIR1.OUT.put 0 1) 1 | .closure => DIR1.SHUT.put (DIR1.OUT.put 0 1) 1)) := by decide +kernel

/-- SyncInstructions: each on the image's counter or barrier, SNOTE below, at and without its amount. -/
theorem witness_sync_instructions :
    ([(0, 31, 3), (0, 31, 7), (1, 31, 3)].all fun x =>
      let w := wx 0x61 x.1 x.2.1 x.2.2; let s := bound (runs w); issues s w [31] && decide (s.scObj 0 ((s.thr 0 0).readSC 3) = some (.counter 0 0))) ∧
    ([3, 4].all fun fn =>
      let w := wx 0x61 fn 31 3; let s := bound (runs w fun th => { th with sc := th.sc.set 3 (SC.KIND.put 0 1) })
      issues s w [31] && decide (s.scObj 0 ((s.thr 0 0).readSC 3) = some (.barrier 0))) ∧
    ([0, 1].all fun n =>
      let w := wx 0x61 2 0 0; let s := bound (runs w fun th => { th with sc := th.sc.set 0 (SC.WAIT_N.put 0 n) })
      let u := out (.snote 0 0 w) s
      issues s w [] && decide (s.counter 0 0 = 0 ∧ if n = 0 then (u.thr 0 0).ipend = 8 ∧ (u.thr 0 0).notif = none
        else (u.thr 0 0).ipend = 0 ∧ (u.thr 0 0).notif = some ⟨.counter 0 0, 1⟩)) ∧
    (let w := wx 0x61 2 0 4; issues (bound (runs w)) w [] = true) := by decide +kernel

/-- An operation on counter 0 of cluster 0. -/
def op (k : SyncKind) : SyncOp := ⟨2, .thread 0 0, 0, .counter 0 0, k, 0, 0, 0⟩

/-- CounterOperations: sums at both ends of the range and past them, waits satisfied, parked and held, and an admitted wait. -/
theorem witness_counter_operations :
    ([(0xFFFF_FFFF, 0, 0xFFFF_FFFF), (0, 5, 5), (-5, 5, 0), (1, 0xFFFF_FFFF, 0xFFFF_FFFF), (-1, 0, 0)].all fun (x : Int × Nat × Nat) =>
      let s := { State.reset.setReg (aSCNT 0 0) (BitVec.ofNat 64 x.2.1) with sync := [op (.add x.1)] }
      decide (s.counter 0 0 = x.2.1 ∧ (out (.counterSignal 2) s).counter 0 0 = x.2.2)) ∧
    ([SyncKind.addReturn 0 1 2 1, .read 0 1 2].all fun k =>
      decide ((out (.counterSignal 2) { State.reset with sync := [op k] }).sync.map (·.kind) = [.reply 0 1 2 0])) ∧
    (let u := out (.counterWait 2) { State.reset.setReg (aSCNT 0 0) 3 with sync := [op (.wait 3 true)] }
     u.counter 0 0 = 0 ∧ u.sync.map (·.kind) = [.release true]) ∧
    (let s := { State.reset.setReg (aSCNT 0 0) 3 with sync := [op (.wait 3 true)], parked := [⟨.thread 1 0, .counter 0 0, 9, true⟩] }
     (out (.counterWait 2) s).counter 0 0 = 3 ∧ (out (.counterWait 2) s).parked.length = 2) ∧
    (let s := { State.reset with sync := [op (.add 5)], parked := [⟨.thread 1 0, .counter 0 0, 5, false⟩] }
     (out (.counterSignal 2) s).parked = [] ∧ (out (.counterSignal 2) s).sync.map (fun y => (y.who, y.kind)) = [(.thread 1 0, .release false)]) ∧
    (let u := out (.counterWait 2) { State.reset with sync := [op (.wait 1 true)] }; u.parked = [⟨.thread 0 0, .counter 0 0, 1, true⟩]) ∧
    (let s := { State.reset with sync := [op (.wait 1 true)], parked := .replicate 512 ⟨.thread 1 0, .counter 0 1, 1, true⟩ }
     s.parkedIn 0 = 512 ∧ (out (.counterWait 2) s).inputs = [⟨.thread 0 0, .counter 0 0, 1, true⟩]) ∧
    ([0, 1].all fun n =>
      let s := { State.reset with inputs := [⟨.thread 0 0, .counter 0 0, n, false⟩] }
      decide ((out (.parkedWaitAdmit 0) s).parked.length = n ∧ (out (.parkedWaitAdmit 0) s).inputs = [])) := by decide +kernel

/-- An operation on barrier unit 0. -/
def bop (k : SyncKind) : SyncOp := ⟨2, .thread 0 0, 0, .barrier 0, k, 0, 0, 0⟩

/-- BarriersAndWaits: the last arrival and one before it, arrivals that are errors, a configuration, a read and both waits; a wait released,
reported and withdrawn. -/
theorem witness_barriers_and_waits :
    ([1, 3].all fun m =>
      let s := { State.reset.setReg (aMASK 0 0) (BitVec.ofNat 64 m) with sync := [bop .arrive] }
      let u := out (.barrierArrival 2) s
      decide (s.activeOf 0 = some 0) && s.mask (aMASK 0) 0 && !s.mask (aARR 0) 0 && decide (u.phase 0 = (if m = 1 then 1 else 0)) &&
        (u.mask (aARR 0) 0 == (m == 3))) ∧
    ([(0, 0), (1, 1)].all fun x =>
      let s := { (State.reset.setReg (aMASK 0 0) (BitVec.ofNat 64 x.1)).setReg (aARR 0 0) (BitVec.ofNat 64 x.2) with sync := [bop .arrive] }
      decide (((out (.barrierArrival 2) s).sync.map (·.kind)) = [.error none] ∧ (out (.barrierArrival 2) s).phase 0 = 0)) ∧
    (let s := { bound State.reset with sync := [bop (.config 0 0 1)] }
     (s.image 0).map (·.k) = some 1 ∧ (out (.barrierArrival 2) s).mask (aMASK 0) 0 = true ∧ (out (.barrierArrival 2) s).mask (aMASK 0) 1 = false) ∧
    (out (.barrierArrival 2) { State.reset with sync := [bop (.barrierRead 0 1 2)] }).sync.map (·.kind) = [.reply 0 1 2 0] ∧
    (let s := { (State.reset.setReg (aBU1 0) 1).modCore 0 fun q => { q with lastArr := [(0, 1)] } with sync := [bop .barrierWait] }
     s.phase 0 = 1 ∧ (out (.barrierWait 2) s).sync.map (·.kind) = [.release false]) ∧
    ((out (.barrierWait 2) { State.reset with sync := [bop .barrierWait] }).parked = [⟨.thread 0 0, .barrier 0, 0, false⟩]) ∧
    (let s := { State.reset.modThr 0 0 fun th => { th with st := .stalled, stall := .parked } with sync := [op (.release true)] }
     ((out (.waitRelease 2) s).thr 0 0).st = .ready ∧ ((out (.waitRelease 2) s).thr 0 0).waitPassed = true) ∧
    (let s := (State.reset.modThr 0 0 (·.owe 3 9))
      let u := out (.syncErrorReport 2) { s with sync := [op (.error (some 9))] }
      (s.thr 0 0).owed = [(3, 9)] ∧ (u.thr 0 0).owed = [] ∧ (u.thr 0 0).imprecise = [⟨7, 0, 0⟩]) ∧
    (let s := { State.reset.modThr 0 0 fun th => { th with st := .stalled, stall := .parked, haltReq := true } with
        parked := [⟨.thread 0 0, .counter 0 0, 1, true⟩] }
     s.waiting (.thread 0 0) = true ∧ (out (.waitWithdrawal (.thread 0 0)) s).parked = [] ∧
       ((out (.waitWithdrawal (.thread 0 0)) s).thr 0 0).st = .ready) := by decide +kernel

/-- An access under way. -/
def access (src : Source) (addr : Nat) (op : MemOp) (p : Purpose) (st : Stage := .sent) (bytes : List Byte := []) (bad : List Nat := []) : Txn :=
  ⟨1, src, homeOf [] addr, addr, op, p, st, bytes, bad, false, [], none⟩

/-- A place in the core memory of core 0. -/
def home : Nat := coreMemBase 0 + 8

/-- HomesPerform: a read, a walker's read, a write and an atomic that the home of core 0's memory serves, and a read that the protection table denies. -/
theorem witness_homes_perform :
    (let x := access (.thread 0 0) home (.read (addrs home 2)) (.load 0 1 2 1)
     let s := { State.reset with txns := [x], mem := [(home, 0x34), (home + 1, 0x12)] }
     s.txn 1 = some x ∧ s.homeServes x = true ∧ s.rptCheck x = none ∧ (out (.homeRead 1) s).txns.map (·.result) = [[0x34, 0x12]]) ∧
    (let x := access (.walker 0 0) home (.read (addrs home 8)) (.walk 1 0 false false 0)
     let s := { State.reset with txns := [x] }
     s.homeServes x = true ∧ (out (.pageWalk 1) s).txns.map (·.stage) = [.performed]) ∧
    (let x := access (.thread 0 0) home (.write [(home, 7, false)]) (.stored 0 none)
     let s := { State.reset with txns := [x] }
     s.homeServes x = true ∧ (out (.homeWrite 1) s).mem = [(home, 7)]) ∧
    (let x := access (.thread 0 0) home (.atomic .add 4 0xFFFF_FFFF 0 true) (.oldValue 0 1 2 4 false)
     let s := { State.reset with txns := [x], mem := [(home, 1)] }
     s.homeServes x = true ∧ (out (.homeAtomic 1) s).mem = [] ∧ (out (.homeAtomic 1) s).txns.map (·.result) = [[1, 0, 0, 0]]) ∧
    (let x := access (.thread 0 0) home (.read (addrs home 2)) (.load 0 1 2 1)
     let s := ({ State.reset with txns := [x] }.setReg (aRPT0 0 0) (RPT0.V.put 0 1)).setReg (aRPT1 0 0) (RPT1.LIMIT.put 0 (RPT1.LIMIT.size - 1))
     s.homeServes x = true ∧ (s.rptCheck x).isSome = true ∧ (out (.homeRead 1) s).txns.map (·.stage) = [.denied]) := by decide +kernel

/-- AnswersArrive: data, poison, a denial and a timeout of a load, an old value, a reply; a line for each destination and an acknowledgement. -/
theorem witness_answers_arrive :
    (let s (st : Stage) (bad : List Nat) : State := { State.reset.modThr 0 0 fun th => { th with owed := [(2, 1)] } with
        txns := [access (.thread 0 0) home (.read (addrs home 2)) (.load 0 1 2 4) st [0xFE, 0xFF] bad] }
     let th (i : Instr) (s : State) : Word × List Nat := (((out i s).thr 0 0).readReg 2, ((out i s).thr 0 0).imprecise.map (·.vector))
     th (.accessResponse 1) (s .performed []) = (BitVec.ofInt 64 (-2), []) ∧ th (.accessResponse 1) (s .performed [home]) = (0, [0x0A]) ∧
       th (.accessResponse 1) (s .denied []) = (0, [0x03]) ∧ th (.requestTimeout 1) (s .sent []) = (0, [0x0B])) ∧
    (let s := { State.reset.modThr 0 0 fun th => { th with owed := [(2, 1)] } with
        txns := [access (.thread 0 0) home (.atomic .add 4 0 0 true) (.oldValue 0 1 2 4 true) .performed [0, 0, 0, 0x80]] }
     ((out (.accessResponse 1) s).thr 0 0).readReg 2 = 0xFFFF_FFFF_8000_0000) ∧
    (let s := { State.reset.modThr 0 0 fun th => { th with owed := [(2, 1)] } with sync := [op (.reply 0 1 2 5)] }
     ((out (.accessResponse 2) s).thr 0 0).readReg 2 = 5) ∧
    ([Purpose.fillInstr 0, .fetchOnce 0, .fillSide].all fun p =>
      let s := { ((State.reset.setFld (aCCTL 0) CCTL.IC_EN 1).setFld (aCCTL 0) CCTL.DC_EN 1).modThr 0 0 fun th => { th with st := .stalled, stall := .fetch } with
        txns := [access (if p = .fillSide then .cache 0 else .thread 0 0) 0x1000 (.read (addrs 0x1000 64)) p .performed (.replicate 64 3)] }
      let u := out (.lineFillArrival 1) s
      s.icOn 0 && decide (s.icDis 0 = 0 ∧ u.txns = []) && match p with
        | .fillInstr _ => decide ((u.core 0).icache.find 0 64 = some 0 ∧ (u.thr 0 0).st = .ready)
        | .fetchOnce _ => decide ((u.thr 0 0).fetched = [(64, .replicate 64 3)])
        | _ => decide ((u.core 0).side.map (·.tag) = [64])) ∧
    (let s := { State.reset.modThr 0 0 fun th => { th with st := .stalled, stall := .fence } with
        txns := [access (.thread 0 0) home (.write [(home, 7, false)]) (.stored 0 none) .performed] }
     ((out (.writePerformedAck 1) s).thr 0 0).st = .ready) ∧
    (let s := { State.reset.modThr 0 0 fun th => { th with owed := [(2, 1)], steps := [(1, 3, 0x40)] } with
        txns := [access (.thread 0 0) home (.read (addrs home 2)) (.load 0 1 2 1) .performed [1, 0]] }
     ((out (.accessResponse 1) s).thr 0 0).readReg 2 = 1 ∧ ((out (.accessResponse 1) s).thr 0 0).readA 3 = 0x40) := by decide +kernel

/-- Level-1 and level-2 entries that are valid, and a level-2 entry of a deep page. -/
def entries : List Word := [PTE1.V.put (PTE1.L2.put 0 3) 1, PTE2.V.put (PTE2.PPA.put 0 5) 1, PTE2.DEEP.put 0 1, 0]

/-- TranslationWalksAndInvalidation: each level's entries, and the commands that take translations out. -/
theorem witness_translation_walks :
    ([(1, 0), (2, 1), (2, 2), (2, 3)].all fun x =>
      let e := entries.getD x.2 0
      let s := { State.reset.modThr 0 0 fun th => { th with st := .stalled, stall := .walk } with
        txns := [access (.walker 0 0) home (.read (addrs home 8)) (.walk x.1 0x20_0000 false false 0) .performed (toBytes 8 e.toNat)] }
      let u := out (.pageWalkReadDone 1) s
      s.waitsOnWalk 0 0 1 && !(if x.1 = 1 then badEntry1 e else badEntry e) && match x.2 with
        | 0 => decide (u.txns.map (·.purpose) = [.walk 2 0x20_0000 false false 0])
        | 1 => decide ((u.thr 0 0).st = .ready ∧ tabGet none (u.core 0).tlb 1 = some e)
        | 2 => decide ((u.thr 0 0).stall = .pageIn 0x20_0000)
        | _ => decide ((u.thr 0 0).entry.map (·.vector) = some 2)) ∧
    (let s := cached 0
     let u := out (.trInvAll 0) s
     (u.core 0).tlb = [] ∧ (u.core 0).dcache.lines = [] ∧ u.fld (aTR_INV 0) TR_INV.BUSY = 1 ∧ u.txns.length = 1 ∧
       (let w := { s with txns := [access (.walker 0 0) home (.read (addrs home 8)) (.walk 2 5 false false 0)] }
        ((out (.trInvAll 0) w).txns.map (·.cancelled)).head? = some true ∧ ((out (.trInvOne 0 0) w).txns.map (·.cancelled)).head? = some true ∧
          ((out (.trInvOne 0 1) w).txns.map (·.cancelled)).head? = some false) ∧
       (out (.trInvOne 0 0) s).txns.length = 1 ∧ (out (.trInvOne 0 1) s).txns = [] ∧
       (out (.trInvComplete 0) (out (.trInvOne 0 1) s)).fld (aTR_INV 0) TR_INV.BUSY = 0 ∧ out (.trInvComplete 0) u = u) ∧
    (let s := { State.reset with dmaTlb := [(0, [(0, some 1), (2 ^ 27, some 1)])] }
     tabGet [] (out (.dmaTrinvAll 0 1) s).dmaTlb 0 = [(0, some 1)] ∧ tabGet [] (out (.dmaTrinvOne 0 0 0) s).dmaTlb 0 = [(2 ^ 27, some 1)]) := by decide +kernel

/-- CoreAndSliceUpkeep: instruction memory, caches and their ways, slices with and without a spare row left, and a locked core. -/
theorem witness_core_and_slice_upkeep :
    (let u := out (.imemDataWrite 0 .mgmt 8 7) (State.reset.setFld (aIMEM_PTR 0) IMEM_PTR.WORD 8191)
     (let f := { State.reset with imemFailed := [(0, 0)] }
      (out (.imemDataWrite 0 .mgmt 8 7) f |>.core 0).imemPoison = [0] ∧ ((0 : Nat) ∈ f.imemBad 0)) ∧
     tabGet 0 (u.core 0).imem 8191 = 7 ∧ u.fld (aIMEM_PTR 0) IMEM_PTR.WORD = 0 ∧
       (out (.imemDataWrite 0 .mgmt 4 7) State.reset).fld (aIMEM_STAT 0) IMEM_STAT.ERR = 1) ∧
    ((out (.cctlWrite 0 .mgmt (CCTL.DC_EN.put 0 1)) State.reset).dcOn 0 = true) ∧
    ([0, 1].all fun dis => !bit dis 3 && decide (3 ≤ ((List.range 4).filter fun w => !bit dis w).length)) ∧
    (let s := State.reset.setFld (aCWAY 0) CWAY.DC_WAYDIS 3
     s.dcDis 0 = 3 ∧ (out (.cacheWayDisable 0 false 3) s).dcDis 0 = 3 ∧ (out (.cacheWayDisable 0 false 3) s).fld (aCWAY 0) CWAY.RETIRE_REQ = 1) ∧
    ([40, 41].all fun used =>
      let s := State.reset.setFld (aSLICE_STAT 0 0) SLICE_STAT.SPARE_USED used
      let u := out (.sliceRepairGo 0 0 2047) s
      decide (s.fld (aSLICE_STAT 0 0) SLICE_STAT.SPARE_USED = used ∧ u.fld (aSLICE_STAT 0 0) SLICE_STAT.SWAP = 41 - used ∧
        (used = 40 → (out (.sliceRowCopyDone 0 0) u).fld (aSLICE_STAT 0 0) SLICE_STAT.SPARE_USED = 41))) ∧
    ((out (.sliceScrub 0 0 2047 0xFFFF [0, 255]) State.reset).poison.length = 2) ∧
    (let s := ({ State.reset with pins := { State.reset.pins with lockup := true } }.setFld (aBOOT_STAT 0) BOOT_STAT.PHASE 4).modCore 0
       fun q => { q with lock := 0x1_0000, tt := [(0, TTile.reset)] }
     s.ahnal = true ∧ (s.core 0).lock.toNat / 2 ^ 16 % 2 = 1 ∧ s.boundTo 0 = none) := by decide +kernel

/-- The first channel of die 0 belongs to the image and stands in a state at an instruction; page 0 lies on page 5 of the near tier. -/
def channel (st : Nat) (ws : Option (List Word)) : State :=
  { ((((bound (mapped 0 (State.reset.modThr 0 0 fun th => { th with tstatus := TSTATUS.PRIV.put 0 1 }))).setReg (aDMA_MAP 0) (DMA_MAP.COUNT.put 0 1)).setReg (aDMA_OWN 0) (DMA_OWN.V.put 0 1)).setFld (aDMA_STAT 0) DMA_STAT.STATE st) with
    dmas := [(0, { Dma.reset with fetched := ws })]
    dmaTlb := [(0, [(0, some (PTE2.PPA.put (PTE2.X.put (PTE2.W.put (PTE2.V.put 0 1) 1) 1) 5))])] }

/-- DmaCommandsAndFetches: START of an idle channel and of a running one, STOP, RESUME, the queue's base, and an instruction that comes well formed, ill
formed, poisoned and not at all. -/
theorem witness_dma_commands_and_fetches :
    ([(0, 1), (6, 1), (1, 1), (3, 3)].all fun x =>
      let s := channel x.1 none
      decide (s.dmaWindow 0 0 = some 0 ∧ s.boundTo 0 = some (0, 0)) && decide (s.dmaState 0 = x.1) &&
        decide ((out (.dmaStart 0 0 0 (DMA_CTRL.START.put 0 1)) s).dmaState 0 = x.2)) ∧
    ((out (.dmaStop 0 0 0 (DMA_CTRL.STOP.put 0 1)) (channel 1 none)).dmaState 0 = 4) ∧
    ((out (.dmaResume 0 0 0 (DMA_CTRL.RESUME.put 0 1)) (channel 4 none)).txns.map (·.purpose) = [.program]) ∧
    ((out (.dmaCqbaseWrite 0 0 0 (DMA_CQBASE.LOG2N.put 0 3)) (channel 5 none)).fld (aDMA_CQBASE 0) DMA_CQBASE.LOG2N = 3) ∧
    ([(8, 0, 1), (9, 0, 6), (8, 1, 6)].all fun x =>
      let s := { channel 1 none with txns := [access (.dma 0) (5 * 2 ^ 21) (.read (addrs (5 * 2 ^ 21) 32)) .program .performed
        (BitVec.ofNat 8 x.1 :: .replicate 31 0) (.replicate x.2.1 (5 * 2 ^ 21))] }
      decide ((out (.dmaFetch 1) s).dmaState 0 = x.2.2)) ∧
    (let s := { channel 1 none with txns := [access (.dma 0) (5 * 2 ^ 21) (.read (addrs (5 * 2 ^ 21) 32)) .program] }
     s.dmaLive 0 = true ∧ (out (.dmaTimeout 1) s).reg (aDMA_ERR 0) = 8) ∧
    (let s := (channel 0 none).modThr 0 1 id
     let u := out (.dmaStart 0 0 1 (DMA_CTRL.START.put 0 1)) s
     u.dmaState 0 = 0 ∧ (u.thr 0 1).entry.map (·.vector) = some 3) := by decide +kernel

/-- A MOVE of n bytes from `src` to 64, in units of 2. -/
def moves (n src : Nat) : List Word := [BitVec.ofNat 64 (1 + 1 * 2 ^ 12 + n * 2 ^ 32), BitVec.ofNat 64 src, 64, 0]

/-- DmaMoves: of nothing, of 65 units, misaligned; and a unit that comes and goes on. -/
theorem witness_dma_moves :
    ([(0, 2), (130, 2), (130, 1)].all fun x =>
      let s := channel 1 (some (moves x.1 x.2))
      let u := out (.move 0) s
      decide (s.dmaAt 0 1 = some (moves x.1 x.2)) && (s.dma 0).begun == false && decide (u.dmaState 0 = (if x.2 = 1 then 6 else 1)) &&
        decide (u.txns.length = if x.2 = 1 then 0 else if x.1 = 0 then 1 else 64)) ∧
    (let s := channel 1 none
     let m : Move := ⟨2, false, false, 2, 64, 65, 65, 63⟩
     let s := { s with dmas := [(0, { Dma.reset with begun := true, move := some m, fetched := some (moves 130 2) })],
                       txns := [access (.dma 0) 0xA0_0002 (.read (addrs 0xA0_0002 2)) (.unit 0 2 0) .performed [1, 2]] }
     s.dmaResolve 0 (m.writeAt 0) 2 true = .ok (0xA0_0000 + 64) false (some 0) ∧
       (out (.dmaReadResponse 1) s).txns.map (·.op) = [.write [(0xA0_0040, 1, false), (0xA0_0041, 2, false)]]) := by decide +kernel

/-- DmaControlFlow: each instruction, LOOP with count 0 and at depth 4, ENDLOOP at its last pass, waits for nothing and for one. -/
theorem witness_dma_control_flow :
    ([(2, 2 ^ 16, 0), (2, 2 ^ 16 + 2 ^ 32, 0), (6, 6, 0), (8, 8, 0)].all fun x =>
      let ws : List Word := [BitVec.ofNat 64 (x.1 % 2 ^ 8 + x.2.1 / 2 ^ 8 * 2 ^ 8), 0, 0, 0]
      decide ((channel 1 (some ws)).dmaAt 0 x.1 = some ws)) ∧
    ([0, 2].all fun n => let ws : List Word := [BitVec.ofNat 64 (2 + 2 ^ 16 + n * 2 ^ 32), 0, 0, 0]
      decide ((out (.dmaLoop 0) (channel 1 (some ws))).dmaPc 0 = if n = 0 then 96 else 32)) ∧
    (let ws : List Word := [BitVec.ofNat 64 (2 + 2 ^ 16), 0, 0, 0]
     (out (.dmaLoop 0) ((channel 1 (some ws)).setFld (aDMA_STAT 0) DMA_STAT.DEPTH 4)).reg (aDMA_ERR 0) = 6) ∧
    ([1, 2].all fun n =>
      let s := ((channel 1 (some [3, 0, 0, 0])).setFld (aDMA_STAT 0) DMA_STAT.DEPTH 1).setFld (aDMA_LC 0 0) DMA_LC.COUNT n
      decide (s.dmaDepth 0 = 1 ∧ (out (.endloop 0) s).dmaDepth 0 = n - 1)) ∧
    ([0, 1].all fun n =>
      let ws : List Word := [4, SC.WAIT_N.put 0 n, 0, 0]
      let s := channel 1 (some ws)
      decide (s.scObj (s.dmaStarter 0) (SC.WAIT_N.put 0 n) = some (.counter 0 0) ∧ (out (.dmaWait 0) s).dmaState 0 = n + 1)) ∧
    ((out (.dmaSignal 0) (channel 1 (some [5, SC.KIND.put 0 1, 0, 0]))).sync.map (·.kind) = [.arrive]) ∧
    ((out (.dmaSignal 0) (channel 1 (some [5, SC.SIG_N.put 0 9, 0, 0]))).sync.map (·.kind) = [.add 9]) ∧
    ([6, 8].all fun op =>
      let s := { channel 1 (some [BitVec.ofNat 64 op, 0, 0, 0]) with txns := [access (.dma 0) 0xA0_0000 (.write [(0xA0_0000, 0, false)]) (.unit 0 0 0)] }
      let u := out (if op = 6 then .fence 0 else .halt 0) s
      decide ((u.dma 0).begun = true ∧ u.dmaPc 0 = 0 ∧ u.dmaState 0 = 1)) ∧
    ((out (.dmaSignal 0) (channel 1 (some [5, SC.INDEX.put 0 9, 0, 0]))).reg (aDMA_ERR 0) = 7) ∧
    ((out (.halt 0) (channel 1 (some [8, 0, 0, 0]))).dmaState 0 = 5) := by decide +kernel

/-- DmaCompletion: a record with room and without, the head word asked for and taken over, the interrupt. -/
theorem witness_dma_completion :
    ([0, 2].all fun n =>
      let s := ((channel 1 (some [7, 0x77, 0, 0])).setFld (aDMA_CQBASE 0) DMA_CQBASE.LOG2N 1).setFld (aDMA_CQSEQ 0) DMA_CQSEQ.SEQ n
      let u := out (.complete 0) s
      decide (s.dmaAt 0 7 = some [7, 0x77, 0, 0] ∧ s.dmaResolve 0 0 32 true = .ok 0xA0_0000 false (some 0) ∧
        u.dmaState 0 = (if n = 0 then 1 else 2) ∧ u.fld (aDMA_CQSEQ 0) DMA_CQSEQ.SEQ = (if n = 0 then 1 else 2))) ∧
    (let s := ((channel 2 none).setFld (aDMA_CQBASE 0) DMA_CQBASE.LOG2N 1).setFld (aDMA_STAT 0) DMA_STAT.WHY 2
     s.dmaResolve 0 64 4 false = .ok 0xA0_0040 false (some 0) ∧ (out (.dmaCqHeadPoll 0) s).txns.map (·.purpose) = [.cqHead]) ∧
    ([0, 1].all fun n =>
      let s := { ((channel 2 (some [7, 0, 0, 0])).setFld (aDMA_CQBASE 0) DMA_CQBASE.LOG2N 1).setFld (aDMA_CQSEQ 0) DMA_CQSEQ.SEQ 2 with
        txns := [access (.dma 0) 0xA0_0040 (.read (addrs 0xA0_0040 4)) .cqHead .performed [BitVec.ofNat 8 n, 0, 0, 0]] }
      decide ((out (.dmaReadResponse 1) s).dmaState 0 = 2 - n)) ∧
    (let s := { channel 5 none with txns := [access (.dma 0) 0xA0_0000 (.write [(0xA0_0000, 0, false)]) (.record true 0) .performed] }
     (s.core 0).lock = 0 ∧ ((out (.dmaWriteAck 1) s).thr 0 0).ipend = 4) := by decide +kernel

/-- Controller 0 of the near tier is in service; the first access goes to its first unit. -/
def served (st : Stage) (op : MemOp := .read (addrs 0 4)) : State :=
  { State.reset.setFld (aTIER_STAT 0) NC_STAT.READY 1 with txns := [access (.thread 0 0) 0 op (.load 0 1 2 2) st] }

/-- TierRequestsAndCalibration: reads that end clean, corrected and uncorrectable, with an eye that has drifted by two steps, a write, attempts with one left and none; a postponed refresh, windows
with and without a call, bursts' ends, a retrain asked for, and a device at 85 and 86 degrees. -/
theorem witness_tier_requests_and_calibration :
    ([BurstCheck.clean, .corrected, .uncorrectable].all fun o =>
      let s := served .sent
      let s := s.setFld (aTIER_CTRL 0) NC_CTRL.TRACK_EN 1
      let u := out (.tierRequest 1 o 3 2 9) s
      decide (s.tierAt (homeOf s.ilv 0) = some 0 ∧ s.tierServes 0 = true ∧ s.txns.all (fun x => s.mayPerform x && (s.rptCheck x).isNone) = true ∧ s.bar2 = []) &&
        decide (u.txns.map (·.stage) = [.performed] ∧ (u.tier 0).lanes = [(3, (2, 1, 9))] ∧ u.fld (aTIER_STAT 0) NC_STAT.MARGIN = 9 ∧
          (u.tier 0).plist = if o = .uncorrectable then [0] else [])) ∧
    ((out (.tierRequest 1 .clean 0 0 9) (served .sent (.write [(0, 5, false)]))).mem = [(0, 5)]) ∧
    ([6, 7].all fun n => decide ((out (.tierAttemptFail 1 0) (served (.taken n))).txns.map (·.stage) = [if n = 6 then .taken 7 else .performed])) ∧
    (let t (f : Tier → Tier) : State := { State.reset with tiers := [(0, f Tier.reset)] }
     (((out (.tierRefresh (.near 0)) (t fun x => { x with burst := some .margin, postponed := 8 })).tier 0).postponed = 8 ∧
     ((out (.calibrationWindow (.near 0)) (t fun x => { x with burstTaken := true })).tier 0).burstTaken = false ∧
     ((out (.calibrationWindow (.near 0)) (t fun x => { x with calls := [.margin] })).tier 0).burst = some .margin ∧
     ((out (.calibrationBurstEnd (.near 0)) (t fun x => { x with burst := some .margin, burstTaken := true })).tier 0).burst = none ∧
     ((out (.calibrationBurstEnd (.near 0)) (t fun x => { x with burst := some .retrain, burstTaken := true, retrainLeft := 1 })).tier 0).retrainLeft = 0 ∧
     ((out (.ncReqFull (.near 0)) State.reset).tier 0).retrainLeft = 32)) ∧
    ([85, 86].all fun c => decide ((out (.deviceTemperatureChange (.middle 15) c) State.reset).fld (aTIER_STAT 83) NC_STAT.HOT = c - 85)) := by decide +kernel

/-- TierUpkeepAndSparing: the patrol's three ends, a repair with none and one left, a unit listed, a list that is full; a copy begun, its units, its failure, its end;
a channel without a spare; a hot package of a Guaranteed image. -/
theorem witness_tier_upkeep_and_sparing :
    (let s := (State.reset.setFld (aTIER_STAT 0) NC_STAT.READY 1).setFld (aTIER_CTRL 0) NC_CTRL.SCRUB_EN 1
     let s := s.setFld (aTIER_SCRUB 0) NC_SCRUB.POS (2 ^ 28 - 1)
     s.tierServes 0 = true ∧ s.tierWaiting 0 = false ∧ (out (.patrolScrub (.near 0) .clean) s).fld (aTIER_SCRUB 0) NC_SCRUB.POS = 0 ∧
       (out (.patrolScrub (.near 0) .corrected) s).fld (aTIER_ERR 0) NC_ERR.CE = 1 ∧ ((out (.patrolScrub (.near 0) .uncorrectable) s).tier 0).plist = [2 ^ 28 - 1]) ∧
    ([0, 1].all fun n =>
      let s := (State.reset.setFld (aTIER_STAT 0) NC_STAT.REPAIR_LEFT n).setFld (aTIER_CTRL 0) NC_CTRL.BURST_EN 1
      decide (s.flag (aTIER_CTRL 0) NC_CTRL.BURST_EN = true ∧ (out (.ncRepairGo (.near 0) 5) s).fld (aTIER_REPAIR 0) NC_REPAIR.FAIL = 1 - n ∧ (out (.ncRepairGo (.near 0) 5) s).fld (aTIER_REPAIR 0) NC_REPAIR.BUSY = n)) ∧
    (((out (.ncPlistAdd (.near 0) 5) State.reset).tier 0).plist = [5]) ∧
    firmwarePage (State.reset.pageOfUnit 0 5) = false ∧
    (State.reset.fld (aNS_SUBST 3) NS_SUBST.BUSY = 0 ∧ State.reset.fld (aNS_SUBST 3) NS_SUBST.ACTIVE = 0) ∧
    ([[], [0]].all fun l =>
      let s := { (State.reset.setFld (aNS_SUBST 0) NS_SUBST.BUSY 1).setFld (aTIER_STAT 0) NC_STAT.READY 1 with tiers := [(0, { Tier.reset with plist := l })] }
      decide (s.tierServes 0 = true ∧ s.tierWaiting 0 = false ∧ (out (.spareCopyUnit 0 true) s).fld (aNS_SUBST 0) NS_SUBST.COPIED = 1 ∧
        ((out (.spareCopyUnit 0 true) s).tier 64).plist = l ∧ (out (.spareCopyUnit 0 false) s).fld (aNS_SUBST 0) NS_SUBST.BUSY = 0)) ∧
    (let s := State.reset.setFld (aNS_SUBST 0) NS_SUBST.COPIED (2 ^ 28)
     s.fld (aNS_SUBST 0) NS_SUBST.COPIED = 2 ^ 28 ∧ ((out (.nsSubstSwitch 0) s).tier 0).burst = some .spareSwitch) ∧
    (let s := (bound State.reset).setFld (aTIER_STAT 68) NC_STAT.HOT 1
     let s := s.setImage 0 (some { image with floor := 1, regions := [⟨0, 1, 0, 0, 0, 0, 0, [], 0⟩] })
     ((out (.middleHot 0) s).image 0).map (·.breach) = some true) := by decide +kernel

/-- A poison list that is full and does not hold the unit. -/
theorem witness_full_list : let s : State := { State.reset with tiers := [(0, { Tier.reset with plist := .replicate 2048 6 })] }
    2048 ≤ (s.tier 0).plist.length ∧ 5 ∉ (s.tier 0).plist := by
  show 2048 ≤ (List.replicate 2048 6).length ∧ 5 ∉ List.replicate 2048 6
  exact ⟨by rw [List.length_replicate], fun h => absurd (List.eq_of_mem_replicate h) (by decide)⟩

/-- An image with a near-tier region of one page, page 5, that its tables at 0x40_0000 do not hold yet; core 0's thread 0 waits on it. -/
def waitsOnPage : State :=
  let s := State.reset.modThr 0 0 fun th => { th with st := .stalled, stall := .pageIn 8 }
  let s := s.setImage 0 (some { image with regions := [⟨0, 0, 0, 0, 0, 0x20_0000, 0, [5], 1⟩], ptUsed := [(0, 0x40_0000)] })
  { s with deep := { s.deep with pageIns := [⟨0, 0, [.thread 0 0]⟩] } }

/-- DeepTierPagesAndFlash: a page reported first and again, a page brought in, and the flash operations' ends. -/
theorem witness_deep_tier :
    (let s := waitsOnPage
     s.boundTo 0 = some (0, 0) ∧ (out (.pageInReport (.thread 0 0)) { s with deep := Deep.reset }).deep.pageIns = [⟨0, 0, [.thread 0 0]⟩] ∧
       (out (.pageInReport (.thread 0 0)) { s with deep := { s.deep with pageIns := [⟨0, 0, []⟩] } }).deep.pageIns = [⟨0, 0, [.thread 0 0]⟩]) ∧
    (let s := waitsOnPage
     let im := (s.image 0).getD image
     s.warned = false ∧ im.regionOf 0 = some (⟨0, 0, 0, 0, 0, 0x20_0000, 0, [5], 1⟩, 0) ∧ im.pteAddr 0 = some 0x40_0000 ∧ PTE2.V.get (s.pte im 0) = 0 ∧
       (s.thr 0 0).stall = .pageIn 8 ∧ firmwarePage 5 = false ∧ ((out (.pageInDone 0 0) s).thr 0 0).st = .ready ∧
       (out (.pageInDone 0 0) s).load 0x40_0000 8 = 5 * 2 ^ 21 + 3) ∧
    (let s := { waitsOnPage with deep := { Deep.reset with ops := [(3, [.pageIn 0 0])] } }
     let u := out (.flashOpComplete 3 true 5 [0, 15]) s
     s.flashOps 3 = [.pageIn 0 0] ∧ s.deep.closed.contains 3 = false ∧ u.flashOps 3 = [] ∧ u.fld (aFC_STAT 3) FC_STAT.UE = 2 ∧ u.fld (aFC_STAT 3) FC_STAT.RETRY = 5 ∧
       u.deep.unread = [(0, [48, 63])]) ∧
    (let s := { waitsOnPage with mem := [(9 * 2 ^ 21 + 4, 7)], deep := { Deep.reset with ops := [(3, [.pageOut 0 0])], frames := [(0, 0, 9)], pageOuts := [(0, 0)] } }
     s.frameOf 0 0 = some 9 ∧ firmwarePage 9 = false ∧ s.invBusy ((s.image 0).getD image) = false ∧ (out (.flashOpComplete 3 true 0 []) s).frameOf 0 0 = none ∧
       (FlashOp.pageOut 0 0).reads = false ∧ (out (.flashOpComplete 3 false 0 []) s).frameOf 0 0 = some 9 ∧ (out (.flashOpComplete 3 true 0 []) s).deep.pages = [(0, [(4, 7)])]) ∧
    (let s := { State.reset with deep := { Deep.reset with ops := [(3, [.save 1])], objects := [⟨1, none, some ([7], [])⟩] } }
     (out (.flashOpComplete 3 true 0 []) s).deep.objects = [⟨1, some [7], none⟩]) ∧
    ([2, 127].all fun n => decide ((out (.flashSparesLow 0 n) State.reset).fld (aFC_STAT 0) FC_STAT.SPARE_PCT = n)) ∧
    ((out (.flashSparesLow 0 0) State.reset).deep.readOnly = true) := by decide +kernel

/-- What a run of listed values from a key reads as. -/
theorem get_zip {α : Type} (d : α) (bs : List α) (k a : Nat) (h : k ≤ a) : tabGet d ((List.range' k bs.length).zip bs) a = bs.getD (a - k) d := by
  induction bs generalizing k with
  | nil => simp [tabGet, tabFind]
  | cons b bs ih =>
    rw [List.length_cons, List.range'_succ, List.zip_cons_cons]
    rcases Nat.eq_or_lt_of_le h with rfl | hlt
    · simp [tabGet, tabFind]
    · have e : a - k = (a - (k + 1)) + 1 := by omega
      have hi := ih (k + 1) hlt
      rw [e, List.getD_cons_succ, ← hi]
      simp [tabGet, tabFind, Nat.ne_of_lt hlt]

/-- An image with one deep region of 2,048 pages, none of them pinned. -/
def deepImage : Image := { image with regions := [⟨0, 2, 0, 0, 0, 2 ^ 32, 0, [], 1⟩], ptUsed := [(0, 0x40_0000)] }

/-- Every near-tier page belongs to the image. -/
def allOwned : Tab Nat := (List.range' 0 (List.replicate (2 ^ 19) 16).length).zip (List.replicate (2 ^ 19) 16)

theorem allOwned_get (g : Nat) (h : g < 2 ^ 19) : tabGet 0 allOwned g = 16 := by
  rw [allOwned, get_zip 0 _ 0 g (Nat.zero_le g), Nat.sub_zero, List.getD_eq_getElem _ _ (by rwa [List.length_replicate]), List.getElem_replicate]

/-- Every frame of the reserve holds a deep page, and one more page is wanted; the owners are those given. -/
def fullWith (o : Tab Nat) : State :=
  { State.reset.setImage 0 (some deepImage) with
    owner := o
    deep := { Deep.reset with pageIns := [⟨0, 1024, []⟩], frames := (0, 0, 0x7FC00) :: (List.range 1023).map fun i => (0, i + 1, 0x7FC01 + i) } }

theorem full_page (o : Tab Nat) (ho : ∀ g, g < 2 ^ 19 → tabGet 0 o g = 16) (g : Nat) (h : g < 2 ^ 19) : (fullWith o).freePage g = false := by
  have e : (fullWith o).ownerOf g ≠ 0 := by
    unfold State.ownerOf
    split
    · split <;> decide
    · show tabGet 0 o g ≠ 0
      rw [ho g h]
      decide
  simp [State.freePage, e]

theorem full_near (o : Tab Nat) (ho : ∀ g, g < 2 ^ 19 → tabGet 0 o g = 16) (d : Nat) (hd : d < 4) :
    ((List.range diePages).find? fun p => (fullWith o).freePage (d * diePages + p)) = none := by
  rw [List.find?_eq_none]
  intro p hp
  have hb : d * diePages + p < 2 ^ 19 := by
    have h := List.mem_range.1 hp
    unfold diePages at h ⊢
    omega
  rw [full_page o ho _ hb]
  decide

theorem full_held (o : Tab Nat) : frameReserve.find? (fun g => !((fullWith o).deep.frames.any fun f => f.2.2 == g)) = none := by
  rw [List.find?_eq_none]
  intro g hg
  have hf : (fullWith o).deep.frames = (0, 0, 0x7FC00) :: (List.range 1023).map fun i => (0, i + 1, 0x7FC01 + i) := rfl
  obtain ⟨i, hi, rfl⟩ := List.mem_map.1 hg
  have hi := List.mem_range.1 hi
  rw [hf, Bool.not_eq_true, Bool.not_eq_false', List.any_eq_true]
  rcases i with _ | i
  · exact ⟨_, List.mem_cons_self, beq_iff_eq.2 (Nat.add_zero _).symm⟩
  · refine ⟨(0, i + 1, 0x7FC01 + i), List.mem_cons_of_mem _ (List.mem_map.2 ⟨i, List.mem_range.2 (by omega), rfl⟩), beq_iff_eq.2 ?_⟩
    dsimp only
    omega

theorem no_frame (s : State) (hn : ∀ d, d < 4 → ((List.range diePages).find? fun p => s.freePage (d * diePages + p)) = none)
    (hh : frameReserve.find? (fun g => !(s.deep.frames.any fun f => f.2.2 == g)) = none) : s.takeFrame 0 = none := by
  have hz : ∀ d ∈ [0, 0, 1, 2, 3], ((List.range diePages).find? fun p => s.freePage (d * diePages + p)).map (d * diePages + ·) = none := by
    intro d hd
    rw [hn d (by simp only [List.mem_cons, List.not_mem_nil, or_false] at hd; omega), Option.map_none]
  unfold State.takeFrame
  dsimp only
  rw [List.filterMap_eq_nil_iff.2 hz, List.head?_nil, Option.none_or]
  exact hh

theorem wants_frame (s : State) (e : PageIn) (h1 : s.leaving e.slot e.vpn = false) (h2 : s.takeFrame e.die = none)
    (h3 : ((s.image e.slot).bind (·.regionOf e.vpn)).any (·.1.tier == 2) = true) : s.wantsFrame e = true := by
  unfold State.wantsFrame
  rw [h1, h2, h3]
  rfl

/-- DeepTierPagesAndFlash: with no frame left the page held longest goes out. -/
theorem witness_page_goes_out (o : Tab Nat) (ho : ∀ g, g < 2 ^ 19 → tabGet 0 o g = 16) : let s := fullWith o
    s.deep.frames.head? = some (0, 0, 0x7FC00) ∧ s.deep.pageOuts = [] ∧ (∃ e ∈ s.deep.pageIns, s.wantsFrame e = true) ∧ s.warned = false ∧
    s.deep.readOnly = false ∧ s.image 0 = some deepImage ∧ deepImage.regionOf 0 = some (⟨0, 2, 0, 0, 0, 2 ^ 32, 0, [], 1⟩, 0) ∧
    deepImage.pteAddr 0 = some 0x40_0000 := by
  have hw : (fullWith o).warned = false := show (State.reset.setImage 0 (some deepImage)).warned = false by decide +kernel
  have hi : (fullWith o).image 0 = some deepImage := show (State.reset.setImage 0 (some deepImage)).image 0 = some deepImage by decide +kernel
  refine ⟨rfl, rfl, ⟨⟨0, 1024, []⟩, List.mem_cons_self, ?_⟩, hw, rfl, hi, by decide +kernel, by decide +kernel⟩
  exact wants_frame _ _ rfl (no_frame _ (full_near o ho) (full_held o)) ((congrArg (fun x => (x.bind (·.regionOf 1024)).any (·.1.tier == 2)) hi).trans (by decide +kernel))

/-- Such owners exist. -/
theorem witness_no_frame_left : ∃ s : State, ∃ e ∈ s.deep.pageIns, s.wantsFrame e = true :=
  ⟨fullWith allOwned, (witness_page_goes_out allOwned allOwned_get).2.2.1⟩

/-- A packet: opcode, handle, and parameters by offset and size (R457). -/
def packet (op handle : Nat) (args : List (Nat × Nat × Nat)) : List Byte :=
  args.foldl (fun p x => putField p (0x20 + x.1) x.2.1 x.2.2) (toBytes 2 op ++ [0, 0] ++ toBytes 4 7 ++ toBytes 4 handle ++ zeros 52)

/-- Port 0 is up; its pair 0 is enabled with rings of two slots. -/
def hearing (s : State) : State :=
  (((s.modPort 0 fun q => { q with up := true }).setReg (aCR_CTRL 0 0) (CR_CTRL.LOG2N.put (CR_CTRL.EN.put 0 1) 1)).setReg (aCC_CTRL 0 0)
    (CC_CTRL.LOG2N.put (CC_CTRL.EN.put 0 1) 1)).setReg (aCC_BASE 0 0) (CR_BASE.ADDR.put 0 5)

/-- A command that waits for Ahnal. -/
def claim (pk : List Byte) (s : State) : State := { hearing s with claimed := [⟨1, 0, 0, 0, pk, false, false⟩] }

/-- A command that waits for Ahnal on the RUNNING image. -/
def asks (op : Nat) (args : List (Nat × Nat × Nat)) (f : Image → Image := id) : State :=
  claim (packet op 16 args) (State.reset.setImage 0 (some (f image)))

/-- Status and detail of the replies written, oldest first. -/
def replies (s : State) : List (Nat × Nat) :=
  (s.port 0).out.reverse.filterMap fun t => match t with
    | .write a bs _ => if a / 4096 = 5 then some (field bs 6 1, field bs 14 2) else none
    | _ => none

/-- HostRingsAndRegisterWrites: doorbells at a ring's size and past it, on a ring that is off; bases and controls of rings that are off and on; writes by each
kind of source. -/
theorem witness_host_rings_and_register_writes :
    ([(2, 0), (3, 5)].all fun x => decide ((out (.dbCr 0 0 (BitVec.ofNat 16 x.1)) (hearing State.reset)).fld (aCR_STAT 0 0) CR_STAT.STATE = x.2)) ∧
    ((out (.dbCr 0 0 9) State.reset).fld (aCR_STAT 0 0) CR_STAT.TAIL = 9) ∧
    ((hearing State.reset).pairOn 0 0 = true ∧ State.reset.fld (aCR_CTRL 1 7) CR_CTRL.EN = 0 ∧ ((hearing State.reset).ring 0 0).ahead = []) ∧
    ((out (.crBaseWrite 0 0 (CR_BASE.ADDR.put 0 9)) State.reset).fld (aCR_BASE 0 0) CR_BASE.ADDR = 9 ∧ out (.crBaseWrite 0 0 9) (hearing State.reset) = hearing State.reset) ∧
    ([1, 12].all fun n => decide ((out (.crCtrlWrite 0 0 (CR_CTRL.LOG2N.put (CR_CTRL.EN.put 0 1) n)) State.reset).fld (aCR_STAT 0 0) CR_STAT.STATE = 1)) ∧
    ((out (.crCtrlWrite 0 0 0) (hearing State.reset)).fld (aCR_CTRL 0 0) CR_CTRL.EN = 0) ∧
    ([1, 12].all fun n => decide ((out (.ccCtrlWrite 0 0 (CC_CTRL.LOG2N.put (CC_CTRL.EN.put 0 1) n)) State.reset).fld (aCC_CTRL 0 0) CC_CTRL.EN = 1)) ∧
    (State.reset.rptDenies (aALERT_EN 0) 0 true = false ∧ State.reset.rptDenies (aRPT0 0 63) 0 true = false ∧ ctrlPopulated 0 = false ∧
      (out (.registerWrite .mgmt (aALERT_EN 0) 1 false) (State.reset.setReg (aALERT_SRC 0) 1)).pins.alert = true) ∧
    ((out (.registerWrite (.host 0) (aERR_CTRL 0) 1 false) State.reset).reg (aERR_CTRL 0) = fieldsWrite ERR_CTRL 0 1 ∧
      ((out (.registerWrite (.core 0 0) (coreBlk 1) 1 false) State.reset).thr 0 0).entry.isSome = true) ∧
    ((out (.rptLockWrite 1) State.reset).flag (aRPT_LOCK 0) RPT_LOCK.LOCK = true) := by decide +kernel

/-- Claims.RegistersWritten: who writes what, with 8 bytes and 4; a denied write, WAYLIM, the configuration space and D3hot. -/
theorem witness_registers_written :
    ([true, false].all fun four =>
      let s := State.reset
      let bs := if four then toBytes 4 5 else toBytes 8 5
      let d3 := (out (.d3hotEntry 0) (hearing s))
      decide (ctrlPopulated (aGOV_SET 0) = true ∧ s.rptDenies (aGOV_SET 0) 3 true = false ∧ isCway (aGOV_SET 0) = false ∧
        bar0 0 ≤ aCR_BASE 0 0 ∧ aCR_BASE 0 0 < bar0 0 + 0x1_0000 ∧ bs.length ≤ 8 ∧
        (out (.registerWrite .mgmt (aGOV_SET 0 + 4) 5 true) s).fld (aGOV_SET 0) GOV_SET.FLOOR = 0 ∧
        (out (.registerWrite .mgmt (aCWAY 0) (CWAY.WAYLIM.put 0 3) four) s).fld (aCWAY 0) CWAY.WAYLIM = 3 ∧
        ((out (.registerWrite (.config 0) 0 33 four) s).port 0).bar2Log2 = 33 ∧ (out (.registerWrite (.config 0) 0 41 four) s).ports = s.ports ∧
        (d3.port 0).d3 = true ∧ out (.registerWrite (.host 0) (aCR_BASE 0 0) 64 four) d3 = d3 ∧ out (.dbCr 0 0 1) d3 = d3 ∧
        (out (.registerWrite (.dma 0) 8 1 four) s).regs ≠ s.regs)) := by decide +kernel

/-- A ring whose head packet has reached its claim. -/
def atHead (pk : List Byte) (s : State) : State := (hearing s).modRing 0 0 fun q => { q with ahead := [(0, pk)], toClaim := true, reserved := 1 }

/-- PacketsReadAndClaimed: a packet that is taken and one of no command; claims, a claim that is late, IDENTIFY. -/
theorem witness_packets_read_and_claimed :
    ([0x0002, 0x00FF].all fun op =>
      let pk := packet op 0 []
      let s := (hearing State.reset).setFld (aCR_STAT 0 0) CR_STAT.TAIL 1
      let u := out (.packetFetch 0 0 (.data pk)) s
      s.slotsFree 0 0 2 && decide (field pk 2 1 = 0) && decide (s.packetCheck 0 0 pk = if op = 2 then .inl pk else .inr (0x22, 1)) &&
        decide ((u.ring 0 0).toClaim = (op == 2) ∧ replies u = if op = 2 then [] else [(0x22, 1)])) ∧
    (let pk := packet 0x0002 0 []
     let s := (atHead pk State.reset).setFld (aBOOT_STAT 0) BOOT_STAT.PHASE 4
     (pkSpec pk).map (·.sm) = some false ∧ s.serves pk = true ∧ (out (.fwClaim 0 0) s).claimed.map (·.packet) = [pk] ∧
       replies (out (.fwClaimTimeout 0 0) s) = [(0x3F, 0x000B)]) ∧
    (let s := atHead (packet 0x0001 0 [(0, 8, 0x8000)]) State.reset
     replies (out (.identify 0 0) s) = [(0, 0)] ∧ .write 0x8000 (s.identity 0) false ∈ ((out (.identify 0 0) s).port 0).out) := by decide +kernel

/-- PortsAndLinks: a port that is up and one that is down, with PERST released; PORT_RESET as a command. -/
theorem witness_ports_and_links :
    (let s := hearing State.reset
     (s.port 0).up = true ∧ ((out (.linkDown 0) s).port 0).up = false ∧ (out (.linkDown 0) s).fld (aCR_CTRL 0 0) CR_CTRL.EN = 0 ∧
       (out (.linkDown 0) s).fld (aERR_LINK 0) ERR_LINK.DOWN = 1) ∧
    (let s := (out (.perstDeassert 1) State.reset).setFld (aBOOT_STAT 0) BOOT_STAT.PHASE 3
     (s.port 1).perst = false ∧ s.power = .on ∧ ((out (.linkUp 1 8 6) s).port 1).up = true ∧ (out (.linkUp 1 8 6) s).fld (aPORT_STAT 1) PORT_STAT.LANES = 8) ∧
    (let s := atHead (packet 0x0003 0 []) State.reset
     replies (out (.portReset 0 (some 0)) s) = [(0, 0)] ∧ (out (.portReset 0 (some 0)) s).fld (aCR_CTRL 0 0) CR_CTRL.EN = 0) ∧
    (((out (.d3hotEntry 0) (hearing State.reset)).port 0).d3 = true) := by decide +kernel

/-- The port's image owns the first near page, whose controller is in service or not. -/
def owning (ready : Nat) : State := ((((hearing State.reset).setImage 0 (some image)).setFld (aBAR2_BASE 0) BAR2_BASE.BASE 0).setOwner 0 16).setFld (aTIER_STAT 0) NC_STAT.READY ready

/-- HostAccesses: the owner's memory and another's, AtomicOps; a controller not in service, D3hot; and what a host answers. -/
theorem witness_host_accesses :
    (let s := owning 1
     ((s.bar2Run 0 0 8).all (s.bar2Ok 0 true) = true ∧ (s.bar2Run 0 0x20_0000 8).all (s.bar2Ok 0 true) = false ∧ s.bar2Waits 0 (.read 0 8) s.bar2 = false) ∧
       (out (.bar2Write 0 8 [1, 2] false) s).mem = [(8, 1), (9, 2)] ∧ (out (.bar2Atomicop 0 8 .add 1 5 0) s).mem = [(8, 5)] ∧
       .completion (zeros 8) false ∈ ((out (.bar2Read 0 0 8) s).port 0).out ∧
       .abort ∈ ((out (.bar2Read 0 0x20_0000 8) s).port 0).out ∧ (out (.bar2Write 0 0x20_0000 [1] false) s).mem = []) ∧
    (let s := owning 0
     ([.read 0 8, .write 8 [1] false, .atomic 8 .add 1 5 0].all fun o => s.bar2Waits 0 o s.bar2) = true ∧
       (out (.bar2Write 0 8 [1] false) s).bar2 = [(0, .write 8 [1] false)] ∧ (out (.bar2Write 0 8 [1] false) s).mem = []) ∧
    (let s := (owning 1).modPort 0 fun q => { q with d3 := true }
     .unsupported ∈ ((out (.bar2Read 0 0 8) s).port 0).out ∧ ((out (.bar2Write 0 8 [1] false) s).port 0).out = [] ∧ (out (.bar2Write 0 8 [1] false) s).mem = []) ∧
    (let x := access (.thread 0 0) 0x2000_0000_0000 (.read (addrs 0x2000_0000_0000 2)) (.load 0 1 2 1)
     let s := { hearing State.reset with txns := [{ x with stage := .taken 0 }] }
     let off := s.modPort 0 fun q => { q with ctoOff := true }
     (s.asked 1).map (·.1) = some 0 ∧ (out (.hostWindowCompletion 1 (.data [1, 2])) s).txns.map (·.result) = [[1, 2]] ∧
       (out (.hostCompletionTimeout 1) s).fld (aERR_HOST 0) ERR_HOST.CTO = 1 ∧ (s.port 0).ctoOff = false ∧ (off.asked 1).map (·.1) = some 0 ∧
       (out (.hostCompletionTimeout 1) off).fld (aERR_HOST 0) ERR_HOST.CTO = 0) := by decide +kernel

/-- CommandsAnswered: each command and each way it is answered. -/
theorem witness_commands_answered :
    (replies (out (.queryResources 1) (claim (packet 2 0 [(0, 8, 64)]) State.reset)) = [(0, 0)]) ∧
    (let s := asks 0x0016 [(0, 8, 64)]; s.byHandle 16 = some (0, image) ∧ replies (out (.status 1) s) = [(0, 0)]) ∧
    ([some 0, some 1, none].all fun o => decide (replies (out (.release 1) (asks 0x0014 [] fun im => { im with owner := o })) = [if o = some 0 then (0, 0) else (0x21, 0)])) ∧
    (replies (out (.adopt 1) (asks 0x0015 [] fun im => { im with owner := none })) = [(0, 0)] ∧
      replies (out (.adopt 1) ((asks 0x0015 [] fun im => { im with owner := some 1 }).modPort 1 fun q => { q with up := true })) = [(0x21, 9)]) ∧
    ([true, false].all fun up => let s := (claim (packet 0x0051 0 []) State.reset).modPort 1 fun q => { q with up := up }
      decide (s.mgmt.steward = 0 ∧ replies (out (.stewardHandoff 1) s) = [if up then (0, 0) else (0x10, 9)])) ∧
    (let s := { claim (packet 0x0051 0 [(0, 1, 1)]) State.reset with mgmt := { Mgmt.reset with steward := 1 } }
     replies (out (.stewardHandoff 1) (s.modPort 1 fun q => { q with up := true })) = [(0x10, 9)]) ∧
    ([0, 1, 2].all fun n => let s := claim (packet 0x0050 0 [(0, 1, n)]) State.reset
      decide (s.pstate = 0 ∧ (out (.powerState 1) s).pstate = if n = 0 then 0 else 3)) ∧
    (replies (out (.spareStatusReport 1) (claim (packet 0x0060 0 []) State.reset)) = [(0, 0)] ∧
      (out (.spareStatusScan 1) (claim (packet 0x0060 0 [(0, 1, 1)]) State.reset)).claimed.map (·.begun) = [true]) ∧
    ([(0, 8, (0, 0)), (2 ^ 33 - 8, 8, (0, 0)), (2 ^ 33, 8, (0x22, 7))].all fun (x : Nat × Nat × Nat × Nat) =>
      decide (replies (out (.dumpRead 1) (claim (packet 0x0061 0 [(0, 8, x.1), (8, 8, x.2.1)]) State.reset)) = [x.2.2])) := by decide +kernel

/-- A LOAD_IMAGE that has been read. -/
def loaded (bs : List Byte) : State := { claim (packet 0x0010 0 [(8, 8, 272), (0x10, 8, 0x8000)]) State.reset with loading := some (1, bs) }

/-- The state in which an image is judged. -/
def judging (bs : List Byte) : State := { loaded bs with loading := none }

/-- An image with no region and no channel, whose barrier units are free, passes check 7 and takes nothing. -/
theorem takes_nothing (s : State) (bs : List Byte) (h2 : recordsAs bs 2 = []) (h3 : recordsAs bs 3 = [])
    (h4 : (freeRun s.unitFree 64 (syncAsk bs 4 1)).isNone = false) : s.checkCapacity bs = .ok ⟨[], [], [], []⟩ := by
  simp [State.checkCapacity, State.takeTier, h2, h3, h4, pure, Except.pure, bind, Except.bind]

/-- Where active core 0 is unbound, a one-core image without PLACE is first tried there. -/
theorem first_candidate (s : State) (bs : List Byte) (n : Nat) (hk : hdrK bs = 1) (hp : placeOrder bs = []) (hb : s.bound 0 = false)
    (hg : gradeCores s.grade = n + 1) : s.candidate bs 0 = .ok [0] := by
  obtain ⟨l, hl⟩ : ∃ l, s.unbound = 0 :: l := by
    rw [State.unbound, hg, List.range_succ_eq_map, List.filter_cons]
    simp only [hb, Bool.not_false, if_true]
    exact ⟨_, rfl⟩
  have hr : List.range 1 = [0] := rfl
  simp [State.candidate, hk, hp, hl, hr, tabFind, assign, tabIns, tabGet, pure, Except.pure, bind, Except.bind]

/-- The search of an image without PLACE ends at its first candidate where that passes. -/
theorem first_found (s : State) (bs : List Byte) (t : Taking) (bind : List Nat) (hs : recordsAs bs 1 = [])
    (hc : s.candidate bs 0 = .ok bind) (hf : s.checkFrom8 bs (s.imageOn bs bind t.regions) none t.near = none) :
    s.search bs t = .ok (s.imageOn bs bind t.regions) := by
  simp [State.search, hs, hc, hf]

/-- An image that passes every check is admitted. -/
theorem judged (s : State) (bs : List Byte) (t : Taking) (im : Image) (hform : firstOf [checkForm bs, s.checkPower bs, s.checkFormat bs, s.checkLoaded bs,
    checkGraph bs, s.checkDeep bs] = none) (hcap : s.checkCapacity bs = .ok t) (hs : s.search bs t = .ok im) : s.judgeImage bs = .ok (im, t) := by
  unfold State.judgeImage
  rw [hform, hcap]
  dsimp only [bind, Except.bind]
  rw [hs]
  rfl

/-- The smallest image is admitted, on core 0. -/
theorem blob_judged : ∃ im t, (judging blob).judgeImage blob = .ok (im, t) ∧ im.bindPhys = [0] := by
  have hf : (judging blob).checkFrom8 blob ((judging blob).imageOn blob [0] []) none [] = none := by
    have hfree : ptCount blob ≤ ((nearPages (dieOfCore (((judging blob).imageOn blob [0] []).bindPhys.headD 0))).filter fun g =>
        (judging blob).freePage g && !([] : List Nat).contains g && !(judging blob).ilv.contains g).length := by
      have hp : ptCount blob = 1 := by decide +kernel
      have hd : dieOfCore (((judging blob).imageOn blob [0] []).bindPhys.headD 0) = 0 := by decide +kernel
      have h0 : (judging blob).freePage 0 && !([] : List Nat).contains 0 && !(judging blob).ilv.contains 0 = true := by decide +kernel
      rw [hp, hd]
      apply List.length_pos_of_mem (a := 0)
      rw [List.mem_filter]
      refine ⟨?_, h0⟩
      rw [nearPages, List.mem_map]
      exact ⟨0, by rw [List.mem_range]; decide, rfl⟩
    unfold State.checkFrom8 State.checkPlace
    dsimp only
    rw [if_pos (Or.inr hfree)]
    decide +kernel
  have hform : firstOf [checkForm blob, (judging blob).checkPower blob, (judging blob).checkFormat blob, (judging blob).checkLoaded blob, checkGraph blob,
      (judging blob).checkDeep blob] = none := by decide +kernel
  have hcap := takes_nothing (judging blob) blob (by decide +kernel) (by decide +kernel) (by decide +kernel)
  have hcand := first_candidate (judging blob) blob 1023 (by decide +kernel) (by decide +kernel) (by decide +kernel) (by decide +kernel)
  have hfound := first_found (judging blob) blob ⟨[], [], [], []⟩ [0] (by decide +kernel) hcand hf
  exact ⟨_, _, judged _ _ _ _ hform hcap hfound, by decide +kernel⟩

/-- ImagesLoadedAndUnloaded: an image of its length and one short of it; an image admitted in slot 0 (blob_judged) and one with a wrong number at its start; UNLOAD of a
LOADED image and of a RUNNING one. -/
theorem witness_images_loaded_and_unloaded :
    (let s := claim (packet 0x0010 0 [(8, 8, 272)]) State.reset
     (s.cmdReady 1 0x0010).isSome ∧ s.loading = none ∧ s.nextLoad.map (·.id) = some 1 ∧ (out (.loadImage 1 (.data blob)) s).loading = some (1, blob) ∧
       replies (out (.loadImage 1 (.data (blob.take 271))) s) = [(0x22, 8)]) ∧
    ((loaded blob).loading = some (1, blob) ∧ ((loaded blob).claim? 1).isSome ∧ (loaded blob).image 0 = none) ∧
    (let bad := putField blob 0 1 0
     (match (judging bad).judgeImage bad with | .ok _ => false | .error e => decide (e.check = 1)) = true ∧
       replies (out .admission (loaded bad)) = [(0x22, 0x0101)]) ∧
    (let s := asks 0x0013 [] fun im => { im with state := .loaded }
     s.byHandle 16 = some (0, { image with state := .loaded }) ∧ (s.cmdReady 1 0x0013).isSome) ∧
    (replies (out (.unload 1) (asks 0x0013 [])) = [(0x10, 6)]) := by decide +kernel

/-- No entry of the channel directory is valid at reset. -/
theorem no_channels (s : State) (slot : Nat) (h : s.regs = []) : s.imageChannels slot = [] := by
  rw [State.imageChannels, List.filter_eq_nil_iff]
  intro e he
  rw [List.mem_range] at he
  have hs : specAt (aDIR0 e) = some DIR0 := by
    have h1 : ctrlBase ≤ aDIR0 e := by simp only [aDIR0, dirEntry]; omega
    have h2 : aDIR0 e - ctrlBase = 0x0C00_0000 + e * 0x10 := by simp only [aDIR0, dirEntry]; omega
    have h3 : (0x0C00_0000 + e * 0x10) % 16 = 0 := by omega
    unfold specAt
    rw [if_neg (by omega)]
    dsimp only
    rw [h2]
    repeat rw [if_neg (by omega)]
    rw [if_pos (by omega), if_pos h3]
  have hr : s.reg (aDIR0 e) = 0 := by
    simp only [State.reg, h, tabFind, resetAt, hs]
    decide
  simp [State.flag, State.fld, hr]
  intro hf
  exact absurd hf (by decide)

/-- The image of slot 0, changed. -/
def held (f : Image → Image := id) : State := State.reset.setImage 0 (some (f image))

/-- The probe of a RUNNING image finds what the activity count showed before, and another count. -/
def probed (n : Nat) : Image := { image with probe := some [n] }

/-- Images that no core, channel, message or command stirs. -/
theorem quiet_images : (held).imageQuiet 0 image = true ∧ (held fun _ => probed 0).imageQuiet 0 (probed 0) = true ∧
    (held fun _ => probed 1).imageQuiet 0 (probed 1) = true := by
  unfold State.imageQuiet
  rw [no_channels _ _ rfl, no_channels _ _ rfl, no_channels _ _ rfl]
  decide +kernel

/-- InvocationsRun: START of a LOADED image and of one that is not; need counts met; a floor not met, with and without a command; STOP in each state; an
end; a breach; a probe that finds the image quiet (quiet_images), and one that finds it stirred. -/
theorem witness_invocations_run :
    (let s := asks 0x0011 [] fun im => { im with state := .loaded, floor := 500, invocations := 0 }
     let u := out (.start 1) s
     (s.cmdReady 1 0x0011).isSome ∧ s.byHandle 16 = some (0, { image with state := .loaded, floor := 500, invocations := 0 }) ∧ (s.core 0).lock = 0 ∧
       s.mgmt.pendingSub = [] ∧ (u.image 0).map (·.state) = some .starting ∧ u.fld (aGOV_SET 0) GOV_SET.FLOOR = 500) ∧
    (replies (out (.start 1) (asks 0x0011 [])) = [(0x10, 6)]) ∧
    (let im : Image := { image with state := .starting, floor := 5, bytes := blob }
     let s := held fun _ => im
     (im.rails.all fun r => decide (r < 76 ∧ needCount (s.fld (aGOV_SET r) GOV_SET.FLOOR) ≤ s.fld (aGOV_STAT r) GOV_STAT.PACE)) ∧ im.rails ≠ [] ∧
       (startRec im.bytes 0).isSome) ∧
    (let im : Image := { image with state := .starting, floor := 5, bytes := blob, regions := [⟨0, 0, 0, 0, 0, 0x20_0000, 0, [5], 1⟩] }
     let s := (held fun _ => im).setFld (aCLKD_STAT 0) CLKD_STAT.COAST 1
     s.flag (aCLKD_STAT 0) CLKD_STAT.COAST = true ∧ im.onDomain s.ilv 0 = true ∧ s.floorsMet im = true) ∧
    (let im : Image := { image with state := .starting, windows := 64 }
     (held fun _ => im).floorsMet im = true ∧ out (.startFloorTimeout 0) (held fun _ => im) = held fun _ => im) ∧
    ([(64, none), (65, some 1)].all fun (x : Nat × Option Nat) =>
      decide (((out (.startFloorTimeout 0) ((asks 0x0011 [] fun im => { im with state := .starting, floor := 500, windows := x.1, startCmd := x.2 }).setFld (aGOV_SET 0) GOV_SET.FLOOR 500)).image 0).map (·.lastStatus) =
        some 0x13)) ∧
    (replies (out (.stop 1) (asks 0x0012 [] fun im => { im with state := .loaded })) = [(0, 6)] ∧
      replies (out (.stop 1) (asks 0x0012 [] fun im => { im with state := .starting })) = [(0, 0)]) ∧
    ([ImgState.running, .stopping].all fun st => let u := out (.stop 1) (asks 0x0012 [] fun im => { im with state := st })
      decide ((u.image 0).map (fun im => (im.state, im.stopCmds)) = some (.stopping, [1]))) ∧
    (let s := (held fun im => { im with state := .stopping }).modCore 0 fun q => { q with partEnd := some none }
     s.ended 0 { image with state := .stopping } = true) ∧
    (let s := (held fun im => { im with floor := 5, owner := none }).setFld (aGOV_STAT 0) GOV_STAT.BREACH 1
     ({ image with floor := 5 } : Image).rails = [0, 72] ∧ ((out (.guaranteeBreach 0) s).image 0).map (·.breach) = some true) ∧
    ((held).fld (aCORE_ACT 0) CORE_ACT.ACT = 0) := by decide +kernel

/-- Two pages of the image's memory, the first at page 2 and the second at page 1, by a table at page 3. -/
def paged : Image := { image with ptUsed := [(0, 0x60_0000)] }
def backed : State := { State.reset with mem := [(0x60_0000, 3), (0x60_0002, 0x40), (0x60_0008, 3), (0x60_000A, 0x20)] }

/-- A command on the paged image. -/
def orders (op : Nat) (args : List (Nat × Nat × Nat)) (f : State → State := id) : State :=
  { hearing (f (backed.setImage 0 (some paged))) with claimed := [⟨1, 0, 0, 0, packet op 16 args, false, false⟩] }

/-- Where the bytes from a virtual address stand. -/
def lands (s : State) (va n : Nat) (write : Bool) (pas : List Nat) : Bool :=
  decide (pas.Nodup ∧ pas.length = n) && (List.range n).all fun i => decide (s.cmdXlat paged (va + i) write = pas[i]?) &&
    (pas[i]?).any fun a => !s.rptDenies a 0 write && !s.badByte a

def four : List Nat := [0x5F_FFFE, 0x5F_FFFF, 0x20_0000, 0x20_0001]

/-- CommandsOnMemory: four bytes over the boundary of two pages that do not follow one another; two bytes before the end of what is mapped; an object with and
without a current version, on a deep tier that is read-only and one that is not. -/
theorem witness_commands_on_memory :
    (let s := orders 0x0020 [(8, 8, 0x1F_FFFE), (0x10, 8, 4), (0x18, 1, 1)]
     lands s 0x1F_FFFE 4 true four ∧ s.byHandle 16 = some (0, paged) ∧ (s.cmdReady 1 0x0020).isSome ∧
       four.map (memByte (out (.memCopy 1 (.data [5, 6, 7, 8])) s).mem) = [5, 6, 7, 8] ∧ replies (out (.memCopy 1 (.data [5, 6, 7, 8])) s) = [(0, 0)]) ∧
    (let s := orders 0x0020 [(0, 8, 0x1F_FFFE), (8, 8, 0x9000), (0x10, 8, 4), (0x18, 1, 2)]
     lands s 0x1F_FFFE 4 false four ∧ .write 0x9000 [0, 0, 0, 0] false ∈ ((out (.memCopy 1 .unsupported) s).port 0).out) ∧
    (let s := orders 0x0020 [(0, 8, 0), (8, 8, 0x10), (0x10, 8, 2)] fun s => { s with mem := (0x40_0001, 9) :: s.mem }
     lands s 0 2 false [0x40_0000, 0x40_0001] ∧ lands s 0x10 2 true [0x40_0010, 0x40_0011] ∧ memByte (out (.memCopy 1 .unsupported) s).mem 0x40_0011 = 9) ∧
    (let s := orders 0x0020 [(8, 8, 0x3F_FFFE), (0x10, 8, 4), (0x18, 1, 1)]
     lands s 0x3F_FFFE 2 true [0x3F_FFFE, 0x3F_FFFF] ∧ s.cmdXlat paged 0x40_0000 true = none ∧ s.notPresent paged 0x40_0000 = false ∧
       replies (out (.memCopy 1 (.data [5, 6, 7, 8])) s) = [(0x22, 7)]) ∧
    (let s := orders 0x0021 [(0, 8, 0x1F_FFFE), (8, 8, 4), (0x10, 8, 0x0807_0605)]
     lands s 0x1F_FFFE 4 true four ∧ four.map (memByte (out (.memFill 1) s).mem) = [5, 6, 7, 8]) ∧
    (let s := orders 0x0022 [(0, 4, 9), (8, 8, 0x1F_FFFE), (0x10, 8, 4)]
     lands s 0x1F_FFFE 4 false four ∧ s.deep.readOnly = false ∧ 4 ≤ s.deepFree ∧ s.warned = false ∧ (s.object 9).any (·.writing.isSome) = false ∧
       ((out (.persistSave 1) s).object 9).bind (·.writing) = some ([0, 0, 0, 0], [])) ∧
    (replies (out (.persistSave 1) (orders 0x0022 [(0, 4, 9), (0x10, 8, 4)] fun s => s.modDeep fun d => { d with readOnly := true })) = [(0x10, 0)]) ∧
    (let s := orders 0x0022 [(0, 4, 9), (4, 1, 1), (8, 8, 0x1F_FFFE), (0x10, 8, 4)] fun s => s.modDeep fun d => { d with objects := [⟨9, some [5, 6, 7, 8, 9], none⟩] }
     lands s 0x1F_FFFE 4 true four ∧ four.map (memByte (out (.persistRestore 1) s).mem) = [5, 6, 7, 8]) ∧
    (let s := orders 0x0022 [(0, 4, 9), (4, 1, 2)] fun s => s.modDeep fun d => { d with objects := [⟨9, some [5], none⟩, ⟨8, none, none⟩] }
     (out (.persistDelete 1) s).deep.objects.map (·.obj) = [8] ∧ replies (out (.persistDelete 1) s) = [(0, 0)]) := by decide +kernel

/-- A message to core 0 and the answer of an access of its thread 0 stand before its core port; the port has given g grants, and the image has quota left or not. -/
def arriving (port : RPort) (g left : Nat) : State :=
  let im : Image := { image with quotas := [(portKey port, 2)], attach := [(0, 1)] }
  { (bound State.reset).setImage 0 (some im) with
    msgs := [⟨1, message, 0, 7, 0, none, 0⟩]
    txns := [access (.thread 0 0) 0 (.read (addrs 0 4)) (.load 0 1 2 2) .performed]
    arbs := [(portKey port, { Arb.fresh with grants := g, quota := if left = 0 then [(0, 0)] else [] })] }

/-- PortGrants: at a core port a message of an image with quota goes before reserved data, and that before the rest; a flit that is not on a route there does not wait
there; the rest where no quota is left; frames with a grant left, with none, and their ends, at ordinary and attachment ports. -/
theorem witness_port_grants :
    (let port : RPort := .router 0 16
     let rest : Flit := ⟨3, .other, none, none, none⟩
     let data : Flit := ⟨7, .reserved, some 0, none, some 1⟩
     let msg : Flit := ⟨9, .message, some 0, some 1, none⟩
     let stray : Flit := ⟨2, .message, some 0, some 8, none⟩
     let s := arriving port 63 1
     let given (fs : List Flit) (s : State) : Option Nat := ((out (.portGrant port fs) s).arb (portKey port)).granted
     [rest, data, msg].all (s.routed (portKey port)) = true ∧ s.routed (portKey port) stray = false ∧ (s.netMsg 1).bind (·.router) = none ∧
       given [stray, rest, data, msg] s = some 9 ∧ given [stray, rest, data] s = some 7 ∧ given [rest, data, msg] (arriving port 0 0) = some 3 ∧
       out (.portGrant port [rest]) (arriving port 64 1) = arriving port 64 1 ∧ out (.portGrant port [stray]) s = s) ∧
    ([(RPort.router 0 16, 64), (.router 0 5, 256)].all fun x =>
       let p := portKey x.1
       let u := out (if x.2 = 64 then .quotaFrameEnd x.1 else .attachmentFrameEnd x.1) (arriving x.1 x.2 0)
       decide ((u.arb p).grants = 0 ∧ u.quotaLeft p 0 = if x.2 = 64 then 2 else 1)) := by decide +kernel

/-- A package of a version 1 image with a body of 1,024 erased bytes, signed by the key of the first test vector of RFC 8032 (section 7.1); the
digest is SHA-512 of the body. -/
def fwPub : List Byte := toBytes 32 0x1a5107f7681a02af2523a6daf372e10e3a0764c9d3fe4bd5b70ab18201985ad7
def fwDigest : List Byte := toBytes 64
  0x41a68c653efe6f13f0061f6655550dc95be04387b327204f1e6ba9884988bc7299af0c9a1b9750d20fba952a53d4866f66e2a83418c33e698657fd781aaddfb8
def fwSig : List Byte := toBytes 64
  0x89d7af791c6603da6c4370633d4e78f3c8af48bc6104a480bc714ff745b914200a6f94084394e47f5fd0263b6a71e8b790f2b6c13c06d364189179c5425cfc9
def fwHead : List Byte :=
  (toBytes 4 0x4148_4E4C ++ toBytes 12 1 ++ toBytes 16 1024 ++ fwPub ++ fwDigest ++ fwSig ++ zeros 320)
def fwBody : List Byte := List.replicate 1024 0xFF

/-- Key slot 0 holds that key. -/
def trusting (s : State) : State :=
  { s.setFld (aKEY_STAT 0) KEY_STAT.PROGRAMMED 1 with mgmt := { s.mgmt with keyDigests := [Config.sha512 fwPub] } }

/-- What FIPS 180-4 and RFC 8032 give for the package: the model leaves both functions open (log 8). -/
def genuine : Prop := Config.sha512 fwBody = fwDigest ∧ Config.ed25519Valid fwPub ((fwHead ++ fwBody).take 0x80) fwSig = true

/-- An image verifies where its header is well formed, its body hashes to its digest, and a slot in use holds its key's digest and the signature holds. -/
theorem verifies (s : State) (img body pub sig msg : List Byte) (k : Nat)
    (h1 : ¬(field (img.take 512) 0 4 ≠ 0x4148_4E4C ∨ field (img.take 512) 4 2 ≠ 1 ∨ !fwZeros (img.take 512)))
    (h2 : ¬(fwMaxLen < fwLen (img.take 512) ∨ field (img.take 512) 0x14 4 % 8 ≠ 0 ∨ fwLen (img.take 512) ≤ field (img.take 512) 0x14 4 ∨
      fwLen (img.take 512) < fwProt (img.take 512) + 1024 ∨ fwLen (img.take 512) < fwClk (img.take 512) + 672))
    (e0 : fwSlot (img.take 512) = k) (e1 : (img.drop 512).take (fwLen (img.take 512)) = body) (e2 : ((img.take 512).drop 0x20).take 32 = pub)
    (e3 : ((img.take 512).drop 0x80).take 64 = sig) (e4 : (img.take 512).take 0x80 = msg) (e6 : body.length = fwLen (img.take 512))
    (hs : Config.sha512 body = ((img.take 512).drop 0x40).take 64) (hv : Config.ed25519Valid pub msg sig = true)
    (hk : bit (s.fld (aKEY_STAT 0) KEY_STAT.PROGRAMMED) k = true) (hr : bit (s.fld (aKEY_STAT 0) KEY_STAT.REVOKED) k = false)
    (hd : s.mgmt.keyDigests[k]? = some (Config.sha512 pub)) (hb : s.fld (aRB_CTR 0) RB_CTR.VALUE = 0) (h9 : ¬0xB0 < field (img.take 512) 0x0C 1) :
    s.fwReason img = 0 := by
  unfold State.fwReason
  dsimp only
  rw [if_neg h1, if_neg h2, e0, e1, e2, e3, e4, if_neg (by simp [e6, hs]), if_neg (by simp [hk, hd]), if_neg (by simp [hr]), if_neg (by simp [hv]),
    if_neg (by simp [hb]), if_neg (by simp), if_neg h9]

/-- The package verifies where key slot 0 is programmed, not revoked and holds its key's digest, and nothing of later version is asked. -/
theorem good_package (s : State) (h : genuine) (hk : bit (s.fld (aKEY_STAT 0) KEY_STAT.PROGRAMMED) 0 = true) (hr : bit (s.fld (aKEY_STAT 0) KEY_STAT.REVOKED) 0 = false)
    (hd : s.mgmt.keyDigests[0]? = some (Config.sha512 fwPub)) (hv : s.fld (aRB_CTR 0) RB_CTR.VALUE = 0) : s.fwReason (fwHead ++ fwBody) = 0 := by
  have e5 : (((fwHead ++ fwBody).take 512).drop 0x40).take 64 = fwDigest := by decide +kernel
  exact verifies s (fwHead ++ fwBody) fwBody fwPub fwSig ((fwHead ++ fwBody).take 0x80) 0 (by decide +kernel) (by decide +kernel) (by decide +kernel) (by decide +kernel) (by decide +kernel)
    (by decide +kernel) (by decide +kernel) (by decide +kernel) (e5 ▸ h.1) h.2 hk hr hd hv (by decide +kernel)

/-- The state that trusts the key, with the package in bank 0. -/
def unflashed (bs : List Byte) : State := { State.reset with mgmt := { Mgmt.reset with flash := (List.range 512).zip bs } }
def flashedWith (bs : List Byte) : State := trusting (unflashed bs)
def flashed : State := flashedWith fwHead

theorem trusting_digest (s : State) : (trusting s).mgmt.keyDigests[0]? = some (Config.sha512 fwPub) := rfl

theorem bank_good (s : State) (h : genuine) (e : s.bankImage 0 = fwHead ++ fwBody) (hk : bit (s.fld (aKEY_STAT 0) KEY_STAT.PROGRAMMED) 0 = true)
    (hr : bit (s.fld (aKEY_STAT 0) KEY_STAT.REVOKED) 0 = false) (hd : s.mgmt.keyDigests[0]? = some (Config.sha512 fwPub))
    (hv : s.fld (aRB_CTR 0) RB_CTR.VALUE = 0) : s.fwReason (s.bankImage 0) = 0 := by
  rw [e]
  exact good_package s h hk hr hd hv

theorem unflashed_byte (n : Nat) (bs : List Byte) (hl : bs.length = n) (a : Nat) : tabGet 0xFF ((List.range n).zip bs) a = bs.getD a 0xFF := by
  have h := get_zip 0xFF bs 0 a (Nat.zero_le a)
  rwa [hl, Nat.sub_zero, ← List.range_eq_range'] at h

theorem flashed_flash (bs : List Byte) : (flashedWith bs).mgmt.flash = (List.range 512).zip bs := by
  simp only [flashedWith, trusting, unflashed]

theorem flash_bytes (s : State) (a n : Nat) (bs : List Byte) (hl : bs.length = n) (h : ∀ i (hi : i < bs.length), s.flashByte (a + i) = bs[i]) :
    s.flashBytes a n = bs := by
  unfold State.flashBytes
  subst hl
  refine List.ext_getElem (by rw [List.length_map, List.length_range]) fun i h1 h2 => ?_
  rw [List.getElem_map, List.getElem_range, h i h2]

theorem flashed_bank (bs : List Byte) (hl : bs.length = 512) (hm : field bs 0 4 = 0x4148_4E4C) (hn : min (fwLen bs) fwMaxLen = 1024) :
    (flashedWith bs).bankImage 0 = bs ++ fwBody := by
  have hf (a : Nat) : (flashedWith bs).flashByte a = bs.getD a 0xFF := by
    rw [State.flashByte, flashed_flash, unflashed_byte _ _ hl]
  have h0 : bankBase 0 = 0 := by decide
  have hh : (flashedWith bs).flashBytes (bankBase 0) 512 = bs := flash_bytes _ _ _ _ hl fun i hi => by
    rw [hf, h0, Nat.zero_add, List.getD_eq_getElem _ _ hi]
  have hb : (flashedWith bs).flashBytes (bankBase 0 + 512) 1024 = fwBody := flash_bytes _ _ _ _ List.length_replicate fun i hi => by
    rw [hf, h0, Nat.zero_add, List.getD_eq_default _ _ (by rw [hl]; exact Nat.le_add_right _ _)]
    exact (List.getElem_replicate _).symm
  unfold State.bankImage
  dsimp only
  rw [hh, if_pos hm, hn, hb]

theorem flashed_image : flashed.bankImage 0 = fwHead ++ fwBody :=
  flashed_bank fwHead (by decide +kernel) (by decide +kernel) (by decide +kernel)

/-- Bank 0 holds the package. -/
theorem bank_holds (h : genuine) : flashed.fwReason (flashed.bankImage 0) = 0 :=
  bank_good flashed h flashed_image (by decide +kernel) (by decide +kernel) (trusting_digest (unflashed fwHead)) (by decide +kernel)

/-- BootRuns: a module whose bank 0 verifies (bank_holds) and one whose banks are erased; Ahnal that has been started; a confirmed image and an armed watchdog. -/
theorem witness_boot_runs :
    (flashed.power = .on ∧ flashed.warned = false ∧ flashed.mgmt.booted = none ∧ flashed.fld (aBOOT_STAT 0) BOOT_STAT.PHASE = 0 ∧ flashed.bootRecOr = ⟨0, 0, 0xFF, 0, 0⟩) ∧
    (let s := State.reset
     s.bootRecOr = ⟨0, 0, 0xFF, 0, 0⟩ ∧ [0, 1].all fun b => decide (s.fwReason (s.bankImage b) = 1)) ∧
    (let s := State.reset.setFld (aBOOT_STAT 0) BOOT_STAT.PHASE 3
     s.power = .on ∧ s.mgmt.wearTimer = false ∧ s.warned = false ∧ out (.pwrGoodBoot []) s = s) ∧
    (let s := { State.reset.setFld (aBOOT_STAT 0) BOOT_STAT.PHASE 4 with mgmt := { Mgmt.reset with wdogArmed := true, booted := some 0 } }
     (out .bootConfirm s).mgmt.wdogArmed = false ∧ (out .bootWatchdogExpiry s).fld (aBOOT_STAT 0) BOOT_STAT.WDOG = 1 ∧
       s.ahnal = true ∧ s.flag (aMGMT_ROLE 0) MGMT_ROLE.STANDBY_UP = false ∧ s.activeMc = 0 ∧ s.fld (aBOOT_STAT 1) BOOT_STAT.PHASE = 0 ∧
       (out (.standbyBoot true) s).fld (aBOOT_STAT 1) BOOT_STAT.PHASE = 0xF) := by decide +kernel

/-- CommandsOnTheModule: GET_VERSION in a host's buffer and a buffer of another length; a package of zeros; the package of good_package. -/
theorem witness_commands_on_the_module :
    (let s := claim (packet 0x0030 0 [(8, 4, 4), (0x10, 8, 0x9000), (0x18, 4, 8)]) State.reset
     (s.cmdReady 1 0x0030).isSome ∧ replies (out (.attest 1 (.data [0x10, 0x84, 0, 0])) s) = [(0, 0)] ∧
       .write 0x9000 [0x10, 0x04, 0, 0, 0, 1, 0x00, 0x13] false ∈ ((out (.attest 1 (.data [0x10, 0x84, 0, 0])) s).port 0).out ∧
       replies (out (.attest 1 (.data [0x10])) s) = [(0x22, 8)]) ∧
    (let s := claim (packet 0x0031 0 [(8, 8, 512)]) State.reset
     (s.cmdReady 1 0x0031).isSome ∧ s.warned = false ∧ s.fwReason (zeros 512) = 1 ∧ replies (out (.fwUpdate 1 (.data (zeros 512)) true) s) = [(0x22, 2)]) ∧
    (let s := (claim (packet 0x0031 0 [(8, 8, 1536)]) (trusting State.reset)).setFld (aBOOT_STAT 0) BOOT_STAT.PHASE 4
     (s.cmdReady 1 0x0031).isSome ∧ s.warned = false ∧ (fwHead ++ fwBody).length = 1536 ∧ s.fld (aBOOT_STAT 0) BOOT_STAT.PHASE = 4 ∧
       bit (s.fld (aKEY_STAT 0) KEY_STAT.PROGRAMMED) 0 = true ∧ bit (s.fld (aKEY_STAT 0) KEY_STAT.REVOKED) 0 = false ∧ s.fld (aRB_CTR 0) RB_CTR.VALUE = 0) := by
  decide +kernel

/-- A thread of core 0 that is halted. -/
def halted (s : State) : State := s.modThr 0 0 fun th => { th with st := .halted }

/-- DebugCommands: threads that run and none that does; a register of a halted thread and of one that runs, read and written; a counter and a phase. -/
theorem witness_debug_commands :
    (let s := (asks 0x0040 [(2, 1, 1)]).modThr 0 0 fun th => { th with st := .running }
     s.byHandle 16 = some (0, image) ∧ (s.thr 0 0).live = true ∧ (s.thr 0 1).live = false ∧ ((out (.debugHalt 1) s).thr 0 0).haltReq = true) ∧
    ((asks 0x0040 [(2, 1, 2)]).claimed.length = 1 ∧ (out (.debugHalt 1) (asks 0x0040 [(2, 1, 2)])).claimed = []) ∧
    (replies (out (.debugHalt 1) (asks 0x0040 [(2, 1, 1)] fun im => { im with state := .loaded })) = [(0x22, 6)]) ∧
    ([0, 1].all fun step => decide (((out (.debugResume 1) (halted (asks 0x0041 [(2, 1, 1), (3, 1, step)]))).thr 0 0).st = .ready)) ∧
    ([0, 0x3F].all fun n =>
      let rd := asks 0x0042 [(8, 8, 0x1000 + n), (0x10, 8, 8), (0x18, 8, 0x9000)]
      let wr := asks 0x0043 [(8, 8, 0x1000 + n), (0x10, 8, 8)]
      decide (replies (out (.debugRead 1) (halted rd)) = [(0, 0)] ∧ replies (out (.debugRead 1) rd) = [(0x22, 6)] ∧
        replies (out (.debugWrite 1 (.data (toBytes 8 77))) (halted wr)) = [(0, 0)] ∧
        ((out (.debugWrite 1 (.data (toBytes 8 77))) (halted wr)).thr 0 0).readReg n = (if n = 0x3F then (BitVec.ofNat 64 77) else 77) ∧
        replies (out (.debugWrite 1 .unsupported) wr) = [(0x22, 6)])) ∧
    ([15, 0].all fun d =>
      let s := { bound (claim (packet 0x0044 16 [(8, 8, 9), (0x11, 1, d)]) State.reset) with parked := [] }
      decide (s.descObj 0 image 0 = some (.counter 0 0) ∧ replies (out (.debugSyncSet 1) s) = [(0, 0)] ∧ (out (.debugSyncSet 1) s).counter 0 0 = 9)) ∧
    (let desc := SC.KIND.put 0 1
     let s := bound (claim (packet 0x0044 16 [(0, 8, desc.toNat), (8, 8, 5), (0x10, 1, 2)]) State.reset)
     s.descObj 0 image desc = some (.barrier 0) ∧ (out (.debugSyncSet 1) s).fld (aBU1 0) BU1.PHASE = 5) := by decide +kernel

/-- DebugPaths: a halt taken and one not ready; with PWR_GOOD and without; accesses of a TAP that are aligned and populated, misaligned and unpopulated; an
answered one, and a second before it is. -/
theorem witness_debug_paths :
    (let s := State.reset.modThr 0 0 fun th => { th with st := .running, haltReq := true }
     s.haltReady 0 0 = true ∧ (s.thr 0 0).phase = none ∧ ((out (.debugHaltTaken 0 0) s).thr 0 0).st = .halted ∧ State.reset.haltReady 0 0 = false) ∧
    ((out (.dbgCtrlHalt 0 1) (State.reset.modThr 0 0 fun th => { th with st := .running })).thr 0 0).haltReq = true ∧
    ([true, false].all fun good => let s : State := { State.reset with pins := { State.reset.pins with pwrGood := good } }
      decide (((out (.bypass 3) s).mgmt.taps[(3 : Fin 4)]).ir = if good then 0xFF else (s.mgmt.taps[(3 : Fin 4)]).ir)) ∧
    ([(8, true), (0x3_FFFF_FFFF, false), (0xFFFF_FFFF_FFF8, false)].all fun (x : Nat × Bool) =>
      decide ((x.1 % 8 = 0 ∧ State.reset.populated x.1 = true) ↔ x.2 = true) &&
        [true, false].all fun w => decide ((out (.jtagDbgAccess (BitVec.ofNat 48 x.1) w 5) State.reset).mgmt.jtag.isSome = x.2)) ∧
    (let s := out (.jtagDbgAccess 8 false 5) State.reset
     out (.jtagDbgAccess 16 false 5) s = s) ∧
    (let t : Txn := access .debug 8 (.read (addrs 8 8)) .jtag .performed [7, 0, 0, 0, 0, 0, 0, 0]
     let s := { State.reset with txns := [t], mgmt := { Mgmt.reset with jtag := some (t.id, false) } }
     t.answered = true ∧ (out .jtagAccessDone s).mgmt.jtagData = 7) := by decide +kernel

/-- The power of a module, otherwise as at reset. -/
def powered (p : Power) (pwrEn thermtrip : Bool := false) : State :=
  { State.reset with power := p, pins := { State.reset.pins with pwrEn := pwrEn, thermtrip := thermtrip } }

/-- SupplyAndPower: the input's levels at each bound, and each state of main power. -/
theorem witness_supply_and_main_power :
    ((powered .on).warned = false ∧ (out (.supplyWarning 5730) (powered .on)).warned = true ∧
      (out (.supplyWarningClear 5820) ((powered .on).setFld aSUPPLY_STAT SUPPLY_STAT.WARN 1)).warned = false) ∧
    ([Instr.undervoltageReset [], .overvoltageReset [1]].all fun i => decide ((out i (powered .on)).power = .lastGasp ∧ (out i (powered .cooling)).power = .aux)) ∧
    ((out .auxPowerStart (powered .off)).power = .aux ∧ (out .auxPowerLoss (powered .on)).power = .off) ∧
    ([(false, false, Power.qualified), (true, true, .cooling), (true, false, .on)].all fun (x : Bool × Bool × Power) =>
      [Power.aux, .lastGasp].all fun p => decide ((out .restartQualified (powered p x.1 x.2.1)).power = x.2.2)) ∧
    ((out .pwrEnRise (powered .qualified)).power = .on ∧ (out .pwrEnFall (powered .on)).power = .qualified ∧ (out .pwrEnFall (powered .tripped)).power = .qualified ∧
      (out .tripCooldown (powered .cooling)).power = .on) ∧
    ((920 : Int) ≤ (920 : BitVec 16).toInt ∧ (out (.thermalTrip 3 79 920) (powered .on)).power = .tripped ∧ (919 : BitVec 16).toInt < 920) := by decide +kernel

/-- The governor runs, with a floor of 0.500 GHz on rail 0. -/
def governed : State := (State.reset.setReg aGOV_CTRL (GOV_CTRL.EN.put 0 1)).setFld (aGOV_SET 0) GOV_SET.FLOOR 500

/-- PaceGoverned: a rail with room and one at its highest code, a governor that is off; a window's count is the lowest of the rail's replicas. -/
theorem witness_pace_governed :
    governed.flag aGOV_CTRL GOV_CTRL.EN = true ∧ governed.pstate = 0 ∧ governed.power = .on ∧ governed.warned = false ∧
      governed.fld (aGOV_STAT 0) GOV_STAT.RAIL = 30 ∧ governed.flag (aGOV_STAT 0) GOV_STAT.HOT = false ∧
      (governed.setFld (aGOV_STAT 0) GOV_STAT.RAIL 60).fld (aGOV_STAT 0) GOV_STAT.RAIL = 60 ∧ State.reset.flag aGOV_CTRL GOV_CTRL.EN = false := by decide +kernel
theorem test_need_count : needCount 500 = 5274 := by decide +kernel
theorem test_power_not_limited : governed.powerLimited = false := by decide +kernel
theorem test_lowest_count : governed.lowestCount [9, 8] 0 = 0 := by decide +kernel

/-- PaceGoverned: an FMC idle and busy. -/
theorem witness_counters_run :
    (let r := aFMC_RESULT 0
     let s := State.reset.setReg r (FMC_RESULT.BUSY.put 0 1)
     State.reset.flag r FMC_RESULT.BUSY = false ∧ (out (.fmcDone 0 9) s).fld r FMC_RESULT.COUNT = 9 ∧ (out (.fmcStart 0) State.reset).flag r FMC_RESULT.BUSY = true) := by decide +kernel

/-- PowerStatesChange: each request from Summer, and one already under way reached. -/
theorem witness_power_states_change :
    ([(Instr.pwrReqSummer, 0), (.pwrReqAutumn, 3), (.pwrReqWinter, 3)].all fun x => decide (State.reset.pstate = 0 ∧ (out x.1 State.reset).pstate = x.2)) ∧
    ([0, 1, 2].all fun target =>
      let s := { State.reset.setReg aPWR_STATE (PWR_STATE.STATE.put 0 3) with mgmt := { Mgmt.reset with powerTarget := some (target + 4 * 1) } }
      decide (s.pstate = 3 ∧ (out .powerStateReached s).pstate = target ∧ (out .powerStateReached s).fld (aGOV_SET 71) GOV_SET.GATE = if target = 2 then 0 else target)) := by
  decide +kernel

/-- ClocksChange: entries that are valid and not; a sequence up and one down at both steps, with and without a held write; a switch; a loop's lock and its
source's loss; the watchdog of a domain that is busy and one that is not. -/
theorem witness_clocks_change :
    (let opp (n k freq : Nat) (s : State) : State := ((s.setFld (aCLKD_OPP n k) CLKD_OPP.VALID 1).setFld (aCLKD_OPP n k) CLKD_OPP.FREQ freq).setFld (aCLKD_OPP n k) CLKD_OPP.VOLT (k + 1)
     let s := opp 13 2 5 (opp 13 7 900 (opp 13 0 100 State.reset))
     let st (u : State) (f : Field) : Nat := u.fld (aCLKD_STAT 13) f
     let busy (rising second : Bool) (held : Option Nat) : State := { s.setFld (aCLKD_STAT 13) CLKD_STAT.SEQ_BUSY 1 with
       clk := s.clk.set 13 { ClkSeq.reset with target := some 7, rising := rising, second := second, held := held } }
     let step (s : State) : State := out (.clkdSeqStepDone 13) s
     (s.flag (aCLKD_OPP 13 1) CLKD_OPP.VALID = false ∧ ((out (.clkdOppWrite 13 7) s).clk[(13 : Fin 14)]).rising = true ∧
       ((out (.clkdOppWrite 13 2) s).clk[(13 : Fin 14)]).rising = false ∧ ((out (.clkdOppWrite 13 2) (busy true false none)).clk[(13 : Fin 14)]).held = some 2) ∧
     ((step (busy true false none)).clk[(13 : Fin 14)]).supply = 8 ∧ st (step (busy true true none)) CLKD_STAT.SEQ_BUSY = 0 ∧
     st (step (busy false false none)) CLKD_STAT.CUR_OPP = 7 ∧ ((step (busy false true none)).clk[(13 : Fin 14)]).supply = 8 ∧
     ((step (busy true true (some 2))).clk[(13 : Fin 14)]).target = some 2) ∧
    (let s := (State.reset.setFld (aCLKD_CTRL 0) CLKD_CTRL.LOOP_EN 1).setFld (aCLKD_CTRL 0) CLKD_CTRL.SRC 0
     let sw := s.setFld (aCLKD_STAT 0) CLKD_STAT.SWITCHING 1
     s.crystalLost = false ∧ (out (.clkdSwitchDone 0) sw).fld (aCLKD_STAT 0) CLKD_STAT.SEL = 0 ∧ (out (.clkdSrcWrite 0 true) s).fld (aCLKD_STAT 0) CLKD_STAT.SWITCHING = 1 ∧
       (out (.clkdLoopLock 0) s).fld (aCLKD_STAT 0) CLKD_STAT.LOCK = 1 ∧ (out (.clkdSrcWrite 0 false) s).fld (aCLKD_STAT 0) CLKD_STAT.SWITCHING = 0 ∧ (out (.clockSourceLost 0) s).fld (aCLKD_STAT 0) CLKD_STAT.COAST_SEEN = 1 ∧
       State.reset.fld (aCLKD_CTRL 0) CLKD_CTRL.LOOP_EN = 0 ∧ (out (.domainWatchdogExpiry 0) sw).fld (aCLKD_STAT 0) CLKD_STAT.WDOG_RESET = 1) ∧
    ([(8 : Dom), 9].all fun n =>
      let s := (State.reset.setFld (aCLKD_CTRL n) CLKD_CTRL.LOOP_EN 1).modDeep fun d => { d with closed := flashOf n }
      let u := out (.clkdLoopLock n) s
      decide (u.deep.closed = [] ∧ u.fld (aCLKD_STAT n) CLKD_STAT.LOCK = 1) && !(flashOf n).isEmpty && (flashOf n).all fun g => decide (u.fld (aFC_STAT g) FC_STAT.READY = 1)) ∧
    (State.reset.power = .on ∧ State.reset.claimed = []) := by decide +kernel

/-- A state in which Ahnal is READY. -/
def ready (s : State) : State := s.setFld (aBOOT_STAT 0) BOOT_STAT.PHASE 4

/-- FusesAndBootFlash: a message of 4 bytes that can be read, one that is poisoned, and none; targets above and below the counter; fuses that advance; the
four operations, idle, busy and protected; each operation's end, and the protection locked and not. -/
theorem witness_fuses_and_boot_flash :
    (let v := SIGN_CTL.GO.put (SIGN_CTL.LEN.put 0 4) 1
     let s := out (.signGo v) State.reset
     let at_ (a : Nat) (s : State) : State := s.setReg (aSIGN_MSG 0) (BitVec.ofNat 64 a)
     SIGN_CTL.LEN.get v = 4 ∧ s.flag (aSIGN_CTL 0) SIGN_CTL.BUSY = true ∧ ((List.range 4).all fun i => !s.badByte i && !s.rptDenies i 0 false) = true ∧
       (at_ home { s with poison := [home / 8] }).badByte home = true ∧
       (out .signDone (at_ home { s with poison := [home / 8] })).fld (aSIGN_CTL 0) SIGN_CTL.ERR = 1 ∧
       (out .signDone (s.setFld (aSIGN_CTL 0) SIGN_CTL.LEN 0)).fld (aSIGN_CTL 0) SIGN_CTL.ERR = 1) ∧
    (let v := RB_CTR.GO.put (RB_CTR.TARGET.put 0 5) 1
     RB_CTR.TARGET.get v = 5 ∧ (out (.rbCtrGo v) State.reset).mgmt.fuseTarget = some 5 ∧ (out (.rbCtrGo v) (State.reset.setFld (aRB_CTR 0) RB_CTR.VALUE 9)).mgmt.fuseTarget = none ∧
       (out (.fuseBlowDone true) (out (.keyRevoke 2) (out (.rbCtrGo v) State.reset))).fld (aRB_CTR 0) RB_CTR.VALUE = 5 ∧
       (out (.fuseBlowDone true) (out (.keyRevoke 2) (out (.rbCtrGo v) State.reset))).fld (aKEY_STAT 0) KEY_STAT.REVOKED = 2) ∧
    (let prot := (State.reset.setFld (aBF_PROT 0) BF_PROT.MARCH_WP 1)
     let busy := State.reset.setFld (aBF_CMD 0) BF_CMD.BUSY 1
     [(1, Instr.bfRead 300), (2, .bfProgram 300), (3, .bfErase4k 300), (4, .bfErase64k 300)].all fun x =>
       decide (prot.bfProtected x.1 300 = (x.1 != 1) ∧ (out x.2 prot).fld (aBF_CMD 0) BF_CMD.DENIED = b2n (x.1 != 1) ∧ out x.2 busy = busy ∧
         (out x.2 State.reset).mgmt.bfPending = some (x.1, 300))) ∧
    (let ends (op : Nat) (ok : Bool) : State := out (.bfOpDone ok) { State.reset.setFld (aBF_CMD 0) BF_CMD.BUSY 1 with
       mgmt := { Mgmt.reset with bfPending := some (op, 300), bfBuf := [0x0F] ++ zeros 255, flash := [(256, 0x33), (512, 0)] } }
     (ends 1 true).mgmt.bfBuf.take 2 = [0x33, 0xFF] ∧ (ends 2 true).flashByte 256 = 0x03 ∧ (ends 3 true).flashByte 512 = 0xFF ∧ (ends 4 true).flashByte 512 = 0xFF ∧
       (ends 1 false).fld (aBF_CMD 0) BF_CMD.ERR = 1 ∧ ([0x0F] ++ zeros 255 : List Byte).length = 256) ∧
    (let held := (State.reset.setFld (aBF_CMD 0) BF_CMD.PAUSED 1).modMgmt fun m => { m with bfPending := some (2, 300) }
     out (.bfOpDone true) held = held) ∧
    (let v := BF_PROT.LOCK.put (BF_PROT.SEPT_WP.put 0 1) 1
     let s := out (.bfProtWrite v) State.reset
     s.flag (aBF_PROT 0) BF_PROT.LOCK = true ∧ s.flag (aBF_PROT 0) BF_PROT.SEPT_WP = true ∧ out (.bfProtWrite 0) s = s) := by decide +kernel

/-- A request whose fields stand where SPDM puts them. -/
def request (n code : Nat) (args : List (Nat × Nat × Nat)) (version : Nat := 0x13) : List Byte :=
  args.foldl (fun p x => putField p x.1 x.2.1 x.2.2) ([BitVec.ofNat 8 version, BitVec.ofNat 8 code] ++ zeros (n - 2))

/-- SMBus from READY, with a connection that has come so far. -/
def talking (f : Spdm → Spdm := id) : State := (ready State.reset).modSpdm 2 f
def agreed (c : Spdm) : Spdm := { c with version := true, caps := true, algs := true }

/-- AttestationAnswers: a connection opened; each request in its step and before it; an unsupported code; an endpoint that is down. -/
theorem witness_attestation :
    (talking.endpointUp 2 = true ∧ State.reset.endpointUp 2 = false ∧ (talking.mgmt.spdm[(2 : Endpoint)]).version = false ∧
      ((out (.getVersion 2 (request 4 0x84 [] 0x10)) talking).mgmt.spdm[(2 : Endpoint)]).version = true ∧
      out (.getVersion 2 (request 4 0x84 [] 0x10)) State.reset = State.reset) ∧
    ([(Instr.getCapabilities 2 (request 20 0xE1 [])), .negotiateAlgorithms 2 (request 32 0xE3 []), .getDigests 2 (request 4 0x81 []),
      .getCertificate 2 (request 8 0x82 []), .challenge 2 (request 44 0x83 []), .getMeasurements 2 (request 45 0xE0 [])].all fun i =>
        decide (((out i talking).mgmt.spdm[(2 : Endpoint)]).sent = [0x13, 0x7F, 0x04, 0])) ∧
    (((out (.getCapabilities 2 (request 20 0xE1 [])) (talking fun c => { c with version := true })).mgmt.spdm[(2 : Endpoint)]).caps = true) ∧
    (let req := request 32 0xE3 [(8, 4, 0x400), (12, 4, 0x4)]
     bit (field req 8 4) 10 = true ∧ bit (field req 12 4) 2 = true ∧ field req 0 1 = 0x13 ∧ field req 1 1 = 0xE3 ∧
       ((out (.negotiateAlgorithms 2 req) (talking fun c => { c with version := true, caps := true })).mgmt.spdm[(2 : Endpoint)]).algs = true) ∧
    ([(4, 0x81, []), (8, 0x82, [(6, 2, 100)]), (44, 0x83, []), (12, 0xE0, [(3, 1, 0xFF)]), (45, 0xE0, [(2, 1, 1)])].all fun (x : Nat × Nat × List (Nat × Nat × Nat)) =>
      let req := request x.1 x.2.1 x.2.2
      decide ((talking agreed).endpointUp 2 = true ∧ field req 1 1 = x.2.1 ∧ x.1 ≤ req.length ∧ field req 0 1 = 0x13 ∧ field req 4 2 = 0)) ∧
    (((out (.spdmUnsupportedRequest 2 (request 4 0x85 [])) talking).mgmt.spdm[(2 : Endpoint)]).sent = [0x13, 0x7F, 0x07, 0x85]) := by decide +kernel

/-- The certificate chain is never empty: GET_CERTIFICATE from offset 0 has something to answer. -/
theorem chain_not_empty (s : State) : 0 < s.certChain.length := by
  simp [State.certChain, toBytes]

/-- SidebandAnswers: an alert asserted and not; endpoint ids, an event held and none, states of the enables good and bad; SMBus before READY. -/
theorem witness_sideband_answers :
    (let s := talking
     let alerting : State := { s with pins := { s.pins with alert := true } }
     s.smbusUp = true ∧ (out .smbusAlertResponse alerting).mgmt.smbReply = [BitVec.ofNat 8 (0x60 + s.mgmt.moduleId % 8)] ∧ out .smbusAlertResponse s = s ∧
       (out (.setEndpointId 9) s).mgmt.eid = 9 ∧ [0, 0xFF].all (fun e => decide ((out (.setEndpointId e) s).mgmt.smbReply = [2])) ∧
       (out (.setEventReceiver 7) s).mgmt.receiver = some 7 ∧ (out .pollForPlatformEventMessage s).mgmt.smbReply = [0] ∧
       (out (.setStateEffecterStates [some 1, none, some 2]) s).reg (aALERT_EN 0) = 0x7B ∧ (out (.setStateEffecterStates [some 3]) s).mgmt.smbReply = [0x81] ∧
       (out .getStateEffecterStates s).mgmt.smbReply = [0, 7] ++ List.replicate 7 1) ∧
    (State.reset.smbusUp = false ∧ out (.setEndpointId 9) State.reset = State.reset) := by decide +kernel

/-- ModuleServiced: words in error with Ahnal and without; a fatal event and one of no fatal code; a heartbeat lost with a standby and without; a takeover;
wear scans; a flit resent below and at the wire's limit, and for the eighth time; a sensor at its warning and below. -/
theorem witness_module_serviced :
    (State.reset.ahnal = false ∧ (ready State.reset).ahnal = true ∧
      [true, false].all fun ok => [true, false].all fun imem =>
        let u := out (.errorCounterPoll [.coreWord 0 imem 5 ok]) State.reset
        decide (u.fld (aCORE_ERR 0) (if imem then (if ok then CORE_ERR.IMEM_CE else CORE_ERR.IMEM_UE) else if ok then CORE_ERR.CMEM_CE else CORE_ERR.CMEM_UE) = 1)) ∧
    (let s := ready State.reset
     s.power = .on ∧ s.flag (aFATAL_STAT 0) FATAL_STAT.FATAL = false ∧ s.claimed = [] ∧ ((List.range 16).all fun i => (s.image i).isNone) = true ∧
       [0x0400, 0x0405].all fun n => decide (out (.fatalError (BitVec.ofNat 16 n) ⟨0, 0⟩) s = s)) ∧
    ([0, 1].all fun up =>
      let s := (ready State.reset).setFld (aMGMT_ROLE 0) MGMT_ROLE.STANDBY_UP up
      let u := out .heartbeatTimeout s
      decide (if up = 1 then u.fld (aBOOT_STAT 0) BOOT_STAT.PHASE = 0 else u.fld (aFATAL_STAT 0) FATAL_STAT.CAUSE = 0x0404)) ∧
    (let s := State.reset.setFld (aMGMT_ROLE 0) MGMT_ROLE.STANDBY_UP 1
     s.ahnal = false ∧ s.flag (aMGMT_ROLE 0) MGMT_ROLE.STANDBY_UP = true ∧ s.power = .on ∧ s.claimed = []) ∧
    (let s := out .wearScanTimer State.reset
     s.warned = false ∧ s.mgmt.wearTimer = true ∧ s.claimed = [] ∧ (out (.wearScan []) s).mgmt.scans = 1 ∧
       s.powerLimited = false ∧ s.flag (aGOV_STAT (replicaRail 7)) GOV_STAT.HOT = false ∧ out (.wearScan []) State.reset = State.reset) ∧
    (let a := aLINK_REP 0 0
     let s (lim : Nat) : State := State.reset.setFld a LINK_REP.WIRE_LIM lim
     (s 9).flag a LINK_REP.FAILED = false ∧ (out (.flitResend 0 0 1023 1) (s 9)).fld a LINK_REP.USED = 0 ∧ (out (.flitResend 0 0 1023 7) (s 1)).fld a LINK_REP.USED = 1 ∧
       (out (.flitResend 0 0 1023 7) (s 1)).fld a LINK_REP.LAST_WIRE = 1023 ∧
       (let f := (s 9).setFld a LINK_REP.FAILED 1
        out (.flitResend 0 0 3 1) f = f)) ∧
    ((out (.thermalWarning 3 79 840) State.reset).fld (aDIE_THERM 3) DIE_THERM.WARN = 1 ∧ out (.thermalWarning 3 79 839) State.reset = State.reset ∧
      (let s := State.reset.setFld (aSENSOR 3 79) SENSOR.FAILED 1
       out (.thermalWarning 3 79 900) s = s)) := by decide +kernel

/-- StepRunsFrontCommand and StepTakesOneCommand: a command in front of another; StepKeepsMemoryForm: a memory in form and one that is not. -/
theorem witness_steps :
    (let s : State := { State.reset with pending := [.fmcStart 0, .fmcStart 1] }
     (match step s with | .next u => decide (u.pending = [.fmcStart 1] ∧ u.flag (aFMC_RESULT 0) FMC_RESULT.BUSY = true) | _ => false) = true ∧
       mayStore (.fmcStart 0) = false ∧ mayStore .ahnalReady = true) ∧
    (Memory.wf [(3, 1), (7, 2)] = true ∧ Memory.wf [(7, 2), (3, 1)] = false ∧ Memory.wf [(3, 0)] = false) := by decide +kernel

/-! Smoke tests of WellFormed: for each check a command that it refuses, and one at the bound that it takes. -/

theorem test_ill_formed_power :
    ([.govWindowEnd [] [] 0, .govWindowEnd (.replicate 1240 0) [] 4096, .govWindowEnd (.replicate 1240 0) (.replicate 321 ⟨0, 0, 0, false⟩) 0,
      .undervoltageReset [], .overvoltageReset [1], .supplyWarning 8192, .supplyWarningClear 8192, .fmcDone 0 (2 ^ 32), .deviceTemperatureChange (.near 0) 256].all
      fun i => !Instr.wellFormed i) = true := by decide +kernel
theorem test_ill_formed_registers :
    ([.registerWrite .mgmt 0x1200_0000_0004 0 false, .registerWrite .mgmt 0x1200_0000_0002 0 true, .registerWrite .mgmt 0x11FF_FFFF_FFF8 0 false,
      .registerWrite .mgmt 0x1200_1000_0000 0 false, .registerWrite (.config 0) 8 0 false, .imemDataWrite 0 .mgmt 3 0].all fun i => !Instr.wellFormed i) = true := by
  decide +kernel
theorem test_ill_formed_host :
    ([.bar2Read 0 0 0, .bar2Read 0 (2 ^ 41) 1, .bar2Write 0 0 [] false, .bar2Write 0 (2 ^ 41 - 1) [1, 2] false, .packetFetch 0 0 (.data [1]),
      .linkUp 0 3 1, .linkUp 0 8 0, .linkUp 0 8 7].all fun i => !Instr.wellFormed i) = true := by decide +kernel
theorem test_ill_formed_memory :
    ([.sliceRepairGo 0 0 2048, .sliceScrub 0 0 2048 0 [], .sliceScrub 0 0 0 257 [], .sliceScrub 0 0 0 0 (.replicate 257 0), .trInvOne 0 (2 ^ 27),
      .dmaTrinvOne 0 0 (2 ^ 27), .nsSubstCopy 0 0 999, .nsSubstCopy 0 0 20001, .flashSparesLow 0 101].all fun i => !Instr.wellFormed i) = true := by decide +kernel
theorem test_ill_formed_dma_and_links :
    ([.dmaStart 0 32 0 0, .dmaStop 0 32 0 0, .dmaResume 0 32 0 0, .dmaCqbaseWrite 0 32 0 0, .flitResend 0 0 1024 1, .flitResend 0 0 0 0, .flitResend 0 0 0 9,
      .setStateEffecterStates []].all fun i => !Instr.wellFormed i) = true := by decide +kernel
theorem test_well_formed_bounds :
    ([.govWindowEnd (.replicate 1240 0) [] 4095, .undervoltageReset (.replicate 16 0), .supplyWarning 8191, .fmcDone 0 (2 ^ 32 - 1),
      .registerWrite .mgmt 0x1200_0FFF_FFF8 0 false, .registerWrite .mgmt 0x1200_0000_0004 0 true, .registerWrite (.config 0) 7 0 false, .imemDataWrite 0 .mgmt 8 0,
      .bar2Read 0 (2 ^ 41 - 1) 1, .packetFetch 0 0 (.data (.replicate 64 0)), .linkUp 0 8 6, .sliceRepairGo 0 0 2047, .nsSubstCopy 0 0 20000,
      .flashSparesLow 0 100, .flitResend 0 0 1023 8, .setStateEffecterStates (.replicate 7 none), .nop 0 0 0].all fun i => Instr.wellFormed i) = true := by
  decide +kernel

end Sys2Proof.Tests
end

section
/-! SUPPORT. Steps and the reset state: which commands write memory and which do not, what the reset state holds in its tables and its
registers, and where a wait of a counter that no cluster has writes a register that is not a counter's. -/

namespace Sys2Proof.Proofs
open Sys2Proof.Machine Sys2Proof.Claims

/-! What a step leaves of memory -/

/-- A command whose effect on memory is none answers as one that writes no memory. -/
theorem commitMem_of_none {s : State} {r : State × MemUpd} (h : r.2 = .none) : s.commitMem r = s.commit r.1 := by
  obtain ⟨t, upd⟩ := r
  obtain rfl : upd = .none := h
  rfl

/-- A BAR2 read as it arrives writes no memory, whether it waits, is answered at once or is refused. -/
theorem bar2Arrive_read_upd (s : State) (p : Port) (off len : Nat) : (s.bar2Arrive p (.read off len)).2 = .none := by
  unfold State.bar2Arrive
  split
  · rfl
  · split
    · rfl
    · split <;> rfl

/-- A command may store, or it leaves memory as the model's `commit` does. BAR2_READ alone shares the answer of the commands that write
memory, since BAR2 reads and writes arrive alike. -/
theorem mayStore_or_exec_commits (i : Instr) (s : State) : mayStore i = true ∨ ∃ t, exec i s = .next (s.commit t) := by
  cases i
  case bar2Read p off len =>
    exact .inr ⟨_, congrArg _ (commitMem_of_none (bar2Arrive_read_upd s p off len))⟩
  all_goals first
    | exact .inl rfl
    | exact .inr ⟨_, rfl⟩

/-- Settles O59: a step is `exec` of the front command, which keeps the queue's rest and the grade, and leaves memory unless it may store. -/
theorem stepTakesOneCommand : Obligations.StepTakesOneCommand := by
  intro s c rest h
  have hstep : step s = exec c { s with pending := rest } := by rw [step, h]
  obtain ⟨u, hu, keeps⟩ := exec_answers c { s with pending := rest }
  refine ⟨u, hstep.trans hu, keeps.pending, keeps.grade, fun quiet => ?_⟩
  obtain stores | ⟨t, ht⟩ := mayStore_or_exec_commits c { s with pending := rest }
  · simp [quiet] at stores
  · obtain rfl : u = State.commit _ t := Host.Outcome.next.inj (hu.symm.trans ht)
    exact ⟨rfl, rfl⟩

/-! The reset state -/

/-- At reset no register differs from what its map gives. -/
theorem reset_reg (a : Nat) : State.reset.reg a = resetAt a := rfl

theorem reset_core (c : Nat) : State.reset.core c = Core.reset := rfl

theorem reset_thr (c : Nat) (t : Thr) : State.reset.thr c t = Thread.reset := by
  simp [State.thr, reset_core, Core.reset]

theorem reset_port (p : Port) : State.reset.port p = PortSt.reset := by
  simp [State.port, State.reset]

theorem reset_image (i : Slot) : State.reset.image i = none := by
  simp [State.image, State.reset]

/-- The rails of the 72 clusters and 4 dies at reset (R22, R38). -/
theorem reset_rails (r : Fin 76) :
    State.reset.fld (aGOV_STAT r) GOV_STAT.RAIL = 30 ∧ State.reset.fld (aGOV_SET r) GOV_SET.FLOOR = 0 := by
  revert r; decide +kernel

/-- The 14 clock domains at reset (R42). -/
theorem reset_domains (n : Dom) : State.reset.fld (aCLKD_STAT n) CLKD_STAT.SEL = 1 ∧
    State.reset.fld (aCLKD_CTRL n) CLKD_CTRL.SRC = 1 ∧ State.reset.fld (aCLKD_CTRL n) CLKD_CTRL.LOOP_EN = 0 := by
  revert n; decide +kernel

/-- The 128 DMA channels at reset (R380). -/
theorem reset_dmaState (ch : DmaCh) : State.reset.dmaState ch = 0 := by
  revert ch; decide +kernel

/-- The 16 ring pairs at reset (R451). -/
theorem reset_rings (p : Port) (r : Ring) : State.reset.pairOn p r = false ∧ State.reset.fld (aCR_STAT p r) CR_STAT.STATE = 0 := by
  revert p r; decide +kernel

/-- Settles O60: the tables of the reset state are empty, so each register reads its map's reset word. -/
theorem resetHolds : Obligations.ResetHolds := by
  refine ⟨rfl, rfl, reset_reg, fun _ => rfl, reset_rails, reset_domains, reset_image, fun c t => ?_, fun c => ⟨rfl, rfl⟩,
    rfl, rfl, rfl, rfl, fun p => ?_, reset_dmaState, reset_rings, ?_, ?_, ?_⟩
  · rw [reset_thr]; rfl
  · rw [reset_port]; rfl
  · rfl
  · rfl
  · rfl

/-! A write of a channel beside its load port -/

/-- A channel's write of control space outside its starter's block ends it with error 4 (R402). -/
theorem exec_registerWrite_dma_outside (s : State) (ch : DmaCh) (a : Nat) (v : Word) (four : Bool)
    (h : a < coreBlk (s.dmaStarter ch) ∨ coreBlk (s.dmaStarter ch) + 0x1_0000 ≤ a) :
    exec (.registerWrite (.dma ch) a v four) s = .next (s.commit (s.dmaError ch 4 0 a)) := by
  have outside : a < coreBlk (s.dmaStarter ch) ∨ (a - coreBlk (s.dmaStarter ch) ≠ 0x7000 ∧ a - coreBlk (s.dmaStarter ch) ≠ 0x7008) := by
    omega
  simp only [exec, execRegisterWrite, State.done, if_pos outside]

/-- Channels 0 and 1 wait on counter 12 of cluster 0x102, which the module does not have: the address that `aSCNT` computes for it is
DMA_ERR of channel 0. -/
def strayWaits : State :=
  { State.reset with parked := [⟨.dma 0, .counter 0x102 12, 1, false⟩, ⟨.dma 1, .counter 0x102 12, 1, false⟩] }

/-- The error of channel 0 writes 4 to DMA_ERR, then withdraws its wait, and PARKED of the counter, which channel 1 still waits on, sets bit 37
of the same word. -/
theorem strayWaits_dmaErr : (strayWaits.dmaError 0 4 0 0).reg (aDMA_ERR (0 : DmaCh)) = 0x20_0000_0004 := by decide +kernel

/-- Refutes O46, in the clause of Claims.RegistersWritten that a channel's write outside its starter's block ends it with DMA_ERR as R402
gives it: the claim speaks of every state, also of one where a parked wait names a counter that the module does not have, and there the
wait's withdrawal writes over DMA_ERR. The claim lacks the bound on parked waits that Obligations.PortsAndLinks asks for. -/
theorem not_hostRingsAndRegisterWrites : ¬ Obligations.HostRingsAndRegisterWrites := by
  rintro ⟨-, written⟩
  have outside : 0 < coreBlk (strayWaits.dmaStarter 0) := by decide +kernel
  obtain ⟨-, -, -, -, -, -, -, -, -, -, -, -, -, -, -, -, -, ends, -⟩ := written strayWaits 0
  obtain ⟨u, hu, -, -, errWord, -⟩ := ends 0 0 false (.inl outside)
  obtain rfl : u = strayWaits.commit (strayWaits.dmaError 0 4 0 0) :=
    Host.Outcome.next.inj (hu.symm.trans (exec_registerWrite_dma_outside strayWaits 0 0 0 false (.inl outside)))
  rw [State.reg_commit, strayWaits_dmaErr] at errWord
  exact absurd errWord (by decide +kernel)

end Sys2Proof.Proofs
end

section
/-! SUPPORT. What the module's writes to its hosts leave, what a reply and the packets behind it leave, and that a final reply is
written. -/

namespace Sys2Proof.Proofs
open Sys2Proof.Machine Sys2Proof.Claims

/-! Writes to a host -/

/-- The registers that a write to a host, an MSI-X message or an event can change (R440, R445, R453). -/
def HostReg (a : Nat) : Prop := ∃ p : Port, a = aERR_LINK p ∨ a = aEVT_STAT p ∨ a = aPBA p ∨ a = aERR_SUM p

/-- A port's link is as it was, and what has gone out on it stands. -/
structure Grows (q r : PortSt) : Prop where
  up : r.up = q.up
  d3 : r.d3 = q.d3
  out : q.out ⊆ r.out

/-- All of a state but the registers of control space and the ports. -/
def besideHost (s : State) : State := { s with regs := [], ports := State.reset.ports }

/-- From `s` on the module has only written to its hosts. -/
structure Tells (s u : State) : Prop where
  rest : besideHost u = besideHost s
  reg : ∀ a, ¬HostReg a → u.reg a = s.reg a
  port : ∀ p, Grows (s.port p) (u.port p)

theorem Grows.refl (q : PortSt) : Grows q q := ⟨rfl, rfl, List.Subset.refl _⟩

theorem Grows.trans {q r t : PortSt} (h : Grows q r) (k : Grows r t) : Grows q t :=
  ⟨k.up.trans h.up, k.d3.trans h.d3, List.Subset.trans h.out k.out⟩

theorem Tells.refl (s : State) : Tells s s := ⟨rfl, fun _ _ => rfl, fun _ => .refl _⟩

theorem Tells.trans {s u v : State} (h : Tells s u) (k : Tells u v) : Tells s v :=
  ⟨k.rest.trans h.rest, fun a ha => (k.reg a ha).trans (h.reg a ha), fun p => (h.port p).trans (k.port p)⟩

theorem Tells.fld {s u : State} (h : Tells s u) {a : Nat} (ha : ¬HostReg a) (f : Field) : u.fld a f = s.fld a f := by
  rw [State.fld, State.fld, h.reg a ha]

theorem Tells.flag {s u : State} (h : Tells s u) {a : Nat} (ha : ¬HostReg a) (f : Field) : u.flag a f = s.flag a f := by
  rw [State.flag, State.flag, h.fld ha]

theorem grows_modPort (s : State) (p : Port) (f : PortSt → PortSt) (hf : ∀ q, Grows q (f q)) (x : Port) :
    Grows (s.port x) ((s.modPort p f).port x) := by
  by_cases hx : x = p
  · subst hx
    rw [State.port_modPort_self]
    exact hf _
  · rw [State.port_modPort_ne _ _ hx]
    exact .refl _

theorem tells_setReg (s : State) {a : Nat} (w : Word) (h : HostReg a) : Tells s (s.setReg a w) :=
  ⟨rfl, fun _ hb => s.reg_setReg_ne w fun e => hb (e ▸ h), fun _ => .refl _⟩

theorem tells_modPort (s : State) (p : Port) (f : PortSt → PortSt) (hf : ∀ q, Grows q (f q)) : Tells s (s.modPort p f) :=
  ⟨rfl, fun _ _ => rfl, grows_modPort s p f hf⟩

theorem tells_emit (s : State) (p : Port) (t : Tlp) : Tells s (s.emit p t) :=
  tells_modPort s p _ fun _ => ⟨rfl, rfl, List.subset_cons_self _ _⟩

theorem mem_out_emit (s : State) (p : Port) (t : Tlp) : t ∈ ((s.emit p t).port p).out := by
  simp [State.emit]

theorem tells_msix (s : State) (p : Port) (vec : Nat) : Tells s (s.msix p vec) := by
  unfold State.msix State.emitUp
  split
  · exact tells_setReg _ _ ⟨p, by simp⟩
  · split
    · exact tells_emit _ _ _
    · exact .refl _

theorem tells_errSum (s : State) (p : Port) (f : Field) (v : Nat) : Tells s (s.errSum p f v) := by
  have set : Tells s (s.setFld (aERR_SUM p) f (s.fld (aERR_SUM p) f ||| v)) := tells_setReg _ _ ⟨p, by simp⟩
  unfold State.errSum
  dsimp only
  split
  · exact set.trans (tells_msix _ _ _)
  · exact set

theorem tells_hostWrite (s : State) (p : Port) (a : Nat) (bs : List Byte) (bad : Bool) : Tells s (s.hostWrite p a bs bad) := by
  unfold State.hostWrite
  split
  · exact tells_emit _ _ _
  · exact tells_setReg _ _ ⟨p, by simp⟩

/-- A write of a port whose link is up leaves on it (R445). -/
theorem mem_out_hostWrite (s : State) (p : Port) (a : Nat) (bs : List Byte) (bad : Bool) (up : (s.port p).up = true)
    (d0 : (s.port p).d3 = false) : .write a bs bad ∈ ((s.hostWrite p a bs bad).port p).out := by
  have live : (s.port p).live = true := by simp [PortSt.live, up, d0]
  rw [State.hostWrite, if_pos live]
  exact mem_out_emit _ _ _

theorem tells_event (s : State) (p : Port) (code status : Nat) (result : List Byte) : Tells s (s.event p code status result) := by
  have wakes : Tells s (if (s.port p).d3 then s.modPort p fun x => { x with wake := true } else s) := by
    split
    · exact tells_modPort _ _ _ fun _ => ⟨rfl, rfl, List.Subset.refl _⟩
    · exact .refl _
  unfold State.event
  dsimp only
  generalize (if (s.port p).d3 then s.modPort p fun x => { x with wake := true } else s) = t at wakes ⊢
  refine wakes.trans ?_
  split
  · split
    · exact ((tells_hostWrite _ _ _ _ _).trans (tells_setReg _ _ ⟨p, by simp⟩)).trans (tells_msix _ _ _)
    · exact (tells_hostWrite _ _ _ _ _).trans (tells_setReg _ _ ⟨p, by simp⟩)
  · exact (tells_setReg _ _ ⟨p, by simp⟩).trans (tells_errSum _ _ _ _)

theorem tells_eventOwner (s : State) (im : Image) (code status : Nat) : Tells s (s.eventOwner im code status) := by
  unfold State.eventOwner
  split
  · exact tells_event _ _ _ _ _
  · exact .refl _

theorem tells_forAll {α : Type} (s : State) (l : List α) (f : State → α → State) (h : ∀ s, ∀ a ∈ l, Tells s (f s a)) :
    Tells s (s.forAll l f) :=
  State.forAll_inv (Tells s) l f (fun t a ha ht => ht.trans (h t a ha)) s (.refl s)

/-- The register lies in the image of a port's BAR0 (R100). -/
def InBar0 (a : Nat) : Prop := bar0 0 ≤ a ∧ a < bar0 2

theorem HostReg.inBar0 {a : Nat} (h : HostReg a) : InBar0 a := by
  obtain ⟨p, rfl | rfl | rfl | rfl⟩ := h <;> have := p.isLt <;>
    simp only [InBar0, bar0, ctrlBase, aERR_LINK, aEVT_STAT, aPBA, aERR_SUM] <;> omega

/-- Registers of ring pairs are none that a write to a host changes. -/
theorem not_hostReg_ring (p : Port) (r : Ring) (o : Nat) (h : o < 0x100) : ¬HostReg (ringBlk p r + o) := by
  have := p.isLt
  have := r.isLt
  rintro ⟨x, hx⟩
  have := x.isLt
  simp only [aERR_LINK, aEVT_STAT, aPBA, aERR_SUM, ringBlk, bar0, ctrlBase] at hx
  omega

end Sys2Proof.Proofs
end

section
/-! SUPPORT. The error log, and a final reply with all that follows from it. -/

namespace Sys2Proof.Proofs
open Sys2Proof.Machine Sys2Proof.Claims

/-! The error log -/

/-- All of a state but control space, the pins and the error log with what it hands to the sideband. -/
def besideLog (s : State) : State :=
  { s with regs := [], pins := State.reset.pins, mgmt := { s.mgmt with errlog := [], held := [], smbOut := [] } }

/-- From `s` on an event has been logged, or a source of ALERT_SRC set (R501-R503). -/
structure Logs (s u : State) : Prop where
  rest : besideLog u = besideLog s
  reg : ∀ a, a ≠ aERRLOG_CTRL 0 → a ≠ aALERT_SRC 0 → u.reg a = s.reg a

theorem Logs.refl (s : State) : Logs s s := ⟨rfl, fun _ _ _ => rfl⟩

theorem Logs.trans {s u v : State} (h : Logs s u) (k : Logs u v) : Logs s v :=
  ⟨k.rest.trans h.rest, fun a ha hb => (k.reg a ha hb).trans (h.reg a ha hb)⟩

theorem Logs.fld {s u : State} (h : Logs s u) {a : Nat} (ha : a ≠ aERRLOG_CTRL 0) (hb : a ≠ aALERT_SRC 0) (f : Field) :
    u.fld a f = s.fld a f := by
  rw [State.fld, State.fld, h.reg a ha hb]

theorem logs_alert (s : State) (f : Field) : Logs s (s.alert f) :=
  ⟨rfl, fun _ _ hb => s.reg_setReg_ne _ hb⟩

theorem logs_setFld (s : State) (f : Field) (v : Nat) : Logs s (s.setFld (aERRLOG_CTRL 0) f v) :=
  ⟨rfl, fun _ ha _ => s.reg_setReg_ne _ ha⟩

/-- What logging an event does, step by step: whatever its steps keep, it keeps. -/
theorem logErr_keeps {R : State → State → Prop} {code : Nat} (trans : ∀ {s t u}, R s t → R t u → R s u)
    (list : ∀ s l, R s { s with mgmt := { s.mgmt with errlog := l } }) (hand : ∀ (s : State) b o, R s { s with mgmt := { s.mgmt with held := b, smbOut := o } })
    (set : ∀ (s : State) f v, R s (s.setFld (aERRLOG_CTRL 0) f v)) (alert : code / 256 = 3 ∨ code / 256 = 4 → ∀ s, R s (s.alert ALERT_SRC.LOG))
    (s : State) (kind index count handle data1 data0 : Nat) : R s (s.logErr code kind index count handle data1 data0) := by
  unfold State.logErr
  extract_lets seq e mgmt listed numbered next alerted mgmt' new
  have toNext : R s next := trans (trans (list _ _) (set _ _ _)) (set _ _ _)
  have toAlerted : R s alerted := by
    dsimp only [alerted]
    split
    · rename_i high
      exact trans toNext (alert high _)
    · exact toNext
  have toNew : R s new := by
    dsimp only [new]
    split
    · split
      · exact trans toAlerted (hand _ _ _)
      · exact trans toAlerted (hand _ _ _)
    · exact toAlerted
  split
  · split
    · exact list _ _
    · exact toNew
  · exact toNew

theorem logs_logErr (s : State) (code kind index count handle data1 data0 : Nat) :
    Logs s (s.logErr code kind index count handle data1 data0) :=
  logErr_keeps (R := Logs) .trans (fun _ _ => ⟨rfl, fun _ _ _ => rfl⟩) (fun _ _ _ => ⟨rfl, fun _ _ _ => rfl⟩) logs_setFld
    (fun _ t => logs_alert t _) s kind index count handle data1 data0

end Sys2Proof.Proofs
end

section
/-! SUPPORT. A final reply, with the signal that fires and the packets that go on behind it. -/

namespace Sys2Proof.Proofs
open Sys2Proof.Machine Sys2Proof.Claims

/-- All of a core but its threads and whose turn it is. -/
def besideThreads (k : Core) : Core := { k with thr := .replicate 4 Thread.reset, next := none }

/-- All of a state but what replies, signals and packets that go on can change. -/
def besideReply (s : State) : State :=
  { s with
    regs := [], ports := State.reset.ports, sync := [], nextId := 0, cores := [], parked := [], pins := State.reset.pins
    mgmt := { s.mgmt with errlog := [], held := [], smbOut := [] } }

/-- From `s` on replies were made, with their signals, and packets went on: no register below the clusters' has changed (R451, R455,
R461). -/
structure Replies (s u : State) : Prop where
  rest : besideReply u = besideReply s
  reg : ∀ a < clusterBlk 0, u.reg a = s.reg a
  port : ∀ p, Grows (s.port p) (u.port p)
  core : ∀ c, besideThreads (u.core c) = besideThreads (s.core c)

/-- The module is not in fatal state (R504). -/
def NotFatal (s : State) : Prop := s.flag (aFATAL_STAT 0) FATAL_STAT.FATAL = false

/-- From `s` on packets went on that fire no signal outside fatal state, where the cores stand. -/
structure Proceeds (s u : State) : Prop extends Replies s u where
  still : NotFatal s → u.cores = s.cores ∧ NotFatal u

theorem Replies.refl (s : State) : Replies s s := ⟨rfl, fun _ _ => rfl, fun _ => .refl _, fun _ => rfl⟩

theorem Replies.trans {s u v : State} (h : Replies s u) (k : Replies u v) : Replies s v :=
  ⟨k.rest.trans h.rest, fun a ha => (k.reg a ha).trans (h.reg a ha), fun p => (h.port p).trans (k.port p),
    fun c => (k.core c).trans (h.core c)⟩

theorem Proceeds.refl (s : State) : Proceeds s s := ⟨.refl s, fun h => ⟨rfl, h⟩⟩

theorem Proceeds.trans {s u v : State} (h : Proceeds s u) (k : Proceeds u v) : Proceeds s v :=
  ⟨h.toReplies.trans k.toReplies, fun hs =>
    have ⟨cores, hu⟩ := h.still hs
    have ⟨cores', hv⟩ := k.still hu
    ⟨cores'.trans cores, hv⟩⟩

theorem Replies.images {s u : State} (h : Replies s u) : u.images = s.images := (congrArg State.images h.rest :)
theorem Replies.image {s u : State} (h : Replies s u) (k : Nat) : u.image k = s.image k := by
  rw [State.image, State.image, h.images]
theorem Replies.claimed {s u : State} (h : Replies s u) : u.claimed = s.claimed := (congrArg State.claimed h.rest :)
theorem Replies.mem {s u : State} (h : Replies s u) : u.mem = s.mem := (congrArg State.mem h.rest :)
theorem Replies.clk {s u : State} (h : Replies s u) : u.clk = s.clk := (congrArg State.clk h.rest :)
theorem Replies.steward {s u : State} (h : Replies s u) : u.mgmt.steward = s.mgmt.steward := (congrArg (·.mgmt.steward) h.rest :)
theorem Replies.powerTarget {s u : State} (h : Replies s u) : u.mgmt.powerTarget = s.mgmt.powerTarget :=
  (congrArg (·.mgmt.powerTarget) h.rest :)
theorem Replies.fld {s u : State} (h : Replies s u) {a : Nat} (ha : a < clusterBlk 0) (f : Field) : u.fld a f = s.fld a f := by
  rw [State.fld, State.fld, h.reg a ha]

/-- A core whose threads alone have changed holds its tiles. -/
theorem tiles_of_besideThreads {k q : Core} (h : besideThreads k = besideThreads q) : k.tt = q.tt ∧ k.zt = q.zt :=
  ⟨(congrArg Core.tt h :), (congrArg Core.zt h :)⟩

/-! Single changes -/

theorem replies_setReg (s : State) {a : Nat} (w : Word) (h : clusterBlk 0 ≤ a) : Replies s (s.setReg a w) :=
  ⟨rfl, fun _ hb => s.reg_setReg_ne w (Nat.ne_of_lt (Nat.lt_of_lt_of_le hb h)), fun _ => .refl _, fun _ => rfl⟩

theorem InBar0.ge {a : Nat} (h : InBar0 a) : clusterBlk 0 ≤ a := by
  obtain ⟨h, -⟩ := h
  simp only [bar0, clusterBlk, ctrlBase] at h ⊢
  omega

theorem InBar0.ne_fatal {a : Nat} (h : InBar0 a) : aFATAL_STAT 0 ≠ a := by
  obtain ⟨-, h⟩ := h
  simp only [bar0, ctrlBase] at h
  simp only [aFATAL_STAT, mgmtBlk, ctrlBase]
  omega

theorem proceeds_setReg (s : State) {a : Nat} (w : Word) (h : InBar0 a) : Proceeds s (s.setReg a w) :=
  ⟨replies_setReg s w h.ge, fun hs => ⟨rfl, by rw [NotFatal, State.flag, s.fld_setReg_ne w _ h.ne_fatal]; exact hs⟩⟩

theorem Tells.proceeds {s u : State} (h : Tells s u) : Proceeds s u := by
  have cores : u.cores = s.cores := (congrArg State.cores h.rest :)
  have low : ∀ a, ¬InBar0 a → ¬HostReg a := fun a ha hr => ha hr.inBar0
  have fatal : ¬HostReg (aFATAL_STAT 0) := low _ fun h => h.ne_fatal rfl
  refine ⟨⟨(congrArg besideReply h.rest :), fun a ha => h.reg a (low a fun hb => Nat.not_le.2 ha hb.ge), h.port, fun c => ?_⟩,
    fun hs => ⟨cores, (h.flag fatal _).trans hs⟩⟩
  rw [State.core, State.core, cores]

theorem Logs.replies {s u : State} (h : Logs s u) : Replies s u := by
  have cores : u.cores = s.cores := (congrArg State.cores h.rest :)
  have ports : u.ports = s.ports := (congrArg State.ports h.rest :)
  refine ⟨(congrArg besideReply h.rest :), fun a ha => h.reg a ?_ ?_, fun p => ?_, fun c => ?_⟩
  · rintro rfl
    exact absurd ha (by decide)
  · rintro rfl
    exact absurd ha (by decide)
  · rw [State.port, State.port, ports]
    exact .refl _
  · rw [State.core, State.core, cores]

theorem proceeds_modRing (s : State) (p : Port) (r : Ring) (f : RingSt → RingSt) : Proceeds s (s.modRing p r f) :=
  ⟨⟨rfl, fun _ _ => rfl, grows_modPort s p _ fun _ => ⟨rfl, rfl, List.Subset.refl _⟩, fun _ => rfl⟩, fun h => ⟨rfl, h⟩⟩

theorem proceeds_sendSync (s : State) (who : Waiter) (core : Nat) (obj : SyncObj) (kind : SyncKind) (slot : Nat) (pc : Addr)
    (priv : Nat) : Proceeds s (s.sendSync who core obj kind slot pc priv) :=
  ⟨⟨rfl, fun _ _ => rfl, fun _ => .refl _, fun _ => rfl⟩, fun h => ⟨rfl, h⟩⟩

theorem replies_parked (s : State) (l : List Parked) : Replies s { s with parked := l } :=
  ⟨rfl, fun _ _ => rfl, fun _ => .refl _, fun _ => rfl⟩

theorem replies_modThr (s : State) (c : Nat) (t : Thr) (f : Thread → Thread) : Replies s (s.modThr c t f) := by
  refine ⟨rfl, fun _ _ => rfl, fun _ => .refl _, fun x => ?_⟩
  by_cases hx : x = c
  · subst hx
    rw [State.core_modThr_self]
    rfl
  · rw [State.core_modThr_ne _ _ _ hx]

theorem replies_forAll {α : Type} (s : State) (l : List α) (f : State → α → State) (h : ∀ s, ∀ a ∈ l, Replies s (f s a)) :
    Replies s (s.forAll l f) :=
  State.forAll_inv (Replies s) l f (fun t a ha ht => ht.trans (h t a ha)) s (.refl s)

/-! Signals (R461) -/

theorem le_aSCNT (k i : Nat) : clusterBlk 0 ≤ aSCNT k i := by
  simp only [aSCNT, clusterBlk]
  omega

theorem le_aSERR (k n : Nat) : clusterBlk 0 ≤ aSERR k n := by
  simp only [aSERR, clusterBlk]
  omega

theorem le_aSERR_CTL (k : Nat) : clusterBlk 0 ≤ aSERR_CTL k := by
  simp only [aSERR_CTL, clusterBlk]
  omega

theorem le_aBU1 (u : Nat) : clusterBlk 0 ≤ aBU1 u := by
  simp only [aBU1, barrierBlk, clusterBlk]
  omega

theorem replies_parkStat (s : State) (obj : SyncObj) : Replies s (s.parkStat obj) := by
  unfold State.parkStat
  cases obj with
  | counter k i => exact replies_setReg _ _ (le_aSCNT k i)
  | barrier u => exact replies_setReg _ _ (le_aBU1 u)

theorem replies_notify (s : State) (obj : SyncObj) (hit : Nat → Bool) : Replies s (s.notify obj hit) := by
  refine replies_forAll _ _ _ fun s c _ => replies_forAll _ _ _ fun s t _ => ?_
  split
  · split
    · exact (replies_modThr _ _ _ _).trans (replies_modThr _ _ _ _)
    · exact .refl _
  · exact .refl _

theorem replies_consumeAll (n : Nat) (s : State) (k i : Nat) : Replies s (State.consumeAll n s k i) := by
  induction n generalizing s with
  | zero => exact .refl _
  | succ n ih =>
    unfold State.consumeAll
    split
    · exact .refl _
    · split
      · exact (((replies_parked _ _).trans (replies_setReg _ _ (le_aSCNT k i))).trans (proceeds_sendSync ..).toReplies).trans (ih _)
      · exact .refl _

theorem replies_judge (s : State) (k i : Nat) : Replies s (s.judge k i) := by
  unfold State.judge
  exact ((((replies_parked _ _).trans (replies_forAll _ _ _ fun _ _ _ => (proceeds_sendSync ..).toReplies)).trans
    (replies_notify _ _ _)).trans (replies_consumeAll _ _ _ _)).trans (replies_parkStat _ _)

theorem replies_setCounter (s : State) (k i v : Nat) : Replies s (s.setCounter k i v) :=
  (replies_setReg _ _ (le_aSCNT k i)).trans (replies_judge _ _ _)

theorem replies_syncLog (s : State) (o : SyncOp) (kind before : Nat) (amount : Int) :
    Replies s (s.syncLog o kind before amount) := by
  unfold State.syncLog
  exact ((((replies_setReg _ _ (le_aSERR _ _)).trans (replies_setReg _ _ ((le_aSERR _ _).trans (Nat.le_add_right _ _)))).trans
    (replies_setReg _ _ (le_aSERR_CTL _))).trans (replies_setReg _ _ (le_aSERR_CTL _))).trans (logs_logErr ..).replies

theorem replies_hostSignal (s : State) (p : Port) (r : Ring) (pk : List Byte) : Replies s (s.hostSignal p r pk).2 := by
  unfold State.hostSignal
  split
  · exact .refl _
  · split
    · exact .refl _
    · split
      · extract_lets n
        split
        · dsimp only
          exact replies_syncLog _ _ _ _ _
        · exact replies_setCounter s _ _ _
      · exact .refl _

/-- A packet without a signal fires none (R457, R461). -/
theorem hostSignal_of_no_signal (s : State) (p : Port) (r : Ring) {pk : List Byte} (h : bit (field pk 2 1) 1 = false) :
    s.hostSignal p r pk = (false, s) := by
  rw [State.hostSignal, pkFlag, h]
  rfl

/-! A ring goes on (R451) -/

theorem inBar0_ring (p : Port) (r : Ring) (o : Nat) (h : o < 0x100) : InBar0 (ringBlk p r + o) := by
  have := p.isLt
  have := r.isLt
  simp only [InBar0, ringBlk, bar0, ctrlBase]
  omega

theorem proceeds_ringState (s : State) (p : Port) (r : Ring) (st : Nat) : Proceeds s (s.ringState p r st) :=
  proceeds_setReg _ _ (inBar0_ring p r 0x10 (by decide))

theorem proceeds_outStat (s : State) (p : Port) (r : Ring) : Proceeds s (s.outStat p r) :=
  proceeds_setReg _ _ (inBar0_ring p r 0x10 (by decide))

theorem proceeds_popHead (s : State) (p : Port) (r : Ring) : Proceeds s (s.popHead p r) :=
  (proceeds_setReg _ _ (inBar0_ring p r 0x10 (by decide))).trans (proceeds_modRing _ _ _ _)

theorem fld_modRing (s : State) (p : Port) (r : Ring) (f : RingSt → RingSt) (a : Nat) (g : Field) :
    (s.modRing p r f).fld a g = s.fld a g := rfl

/-- The acceptance of a head packet leaves FATAL_STAT. -/
theorem flag_fatal_popHead (s : State) (p : Port) (r : Ring) (f : Field) :
    (s.popHead p r).flag (aFATAL_STAT 0) f = s.flag (aFATAL_STAT 0) f := by
  have apart : aFATAL_STAT 0 ≠ aCR_STAT p r := (inBar0_ring p r 0x10 (by decide)).ne_fatal
  rw [State.flag, State.flag, State.popHead, fld_modRing, State.fld_setFld_ne _ _ _ _ apart]

theorem proceeds_replyTo (s : State) (p : Port) (r : Ring) (index : Nat) (pk : List Byte) (kind status detail : Nat)
    (result : List Byte) (syncErr orphan : Bool) : Proceeds s (s.replyTo p r index pk kind status detail result syncErr orphan) := by
  unfold State.replyTo
  extract_lets q k flags written counted
  split
  · exact proceeds_setReg _ _ (inBar0_ring p r 0x38 (by decide))
  · have toCounted : Proceeds s counted :=
      (tells_hostWrite _ _ _ _ _).proceeds.trans (proceeds_setReg _ _ (inBar0_ring p r 0x30 (by decide)))
    split
    · exact toCounted.trans (tells_msix _ _ _).proceeds
    · exact toCounted

theorem proceeds_hostSignal_of_fatal (s : State) (p : Port) (r : Ring) (pk : List Byte)
    (h : s.flag (aFATAL_STAT 0) FATAL_STAT.FATAL = true) : Proceeds s (s.hostSignal p r pk).2 :=
  ⟨replies_hostSignal _ _ _ _, fun hs => absurd (h.symm.trans hs) (by decide)⟩

theorem proceeds_ringGo (n : Nat) (s : State) (p : Port) (r : Ring) : Proceeds s (State.ringGo n s p r) := by
  induction n generalizing s with
  | zero => exact .refl _
  | succ n ih =>
    unfold State.ringGo
    extract_lets q
    split
    · exact .refl _
    split
    · exact proceeds_ringState _ _ _ _
    split
    · exact proceeds_ringState _ _ _ _
    split
    · split
      · exact proceeds_ringState _ _ _ _
      · exact ((proceeds_popHead _ _ _).trans (proceeds_replyTo ..)).trans (ih _)
    extract_lets next wait need
    have toNext : Proceeds s next := proceeds_modRing _ _ _ _
    clear_value wait need
    refine toNext.trans ?_
    split
    · exact ((proceeds_sendSync ..).trans (proceeds_modRing ..)).trans (proceeds_ringState ..)
    split
    · exact (proceeds_modRing ..).trans (proceeds_ringState ..)
    split
    · rename_i fatal
      have inFatal : (next.popHead p r).flag (aFATAL_STAT 0) FATAL_STAT.FATAL = true := by
        rw [flag_fatal_popHead]
        exact (Bool.and_eq_true_iff.1 fatal).1
      exact (((proceeds_popHead _ _ _).trans (proceeds_hostSignal_of_fatal _ _ _ _ inFatal)).trans (proceeds_replyTo ..)).trans (ih _)
    · exact (proceeds_modRing ..).trans (proceeds_ringState ..)

/-! The final reply (R455, R463) -/

/-- The state without a claimed command. -/
def unclaimed (s : State) (k : Nat) : State := { s with claimed := s.claimed.filter (·.id ≠ k) }

theorem not_mem_unclaimed (s : State) (k : Nat) : ∀ c ∈ (unclaimed s k).claimed, c.id ≠ k := by
  intro c hc
  simpa using (List.mem_filter.1 hc).2

theorem claim_id {s : State} {k : Nat} {q : Claimed} (h : s.claim? k = some q) : q.id = k := by
  simpa using List.find?_some h

theorem finalReply_of_claim {s : State} {k : Nat} {q : Claimed} (h : s.claim? k = some q) (status detail : Nat) (result : List Byte) :
    s.finalReply k status detail result =
      (unclaimed s k).finalTo q.port q.ring q.index q.packet q.orphan status detail result := by
  rw [State.finalReply, h]
  rfl

/-- A command that is not claimed is not answered. -/
theorem finalReply_of_not_claimed {s : State} {k : Nat} (h : s.claim? k = none) (status detail : Nat) (result : List Byte) :
    s.finalReply k status detail result = s ∧ unclaimed s k = s := by
  constructor
  · rw [State.finalReply, h]
  · have all : ∀ c ∈ s.claimed, c.id ≠ k := by simpa [State.claim?] using h
    rw [unclaimed, List.filter_eq_self.2 (by simpa using all)]

/-- What of the final reply follows its signal. -/
theorem proceeds_after_signal (s : State) (p : Port) (r : Ring) (index : Nat) (pk : List Byte) (bad orphan : Bool)
    (status detail : Nat) (result : List Byte) :
    Proceeds s ((((if orphan then s else s.modRing p r fun q => { q with reserved := q.reserved - 1 }).replyTo p r index pk 0 status
      detail result bad orphan).outStat p r).advanceRing p r) := by
  have freed : Proceeds s (if orphan then s else s.modRing p r fun q => { q with reserved := q.reserved - 1 }) := by
    split
    · exact .refl _
    · exact proceeds_modRing ..
  exact ((freed.trans (proceeds_replyTo ..)).trans (proceeds_outStat ..)).trans (proceeds_ringGo ..)

theorem replies_finalTo (s : State) (p : Port) (r : Ring) (index : Nat) (pk : List Byte) (orphan : Bool) (status detail : Nat)
    (result : List Byte) : Replies s (s.finalTo p r index pk orphan status detail result) :=
  (replies_hostSignal s p r pk).trans (proceeds_after_signal ..).toReplies

theorem proceeds_finalTo (s : State) (p : Port) (r : Ring) (index : Nat) {pk : List Byte} (h : bit (field pk 2 1) 1 = false)
    (orphan : Bool) (status detail : Nat) (result : List Byte) :
    Proceeds s (s.finalTo p r index pk orphan status detail result) := by
  rw [State.finalTo, hostSignal_of_no_signal s p r h]
  exact proceeds_after_signal ..

/-- A final reply takes its command from those claimed, and beside that makes replies. -/
theorem replies_finalReply (s : State) (k status detail : Nat) (result : List Byte) :
    Replies (unclaimed s k) (s.finalReply k status detail result) := by
  cases h : s.claim? k with
  | none =>
    obtain ⟨same, none_⟩ := finalReply_of_not_claimed h status detail result
    rw [same, none_]
    exact .refl _
  | some q =>
    rw [finalReply_of_claim h]
    exact replies_finalTo ..

theorem proceeds_finalReply {s : State} {k : Nat} (status detail : Nat) (result : List Byte)
    (h : ∀ q, s.claim? k = some q → bit (field q.packet 2 1) 1 = false) :
    Proceeds (unclaimed s k) (s.finalReply k status detail result) := by
  cases hq : s.claim? k with
  | none =>
    obtain ⟨same, none_⟩ := finalReply_of_not_claimed hq status detail result
    rw [same, none_]
    exact .refl _
  | some q =>
    rw [finalReply_of_claim hq]
    exact proceeds_finalTo _ _ _ _ (h q hq) _ _ _ _

/-- After its final reply a command is no longer claimed, nor is one that was not before it. -/
theorem not_claimed_finalReply (s : State) (k status detail : Nat) (result : List Byte) :
    ∀ c ∈ (s.finalReply k status detail result).claimed, c.id ≠ k ∧ c ∈ s.claimed := by
  intro c hc
  rw [(replies_finalReply s k status detail result).claimed] at hc
  exact ⟨not_mem_unclaimed s k c hc, List.mem_of_mem_filter hc⟩

theorem finalReply_images (s : State) (k status detail : Nat) (result : List Byte) :
    (s.finalReply k status detail result).images = s.images :=
  (replies_finalReply s k status detail result).images

theorem finalReply_image (s : State) (k status detail : Nat) (result : List Byte) (i : Nat) :
    (s.finalReply k status detail result).image i = s.image i :=
  (replies_finalReply s k status detail result).image i

/-- A reply of a pair that hears is written (R448, R463). -/
theorem mem_out_replyTo {s : State} {p : Port} {r : Ring} (hears : Hears s p r) (index : Nat) (pk : List Byte)
    (kind status detail : Nat) (result : List Byte) : replyWrite s p r index pk kind status detail result ∈
      ((s.replyTo p r index pk kind status detail result false false).port p).out := by
  obtain ⟨on, ge, le, up, d0⟩ := hears
  have size : ringSize (s.fld (aCC_CTRL p r) CC_CTRL.LOG2N) = 2 ^ s.fld (aCC_CTRL p r) CC_CTRL.LOG2N := by
    rw [ringSize, if_pos ⟨ge, le⟩]
  have some_ : (2 ^ s.fld (aCC_CTRL p r) CC_CTRL.LOG2N == 0) = false := by simp
  unfold State.replyTo
  extract_lets q k flags written counted
  have hq : q = 2 ^ s.fld (aCC_CTRL p r) CC_CTRL.LOG2N := size
  rw [if_neg (by simp [on, hq])]
  have same : replyWrite s p r index pk kind status detail result = .write (CR_BASE.ADDR.get (s.reg (aCC_BASE p r)) * 4096 +
      32 * (k % q)) (replyBytes (pkTag pk) (pkOp pk) status flags k index detail result) false := by
    simp [Claims.replyWrite, replyBytes, flags, k, hq, ringPhase, b2n, pkTag, pkOp]
  have out : replyWrite s p r index pk kind status detail result ∈ (written.port p).out :=
    same ▸ mem_out_hostWrite s p _ _ false up d0
  have out' : replyWrite s p r index pk kind status detail result ∈ (counted.port p).out := by
    rw [State.port_setFld]
    exact out
  split
  · exact ((tells_msix counted p _).port p).out out'
  · exact out'

theorem hears_modRing {s : State} {p : Port} {r : Ring} (hears : Hears s p r) (f : RingSt → RingSt) :
    Hears (s.modRing p r f) p r := by
  obtain ⟨on, ge, le, up, d0⟩ := hears
  have link := ((proceeds_modRing s p r f).port p)
  exact ⟨on, ge, le, link.up.trans up, link.d3.trans d0⟩

/-- The final reply of a packet that carries no signal is written where its pair hears. -/
theorem mem_out_finalTo {s : State} {p : Port} {r : Ring} (hears : Hears s p r) (index : Nat) {pk : List Byte}
    (h : bit (field pk 2 1) 1 = false) (status detail : Nat) (result : List Byte) :
    replyWrite s p r index pk 0 status detail result ∈ ((s.finalTo p r index pk false status detail result).port p).out := by
  rw [State.finalTo, hostSignal_of_no_signal s p r h]
  dsimp only
  refine ((((proceeds_outStat ..).trans (proceeds_ringGo ..)).port p).out) ?_
  rw [if_neg (by decide)]
  have hears' := hears_modRing hears fun q => { q with reserved := q.reserved - 1 }
  exact mem_out_replyTo hears' index pk 0 status detail result

theorem Tells.hears {s u : State} (h : Tells s u) {p : Port} {r : Ring} (hears : Hears s p r) : Hears u p r := by
  obtain ⟨on, ge, le, up, d0⟩ := hears
  have ctrl : ∀ f, u.fld (aCC_CTRL p r) f = s.fld (aCC_CTRL p r) f := h.fld (not_hostReg_ring p r 0x28 (by decide))
  have ring : ∀ f, u.fld (aCR_CTRL p r) f = s.fld (aCR_CTRL p r) f := h.fld (not_hostReg_ring p r 0x08 (by decide))
  refine ⟨?_, (ctrl _).symm ▸ ge, (ctrl _).symm ▸ le, (h.port p).up.trans up, (h.port p).d3.trans d0⟩
  rw [← on, State.pairOn, State.pairOn, State.flag, State.flag, State.flag, State.flag, ctrl, ring]

theorem Tells.replyWrite {s u : State} (h : Tells s u) (p : Port) (r : Ring) (index : Nat) (pk : List Byte)
    (kind status detail : Nat) (result : List Byte) :
    replyWrite u p r index pk kind status detail result = replyWrite s p r index pk kind status detail result := by
  have ctrl : ∀ f, u.fld (aCC_CTRL p r) f = s.fld (aCC_CTRL p r) f := h.fld (not_hostReg_ring p r 0x28 (by decide))
  have stat : ∀ f, u.fld (aCC_STAT p r) f = s.fld (aCC_STAT p r) f := h.fld (not_hostReg_ring p r 0x30 (by decide))
  have base : u.reg (aCC_BASE p r) = s.reg (aCC_BASE p r) := h.reg _ (not_hostReg_ring p r 0x20 (by decide))
  simp only [Claims.replyWrite, ctrl, stat, base]

/-- A claimed command is answered by its final reply, the hosts having perhaps been written to before it (R455, R463). -/
theorem answered_finalReply {s t : State} (h : Tells s t) {k : Nat} {q : Claimed} (hq : s.claim? k = some q) (status detail : Nat)
    (result : List Byte) : Answered s (t.finalReply k status detail result) q status detail result := by
  have hq' : t.claim? k = some q := by
    rw [← hq, State.claim?, State.claim?, show t.claimed = s.claimed from (congrArg State.claimed h.rest :)]
  refine ⟨fun c hc => ?_, fun owned unsignalled hears => ?_⟩
  · rw [claim_id hq]
    exact (not_claimed_finalReply t k status detail result c hc).1
  · rw [finalReply_of_claim hq', owned, ← h.replyWrite]
    exact mem_out_finalTo (s := unclaimed t k) (h.hears hears) _ unsignalled _ _ _

end Sys2Proof.Proofs
end

section
/-! SUPPORT. Commands that Ahnal answers from what it keeps (R37-R41, R466, R474, R475, R508, R524). -/

namespace Sys2Proof.Proofs
open Sys2Proof.Machine Sys2Proof.Claims

/-! Commands taken up -/

/-- A command that leaves memory answers as its meaning says. -/
theorem answers_commit {i : Instr} {s : State} {P : State → Prop} (t : State) (h : exec i s = .next (s.commit t))
    (hp : P (s.commit t)) : Answers i s P := ⟨_, h, ⟨rfl, rfl, rfl⟩, hp⟩

theorem claim_of_cmdReady {s : State} {k op : Nat} {q : Claimed} (h : s.cmdReady k op = some q) : s.claim? k = some q := by
  unfold State.cmdReady at h
  split at h
  · simp at h
  · rename_i hq
    dsimp only at h
    split at h
    · rw [hq, h]
    · simp at h

theorem onCmd_of_ready {s : State} {k op : Nat} {q : Claimed} (h : s.cmdReady k op = some q) (f : Claimed → State) :
    s.onCmd k op f = f q := by
  rw [State.onCmd, h]

theorem onImage_of_ready {s : State} {k op : Nat} {q : Claimed} {slot : Slot} {im : Image} (h : s.cmdReady k op = some q)
    (hi : s.byHandle (field q.packet 8 4) = some (slot, im)) (f : Claimed → Slot → Image → State × MemUpd) :
    s.onImage k op f = f q slot im := by
  rw [← pkHandle] at hi
  simp only [State.onImage, h, hi]

/-- What a handle names is the image of its slot. -/
theorem image_of_byHandle {s : State} {h : Nat} {slot : Slot} {im : Image} (hi : s.byHandle h = some (slot, im)) :
    s.image slot = some im := by
  unfold State.byHandle at hi
  split at hi
  · rename_i i hs
    split at hi
    · obtain ⟨rfl, rfl⟩ : Fin.ofNat 16 h = slot ∧ i = im := by simpa using hi
      exact (dif_pos (Fin.ofNat 16 h).isLt).trans hs
    · simp at hi
  · simp at hi

/-- Replies depend on control space and the ports alone. -/
theorem answered_of_same {s t u : State} {q : Claimed} {status detail : Nat} {result : List Byte} (regs : t.regs = s.regs)
    (ports : t.ports = s.ports) (h : Answered t u q status detail result) : Answered s u q status detail result := by
  have reg : ∀ a, t.reg a = s.reg a := fun a => by rw [State.reg, State.reg, regs]
  have port : ∀ p, t.port p = s.port p := fun p => by rw [State.port, State.port, ports]
  simpa only [Answered, Hears, replyWrite, State.pairOn, State.flag, State.fld, reg, port] using h

/-- The state in which a command is answered: its images and cores aside, that of the command, but for what the hosts were told. -/
structure Before (s t : State) (k : Nat) (q : Claimed) : Prop where
  told : ∃ r, r.regs = s.regs ∧ r.ports = s.ports ∧ r.claimed = s.claimed ∧ r.cores = s.cores ∧ Tells r t
  claim : s.claim? k = some q

theorem Before.claim_t {s t : State} {k : Nat} {q : Claimed} (h : Before s t k q) : t.claim? k = some q := by
  obtain ⟨⟨r, -, -, claimed, -, tells⟩, claim⟩ := h
  rw [← claim, State.claim?, State.claim?, show t.claimed = r.claimed from (congrArg State.claimed tells.rest :), claimed]

theorem before_of_tells {s t : State} {k : Nat} {q : Claimed} (h : Tells s t) (hq : s.claim? k = some q) : Before s t k q :=
  ⟨⟨s, rfl, rfl, rfl, rfl, h⟩, hq⟩

theorem Before.answered {s t : State} {k : Nat} {q : Claimed} (h : Before s t k q) (status detail : Nat) (result : List Byte) :
    Answered s (s.commit (t.finalReply k status detail result)) q status detail result := by
  obtain ⟨⟨r, regs, ports, claimed, -, tells⟩, claim⟩ := h
  have claim' : r.claim? k = some q := by rw [← claim, State.claim?, State.claim?, claimed]
  exact answered_of_same regs ports (answered_finalReply tells claim' status detail result)

/-- Where its reply is silent, a command leaves the cores. -/
theorem Before.cores {s t : State} {k : Nat} {q : Claimed} (h : Before s t k q) (status detail : Nat) (result : List Byte)
    (silent : Silent s q.packet) : (s.commit (t.finalReply k status detail result)).cores = s.cores := by
  obtain ⟨⟨r, regs, -, -, cores, tells⟩, -⟩ := id h
  obtain ⟨unsignalled, running⟩ := silent
  have proceeds := proceeds_finalReply (s := t) (k := k) status detail result fun q' h' => by
    rw [Option.some.inj (h'.symm.trans h.claim_t)]
    exact unsignalled
  have running' : NotFatal r := by
    rw [NotFatal, State.flag, State.fld, State.reg, regs]
    exact running
  have told := tells.proceeds.still running'
  exact ((proceeds.still told.2).1.trans told.1).trans cores

theorem Before.steady {s t : State} {k : Nat} {q : Claimed} (h : Before s t k q) (images : t.images = s.images)
    (status detail : Nat) (result : List Byte) : Steady s (s.commit (t.finalReply k status detail result)) q.packet :=
  ⟨(finalReply_images ..).trans images, h.cores status detail result⟩

/-- What has gone out before a reply is still there after it. -/
theorem mem_out_finalReply {t : State} {p : Port} {x : Tlp} (h : x ∈ (t.port p).out) (k status detail : Nat) (result : List Byte) :
    x ∈ ((t.finalReply k status detail result).port p).out :=
  ((replies_finalReply t k status detail result).port p).out h

/-- A record written to the host before the reply has been written. -/
theorem wrote_record (s : State) (p : Port) (a : Nat) (bs : List Byte) (bad : Bool) (k status detail : Nat) (result : List Byte) :
    Wrote s (s.commit ((s.hostWrite p a bs bad).finalReply k status detail result)) p a bs bad :=
  fun up d0 => mem_out_finalReply (mem_out_hostWrite s p a bs bad up d0) ..

/-- A command answered by a record and its final reply. -/
theorem answers_record {i : Instr} {s : State} {k : Nat} {q : Claimed} (hq : s.claim? k = some q) (a : Nat) (bs : List Byte)
    (bad : Bool) (h : exec i s = .next (s.commit ((s.hostWrite q.port a bs bad).finalReply k 0 0 []))) :
    Answers i s fun u => Steady s u q.packet ∧ Answered s u q 0 0 [] ∧ Wrote s u q.port a bs bad :=
  have before := before_of_tells (tells_hostWrite s q.port a bs bad) hq
  answers_commit _ h ⟨before.steady (congrArg State.images (tells_hostWrite s q.port a bs bad).rest :) 0 0 [], before.answered 0 0 [], wrote_record s q.port a bs bad k 0 0 []⟩

/-- A command answered by its final reply alone. -/
theorem answers_reply {i : Instr} {s : State} {k : Nat} {q : Claimed} (hq : s.claim? k = some q) (status detail : Nat)
    (h : exec i s = .next (s.commit (s.finalReply k status detail []))) :
    Answers i s fun u => Steady s u q.packet ∧ Answered s u q status detail [] :=
  have before := before_of_tells (.refl s) hq
  answers_commit _ h ⟨before.steady rfl status detail [], before.answered status detail []⟩

/-! Ownership and stewardship (R466) -/

/-- A change of owner is told to both hosts. -/
theorem tells_setImageOwner (s : State) (slot : Slot) (im : Image) (o : Option Port) :
    Tells (s.modImage slot fun i => { i with owner := o }) (s.setImageOwner slot im o) :=
  tells_forAll _ _ _ fun _ _ _ => tells_event ..

theorem before_setImageOwner {s : State} {k : Nat} {q : Claimed} (hq : s.claim? k = some q) (slot : Slot) (im : Image)
    (o : Option Port) : Before s (s.setImageOwner slot im o) k q :=
  ⟨⟨_, State.modImage_regs .., State.modImage_ports .., State.modImage_claimed .., State.modImage_cores ..,
    tells_setImageOwner s slot im o⟩, hq⟩

/-- A command that changes its image's owner, and is answered so. -/
theorem answers_owner {i : Instr} {s : State} {k : Nat} {q : Claimed} {slot : Slot} {im : Image} (hq : s.claim? k = some q)
    (hi : s.image slot = some im) (o : Option Port)
    (h : exec i s = .next (s.commit ((s.setImageOwner slot im o).finalReply k 0 0 []))) :
    Answers i s fun u => u.image slot = some { im with owner := o } ∧ Answered s u q 0 0 [] ∧
      (Silent s q.packet → u.cores = s.cores) ∧ ∀ x : Slot, x ≠ slot → u.image x = s.image x := by
  have before := before_setImageOwner hq slot im o
  have images : ∀ x, (s.commit ((s.setImageOwner slot im o).finalReply k 0 0 [])).image x =
      (s.modImage slot fun i => { i with owner := o }).image x := fun x =>
    (finalReply_image ..).trans ((tells_setImageOwner s slot im o).proceeds.image x)
  refine answers_commit _ h ⟨?_, before.answered 0 0 [], before.cores 0 0 [], fun x hx => ?_⟩
  · rw [images, State.image_modImage_self, hi]
    rfl
  · rw [images, State.image_modImage_ne _ _ fun e => hx (Fin.ext e)]

theorem tells_setSteward (s : State) (p : Port) : Tells (s.modMgmt fun m => { m with steward := p }) (s.setSteward p) :=
  tells_forAll _ _ _ fun _ _ _ => tells_event ..

/-- A link that is up has not been down for long (R456). -/
theorem downLong_of_up {s : State} {p : Port} (h : (s.port p).up = true) : s.downLong p = (false, s) := by
  rw [State.downLong]
  simp [h]

theorem other_port_ne : ∀ p : Port, 1 - p ≠ p := by decide

/-- RELEASE and ADOPT (R466). -/
theorem answers_ownership {s : State} {k : Nat} {q : Claimed} {slot : Slot} {im : Image}
    (hi : s.byHandle (field q.packet 8 4) = some (slot, im)) :
    (s.cmdReady k 0x0014 = some q → im.owner = some q.port → Answers (.release k) s fun u =>
      u.image slot = some { im with owner := none } ∧ Answered s u q 0 0 [] ∧ (Silent s q.packet → u.cores = s.cores) ∧
        ∀ x : Slot, x ≠ slot → u.image x = s.image x) ∧
    (s.cmdReady k 0x0014 = some q → im.owner ≠ some q.port → Answers (.release k) s fun u =>
      Steady s u q.packet ∧ Answered s u q 0x21 0 []) ∧
    (s.cmdReady k 0x0015 = some q → im.owner = none → Answers (.adopt k) s fun u =>
      u.image slot = some { im with owner := some q.port } ∧ Answered s u q 0 0 [] ∧ (Silent s q.packet → u.cores = s.cores) ∧
        ∀ x : Slot, x ≠ slot → u.image x = s.image x) ∧
    ∀ x, s.cmdReady k 0x0015 = some q → im.owner = some x → x ≠ q.port → (s.port x).up = true → Answers (.adopt k) s fun u =>
      Steady s u q.packet ∧ Answered s u q 0x21 0x0009 [] := by
  have image := image_of_byHandle hi
  refine ⟨fun h own => answers_owner (claim_of_cmdReady h) image none ?_, fun h own => answers_reply (claim_of_cmdReady h) 0x21 0 ?_,
    fun h own => answers_owner (claim_of_cmdReady h) image (some q.port) ?_,
    fun x h own other up => answers_reply (claim_of_cmdReady h) 0x21 0x0009 ?_⟩
  · rw [exec, execRelease, onImage_of_ready h hi, if_neg (not_not.2 own)]
    rfl
  · rw [exec, execRelease, onImage_of_ready h hi, if_pos own]
    rfl
  · rw [exec, execAdopt, onImage_of_ready h hi]
    simp only [own]
    rfl
  · rw [exec, execAdopt, onImage_of_ready h hi]
    simp only [own, if_neg other, downLong_of_up up]
    rfl

/-- STEWARD_HANDOFF (R466). -/
theorem answers_stewardHandoff {s : State} {k : Nat} {q : Claimed} (hq : s.cmdReady k 0x0051 = some q) :
    (field q.packet 0x20 1 = 0 → s.mgmt.steward = q.port → (s.port (1 - q.port)).up = true → Answers (.stewardHandoff k) s fun u =>
      Steady s u q.packet ∧ u.mgmt.steward = 1 - q.port ∧ Answered s u q 0 0 []) ∧
    (field q.packet 0x20 1 = 0 → s.mgmt.steward = q.port → (s.port (1 - q.port)).up = false → Answers (.stewardHandoff k) s fun u =>
      Steady s u q.packet ∧ u.mgmt.steward = q.port ∧ Answered s u q 0x10 0x0009 []) ∧
    (field q.packet 0x20 1 ≠ 0 → s.mgmt.steward = 1 - q.port → (s.port (1 - q.port)).up = true → Answers (.stewardHandoff k) s fun u =>
      Steady s u q.packet ∧ u.mgmt.steward = 1 - q.port ∧ Answered s u q 0x10 0x0009 []) := by
  have claim := claim_of_cmdReady hq
  have run : exec (.stewardHandoff k) s = execStewardHandoff k s := rfl
  have steward : ∀ t : State, (s.commit (t.finalReply k 0x10 0x0009 [])).mgmt.steward = t.mgmt.steward := fun t =>
    (replies_finalReply ..).steward
  have refused (h : exec (.stewardHandoff k) s = .next (s.commit (s.finalReply k 0x10 0x0009 []))) {x : Port}
      (hx : s.mgmt.steward = x) : Answers (.stewardHandoff k) s fun u => Steady s u q.packet ∧ u.mgmt.steward = x ∧
        Answered s u q 0x10 0x0009 [] := by
    have before := before_of_tells (.refl s) claim
    exact answers_commit _ h ⟨before.steady rfl .., (steward s).trans hx, before.answered ..⟩
  refine ⟨fun give own up => ?_, fun give own down => refused ?_ own, fun take own up => refused ?_ own⟩
  · have told := tells_setSteward s (1 - q.port)
    have before : Before s (s.setSteward (1 - q.port)) k q := ⟨⟨s.modMgmt fun m => { m with steward := 1 - q.port }, rfl, rfl, rfl, rfl, told⟩, claim⟩
    refine answers_commit ((s.setSteward (1 - q.port)).finalReply k 0 0 []) ?_
      ⟨before.steady told.proceeds.images .., ?_, before.answered ..⟩
    · simp only [run, execStewardHandoff, onCmd_of_ready hq, pkArg, Nat.add_zero, give, own, up, ne_eq, not_true, if_true, if_false]
      rfl
    · exact (replies_finalReply ..).steward.trans told.proceeds.steward
  · simp only [run, execStewardHandoff, onCmd_of_ready hq, pkArg, Nat.add_zero, give, own, down, ne_eq, not_true, if_true, if_false, Bool.false_eq_true]
    rfl
  · simp only [run, execStewardHandoff, onCmd_of_ready hq, pkArg, Nat.add_zero, if_neg take, own, if_neg (other_port_ne q.port), downLong_of_up up,
      if_false, Bool.false_eq_true]
    rfl

/-! Power state, spares, the dump -/

theorem lt_clusters_aPWR_STATE : aPWR_STATE < clusterBlk 0 := by decide

/-- A change of power state begins (R41). -/
theorem powerReq_begins {s : State} {target : Nat} (h : s.pstate ≠ 3) (h' : s.pstate ≠ target) :
    s.powerReq target =
      (s.modMgmt fun m => { m with powerTarget := some (target + 4 * s.pstate) }).setFld aPWR_STATE PWR_STATE.STATE 3 := by
  rw [State.powerReq, if_neg (by simp [h, h'])]

theorem pstate_setFld (s : State) (v : Nat) : (s.setFld aPWR_STATE PWR_STATE.STATE v).pstate = v % 4 :=
  s.fld_setFld_self aPWR_STATE PWR_STATE.STATE v (by decide)

/-- POWER_STATE (R37, R39, R41). -/
theorem answers_powerState {s : State} {k : Nat} {q : Claimed} (hq : s.cmdReady k 0x0050 = some q) (h3 : s.pstate ≠ 3) :
    (s.pstate = field q.packet 0x20 1 → Answers (.powerState k) s fun u => Steady s u q.packet ∧ u.pstate = s.pstate ∧
      Answered s u q 0 0 []) ∧
    (s.pstate ≠ field q.packet 0x20 1 → (field q.packet 0x20 1 = 2 → ∀ i : Slot, ∀ im ∈ s.image i, im.state = .loaded) →
      Answers (.powerState k) s fun u => Steady s u q.packet ∧ u.pstate = 3 ∧ u.mgmt.powerCmd = some k ∧
        u.mgmt.powerTarget = some (field q.packet 0x20 1 + 4 * s.pstate) ∧ RegsBut s u [aPWR_STATE] ∧ u.ports = s.ports) := by
  have claim := claim_of_cmdReady hq
  have run : exec (.powerState k) s = execPowerState k s := rfl
  refine ⟨fun same => ?_, fun other idle => ?_⟩
  · have before := before_of_tells (.refl s) claim
    refine answers_commit (s.finalReply k 0 0 []) ?_ ⟨before.steady rfl .., ?_, before.answered ..⟩
    · simp only [run, execPowerState, onCmd_of_ready hq, pkArg, Nat.add_zero, same ▸ h3, same, if_true, if_false]
      rfl
    · exact (replies_finalReply ..).fld lt_clusters_aPWR_STATE _
  · have quiet : ¬(field q.packet 0x20 1 = 2 ∧ (s.loadedSlots.any fun i => (s.image i).any (·.active)) = true) := by
      rintro ⟨winter, busy⟩
      obtain ⟨i, hi, active⟩ := List.any_eq_true.1 busy
      have lt : i < 16 := by simpa using (List.mem_filter.1 hi).1
      cases him : s.image i with
      | none => simp [him] at active
      | some im => simp [him, Image.active, idle winter ⟨i, lt⟩ im him] at active
    have same : (s.claimBegun k).pstate = s.pstate := rfl
    have begins := powerReq_begins (s := s.claimBegun k) h3 other
    refine answers_commit (((s.claimBegun k).powerReq (field q.packet 0x20 1)).modMgmt fun m => { m with powerCmd := some k }) ?_ ?_
    · simp only [run, execPowerState, onCmd_of_ready hq, pkArg, Nat.add_zero, h3, other, quiet, if_false]
      rfl
    · rw [begins]
      refine ⟨⟨by simp [State.claimBegun], fun _ => by simp [State.claimBegun]⟩, ?_, by simp, by simp [same],
        fun a ha => ?_, by simp [State.claimBegun]⟩
      · rw [State.pstate, State.fld_commit, State.fld_modMgmt]
        exact pstate_setFld _ 3
      · rw [State.reg_commit, State.reg_modMgmt, State.reg_setFld_ne _ _ _ (by simpa using ha)]
        rfl

/-- SPARE_STATUS (R517, R524). -/
theorem answers_spareStatus {s : State} {k : Nat} {q : Claimed} (hq : s.cmdReady k 0x0060 = some q) :
    (field q.packet 0x20 1 = 0 → Answers (.spareStatusReport k) s fun u => Steady s u q.packet ∧ Answered s u q 0 0 [] ∧
      Wrote s u q.port (field q.packet 0x28 8) s.spareRecord false) ∧
    (field q.packet 0x20 1 = 1 → Answers (.spareStatusScan k) s fun u => u.regs = s.regs ∧ u.ports = s.ports ∧
      Steady s u q.packet ∧ u.claimed = s.claimed.map fun e => if e.id = k then { e with begun := true } else e) := by
  refine ⟨fun report => answers_record (claim_of_cmdReady hq) _ _ _ ?_, fun scan => answers_commit (s.claimBegun k) ?_
    ⟨rfl, rfl, ⟨rfl, fun _ => rfl⟩, rfl⟩⟩
  · simp only [exec, execSpareStatusReport, onCmd_of_ready hq, pkArg, Nat.add_zero, Nat.reduceAdd, report, ne_eq, not_true, if_false]
    rfl
  · simp only [exec, execSpareStatusScan, onCmd_of_ready hq, pkArg, Nat.add_zero, scan, ne_eq, not_true, if_false]
    rfl

/-- DUMP_READ of the near-tier dump (R508). -/
theorem answers_dumpRead {s : State} {k : Nat} {q : Claimed} (hq : s.cmdReady k 0x0061 = some q) :
    (field q.packet 0x20 8 % 8 = 0 → field q.packet 0x28 8 % 8 = 0 → field q.packet 0x20 8 + field q.packet 0x28 8 ≤ 2 ^ 33 →
      field q.packet 0x38 1 = 0 → Answers (.dumpRead k) s fun u => Steady s u q.packet ∧ Answered s u q 0 0 [] ∧
        Wrote s u q.port (field q.packet 0x30 8)
          ((addrs (dumpBase + field q.packet 0x20 8) (field q.packet 0x28 8)).map (memByte s.mem))
          ((addrs (dumpBase + field q.packet 0x20 8) (field q.packet 0x28 8)).any s.badByte)) ∧
    (2 ^ 33 < field q.packet 0x20 8 + field q.packet 0x28 8 → Answers (.dumpRead k) s fun u => Steady s u q.packet ∧
      Answered s u q 0x22 0x0007 []) := by
  have claim := claim_of_cmdReady hq
  refine ⟨fun o8 n8 fits near => answers_record claim _ _ _ ?_, fun beyond => answers_reply claim 0x22 0x0007 ?_⟩
  · have inside : ¬2 ^ 33 < field q.packet 0x20 8 + field q.packet 0x28 8 := Nat.not_lt.2 fits
    simp only [exec, execDumpRead, onCmd_of_ready hq, pkArg, Nat.add_zero, Nat.reduceAdd, o8, n8, near, inside, ne_eq, not_true, or_self, if_false, if_true]
    rw [addrs, List.map_map]
    rfl
  · simp only [exec, execDumpRead, onCmd_of_ready hq, pkArg, Nat.add_zero, Nat.reduceAdd, beyond, or_true, if_true]
    rfl

/-- Settles O42: each command is taken up as its packet asks, and its final reply leaves what Ahnal has changed before it. -/
theorem commandsAnswered : Obligations.CommandsAnswered := by
  intro s k q pk p wrote steady
  refine ⟨fun h => answers_record (claim_of_cmdReady h) _ _ _ ?_, fun slot im hi => ⟨fun h => answers_record (claim_of_cmdReady h) _ _ _ ?_,
    answers_ownership hi⟩, fun h => (answers_stewardHandoff h).1, fun h => (answers_stewardHandoff h).2.1,
    fun h => (answers_stewardHandoff h).2.2, fun h h3 => (answers_powerState h h3).1, fun h h3 => (answers_powerState h h3).2,
    fun h => (answers_spareStatus h).1, fun h => (answers_spareStatus h).2, fun h => (answers_dumpRead h).1,
    fun h => (answers_dumpRead h).2⟩
  · simp only [exec, execQueryResources, onCmd_of_ready h]
    rfl
  · simp only [exec, execStatus, onImage_of_ready h hi]
    rfl

end Sys2Proof.Proofs
end

section
/-! SUPPORT. Walks over the rails, the boot flash and its records, and what a reset of every block leaves. -/

namespace Sys2Proof.Proofs
open Sys2Proof.Machine Sys2Proof.Claims

theorem reg_of_regs {s u : State} (h : u.regs = s.regs) (a : Nat) : u.reg a = s.reg a := by
  rw [State.reg, State.reg, h]

theorem fld_of_reg {s u : State} {a : Nat} (h : u.reg a = s.reg a) (f : Field) : u.fld a f = s.fld a f := by
  rw [State.fld, State.fld, h]

theorem flag_of_reg {s u : State} {a : Nat} (h : u.reg a = s.reg a) (f : Field) : u.flag a f = s.flag a f := by
  rw [State.flag, State.flag, fld_of_reg h]

/-! The rails -/

/-- All of a state but control space and the windows in which rails were blocked. -/
def besideRails (s : State) : State := { s with regs := [], breachWin := [] }

/-- From `s` on only the status register of a rail has changed, and the windows in which it was blocked. -/
structure Steers (r : Nat) (s u : State) : Prop where
  rest : besideRails u = besideRails s
  reg : ∀ a, a ≠ aGOV_STAT r → u.reg a = s.reg a

/-- From `s` on only the status registers of rails have changed, and the windows in which they were blocked. -/
structure OffRails (s u : State) : Prop where
  rest : besideRails u = besideRails s
  reg : ∀ a, (∀ x < 76, a ≠ aGOV_STAT x) → u.reg a = s.reg a

theorem Steers.refl (r : Nat) (s : State) : Steers r s s := ⟨rfl, fun _ _ => rfl⟩

theorem Steers.trans {r : Nat} {s u v : State} (h : Steers r s u) (k : Steers r u v) : Steers r s v :=
  ⟨k.rest.trans h.rest, fun a ha => (k.reg a ha).trans (h.reg a ha)⟩

theorem Steers.fld {r : Nat} {s u : State} (h : Steers r s u) {a : Nat} (ha : a ≠ aGOV_STAT r) (f : Field) :
    u.fld a f = s.fld a f := by
  rw [State.fld, State.fld, h.reg a ha]

theorem OffRails.refl (s : State) : OffRails s s := ⟨rfl, fun _ _ => rfl⟩

theorem OffRails.steers {s t u : State} (h : OffRails s t) {r : Nat} (hr : r < 76) (k : Steers r t u) : OffRails s u :=
  ⟨k.rest.trans h.rest, fun a ha => (k.reg a (ha r hr)).trans (h.reg a ha)⟩

theorem OffRails.fld {s u : State} (h : OffRails s u) {a : Nat} (ha : ∀ x < 76, a ≠ aGOV_STAT x) (f : Field) :
    u.fld a f = s.fld a f := by
  rw [State.fld, State.fld, h.reg a ha]

theorem OffRails.flag {s u : State} (h : OffRails s u) {a : Nat} (ha : ∀ x < 76, a ≠ aGOV_STAT x) (f : Field) :
    u.flag a f = s.flag a f := by
  rw [State.flag, State.flag, h.fld ha]

theorem OffRails.images {s u : State} (h : OffRails s u) : u.images = s.images := (congrArg State.images h.rest :)
theorem OffRails.cores {s u : State} (h : OffRails s u) : u.cores = s.cores := (congrArg State.cores h.rest :)
theorem OffRails.mgmt {s u : State} (h : OffRails s u) : u.mgmt = s.mgmt := (congrArg State.mgmt h.rest :)
theorem OffRails.grade {s u : State} (h : OffRails s u) : u.grade = s.grade := (congrArg State.grade h.rest :)

theorem steers_setFld (s : State) (r : Nat) (f : Field) (v : Nat) : Steers r s (s.setFld (aGOV_STAT r) f v) :=
  ⟨rfl, fun _ ha => s.reg_setReg_ne _ ha⟩

theorem aGOV_STAT_inj {x y : Nat} (hx : x < 76) (hy : y < 76) (h : aGOV_STAT x = aGOV_STAT y) : x = y := by
  simp only [aGOV_STAT, railBlk] at h
  split at h <;> split at h <;> omega

/-- What lies outside the status registers of the rails: the settings of the rails, and registers below or beyond them. -/
theorem aGOV_SET_off_rails (r x : Nat) : aGOV_SET r ≠ aGOV_STAT x := by
  intro h
  simp only [aGOV_SET, aGOV_STAT, railBlk] at h
  split at h <;> split at h <;> omega

/-- The registers of the rails lie between those of the governor and those of the clocks. -/
theorem aGOV_SET_bounds {r : Nat} (hr : r < 76) : aGOV_SET r < powerBlk + 0x2000 ∧ powerBlk + 0x1000 ≤ aGOV_SET r := by
  simp only [aGOV_SET, railBlk]
  split <;> omega

theorem aGOV_STAT_bounds {r : Nat} (hr : r < 76) : aGOV_STAT r < powerBlk + 0x2000 ∧ powerBlk + 0x1000 ≤ aGOV_STAT r := by
  simp only [aGOV_STAT, railBlk]
  split <;> omega

theorem off_rails_of_lt {a : Nat} (h : a < powerBlk + 0x1000) (x : Nat) : a ≠ aGOV_STAT x := by
  rintro rfl
  simp only [aGOV_STAT, railBlk] at h
  split at h <;> omega

theorem off_rails_of_ge {a : Nat} (h : powerBlk + 0x2000 ≤ a) {x : Nat} (hx : x < 76) : a ≠ aGOV_STAT x := by
  rintro rfl
  simp only [aGOV_STAT, railBlk] at h
  split at h <;> omega

theorem forAll_range_succ (s : State) (n : Nat) (f : State → Nat → State) :
    s.forAll (List.range (n + 1)) f = f (s.forAll (List.range n) f) n := by
  simp [State.forAll, List.range_succ]

/-- A walk over the first rails: each finds its own status register as the walk found it, and leaves the others'. -/
theorem forAll_rails_upTo {f : State → Nat → State} (hf : ∀ s, ∀ r < 76, Steers r s (f s r)) (s : State) (n : Nat) (hn : n ≤ 76) :
    OffRails s (s.forAll (List.range n) f) ∧
    (∀ r < 76, n ≤ r → (s.forAll (List.range n) f).reg (aGOV_STAT r) = s.reg (aGOV_STAT r)) ∧
    ∀ r < n, ∃ t, OffRails s t ∧ t.reg (aGOV_STAT r) = s.reg (aGOV_STAT r) ∧
      (s.forAll (List.range n) f).reg (aGOV_STAT r) = (f t r).reg (aGOV_STAT r) := by
  induction n with
  | zero => exact ⟨.refl s, fun _ _ _ => rfl, fun _ h => absurd h (Nat.not_lt_zero _)⟩
  | succ n ih =>
    obtain ⟨off, later, earlier⟩ := ih (by omega)
    have step := hf (s.forAll (List.range n) f) n (by omega)
    have apart : ∀ r < 76, r ≠ n → (f (s.forAll (List.range n) f) n).reg (aGOV_STAT r) =
        (s.forAll (List.range n) f).reg (aGOV_STAT r) := fun r hr ne =>
      step.reg _ fun e => ne (aGOV_STAT_inj hr (by omega) e)
    rw [forAll_range_succ]
    refine ⟨off.steers (by omega) step, fun r hr le => ?_, fun r hr => ?_⟩
    · rw [apart r hr (by omega), later r hr (by omega)]
    · rcases Nat.lt_succ_iff_lt_or_eq.1 hr with lt | rfl
      · obtain ⟨t, ht, same, value⟩ := earlier r lt
        exact ⟨t, ht, same, (apart r (by omega) (by omega)).trans value⟩
      · exact ⟨_, off, later r (by omega) (Nat.le_refl _), rfl⟩

/-- A walk over all rails. -/
theorem forAll_rails {f : State → Nat → State} (hf : ∀ s, ∀ r < 76, Steers r s (f s r)) (s : State) :
    OffRails s (s.forAll (List.range 76) f) ∧
    ∀ r < 76, ∃ t, OffRails s t ∧ t.reg (aGOV_STAT r) = s.reg (aGOV_STAT r) ∧
      (s.forAll (List.range 76) f).reg (aGOV_STAT r) = (f t r).reg (aGOV_STAT r) :=
  have ⟨off, _, each⟩ := forAll_rails_upTo hf s 76 (Nat.le_refl _)
  ⟨off, each⟩

/-! The boot flash (R476, R489, R533, R534) -/

/-- All of a state but the boot flash, its buffer, the service records that wait, and the free values drawn. -/
def besideFlash (s : State) : State :=
  { s with free := 0, mgmt := { s.mgmt with flash := [], bfBuf := [], svcWait := [] } }

theorem keeps_of_besideFlash {s u : State} (h : besideFlash u = besideFlash s) :
    u.regs = s.regs ∧ u.cores = s.cores ∧ u.images = s.images ∧ u.ports = s.ports ∧ u.pins = s.pins ∧ u.txns = s.txns ∧ u.claimed = s.claimed :=
  ⟨(congrArg State.regs h :), (congrArg State.cores h :), (congrArg State.images h :), (congrArg State.ports h :), (congrArg State.pins h :),
    (congrArg State.txns h :), (congrArg State.claimed h :)⟩

theorem besideFlash_flashProgram (s : State) (a : Nat) (bs : List Byte) : besideFlash (s.flashProgram a bs) = besideFlash s := rfl

theorem besideFlash_flashErase (s : State) (a n : Nat) : besideFlash (s.flashErase a n) = besideFlash s := rfl

theorem besideFlash_forAll {α : Type} (s : State) (l : List α) (f : State → α → State)
    (h : ∀ s, ∀ a ∈ l, besideFlash (f s a) = besideFlash s) : besideFlash (s.forAll l f) = besideFlash s :=
  State.forAll_keeps besideFlash l f h s

theorem besideFlash_freshPage (n : Nat) (s : State) (base p : Nat) :
    besideFlash (State.freshPage n s base p).1 = besideFlash s := by
  induction n generalizing p with
  | zero => rfl
  | succ n ih =>
    unfold State.freshPage
    dsimp only
    split
    · rfl
    · split
      · exact besideFlash_flashErase ..
      · exact ih _

theorem besideFlash_appendPage (s : State) (base : Nat) (last : Option Nat) (bs : List Byte) :
    besideFlash (s.appendPage base last bs).1 = besideFlash s := by
  have fresh := besideFlash_freshPage 17 s base ((last.map (· + 1)).getD 0)
  unfold State.appendPage
  revert fresh
  generalize State.freshPage 17 s base _ = found
  intro fresh
  exact (besideFlash_flashProgram ..).trans fresh

theorem besideFlash_svcPut (s : State) (type slots : Nat) (content : List Byte) :
    besideFlash (s.svcPut type slots content) = besideFlash s := by
  unfold State.svcPut
  dsimp only
  generalize Option.map (fun r : SvcRec => (r.page + r.slots + areaPages - 1) % areaPages) s.svcLast = start
  generalize (Option.map (fun r : SvcRec => r.seq + 1) s.svcLast).getD 0 = seq
  suffices pages : ∀ (l : List Nat) (r : State × Option Nat), besideFlash (l.foldl (fun (r : State × Option Nat) i =>
      let bs := toBytes 4 0x5352_4543 ++ toBytes 1 type ++ toBytes 1 i ++ toBytes 1 slots ++ toBytes 1 0 ++ toBytes 4 seq ++
        ((content.drop (240 * i)).take 240)
      let (s, p) := r.1.appendPage svcBase r.2 (sealPage bs)
      (s, some p)) r).1 = besideFlash r.1 from pages _ _
  intro l
  induction l with
  | nil => exact fun _ => rfl
  | cons i l ih =>
    intro r
    rw [List.foldl_cons, ih]
    exact besideFlash_appendPage ..

theorem besideFlash_svcAppend (s : State) (type slots : Nat) (content : List Byte) :
    besideFlash (s.svcAppend type slots content) = besideFlash s := by
  unfold State.svcAppend
  split
  · rfl
  · exact (besideFlash_svcPut ..).trans (besideFlash_forAll _ _ _ fun _ _ _ => besideFlash_svcPut ..)

theorem besideFlash_flashUnknown (s : State) (a n : Nat) : besideFlash (s.flashUnknown a n) = besideFlash s :=
  besideFlash_forAll _ _ _ fun _ _ _ => rfl

theorem besideFlash_bfAbandon (s : State) : besideFlash s.bfAbandon = besideFlash s := by
  unfold State.bfAbandon
  split
  · split
    · rfl
    · exact besideFlash_flashUnknown ..
  · rfl

theorem besideFlash_bfFinish (s : State) : besideFlash s.bfFinish = besideFlash s := by
  unfold State.bfFinish State.bfApply
  split
  · split
    · rfl
    · split
      · rfl
      · split
        · exact besideFlash_flashProgram ..
        · exact besideFlash_flashErase ..
  · rfl

/-! A reset of every block (R54, R489, R528) -/

/-- Every block of a state is reset, as `Blank` has it, but for memory, which its command loses. -/
structure Blanked (s t : State) : Prop where
  cores : t.cores = State.reset.cores
  images : t.images = State.reset.images
  txns : t.txns = []
  claimed : t.claimed = []
  port : ∀ p, (t.port p).up = false ∧ (t.port p).out = (s.port p).out

theorem Blanked.blank {s t : State} (h : Blanked s t) : Blank s (s.commitMem (t, .lost)) :=
  ⟨rfl, rfl, h.cores, h.images, h.txns, h.claimed, rfl, h.port, rfl⟩

/-- All of a state but control space. -/
def besideControl (s : State) : State := { s with regs := [] }

theorem besideControl_setReg (s : State) (a : Nat) (w : Word) : besideControl (s.setReg a w) = besideControl s := rfl

theorem besideControl_setFld (s : State) (a : Nat) (f : Field) (v : Nat) : besideControl (s.setFld a f v) = besideControl s :=
  besideControl_setReg ..

theorem keeps_of_besideControl {t u : State} (h : besideControl t = besideControl u) :
    t.cores = u.cores ∧ t.images = u.images ∧ t.txns = u.txns ∧ t.claimed = u.claimed ∧ t.ports = u.ports ∧
      t.pins = u.pins ∧ t.power = u.power :=
  ⟨(congrArg State.cores h :), (congrArg State.images h :), (congrArg State.txns h :), (congrArg State.claimed h :),
    (congrArg State.ports h :), (congrArg State.pins h :), (congrArg State.power h :)⟩

theorem blanked_blank (s : State) : Blanked s s.blank ∧ s.blank.pins = { s.pins with alert := false, fatal := false, lockup := false } ∧
    s.blank.power = s.power := by
  unfold State.blank
  extract_lets reset fresh _ _ _ swept fuses
  obtain ⟨cores, images, txns, claimed, ports, pins, power⟩ := keeps_of_besideControl
    ((State.forAll_keeps besideControl (List.range 32) (fun t f =>
      (t.setFld (aFC_STAT f) FC_STAT.SPARE_PCT (s.fld (aFC_STAT f) FC_STAT.SPARE_PCT)).setFld (aFC_STAT f) FC_STAT.WEAR
        (s.fld (aFC_STAT f) FC_STAT.WEAR)) (fun _ _ _ => (besideControl_setFld ..).trans (besideControl_setFld ..)) fuses).trans
      (State.forAll_keeps besideControl keptRegs (fun t a => t.setReg a (s.keptWord a)) (fun _ _ _ => besideControl_setReg ..) swept))
  refine ⟨⟨cores, images, txns, claimed, fun p => ?_⟩, pins, power⟩
  rw [State.port, ports]
  simp [swept, fresh, State.port, PortSt.reset]

end Sys2Proof.Proofs
end

section
/-! SUPPORT. Supply warnings, last gasp, main power and the thermal trip (R51-R57, R489, R500, R503, R527, R528, R552-R556). -/

namespace Sys2Proof.Proofs
open Sys2Proof.Machine Sys2Proof.Claims

/-! Events that set no alert -/

/-- From `s` on an event has been logged, and no alert raised. -/
structure Notes (s u : State) : Prop where
  logs : Logs s u
  reg : ∀ a, a ≠ aERRLOG_CTRL 0 → u.reg a = s.reg a
  pins : u.pins = s.pins

theorem Notes.refl (s : State) : Notes s s := ⟨.refl s, fun _ _ => rfl, rfl⟩

theorem Notes.trans {s u v : State} (h : Notes s u) (k : Notes u v) : Notes s v :=
  ⟨h.logs.trans k.logs, fun a ha => (k.reg a ha).trans (h.reg a ha), k.pins.trans h.pins⟩

theorem Notes.fld {s u : State} (h : Notes s u) {a : Nat} (ha : a ≠ aERRLOG_CTRL 0) (f : Field) : u.fld a f = s.fld a f := by
  rw [State.fld, State.fld, h.reg a ha]

theorem notes_setFld (s : State) (f : Field) (v : Nat) : Notes s (s.setFld (aERRLOG_CTRL 0) f v) :=
  ⟨logs_setFld .., fun _ ha => s.reg_setReg_ne _ ha, rfl⟩

/-- An event of another class than 0x03 and 0x04 raises no alert (R502). -/
theorem notes_logErr (s : State) {code : Nat} (kind index count handle data1 data0 : Nat) (low : ¬(code / 256 = 3 ∨ code / 256 = 4)) :
    Notes s (s.logErr code kind index count handle data1 data0) :=
  logErr_keeps (R := Notes) .trans (fun _ _ => ⟨⟨rfl, fun _ _ _ => rfl⟩, fun _ _ => rfl, rfl⟩)
    (fun _ _ _ => ⟨⟨rfl, fun _ _ _ => rfl⟩, fun _ _ => rfl, rfl⟩) notes_setFld (fun high => absurd high low) s kind index count handle data1 data0

theorem Logs.cores {s u : State} (h : Logs s u) : u.cores = s.cores := (congrArg State.cores h.rest :)
theorem Logs.images {s u : State} (h : Logs s u) : u.images = s.images := (congrArg State.images h.rest :)

/-! Supply warnings (R52, R53) -/

/-- A rail without a floor goes to 0.600 V. -/
def forceRail (s : State) (r : Nat) : State :=
  if s.fld (aGOV_SET r) GOV_SET.FLOOR = 0 then
    (s.setFld (aGOV_STAT r) GOV_STAT.RAIL 0).setFld (aGOV_STAT r) GOV_STAT.FORCED 1 else s

theorem steers_forceRail (s : State) (r : Nat) : Steers r s (forceRail s r) := by
  unfold forceRail
  split
  · exact (steers_setFld ..).trans (steers_setFld ..)
  · exact .refl r s

theorem rail_forceRail (s : State) (r : Nat) : (forceRail s r).fld (aGOV_STAT r) GOV_STAT.RAIL =
    if s.fld (aGOV_SET r) GOV_SET.FLOOR = 0 then 0 else s.fld (aGOV_STAT r) GOV_STAT.RAIL := by
  unfold forceRail
  split
  · simp +decide [State.fld_setFld_self, State.fld_setFld_apart]
  · rfl

theorem offRails_forceRails (s : State) : OffRails s (s.forAll (List.range 76) forceRail) :=
  (forAll_rails (fun t r _ => steers_forceRail t r) s).1

theorem rail_forceRails (s : State) {r : Nat} (hr : r < 76) :
    (s.forAll (List.range 76) forceRail).fld (aGOV_STAT r) GOV_STAT.RAIL =
      if s.fld (aGOV_SET r) GOV_SET.FLOOR = 0 then 0 else s.fld (aGOV_STAT r) GOV_STAT.RAIL := by
  obtain ⟨t, off, own, eq⟩ := (forAll_rails (fun t r _ => steers_forceRail t r) s).2 r hr
  rw [fld_of_reg eq, rail_forceRail, off.fld fun x _ => aGOV_SET_off_rails r x, fld_of_reg own]

/-- What a supply warning sets before it forces rails. -/
def warnSupply (s : State) (vin : Nat) : State :=
  let s := (s.setFld aSUPPLY_STAT SUPPLY_STAT.VIN vin).setFld aSUPPLY_STAT SUPPLY_STAT.WARN 1
  let s := (s.setFld aSUPPLY_EVT SUPPLY_EVT.WARN_SEEN 1).incFld aSUPPLY_EVT SUPPLY_EVT.WARN_COUNT 1
  (s.setFld aSUPPLY_STAT SUPPLY_STAT.ELASTIC_FORCED 1).alert ALERT_SRC.SUPPLY

/-- The rails that a supply warning forces. -/
def forceRails (s : State) : State :=
  if s.flag aGOV_CTRL GOV_CTRL.EN ∧ s.pstate ≠ 2 then s.forAll (List.range 76) forceRail else s

theorem exec_supplyWarning {s : State} {vin : Nat} (on : s.power = .on) (calm : s.warned = false) (low : vin ≤ 5730) :
    exec (.supplyWarning vin) s = .next (s.commit ((forceRails (warnSupply s vin)).logErr 0x0601 0 0 1 0 0 vin)) := by
  have same : (s.power != .on || s.warned || decide (5730 < vin)) = false := by simp [on, calm, low]
  show execSupplyWarning vin s = _
  unfold execSupplyWarning
  simp only [same, Bool.false_eq_true, if_false]
  unfold forceRails warnSupply
  rfl

/-- Rails forced by a warning: the status of a rail, and what else stays. -/
theorem offRails_forceRailsIf (s : State) : OffRails s (forceRails s) := by
  unfold forceRails
  split
  · exact offRails_forceRails s
  · exact .refl s

theorem rail_forceRailsIf (s : State) {r : Nat} (hr : r < 76) : (forceRails s).fld (aGOV_STAT r) GOV_STAT.RAIL =
    if s.flag aGOV_CTRL GOV_CTRL.EN ∧ s.pstate ≠ 2 ∧ s.fld (aGOV_SET r) GOV_SET.FLOOR = 0 then 0
    else s.fld (aGOV_STAT r) GOV_STAT.RAIL := by
  unfold forceRails
  by_cases runs : s.flag aGOV_CTRL GOV_CTRL.EN = true ∧ s.pstate ≠ 2
  · rw [if_pos runs, rail_forceRails s hr]
    simp only [runs, ne_eq, not_false_eq_true, true_and]
  · rw [if_neg runs, if_neg fun h => runs ⟨h.1, h.2.1⟩]

theorem reg_alert_ne (s : State) (g : Field) {a : Nat} (h : a ≠ aALERT_SRC 0) : (s.alert g).reg a = s.reg a :=
  s.reg_setReg_ne _ h

theorem fld_alert_ne (s : State) (g f : Field) {a : Nat} (h : a ≠ aALERT_SRC 0) : (s.alert g).fld a f = s.fld a f :=
  fld_of_reg (reg_alert_ne s g h) f

/-- The registers that a supply warning leaves before it forces rails. -/
theorem reg_warnSupply (s : State) (vin : Nat) {a : Nat} (h : a ≠ aSUPPLY_STAT) (k : a ≠ aSUPPLY_EVT) (l : a ≠ aALERT_SRC 0) :
    (warnSupply s vin).reg a = s.reg a := by
  simp only [warnSupply, State.incFld, reg_alert_ne _ _ l, State.reg_setFld_ne _ _ _ h, State.reg_setFld_ne _ _ _ k]

theorem warnSupply_stat (s : State) {vin : Nat} (low : vin < 8192) :
    (warnSupply s vin).fld aSUPPLY_STAT SUPPLY_STAT.VIN = vin ∧ (warnSupply s vin).fld aSUPPLY_STAT SUPPLY_STAT.WARN = 1 ∧
      (warnSupply s vin).fld aSUPPLY_STAT SUPPLY_STAT.ELASTIC_FORCED = 1 := by
  have ne : aSUPPLY_STAT ≠ aALERT_SRC 0 := by decide
  have ne' : aSUPPLY_STAT ≠ aSUPPLY_EVT := by decide
  have fits : vin % SUPPLY_STAT.VIN.size = vin := Nat.mod_eq_of_lt low
  simp +decide only [warnSupply, State.incFld, fld_alert_ne _ _ _ ne, State.fld_setFld_self, State.fld_setFld_apart,
    State.fld_setFld_ne _ _ _ _ ne', fits, and_self]

theorem warnSupply_event (s : State) (vin : Nat) : (warnSupply s vin).fld aSUPPLY_EVT SUPPLY_EVT.WARN_SEEN = 1 := by
  have ne : aSUPPLY_EVT ≠ aALERT_SRC 0 := by decide
  have ne' : aSUPPLY_EVT ≠ aSUPPLY_STAT := by decide
  simp +decide only [warnSupply, fld_alert_ne _ _ _ ne, State.fld_setFld_self, State.fld_incFld_apart, State.fld_setFld_ne _ _ _ _ ne']

theorem warnSupply_alert (s : State) (vin : Nat) : (warnSupply s vin).fld (aALERT_SRC 0) ALERT_SRC.SUPPLY = 1 := by
  unfold warnSupply
  rw [State.alert, State.fld_alertPin, State.fld_setFld_self _ _ _ _ (by decide)]
  decide

theorem warnSupply_beside (s : State) (vin : Nat) : (warnSupply s vin).cores = s.cores ∧ (warnSupply s vin).images = s.images := by
  simp -implicitDefEqProofs only [warnSupply, State.alert, State.alertPin_cores, State.alertPin_images, State.setFld_cores, State.setFld_images,
    State.incFld_cores, State.incFld_images, and_self]

/-- A supply warning leaves the governor's registers before it forces rails. -/
theorem reg_warnSupply_governor (s : State) (vin : Nat) {a : Nat} (h : powerBlk + 0x1000 ≤ a ∨ a < powerBlk + 0x20)
    (k : a < powerBlk + 0x2000) : (warnSupply s vin).reg a = s.reg a :=
  reg_warnSupply s vin (by rintro rfl; revert h; decide) (by rintro rfl; revert h; decide) (by rintro rfl; revert k; decide)

theorem rail_warnSupply (s : State) (vin : Nat) {r : Nat} (hr : r < 76) : (forceRails (warnSupply s vin)).fld (aGOV_STAT r) GOV_STAT.RAIL =
    if s.flag aGOV_CTRL GOV_CTRL.EN ∧ s.pstate ≠ 2 ∧ s.fld (aGOV_SET r) GOV_SET.FLOOR = 0 then 0
    else s.fld (aGOV_STAT r) GOV_STAT.RAIL := by
  obtain ⟨top, bottom⟩ := aGOV_STAT_bounds hr
  obtain ⟨top', bottom'⟩ := aGOV_SET_bounds hr
  have flag := flag_of_reg (reg_warnSupply_governor s vin (a := aGOV_CTRL) (.inr (by decide)) (by decide)) GOV_CTRL.EN
  have pstate : (warnSupply s vin).pstate = s.pstate := fld_of_reg (reg_warnSupply_governor s vin (.inr (by decide)) (by decide)) _
  rw [rail_forceRailsIf _ hr, flag, pstate, fld_of_reg (reg_warnSupply_governor s vin (.inl bottom') top'),
    fld_of_reg (reg_warnSupply_governor s vin (.inl bottom) top)]

theorem supplyWarning_answers {s : State} {vin : Nat} (on : s.power = .on) (calm : s.warned = false) (low : vin ≤ 5730) :
    Answers (.supplyWarning vin) s fun u => (u.cores = s.cores ∧ u.images = s.images) ∧ u.fld aSUPPLY_STAT SUPPLY_STAT.VIN = vin ∧
      u.fld aSUPPLY_STAT SUPPLY_STAT.WARN = 1 ∧ u.fld aSUPPLY_STAT SUPPLY_STAT.ELASTIC_FORCED = 1 ∧
      u.fld aSUPPLY_EVT SUPPLY_EVT.WARN_SEEN = 1 ∧ u.fld (aALERT_SRC 0) ALERT_SRC.SUPPLY = 1 ∧
      ∀ r : Fin 76, u.fld (aGOV_STAT r) GOV_STAT.RAIL = if s.flag aGOV_CTRL GOV_CTRL.EN ∧ s.pstate ≠ 2 ∧ s.fld (aGOV_SET r) GOV_SET.FLOOR = 0 then 0
        else s.fld (aGOV_STAT r) GOV_STAT.RAIL := by
  refine answers_commit _ (exec_supplyWarning on calm low) ?_
  have forced := offRails_forceRailsIf (warnSupply s vin)
  have notes := notes_logErr (forceRails (warnSupply s vin)) 0 0 1 0 0 vin (code := 0x0601) (by decide)
  obtain ⟨cores, images⟩ := warnSupply_beside s vin
  have off : ∀ {a} f, (∀ x < 76, a ≠ aGOV_STAT x) → a ≠ aERRLOG_CTRL 0 →
      ((forceRails (warnSupply s vin)).logErr 0x0601 0 0 1 0 0 vin).fld a f = (warnSupply s vin).fld a f := fun f h k =>
    (notes.fld k f).trans (forced.fld h f)
  obtain ⟨hvin, hwarn, helastic⟩ := warnSupply_stat s (vin := vin) (by omega)
  have stat : ∀ x < 76, aSUPPLY_STAT ≠ aGOV_STAT x := fun x _ => off_rails_of_lt (by decide) x
  have event : ∀ x < 76, aSUPPLY_EVT ≠ aGOV_STAT x := fun x _ => off_rails_of_lt (by decide) x
  have alerts : ∀ x < 76, aALERT_SRC 0 ≠ aGOV_STAT x := fun x hx => off_rails_of_ge (by decide) hx
  simp -implicitDefEqProofs only [State.fld_commit, State.commit_cores, State.commit_images]
  refine ⟨⟨(notes.logs.cores.trans forced.cores).trans cores, (notes.logs.images.trans forced.images).trans images⟩,
    (off _ stat (by decide)).trans hvin, (off _ stat (by decide)).trans hwarn, (off _ stat (by decide)).trans helastic,
    (off _ event (by decide)).trans (warnSupply_event s vin), (off _ alerts (by decide)).trans (warnSupply_alert s vin), fun r => ?_⟩
  have log : aGOV_STAT r ≠ aERRLOG_CTRL 0 := fun e => absurd (e ▸ (aGOV_STAT_bounds r.isLt).1) (by decide)
  rw [notes.fld log, rail_warnSupply s vin r.isLt]

/-- What the end of a supply warning sets. -/
def clearSupply (s : State) (vin : Nat) : State :=
  let s := (s.setFld aSUPPLY_STAT SUPPLY_STAT.VIN vin).setFld aSUPPLY_STAT SUPPLY_STAT.WARN 0
  let s := (s.setFld aSUPPLY_STAT SUPPLY_STAT.ELASTIC_FORCED 0).setFld (aBF_CMD 0) BF_CMD.PAUSED 0
  (s.setFld (aALERT_SRC 0) ALERT_SRC.SUPPLY 0).alertPin

/-- The service records that wait are appended. -/
def appendWaiting (s : State) : State :=
  s.forAll s.mgmt.svcWait fun s r => (s.modMgmt fun m => { m with svcWait := m.svcWait.drop 1 }).svcAppend r.1 r.2.1 r.2.2

theorem exec_supplyWarningClear {s : State} {vin : Nat} (on : s.power = .on) (warned : s.warned = true) (high : 5820 ≤ vin) :
    exec (.supplyWarningClear vin) s = .next (s.commit ((appendWaiting (clearSupply s vin)).logErr 0x0602 0 0 1 0 0 vin)) := by
  have goes : (s.power != .on || !s.warned || decide (vin < 5820)) = false := by simp [on, warned, high]
  show execSupplyWarningClear vin s = _
  unfold execSupplyWarningClear
  simp only [goes, Bool.false_eq_true, if_false]
  unfold appendWaiting clearSupply
  rfl

theorem besideFlash_appendWaiting (s : State) : besideFlash (appendWaiting s) = besideFlash s :=
  besideFlash_forAll _ _ _ fun t r _ => (besideFlash_svcAppend ..).trans (by unfold besideFlash State.modMgmt; rfl)

theorem clearSupply_stat (s : State) {vin : Nat} (low : vin < 8192) :
    (clearSupply s vin).fld aSUPPLY_STAT SUPPLY_STAT.VIN = vin ∧ (clearSupply s vin).fld aSUPPLY_STAT SUPPLY_STAT.WARN = 0 ∧
      (clearSupply s vin).fld aSUPPLY_STAT SUPPLY_STAT.ELASTIC_FORCED = 0 := by
  have ne : aSUPPLY_STAT ≠ aALERT_SRC 0 := by decide
  have ne' : aSUPPLY_STAT ≠ aBF_CMD 0 := by decide
  have fits : vin % SUPPLY_STAT.VIN.size = vin := Nat.mod_eq_of_lt low
  simp +decide -implicitDefEqProofs only [clearSupply, State.fld_alertPin, State.fld_setFld_self, State.fld_setFld_apart,
    State.fld_setFld_ne _ _ _ _ ne, State.fld_setFld_ne _ _ _ _ ne', fits, Nat.zero_mod, and_self]

theorem clearSupply_alert (s : State) (vin : Nat) : (clearSupply s vin).fld (aALERT_SRC 0) ALERT_SRC.SUPPLY = 0 := by
  unfold clearSupply
  rw [State.fld_alertPin, State.fld_setFld_self _ _ _ _ (by decide), Nat.zero_mod]

theorem clearSupply_beside (s : State) (vin : Nat) : (clearSupply s vin).cores = s.cores ∧ (clearSupply s vin).images = s.images := by
  simp -implicitDefEqProofs only [clearSupply, State.alertPin_cores, State.alertPin_images, State.setFld_cores, State.setFld_images, and_self]

/-- ALERT_N stands as ALERT_SRC and ALERT_EN have it (R503). -/
theorem alert_of_alertPin (s : State) (h : s.alertPin.pins.alert = true) : s.alertPin.reg (aALERT_SRC 0) &&& s.alertPin.reg (aALERT_EN 0) ≠ 0 := by
  rw [State.reg_alertPin, State.reg_alertPin]
  exact of_decide_eq_true h

theorem clearSupply_pin (s : State) (vin : Nat) (h : (clearSupply s vin).pins.alert = true) :
    (clearSupply s vin).reg (aALERT_SRC 0) &&& (clearSupply s vin).reg (aALERT_EN 0) ≠ 0 := by
  unfold clearSupply at h ⊢
  exact alert_of_alertPin _ h

theorem supplyWarningClear_answers {s : State} {vin : Nat} (on : s.power = .on) (warned : s.warned = true) (high : 5820 ≤ vin) (low : vin < 8192) :
    Answers (.supplyWarningClear vin) s fun u => (u.cores = s.cores ∧ u.images = s.images) ∧ u.fld aSUPPLY_STAT SUPPLY_STAT.VIN = vin ∧
      u.fld aSUPPLY_STAT SUPPLY_STAT.WARN = 0 ∧ u.fld aSUPPLY_STAT SUPPLY_STAT.ELASTIC_FORCED = 0 ∧ u.fld (aALERT_SRC 0) ALERT_SRC.SUPPLY = 0 ∧
      (u.pins.alert = true → u.reg (aALERT_SRC 0) &&& u.reg (aALERT_EN 0) ≠ 0) := by
  refine answers_commit _ (exec_supplyWarningClear on warned high) ?_
  obtain ⟨regs, cores', images', -, pins', -⟩ := keeps_of_besideFlash (besideFlash_appendWaiting (clearSupply s vin))
  have notes := notes_logErr (appendWaiting (clearSupply s vin)) 0 0 1 0 0 vin (code := 0x0602) (by decide)
  have reg : ∀ {a}, a ≠ aERRLOG_CTRL 0 →
      ((appendWaiting (clearSupply s vin)).logErr 0x0602 0 0 1 0 0 vin).reg a = (clearSupply s vin).reg a := fun h =>
    (notes.reg _ h).trans (by rw [State.reg, State.reg, regs])
  have pins : ((appendWaiting (clearSupply s vin)).logErr 0x0602 0 0 1 0 0 vin).pins = (clearSupply s vin).pins :=
    notes.pins.trans pins'
  obtain ⟨cores, images⟩ := clearSupply_beside s vin
  obtain ⟨hvin, hwarn, helastic⟩ := clearSupply_stat s low
  have stat : aSUPPLY_STAT ≠ aERRLOG_CTRL 0 := by decide
  have source : aALERT_SRC 0 ≠ aERRLOG_CTRL 0 := by decide
  simp -implicitDefEqProofs only [State.fld_commit, State.commit_cores, State.commit_images, State.commit_pins, State.reg_commit]
  refine ⟨⟨(notes.logs.cores.trans cores').trans cores, (notes.logs.images.trans images').trans images⟩,
    (fld_of_reg (reg stat) _).trans hvin, (fld_of_reg (reg stat) _).trans hwarn, (fld_of_reg (reg stat) _).trans helastic,
    (fld_of_reg (reg source) _).trans (clearSupply_alert s vin), fun alert => ?_⟩
  rw [reg source, reg (by decide)]
  rw [pins] at alert
  exact clearSupply_pin s vin alert

/-! Every block reset (R54, R489, R528, R553, R555) -/

/-- What changes no block keeps every block reset. -/
theorem Blanked.congr {s t s' t' : State} (h : Blanked s t) (ports : s'.ports = s.ports)
    (cores : t'.cores = t.cores) (images : t'.images = t.images) (txns : t'.txns = t.txns) (claimed : t'.claimed = t.claimed)
    (ports' : t'.ports = t.ports) : Blanked s' t' :=
  ⟨cores.trans h.cores, images.trans h.images, txns.trans h.txns, claimed.trans h.claimed, fun p => by
    rw [State.port, State.port, ports, ports']
    exact h.port p⟩

/-- A reset after something was done to the boot flash. -/
theorem blanked_of_besideFlash {s t : State} (h : besideFlash t = besideFlash s) : Blanked s t.blank :=
  have ⟨_, _, _, ports, _, _, _⟩ := keeps_of_besideFlash h
  (blanked_blank t).1.congr ports.symm rfl rfl rfl rfl rfl

/-- What a command appends to the boot flash after the reset leaves every block reset. -/
theorem Blanked.besideFlash {s t u : State} (h : Blanked s t) (flash : besideFlash u = besideFlash t) : Blanked s u :=
  have ⟨_, cores, images, ports, _, txns, claimed⟩ := keeps_of_besideFlash flash
  h.congr rfl cores images txns claimed ports

theorem Blanked.outputs {s t : State} (h : Blanked s t) (power : Power) (pins : Pins) : Blanked s { t with power := power, pins := pins } :=
  ⟨h.cores, h.images, h.txns, h.claimed, h.port⟩

theorem Blanked.setFld {s t : State} (h : Blanked s t) (a : Nat) (f : Field) (v : Nat) : Blanked s (t.setFld a f v) :=
  h.congr rfl rfl rfl rfl rfl rfl

/-- The last-gasp record is written where a pre-erased page is left. -/
def writeGasp (s : State) (cause : Nat) (samples : List (BitVec 16)) : State :=
  match s.lgNext with
  | some p => s.bfAbandon.flashProgram (lgBase + p * 256) (s.lastGaspRecord cause samples)
  | none => s.bfAbandon

/-- SUPPLY_EVT tells of the cause and of the record. -/
def tellGasp (s : State) (cause : Nat) (written : Bool) : State :=
  (s.setFld aSUPPLY_EVT (if cause = 1 then SUPPLY_EVT.UV_RESET else SUPPLY_EVT.OV_RESET) 1).setFld aSUPPLY_EVT
    (if written then SUPPLY_EVT.LG_WRITTEN else SUPPLY_EVT.LG_MISSED) 1

/-- Rails and PHYs are off, and PWR_GOOD is released. -/
def gaspOff (s : State) : State := { s with power := .lastGasp, pins := { s.pins with pwrGood := false } }

theorem lastGasp_of_on {s : State} (on : s.power = .on) (cause : Nat) (samples : List (BitVec 16)) :
    s.lastGasp cause samples = (gaspOff (tellGasp (writeGasp s cause samples).blank cause s.lgNext.isSome), .lost) := by
  unfold State.lastGasp
  rw [if_neg (by simp [on]), if_neg (by simp [on])]
  rfl

theorem besideFlash_writeGasp (s : State) (cause : Nat) (samples : List (BitVec 16)) : besideFlash (writeGasp s cause samples) = besideFlash s := by
  unfold writeGasp
  split
  · exact (besideFlash_flashProgram ..).trans (besideFlash_bfAbandon s)
  · exact besideFlash_bfAbandon s

theorem tellGasp_cause (s : State) (cause : Nat) (written : Bool) :
    (tellGasp s cause written).fld aSUPPLY_EVT (if cause = 1 then SUPPLY_EVT.UV_RESET else SUPPLY_EVT.OV_RESET) = 1 := by
  unfold tellGasp
  by_cases under : cause = 1
  · rw [if_pos under, State.fld_setFld_apart _ _ _ _ _ (by cases written <;> decide) (by cases written <;> decide),
      State.fld_setFld_self _ _ _ _ (by decide)]
    decide
  · rw [if_neg under, State.fld_setFld_apart _ _ _ _ _ (by cases written <;> decide) (by cases written <;> decide),
      State.fld_setFld_self _ _ _ _ (by decide)]
    decide

theorem gaspOff_outputs (s : State) : (gaspOff s).power = .lastGasp ∧ (gaspOff s).pins.pwrGood = false ∧
    ∀ a f, (gaspOff s).fld a f = s.fld a f := ⟨rfl, rfl, fun _ _ => rfl⟩

theorem Blanked.gasp {s t : State} (h : Blanked s t) (cause : Nat) (written : Bool) : Blanked s (gaspOff (tellGasp t cause written)) :=
  ((h.setFld ..).setFld ..).outputs _ _

/-- The last gasp resets every block and releases PWR_GOOD (R54-R56). -/
theorem lastGasp_on {s : State} (on : s.power = .on) (cause : Nat) (samples : List (BitVec 16)) :
    ∃ t, s.lastGasp cause samples = (t, .lost) ∧ Blanked s t ∧ t.power = .lastGasp ∧ t.pins.pwrGood = false ∧
      t.fld aSUPPLY_EVT (if cause = 1 then SUPPLY_EVT.UV_RESET else SUPPLY_EVT.OV_RESET) = 1 :=
  have ⟨power, good, fld⟩ := gaspOff_outputs (tellGasp (writeGasp s cause samples).blank cause s.lgNext.isSome)
  ⟨_, lastGasp_of_on on cause samples, (blanked_of_besideFlash (besideFlash_writeGasp s cause samples)).gasp .., power, good,
    (fld ..).trans (tellGasp_cause ..)⟩

theorem lastGasp_answers {i : Instr} {s : State} {cause : Nat} {samples : List (BitVec 16)} (h : exec i s = s.doneMem (s.lastGasp cause samples))
    (on : s.power = .on) : ∃ u, exec i s = .next u ∧ Blank s u ∧ u.power = .lastGasp ∧ u.pins.pwrGood = false ∧
      u.fld aSUPPLY_EVT (if cause = 1 then SUPPLY_EVT.UV_RESET else SUPPLY_EVT.OV_RESET) = 1 := by
  obtain ⟨t, eq, blanked, power, good, seen⟩ := lastGasp_on on cause samples
  exact ⟨_, by rw [h, eq]; rfl, blanked.blank, power, good, seen⟩

/-- Before main power an excursion restarts the qualification (R56). -/
theorem lastGasp_early {i : Instr} {s : State} {cause : Nat} {samples : List (BitVec 16)} (h : exec i s = s.doneMem (s.lastGasp cause samples))
    (early : s.power = .qualified ∨ s.power = .cooling) : exec i s = .next { s with power := .aux } := by
  rw [h, State.lastGasp, if_pos early]
  rfl

theorem auxPowerLoss_answers (s : State) : ∃ u, exec .auxPowerLoss s = .next u ∧ Blank s u ∧ u.power = .off ∧ u.pins.pwrGood = false ∧
    u.pins.thermtrip = false := by
  have reset := blanked_of_besideFlash (besideFlash_bfAbandon s)
  show ∃ u, execAuxPowerLoss s = .next u ∧ _
  unfold execAuxPowerLoss
  generalize s.bfAbandon.blank = t at reset
  exact ⟨_, rfl, (reset.outputs _ _).blank, rfl, rfl, rfl⟩

theorem pwrEnFall_on {s : State} (on : s.power = .on) : ∃ u, exec .pwrEnFall s = .next u ∧ Blank s u ∧ u.power = .qualified ∧
    u.pins.pwrEn = false ∧ u.pins.pwrGood = false := by
  show ∃ u, execPwrEnFall s = .next u ∧ _
  have reset := blanked_of_besideFlash (besideFlash_bfFinish s)
  unfold execPwrEnFall
  rw [on]
  generalize s.bfFinish.blank = t at reset
  exact ⟨_, rfl, (reset.outputs _ _).blank, rfl, rfl, rfl⟩

theorem sext_toNat (v : BitVec 16) : sext 16 v.toNat = v.toInt := by
  rw [sext, BitVec.toInt_eq_toNat_cond, Nat.mod_eq_of_lt v.isLt]
  split <;> split <;> omega

theorem thermalTrip_trips {s : State} (d : Die) (n : Fin 80) {temp : BitVec 16} (on : s.power = .on) (hot : 920 ≤ temp.toInt) :
    ∃ u, exec (.thermalTrip d n temp) s = .next u ∧ Blank s u ∧ u.power = .tripped ∧ u.pins.thermtrip = true ∧ u.pins.pwrGood = false := by
  show ∃ u, execThermalTrip d n temp s = .next u ∧ _
  unfold execThermalTrip
  rw [if_neg (by rw [sext_toNat]; simp [on, hot])]
  have reset := (blanked_of_besideFlash (besideFlash_bfAbandon s)).besideFlash (besideFlash_svcAppend _ 6 1
    (toBytes 1 d ++ toBytes 1 n ++ toBytes 2 temp.toNat ++ toBytes 2 (s.fld (aSENSOR d n) SENSOR.TEMP)))
  dsimp only
  generalize s.bfAbandon.blank.svcAppend _ _ _ = t at reset
  exact ⟨_, rfl, (reset.outputs _ _).blank, rfl, rfl, rfl⟩

theorem thermalTrip_stays {s : State} (d : Die) (n : Fin 80) {temp : BitVec 16} (cool : s.power ≠ .on ∨ temp.toInt < 920) :
    exec (.thermalTrip d n temp) s = .next s := by
  show execThermalTrip d n temp s = _
  unfold execThermalTrip
  rw [sext_toNat, if_pos cool]
  rfl

/-! Main power (R528, R553-R556) -/

theorem restartQualified_powers {s : State} (h : s.power = .aux ∨ s.power = .lastGasp) : exec .restartQualified s = .next (s.commit s.powerUp) := by
  show s.done _ = _
  rw [if_pos h]
  rfl

/-- Settles O51: the supply warning and its end by what they set, the resets by what a reset of every block leaves, main power by its phases. -/
theorem supplyAndMainPower : Obligations.SupplyAndMainPower := by
  unfold Obligations.SupplyAndMainPower
  intro s vin samples supply same
  refine ⟨supplyWarning_answers, fun h => ?_, supplyWarningClear_answers, lastGasp_answers (cause := 1) rfl, lastGasp_answers (cause := 2) rfl,
    fun h => ⟨lastGasp_early (cause := 1) (samples := samples) rfl h, lastGasp_early (cause := 2) (samples := samples) rfl h⟩, fun h => ?_,
    auxPowerLoss_answers s, fun h => ?_, fun h k => ?_, fun h k => ?_, fun h => ?_, pwrEnFall_on, fun h => ?_, fun h => ?_, fun h => ?_,
    fun d n _ => thermalTrip_trips d n, fun d n _ => thermalTrip_stays d n⟩
  · have idle : (s.power != .on || s.warned || decide (5730 < vin)) = true := by
      rcases h with h | h <;> simp [h]
    show s.done _ = _
    rw [if_pos idle]
    rfl
  · show s.done _ = _
    rw [if_pos h]
    rfl
  · rw [restartQualified_powers h, State.powerUp]
    refine ⟨fun low => ?_, fun high hot => ?_, fun high cool => ?_⟩
    · rw [low]; rfl
    · rw [high, hot]; rfl
    · rw [high, cool]; rfl
  · show s.done _ = _
    rw [if_neg (by simp [h, k])]
    rfl
  · show s.done _ = _
    rw [if_pos h, State.powerUp]
    simp only [k]
    rfl
  · show s.done _ = _
    rw [if_neg h]
    rfl
  · show execPwrEnFall s = _
    unfold execPwrEnFall
    rcases h with h | h
    · rw [h]; rfl
    · rw [h]; rfl
  · show s.done _ = _
    rw [if_pos h]
    rfl
  · show s.done _ = _
    rw [if_neg h]
    rfl

end Sys2Proof.Proofs
end

section
/-! SUPPORT. The governor, the frequency-measuring counters and power states (R21-R41, R525). -/

namespace Sys2Proof.Proofs
open Sys2Proof.Machine Sys2Proof.Claims

/-! What the sensors report, and the invocations that wait for their floor (R33, R525) -/

/-- From `s` on only registers of the dies, their sensors among them, have changed. -/
structure Senses (s u : State) : Prop where
  rest : besideControl u = besideControl s
  reg : ∀ a < dieBlk 0, u.reg a = s.reg a

theorem Senses.refl (s : State) : Senses s s := ⟨rfl, fun _ _ => rfl⟩

theorem Senses.trans {s u v : State} (h : Senses s u) (k : Senses u v) : Senses s v :=
  ⟨k.rest.trans h.rest, fun a ha => (k.reg a ha).trans (h.reg a ha)⟩

theorem Senses.cores {s u : State} (h : Senses s u) : u.cores = s.cores := (congrArg State.cores h.rest :)
theorem Senses.images {s u : State} (h : Senses s u) : u.images = s.images := (congrArg State.images h.rest :)
theorem Senses.grade {s u : State} (h : Senses s u) : u.grade = s.grade := (congrArg State.grade h.rest :)
theorem Senses.mgmt {s u : State} (h : Senses s u) : u.mgmt = s.mgmt := (congrArg State.mgmt h.rest :)

theorem senses_setFld (s : State) {a : Nat} (ha : dieBlk 0 ≤ a) (f : Field) (v : Nat) : Senses s (s.setFld a f v) :=
  ⟨besideControl_setFld .., fun _ hb => s.reg_setReg_ne _ (Nat.ne_of_lt (Nat.lt_of_lt_of_le hb ha))⟩

theorem senses_forAll {α : Type} (s : State) (l : List α) (f : State → α → State) (h : ∀ s, ∀ a ∈ l, Senses s (f s a)) :
    Senses s (s.forAll l f) := by
  induction l generalizing s with
  | nil => exact .refl s
  | cons a l ih => exact (h s a (by simp)).trans (ih (f s a) fun s b hb => h s b (by simp [hb]))

theorem le_aSENSOR (d n : Nat) : dieBlk 0 ≤ aSENSOR d n := by
  simp only [aSENSOR, dieBlk]
  omega

theorem le_aDIE_THERM (d : Nat) : dieBlk 0 ≤ aDIE_THERM d := by
  simp only [aDIE_THERM, dieBlk]
  omega

theorem senses_setSensor (s : State) (d n : Nat) (temp : BitVec 16) (failed : Bool) : Senses s (s.setSensor d n temp failed) :=
  (senses_setFld _ (le_aSENSOR d n) _ _).trans (senses_setFld _ (le_aSENSOR d n) _ _)

theorem senses_dieTherm (s : State) (d : Nat) : Senses s (s.dieTherm d) := by
  unfold State.dieTherm
  split
  · exact (senses_setFld _ (le_aDIE_THERM d) _ _).trans (senses_setFld _ (le_aDIE_THERM d) _ _)
  · exact .refl s

/-- A window in which an invocation waits for its floor counts. -/
def countWindow (im : Image) : Image := if im.state = .starting then { im with windows := im.windows + 1 } else im

theorem forAll_modImage_beside (s : State) (l : List Nat) (f : Image → Image) :
    (s.forAll l fun s k => s.modImage k f).regs = s.regs ∧ (s.forAll l fun s k => s.modImage k f).cores = s.cores ∧
      (s.forAll l fun s k => s.modImage k f).mgmt = s.mgmt ∧ (s.forAll l fun s k => s.modImage k f).grade = s.grade :=
  ⟨s.forAll_keeps State.regs l _ fun _ _ _ => State.modImage_regs .., s.forAll_keeps State.cores l _ fun _ _ _ => State.modImage_cores ..,
    s.forAll_keeps State.mgmt l _ fun _ _ _ => State.modImage_mgmt ..,
    s.forAll_keeps State.grade l _ fun _ _ _ => State.modImage_grade ..⟩

/-- A change to the images of the first slots. -/
theorem image_forAll_modImage (s : State) (f : Image → Image) (n k : Nat) :
    (s.forAll (List.range n) fun s k => s.modImage k f).image k = if k < n then (s.image k).map f else s.image k := by
  induction n with
  | zero => rfl
  | succ n ih =>
    rw [forAll_range_succ]
    by_cases own : k = n
    · rw [own] at ih ⊢
      rw [State.image_modImage_self, ih, if_neg (by omega), if_pos (by omega)]
    · rw [State.image_modImage_ne _ _ own, ih]
      exact if_congr (by omega) rfl rfl

/-! One loop at the end of a window (R22, R28-R32) -/

theorem steers_judgeBreach (s : State) (r p : Nat) (blocked : Bool) : Steers r s (s.judgeBreach r p blocked) := by
  have windows : ∀ (t : State) l, Steers r t { t with breachWin := l } := fun _ _ => ⟨rfl, fun _ _ => rfl⟩
  unfold State.judgeBreach
  extract_lets b n counted
  split
  · exact windows ..
  · split
    · exact (windows ..).trans (steers_setFld ..)
    · exact windows ..

/-- Judging breach leaves every field of the status register but BREACH. -/
theorem fld_judgeBreach (s : State) (r p : Nat) (blocked : Bool) {f : Field} (h : GOV_STAT.BREACH.apart f) :
    (s.judgeBreach r p blocked).fld (aGOV_STAT r) f = s.fld (aGOV_STAT r) f := by
  unfold State.judgeBreach
  extract_lets b n counted
  split
  · rfl
  · split
    · exact (State.fld_setFld_apart _ _ _ _ _ (by decide) h).trans rfl
    · rfl

theorem steers_railTherm (s : State) (r : Nat) : Steers r s (s.railTherm r) := by
  unfold State.railTherm
  split
  · exact (steers_setFld ..).trans (steers_setFld ..)
  · exact steers_setFld ..

theorem rail_railTherm (s : State) (r : Nat) : (s.railTherm r).fld (aGOV_STAT r) GOV_STAT.RAIL = s.fld (aGOV_STAT r) GOV_STAT.RAIL := by
  unfold State.railTherm
  split
  · simp +decide -implicitDefEqProofs only [State.fld_setFld_apart]
  · exact State.fld_setFld_apart _ _ _ _ _ (by decide) (by decide)

/-- Whether a loop may raise its rail (R29, R30). -/
def canRise (s : State) (r : Nat) : Bool :=
  decide (s.fld (aGOV_STAT r) GOV_STAT.RAIL < 60) && !s.flag (aGOV_STAT r) GOV_STAT.HOT && !s.powerLimited

/-- The count a loop steers to, times 100 (R29, R30, R38). -/
def wantCount (s : State) (r : Nat) : Nat :=
  let need := needCount (s.fld (aGOV_SET r) GOV_SET.FLOOR)
  let want := max (need * 100) (s.fld (aGOV_SET r) GOV_SET.CEIL * 1024)
  let want := if s.warned && need == 0 then 0 else want
  let want := if s.pstate == 1 then max (need * 100) (s.autumnCount * 100) else want
  let want := if s.flag (aGOV_STAT r) GOV_STAT.HOT then need * 100 else want
  let want := if s.powerLimited && need == 0 then 0 else want
  if s.powerLimited then min want (need * 100) else want

/-- What a loop forces, and its step below its need count. -/
def forceLoop (s : State) (r : Nat) : State :=
  s.setFld (aGOV_STAT r) GOV_STAT.FORCED
    (b2n ((s.warned && needCount (s.fld (aGOV_SET r) GOV_SET.FLOOR) == 0) || s.pstate == 1 || s.powerLimited))

def stepBelow (s : State) (r rail : Nat) (rises : Bool) : State :=
  if rises then (s.setFld (aGOV_STAT r) GOV_STAT.RAIL (rail + 1)).setFld (aGOV_STAT r) GOV_STAT.BLOCKED 0
  else (s.setFld (aGOV_STAT r) GOV_STAT.BLOCKED 1).incFld (aGOV_STAT r) GOV_STAT.BLOCKED_WIN 1

/-- A loop's step at its need count or above it. -/
def stepAbove (s : State) (r rail p need want : Nat) (rises : Bool) : State :=
  let s := (s.setFld (aGOV_STAT r) GOV_STAT.BLOCKED 0).setFld (aGOV_STAT r) GOV_STAT.BLOCKED_WIN 0
  if p * 100 < want ∧ rises then s.setFld (aGOV_STAT r) GOV_STAT.RAIL (rail + 1)
  else if want * 102 ≤ p * 10000 ∧ need * 102 ≤ p * 100 ∧ 0 < rail then s.setFld (aGOV_STAT r) GOV_STAT.RAIL (rail - 1)
  else s

theorem govLoop_eq (s : State) (r p : Nat) : s.govLoop r p =
    if p < needCount (s.fld (aGOV_SET r) GOV_SET.FLOOR) then
      (stepBelow (forceLoop s r) r (s.fld (aGOV_STAT r) GOV_STAT.RAIL) (canRise s r)).judgeBreach r p (!canRise s r)
    else
      (stepAbove (forceLoop s r) r (s.fld (aGOV_STAT r) GOV_STAT.RAIL) p (needCount (s.fld (aGOV_SET r) GOV_SET.FLOOR))
        (wantCount s r) (canRise s r)).judgeBreach r p false := rfl

theorem steers_stepBelow (s : State) (r rail : Nat) (rises : Bool) : Steers r s (stepBelow s r rail rises) := by
  unfold stepBelow
  split
  · exact (steers_setFld ..).trans (steers_setFld ..)
  · exact (steers_setFld ..).trans (steers_setFld ..)

theorem steers_stepAbove (s : State) (r rail p need want : Nat) (rises : Bool) : Steers r s (stepAbove s r rail p need want rises) := by
  have unblocked : Steers r s ((s.setFld (aGOV_STAT r) GOV_STAT.BLOCKED 0).setFld (aGOV_STAT r) GOV_STAT.BLOCKED_WIN 0) :=
    (steers_setFld ..).trans (steers_setFld ..)
  unfold stepAbove
  dsimp only
  split
  · exact unblocked.trans (steers_setFld ..)
  · split
    · exact unblocked.trans (steers_setFld ..)
    · exact unblocked

theorem steers_govLoop (s : State) (r p : Nat) : Steers r s (s.govLoop r p) := by
  rw [govLoop_eq]
  split
  · exact ((steers_setFld ..).trans (steers_stepBelow ..)).trans (steers_judgeBreach ..)
  · exact ((steers_setFld ..).trans (steers_stepAbove ..)).trans (steers_judgeBreach ..)

/-- The fields of a rail's status register that its loop leaves: PACE, TEMP and HOT. -/
def LoopLeaves (f : Field) : Prop :=
  GOV_STAT.RAIL.apart f ∧ GOV_STAT.BLOCKED.apart f ∧ GOV_STAT.BLOCKED_WIN.apart f ∧ GOV_STAT.FORCED.apart f ∧ GOV_STAT.BREACH.apart f

theorem loopLeaves_pace : LoopLeaves GOV_STAT.PACE := by unfold LoopLeaves; decide
theorem loopLeaves_hot : LoopLeaves GOV_STAT.HOT := by unfold LoopLeaves; decide

theorem fld_stepBelow (s : State) (r rail : Nat) (rises : Bool) {f : Field} (h : LoopLeaves f) :
    (stepBelow s r rail rises).fld (aGOV_STAT r) f = s.fld (aGOV_STAT r) f := by
  obtain ⟨hr, hb, hw, -, -⟩ := h
  unfold stepBelow
  split
  · rw [State.fld_setFld_apart _ _ _ _ _ (by decide) hb, State.fld_setFld_apart _ _ _ _ _ (by decide) hr]
  · rw [State.fld_incFld_apart _ _ _ _ _ (by decide) hw, State.fld_setFld_apart _ _ _ _ _ (by decide) hb]

theorem fld_stepAbove (s : State) (r rail p need want : Nat) (rises : Bool) {f : Field} (h : LoopLeaves f) :
    (stepAbove s r rail p need want rises).fld (aGOV_STAT r) f = s.fld (aGOV_STAT r) f := by
  obtain ⟨hr, hb, hw, -, -⟩ := h
  have unblocked : ((s.setFld (aGOV_STAT r) GOV_STAT.BLOCKED 0).setFld (aGOV_STAT r) GOV_STAT.BLOCKED_WIN 0).fld (aGOV_STAT r) f =
      s.fld (aGOV_STAT r) f := by
    rw [State.fld_setFld_apart _ _ _ _ _ (by decide) hw, State.fld_setFld_apart _ _ _ _ _ (by decide) hb]
  unfold stepAbove
  dsimp only
  split
  · rw [State.fld_setFld_apart _ _ _ _ _ (by decide) hr, unblocked]
  · split
    · rw [State.fld_setFld_apart _ _ _ _ _ (by decide) hr, unblocked]
    · exact unblocked

theorem fld_govLoop (s : State) (r p : Nat) {f : Field} (h : LoopLeaves f) : (s.govLoop r p).fld (aGOV_STAT r) f = s.fld (aGOV_STAT r) f := by
  obtain ⟨-, -, -, hforced, hbreach⟩ := id h
  have forced : (forceLoop s r).fld (aGOV_STAT r) f = s.fld (aGOV_STAT r) f := State.fld_setFld_apart _ _ _ _ _ (by decide) hforced
  rw [govLoop_eq]
  split
  · rw [fld_judgeBreach _ _ _ _ hbreach, fld_stepBelow _ _ _ _ h, forced]
  · rw [fld_judgeBreach _ _ _ _ hbreach, fld_stepAbove _ _ _ _ _ _ _ h, forced]

/-- A rail's code fits its field after a step. -/
theorem rail_fits {n : Nat} (h : n ≤ 60) : n % GOV_STAT.RAIL.size = n := Nat.mod_eq_of_lt (by show n < 64; omega)

/-- Below its need count a rail rises one code, or counts as blocked (R29, R32). -/
theorem govLoop_below {s : State} {r p : Nat} (low : p < needCount (s.fld (aGOV_SET r) GOV_SET.FLOOR)) :
    (s.govLoop r p).fld (aGOV_STAT r) GOV_STAT.RAIL = (if canRise s r then s.fld (aGOV_STAT r) GOV_STAT.RAIL + 1 else s.fld (aGOV_STAT r) GOV_STAT.RAIL) ∧
    (s.govLoop r p).fld (aGOV_STAT r) GOV_STAT.BLOCKED = b2n (!canRise s r) := by
  rw [govLoop_eq, if_pos low, fld_judgeBreach _ _ _ _ (by decide), fld_judgeBreach _ _ _ _ (by decide), stepBelow, forceLoop]
  cases rises : canRise s r with
  | true =>
    have top := rail_fits (n := s.fld (aGOV_STAT r) GOV_STAT.RAIL + 1) (by simp [canRise] at rises; omega)
    simp +decide -implicitDefEqProofs only [if_true, State.fld_setFld_self, State.fld_setFld_apart, top, and_self]
  | false =>
    simp +decide -implicitDefEqProofs only [if_false, State.fld_setFld_self, State.fld_setFld_apart, State.fld_incFld_apart, and_self]

/-- The step of a loop that may rise, at its need count or above it. -/
theorem stepAbove_rises {s : State} {r rail : Nat} (kept : s.fld (aGOV_STAT r) GOV_STAT.RAIL = rail) (under : rail < 60) (p need want : Nat) :
    (stepAbove s r rail p need want true).fld (aGOV_STAT r) GOV_STAT.BLOCKED = 0 ∧
    (stepAbove s r rail p need want true).fld (aGOV_STAT r) GOV_STAT.RAIL =
      if p * 100 < want then rail + 1 else if want * 102 ≤ p * 10000 ∧ need * 102 ≤ p * 100 ∧ 0 < rail then rail - 1 else rail := by
  have up := rail_fits (n := rail + 1) (by omega)
  have down := rail_fits (n := rail - 1) (by omega)
  unfold stepAbove
  dsimp only
  simp only [and_true]
  split
  · simp +decide -implicitDefEqProofs only [State.fld_setFld_self, State.fld_setFld_apart, up, Nat.zero_mod, and_self]
  · split
    · simp +decide -implicitDefEqProofs only [State.fld_setFld_self, State.fld_setFld_apart, down, Nat.zero_mod, and_self]
    · simp +decide -implicitDefEqProofs only [State.fld_setFld_self, State.fld_setFld_apart, kept, Nat.zero_mod, and_self]

/-- At its need count or above it a rail rises towards its ceiling, and falls where 98 percent of its pace would do (R29). -/
theorem govLoop_above {s : State} {r p : Nat} (high : needCount (s.fld (aGOV_SET r) GOV_SET.FLOOR) ≤ p) (rises : canRise s r = true)
    (summer : s.pstate = 0) (calm : s.warned = false) :
    (s.govLoop r p).fld (aGOV_STAT r) GOV_STAT.BLOCKED = 0 ∧ (s.govLoop r p).fld (aGOV_STAT r) GOV_STAT.RAIL =
      if p * 100 < max (needCount (s.fld (aGOV_SET r) GOV_SET.FLOOR) * 100) (s.fld (aGOV_SET r) GOV_SET.CEIL * 1024) then
        s.fld (aGOV_STAT r) GOV_STAT.RAIL + 1
      else if max (needCount (s.fld (aGOV_SET r) GOV_SET.FLOOR) * 100) (s.fld (aGOV_SET r) GOV_SET.CEIL * 1024) * 102 ≤ p * 10000 ∧
          needCount (s.fld (aGOV_SET r) GOV_SET.FLOOR) * 102 ≤ p * 100 ∧ 0 < s.fld (aGOV_STAT r) GOV_STAT.RAIL then
        s.fld (aGOV_STAT r) GOV_STAT.RAIL - 1
      else s.fld (aGOV_STAT r) GOV_STAT.RAIL := by
  obtain ⟨⟨under, cool⟩, unlimited⟩ : (s.fld (aGOV_STAT r) GOV_STAT.RAIL < 60 ∧ s.flag (aGOV_STAT r) GOV_STAT.HOT = false) ∧
      s.powerLimited = false := by simpa [canRise] using rises
  have want : wantCount s r = max (needCount (s.fld (aGOV_SET r) GOV_SET.FLOOR) * 100) (s.fld (aGOV_SET r) GOV_SET.CEIL * 1024) := by
    simp [wantCount, cool, unlimited, summer, calm]
  rw [govLoop_eq, if_neg (by omega), fld_judgeBreach _ _ _ _ (by decide), fld_judgeBreach _ _ _ _ (by decide), want, rises]
  have kept : (forceLoop s r).fld (aGOV_STAT r) GOV_STAT.RAIL = s.fld (aGOV_STAT r) GOV_STAT.RAIL :=
    State.fld_setFld_apart _ _ _ _ _ (by decide) (by decide)
  exact stepAbove_rises kept under ..

/-! The end of a window (R21, R28) -/

/-- A rail's temperature and pace, as its loop finds them. -/
def readRail (counts : List Nat) (s : State) (r : Nat) : State :=
  (s.railTherm r).setFld (aGOV_STAT r) GOV_STAT.PACE (s.lowestCount counts r)

/-- A rail at the end of a window. -/
def govStep (counts : List Nat) (s : State) (r : Nat) : State :=
  if !(readRail counts s r).flag aGOV_CTRL GOV_CTRL.EN then (readRail counts s r).setFld (aGOV_STAT r) GOV_STAT.RAIL 30
  else if (readRail counts s r).pstate = 2 then readRail counts s r
  else (readRail counts s r).govLoop r (s.lowestCount counts r)

theorem steers_readRail (counts : List Nat) (s : State) (r : Nat) : Steers r s (readRail counts s r) :=
  (steers_railTherm s r).trans (steers_setFld ..)

theorem steers_govStep (counts : List Nat) (s : State) (r : Nat) : Steers r s (govStep counts s r) := by
  unfold govStep
  split
  · exact (steers_readRail ..).trans (steers_setFld ..)
  · split
    · exact steers_readRail ..
    · exact (steers_readRail ..).trans (steers_govLoop ..)

theorem readRail_pace (counts : List Nat) (s : State) (r : Nat) :
    (readRail counts s r).fld (aGOV_STAT r) GOV_STAT.PACE = s.lowestCount counts r % 2 ^ 16 :=
  State.fld_setFld_self _ _ _ _ (by decide)

theorem readRail_rail (counts : List Nat) (s : State) (r : Nat) :
    (readRail counts s r).fld (aGOV_STAT r) GOV_STAT.RAIL = s.fld (aGOV_STAT r) GOV_STAT.RAIL :=
  (State.fld_setFld_apart _ _ _ _ _ (by decide) (by decide)).trans (rail_railTherm s r)

theorem govStep_pace (counts : List Nat) (s : State) (r : Nat) :
    (govStep counts s r).fld (aGOV_STAT r) GOV_STAT.PACE = s.lowestCount counts r % 2 ^ 16 := by
  rw [← readRail_pace]
  unfold govStep
  split
  · exact State.fld_setFld_apart _ _ _ _ _ (by decide) (by decide)
  · split
    · rfl
    · exact fld_govLoop _ _ _ loopLeaves_pace

/-- What the loops of a window read besides their own status registers stays through the walk. -/
structure SameInputs (s t : State) : Prop where
  setting : ∀ r, t.reg (aGOV_SET r) = s.reg (aGOV_SET r)
  governor : t.reg aGOV_CTRL = s.reg aGOV_CTRL
  limits : t.reg aGOV_LIMITS = s.reg aGOV_LIMITS
  supply : t.reg aSUPPLY_STAT = s.reg aSUPPLY_STAT
  pstate : t.reg aPWR_STATE = s.reg aPWR_STATE
  active : t.activeMap = s.activeMap

theorem activeMap_congr {s t : State} (mgmt : t.mgmt = s.mgmt) (grade : t.grade = s.grade) : t.activeMap = s.activeMap := by
  rw [State.activeMap, State.activeMap, mgmt, grade]

theorem OffRails.inputs {s t : State} (h : OffRails s t) : SameInputs s t :=
  have low : ∀ {a}, a < powerBlk + 0x1000 → t.reg a = s.reg a := fun ha => h.reg _ fun x _ => off_rails_of_lt ha x
  ⟨fun r => h.reg _ fun x _ => aGOV_SET_off_rails r x, low (by decide), low (by decide), low (by decide), low (by decide),
    activeMap_congr h.mgmt h.grade⟩

theorem Steers.inputs {r : Nat} {s t : State} (h : Steers r s t) (hr : r < 76) : SameInputs s t :=
  OffRails.inputs ((OffRails.refl s).steers hr h)

theorem SameInputs.trans {s t u : State} (h : SameInputs s t) (k : SameInputs t u) : SameInputs s u :=
  ⟨fun r => (k.setting r).trans (h.setting r), k.governor.trans h.governor, k.limits.trans h.limits, k.supply.trans h.supply,
    k.pstate.trans h.pstate, k.active.trans h.active⟩

theorem SameInputs.symm {s t : State} (h : SameInputs s t) : SameInputs t s :=
  ⟨fun r => (h.setting r).symm, h.governor.symm, h.limits.symm, h.supply.symm, h.pstate.symm, h.active.symm⟩

theorem SameInputs.powerLimited {s t : State} (h : SameInputs s t) : t.powerLimited = s.powerLimited := by
  rw [State.powerLimited, State.powerLimited, fld_of_reg h.limits, fld_of_reg h.supply]

theorem SameInputs.warned {s t : State} (h : SameInputs s t) : t.warned = s.warned := flag_of_reg h.supply _

theorem SameInputs.pstate_eq {s t : State} (h : SameInputs s t) : t.pstate = s.pstate := fld_of_reg h.pstate _

theorem clusterOfCore_lt {c : Nat} (h : c < 1152) : clusterOfCore c < 72 := by
  unfold clusterOfCore
  omega

theorem lowestCount_congr {s t : State} (setting : ∀ r < 76, t.reg (aGOV_SET r) = s.reg (aGOV_SET r)) (active : t.activeMap = s.activeMap)
    (counts : List Nat) (r : Nat) : t.lowestCount counts r = s.lowestCount counts r := by
  have serves : ∀ c, t.inService c = s.inService c := fun c => by rw [State.inService, State.inService, State.indexOf, State.indexOf, active]
  have on : t.replicaOn = s.replicaOn := by
    funext i
    rw [State.replicaOn, State.replicaOn]
    split
    · rename_i core
      rw [State.recorded, State.recorded, serves, flag_of_reg (setting _ (Nat.lt_trans (clusterOfCore_lt core) (by decide)))]
    · rfl
  rw [State.lowestCount, State.lowestCount, on]

/-- What the window has counted before its loops step: input power, sensors, and the windows of invocations that wait. -/
def readWindow (s : State) (sensors : List SensorReading) (pin : Nat) : State :=
  ((s.setFld aSUPPLY_STAT SUPPLY_STAT.PIN (min pin 4095)).forAll sensors fun s x => s.setSensor x.die x.n x.temp x.failed).forAll
    (List.range 4) (·.dieTherm ·)

def waitWindow (s : State) : State := s.forAll (List.range 16) fun s k => s.modImage k countWindow

theorem exec_govWindowEnd {s : State} (on : s.power = .on) (counts : List Nat) (sensors : List SensorReading) (pin : Nat) :
    exec (.govWindowEnd counts sensors pin) s =
      .next (s.commit ((waitWindow (readWindow s sensors pin)).forAll (List.range 76) (govStep counts))) := by
  have live : (s.power != .on) = false := by simp [on]
  show execGovWindowEnd counts sensors pin s = _
  unfold execGovWindowEnd
  simp only [live, Bool.false_eq_true, if_false]
  unfold waitWindow readWindow
  rfl

theorem senses_readWindow (s : State) (sensors : List SensorReading) (pin : Nat) :
    Senses (s.setFld aSUPPLY_STAT SUPPLY_STAT.PIN (min pin 4095)) (readWindow s sensors pin) :=
  (senses_forAll _ _ _ fun _ _ _ => senses_setSensor ..).trans (senses_forAll _ _ _ fun _ _ _ => senses_dieTherm ..)

/-- The state in which the loops of a window start. -/
def window (s : State) (sensors : List SensorReading) (pin : Nat) : State := waitWindow (readWindow s sensors pin)

theorem waitWindow_beside (s : State) : (waitWindow s).regs = s.regs ∧ (waitWindow s).cores = s.cores ∧ (waitWindow s).activeMap = s.activeMap := by
  obtain ⟨regs, cores, mgmt, grade⟩ := forAll_modImage_beside s (List.range 16) countWindow
  unfold waitWindow
  exact ⟨regs, cores, activeMap_congr mgmt grade⟩

theorem waitWindow_image (s : State) (i : Slot) : (waitWindow s).image i = (s.image i).map countWindow := by
  rw [waitWindow, image_forAll_modImage, if_pos i.isLt]

theorem reg_window (s : State) (sensors : List SensorReading) (pin : Nat) {a : Nat} (low : a < dieBlk 0) :
    (window s sensors pin).reg a = (s.setFld aSUPPLY_STAT SUPPLY_STAT.PIN (min pin 4095)).reg a := by
  rw [window, reg_of_regs (waitWindow_beside _).1, (senses_readWindow s sensors pin).reg a low]

theorem reg_window_ne (s : State) (sensors : List SensorReading) (pin : Nat) {a : Nat} (low : a < dieBlk 0) (ne : a ≠ aSUPPLY_STAT) :
    (window s sensors pin).reg a = s.reg a := by
  rw [reg_window s sensors pin low, s.reg_setFld_ne _ _ ne]

theorem window_cores (s : State) (sensors : List SensorReading) (pin : Nat) : (window s sensors pin).cores = s.cores := by
  rw [window, (waitWindow_beside _).2.1, (senses_readWindow s sensors pin).cores, State.setFld_cores]

theorem window_active (s : State) (sensors : List SensorReading) (pin : Nat) : (window s sensors pin).activeMap = s.activeMap := by
  rw [window, (waitWindow_beside _).2.2, activeMap_congr (senses_readWindow s sensors pin).mgmt (senses_readWindow s sensors pin).grade,
    activeMap_congr (s.setFld_mgmt ..) (s.setFld_grade ..)]

theorem window_image (s : State) (sensors : List SensorReading) (pin : Nat) (i : Slot) :
    (window s sensors pin).image i = (s.image i).map countWindow := by
  rw [window, waitWindow_image, State.image, (senses_readWindow s sensors pin).images, State.setFld_images, ← State.image]

/-- A rail after a window: its loop found a state with the rail's code as it was, and its status register says what that loop then did. -/
structure Loop (s found u : State) (counts : List Nat) (r : Nat) : Prop where
  inputs : SameInputs found u
  setting : found.reg (aGOV_SET r) = s.reg (aGOV_SET r)
  pstate : found.pstate = s.pstate
  warned : found.warned = s.warned
  rail : found.fld (aGOV_STAT r) GOV_STAT.RAIL = s.fld (aGOV_STAT r) GOV_STAT.RAIL
  pace : u.fld (aGOV_STAT r) GOV_STAT.PACE = s.lowestCount counts r % 2 ^ 16
  fixed : s.flag aGOV_CTRL GOV_CTRL.EN = false → u.fld (aGOV_STAT r) GOV_STAT.RAIL = 30
  loops : s.flag aGOV_CTRL GOV_CTRL.EN = true → s.pstate = 0 →
    u.reg (aGOV_STAT r) = (found.govLoop r (s.lowestCount counts r)).reg (aGOV_STAT r)

/-- The supply status at the start of the loops: the input power is in it, and the warning as before. -/
theorem window_warned (s : State) (sensors : List SensorReading) (pin : Nat) : (window s sensors pin).warned = s.warned := by
  rw [State.warned, State.flag, fld_of_reg (reg_window s sensors pin (by decide)), State.fld_setFld_apart _ _ _ _ _ (by decide) (by decide)]
  rfl

theorem window_pin (s : State) (sensors : List SensorReading) (pin : Nat) :
    (window s sensors pin).fld aSUPPLY_STAT SUPPLY_STAT.PIN = min pin 4095 := by
  rw [fld_of_reg (reg_window s sensors pin (by decide)), State.fld_setFld_self _ _ _ _ (by decide)]
  exact Nat.mod_eq_of_lt (Nat.lt_succ_of_le (Nat.min_le_right pin 4095))

theorem window_setting (s : State) (sensors : List SensorReading) (pin : Nat) {r : Nat} (hr : r < 76) :
    (window s sensors pin).reg (aGOV_SET r) = s.reg (aGOV_SET r) :=
  have ⟨top, bottom⟩ := aGOV_SET_bounds hr
  reg_window_ne s sensors pin (Nat.lt_trans top (by decide)) fun e => absurd (e ▸ bottom) (by decide)

theorem window_status (s : State) (sensors : List SensorReading) (pin : Nat) {r : Nat} (hr : r < 76) :
    (window s sensors pin).reg (aGOV_STAT r) = s.reg (aGOV_STAT r) :=
  have ⟨top, bottom⟩ := aGOV_STAT_bounds hr
  reg_window_ne s sensors pin (Nat.lt_trans top (by decide)) fun e => absurd (e ▸ bottom) (by decide)

/-- A rail's step where the governor is off, and where it steers in Summer. -/
theorem govStep_fixed {counts : List Nat} {s : State} {r : Nat} (off : (readRail counts s r).flag aGOV_CTRL GOV_CTRL.EN = false) :
    (govStep counts s r).fld (aGOV_STAT r) GOV_STAT.RAIL = 30 := by
  rw [govStep, off]
  exact State.fld_setFld_self _ _ _ 30 (by decide)

theorem govStep_loops {counts : List Nat} {s : State} {r : Nat} (on : (readRail counts s r).flag aGOV_CTRL GOV_CTRL.EN = true)
    (summer : (readRail counts s r).pstate = 0) : govStep counts s r = (readRail counts s r).govLoop r (s.lowestCount counts r) := by
  rw [govStep, on, summer]
  rfl

/-- Every rail takes its loop's step. -/
theorem loop_of_window (s : State) (counts : List Nat) (sensors : List SensorReading) (pin : Nat) {r : Nat} (hr : r < 76) :
    ∃ found, Loop s found ((window s sensors pin).forAll (List.range 76) (govStep counts)) counts r := by
  obtain ⟨all, each⟩ := forAll_rails (fun t r _ => steers_govStep counts t r) (window s sensors pin)
  obtain ⟨t, off, own, eq⟩ := each r hr
  have count : t.lowestCount counts r = s.lowestCount counts r :=
    (lowestCount_congr (fun x _ => off.inputs.setting x) off.inputs.active counts r).trans
      (lowestCount_congr (fun x hx => window_setting s sensors pin hx) (window_active s sensors pin) counts r)
  have found := off.inputs.trans ((steers_readRail counts t r).inputs hr)
  have governor : (readRail counts t r).flag aGOV_CTRL GOV_CTRL.EN = s.flag aGOV_CTRL GOV_CTRL.EN :=
    flag_of_reg (found.governor.trans (reg_window_ne s sensors pin (by decide) (by decide))) _
  have pstate : (readRail counts t r).pstate = s.pstate :=
    found.pstate_eq.trans (fld_of_reg (reg_window_ne s sensors pin (by decide) (by decide)) _)
  refine ⟨readRail counts t r, ⟨?_, ?_, pstate, ?_, ?_, ?_, fun stop => ?_, fun go summer => ?_⟩⟩
  · exact found.symm.trans all.inputs
  · rw [found.setting, window_setting s sensors pin hr]
  · rw [found.warned, window_warned]
  · rw [readRail_rail, fld_of_reg own, fld_of_reg (window_status s sensors pin hr)]
  · rw [fld_of_reg eq, govStep_pace, count]
  · rw [fld_of_reg eq, govStep_fixed (governor.trans stop)]
  · rw [eq, govStep_loops (governor.trans go) (pstate.trans summer), count]

/-- A rail may rise after its loop as before it. -/
theorem Loop.canRise_iff {s found u : State} {counts : List Nat} {r : Nat} (h : Loop s found u counts r)
    (on : s.flag aGOV_CTRL GOV_CTRL.EN = true) (summer : s.pstate = 0) :
    canRise found r = true ↔ s.fld (aGOV_STAT r) GOV_STAT.RAIL < 60 ∧ u.flag (aGOV_STAT r) GOV_STAT.HOT = false ∧ u.powerLimited = false := by
  have hot : u.flag (aGOV_STAT r) GOV_STAT.HOT = found.flag (aGOV_STAT r) GOV_STAT.HOT := by
    rw [flag_of_reg (h.loops on summer), State.flag, State.flag, fld_govLoop _ _ _ loopLeaves_hot]
  rw [hot, h.inputs.powerLimited, ← h.rail]
  simp [canRise, and_assoc]

theorem Loop.blocked {s found u : State} {counts : List Nat} {r : Nat} (h : Loop s found u counts r)
    (on : s.flag aGOV_CTRL GOV_CTRL.EN = true) (summer : s.pstate = 0)
    (low : s.lowestCount counts r < needCount (s.fld (aGOV_SET r) GOV_SET.FLOOR)) :
    u.fld (aGOV_STAT r) GOV_STAT.RAIL = (if canRise found r then s.fld (aGOV_STAT r) GOV_STAT.RAIL + 1 else s.fld (aGOV_STAT r) GOV_STAT.RAIL) ∧
      u.fld (aGOV_STAT r) GOV_STAT.BLOCKED = b2n (!canRise found r) := by
  rw [fld_of_reg (h.loops on summer), fld_of_reg (h.loops on summer), ← h.rail]
  exact govLoop_below (by rwa [fld_of_reg h.setting])

theorem Loop.steered {s found u : State} {counts : List Nat} {r : Nat} (h : Loop s found u counts r)
    (on : s.flag aGOV_CTRL GOV_CTRL.EN = true) (summer : s.pstate = 0) (calm : s.warned = false)
    (high : needCount (s.fld (aGOV_SET r) GOV_SET.FLOOR) ≤ s.lowestCount counts r) (rises : canRise found r = true) :
    u.fld (aGOV_STAT r) GOV_STAT.BLOCKED = 0 ∧ u.fld (aGOV_STAT r) GOV_STAT.RAIL =
      if s.lowestCount counts r * 100 < max (needCount (s.fld (aGOV_SET r) GOV_SET.FLOOR) * 100) (s.fld (aGOV_SET r) GOV_SET.CEIL * 1024) then
        s.fld (aGOV_STAT r) GOV_STAT.RAIL + 1
      else if max (needCount (s.fld (aGOV_SET r) GOV_SET.FLOOR) * 100) (s.fld (aGOV_SET r) GOV_SET.CEIL * 1024) * 102 ≤ s.lowestCount counts r * 10000 ∧
          needCount (s.fld (aGOV_SET r) GOV_SET.FLOOR) * 102 ≤ s.lowestCount counts r * 100 ∧ 0 < s.fld (aGOV_STAT r) GOV_STAT.RAIL then
        s.fld (aGOV_STAT r) GOV_STAT.RAIL - 1
      else s.fld (aGOV_STAT r) GOV_STAT.RAIL := by
  have step := govLoop_above (s := found) (r := r) (p := s.lowestCount counts r) (by rwa [fld_of_reg h.setting]) rises
    (h.pstate.trans summer) (h.warned.trans calm)
  rw [fld_of_reg h.setting, fld_of_reg h.setting, h.rail] at step
  rw [fld_of_reg (h.loops on summer), fld_of_reg (h.loops on summer)]
  exact step

/-! Frequency-measuring counters (R24, R25) -/

/-- A command that writes one register, and perhaps draws a free value. -/
theorem answers_setReg {i : Instr} {s : State} (t : State) (regs : t.regs = s.regs) (cores : t.cores = s.cores) (r : Nat) (w : Word)
    (h : exec i s = .next (s.commit (t.setReg r w))) : Answers i s fun u => u.reg r = w ∧ RegsBut s u [r] ∧ u.cores = s.cores := by
  refine answers_commit _ h ⟨by simp, fun a ha => ?_, by simpa using cores⟩
  rw [State.reg_commit, t.reg_setReg_ne w (by simpa using ha), reg_of_regs regs]

theorem answers_imp {i : Instr} {s : State} {P Q : State → Prop} (h : Answers i s P) (k : ∀ u, P u → Q u) : Answers i s Q :=
  have ⟨u, run, quiet, hp⟩ := h
  ⟨u, run, quiet, k u hp⟩

theorem fmcStart_answers {s : State} {m : Fin 2} (idle : s.flag (aFMC_RESULT m) FMC_RESULT.BUSY = false) :
    Answers (.fmcStart m) s fun u => u.flag (aFMC_RESULT m) FMC_RESULT.BUSY = true ∧ u.fld (aFMC_RESULT m) FMC_RESULT.DONE = 0 ∧
      RegsBut s u [aFMC_RESULT m] ∧ u.cores = s.cores := by
  have run : exec (.fmcStart m) s = .next (s.commit (s.setReg (aFMC_RESULT m) (FMC_RESULT.BUSY.put 0 1))) := by
    show s.done (s.fmcGo m) = _
    rw [State.fmcGo, idle]
    rfl
  refine answers_imp (answers_setReg s rfl rfl _ _ run) fun u ⟨word, rest, cores⟩ => ⟨?_, ?_, rest, cores⟩
  · rw [State.flag, State.fld, word]; decide
  · rw [State.fld, word]; decide

theorem fmcDone_answers {s : State} {m : Fin 2} (busy : s.flag (aFMC_RESULT m) FMC_RESULT.BUSY = true) (count : Nat) :
    Answers (.fmcDone m count) s fun u => u.flag (aFMC_RESULT m) FMC_RESULT.BUSY = false ∧ u.fld (aFMC_RESULT m) FMC_RESULT.DONE = 1 ∧
      u.fld (aFMC_RESULT m) FMC_RESULT.TIMEOUT = 0 ∧ u.fld (aFMC_RESULT m) FMC_RESULT.COUNT = count % 2 ^ 32 ∧
      RegsBut s u [aFMC_RESULT m] ∧ u.cores = s.cores := by
  have run : exec (.fmcDone m count) s =
      .next (s.commit (s.setReg (aFMC_RESULT m) (FMC_RESULT.DONE.put (FMC_RESULT.COUNT.put 0 count) 1))) := by
    show s.done _ = _
    rw [busy]
    rfl
  refine answers_imp (answers_setReg s rfl rfl _ _ run) fun u ⟨word, rest, cores⟩ => ⟨?_, ?_, ?_, ?_, rest, cores⟩
  · simp +decide [State.flag, State.fld, word, Field.get_put_apart]
  · simp +decide [State.fld, word, Field.get_put]
  · simp +decide [State.fld, word, Field.get_put_apart]
  · rw [State.fld, word, Field.get_put_apart _ _ _ _ (by decide) (by decide), Field.get_put _ _ _ (by decide)]
    rfl

theorem fmcTimeout_answers {s : State} {m : Fin 2} (busy : s.flag (aFMC_RESULT m) FMC_RESULT.BUSY = true) :
    Answers (.fmcTimeout m) s fun u => u.flag (aFMC_RESULT m) FMC_RESULT.BUSY = false ∧ u.fld (aFMC_RESULT m) FMC_RESULT.DONE = 1 ∧
      u.fld (aFMC_RESULT m) FMC_RESULT.TIMEOUT = 1 ∧ RegsBut s u [aFMC_RESULT m] ∧ u.cores = s.cores := by
  have run : exec (.fmcTimeout m) s = .next (s.commit (s.draw.2.setReg (aFMC_RESULT m)
      (FMC_RESULT.TIMEOUT.put (FMC_RESULT.DONE.put (FMC_RESULT.COUNT.put 0 s.draw.1.toNat) 1) 1))) := by
    show s.done _ = _
    rw [busy]
    rfl
  refine answers_imp (answers_setReg (s := s) s.draw.2 rfl rfl _ _ run) fun u ⟨word, rest, cores⟩ => ⟨?_, ?_, ?_, rest, cores⟩
  · simp +decide [State.flag, State.fld, word, Field.get_put_apart]
  · simp +decide [State.fld, word, Field.get_put_apart, Field.get_put]
  · simp +decide [State.fld, word, Field.get_put]

theorem paceGoverned : Claims.PaceGoverned := by
  refine ⟨fun s counts sensors pin on => ?_, fun s m count => ⟨fmcStart_answers, fun busy => ?_, fun busy => fmcDone_answers busy count,
    fmcTimeout_answers, fun idle => ⟨?_, ?_⟩⟩⟩
  · have all := (forAll_rails (fun t r _ => steers_govStep counts t r) (window s sensors pin)).1
    refine ⟨_, exec_govWindowEnd on counts sensors pin, ⟨rfl, rfl, rfl⟩, ?_, ?_, fun i => ?_, fun r => ?_⟩
    · rw [State.commit_cores, ← window, all.cores, window_cores]
    · rw [State.fld_commit, ← window, fld_of_reg all.inputs.supply, window_pin]
    · rw [State.image_commit, ← window, State.image, all.images, ← State.image, window_image]
      rfl
    · obtain ⟨found, loop⟩ := loop_of_window s counts sensors pin r.isLt
      have limited : (s.commit ((window s sensors pin).forAll (List.range 76) (govStep counts))).powerLimited =
          ((window s sensors pin).forAll (List.range 76) (govStep counts)).powerLimited := by
        rw [State.powerLimited, State.powerLimited, State.fld_commit, State.fld_commit]
      rw [← window, limited]
      simp -implicitDefEqProofs only [State.fld_commit, State.flag_commit]
      refine ⟨loop.pace, loop.fixed, fun go summer _ low free => ?_, fun go summer low stuck => ?_, fun go summer calm high free => ?_, ?_⟩
      · have rises := (loop.canRise_iff go summer).2 free
        simpa [rises, b2n] using loop.blocked go summer low
      · have stays : canRise found r = false := by simpa using mt (loop.canRise_iff go summer).1 stuck
        simpa [stays, b2n] using loop.blocked go summer low
      · exact loop.steered go summer calm high ((loop.canRise_iff go summer).2 free)
      · rw [fld_of_reg (loop.inputs.setting r), fld_of_reg loop.setting]
  · show s.done (s.fmcGo m) = _
    rw [State.fmcGo, busy]
    rfl
  · show s.done _ = _
    rw [idle]
    rfl
  · show s.done _ = _
    rw [idle]
    rfl

/-! Power states (R37-R41) -/

/-- A write of REQ. -/
theorem powerReq_answers {i : Instr} {s : State} {target : Nat} (h : exec i s = s.done (s.powerReq target)) :
    (s.pstate ≠ 3 → s.pstate ≠ target → Answers i s fun u => u.pstate = 3 ∧ u.mgmt.powerTarget = some (target + 4 * s.pstate) ∧
      RegsBut s u [aPWR_STATE] ∧ u.cores = s.cores ∧ u.images = s.images) ∧
    (s.pstate = 3 ∨ s.pstate = target → exec i s = .next s) := by
  refine ⟨fun free other => answers_commit (s.powerReq target) h ?_, fun stays => ?_⟩
  · rw [powerReq_begins free other]
    refine ⟨?_, by simp, fun a ha => ?_, by simp, by simp⟩
    · rw [State.pstate, State.fld_commit]
      exact pstate_setFld _ 3
    · rw [State.reg_commit, State.reg_setFld_ne _ _ _ (by simpa using ha), State.reg_modMgmt]
  · rw [h, State.powerReq, if_pos stays]
    rfl

/-- All of a state but control space, the cores and the tier controllers. -/
def besideWake (s : State) : State := { s with regs := [], cores := [], tiers := State.reset.tiers }

/-- The registers that a change of power state leaves: all below the clusters' but the settings of clusters among a list. -/
structure Wakes (ks : List Nat) (s u : State) : Prop where
  rest : besideWake u = besideWake s
  reg : ∀ a < clusterBlk 0, (∀ k ∈ ks, a ≠ aGOV_SET k) → u.reg a = s.reg a

theorem Wakes.refl (ks : List Nat) (s : State) : Wakes ks s s := ⟨rfl, fun _ _ _ => rfl⟩

theorem Wakes.trans {ks : List Nat} {s u v : State} (h : Wakes ks s u) (k : Wakes ks u v) : Wakes ks s v :=
  ⟨k.rest.trans h.rest, fun a ha hk => (k.reg a ha hk).trans (h.reg a ha hk)⟩

theorem Wakes.images {ks : List Nat} {s u : State} (h : Wakes ks s u) : u.images = s.images := (congrArg State.images h.rest :)
theorem Wakes.mgmt {ks : List Nat} {s u : State} (h : Wakes ks s u) : u.mgmt = s.mgmt := (congrArg State.mgmt h.rest :)
theorem Wakes.claimed {ks : List Nat} {s u : State} (h : Wakes ks s u) : u.claimed = s.claimed := (congrArg State.claimed h.rest :)

theorem wakes_forAll {α : Type} {ks : List Nat} (s : State) (l : List α) (f : State → α → State) (h : ∀ s, ∀ a ∈ l, Wakes ks s (f s a)) :
    Wakes ks s (s.forAll l f) := by
  induction l generalizing s with
  | nil => exact .refl ks s
  | cons a l ih => exact (h s a (by simp)).trans (ih (f s a) fun s b hb => h s b (by simp [hb]))

theorem le_aTIER_STAT (k : Nat) : clusterBlk 0 ≤ aTIER_STAT k := by
  simp only [aTIER_STAT, tierBase, ncBlk, mcBlk, dieBlk, clusterBlk]
  split
  · split <;> omega
  · omega

theorem wakes_setFld {ks : List Nat} {a : Nat} (s : State) {f : Field} (v : Nat) (h : ∀ b < clusterBlk 0, (∀ k ∈ ks, b ≠ aGOV_SET k) → b ≠ a) :
    Wakes ks s (s.setFld a f v) :=
  ⟨by unfold besideWake; rfl, fun b hb hk => s.reg_setFld_ne _ _ (h b hb hk)⟩

theorem wakes_modTier (ks : List Nat) (s : State) (k : Nat) (f : Tier → Tier) : Wakes ks s (s.modTier k f) :=
  ⟨by unfold besideWake State.modTier; rfl, fun _ _ _ => State.reg_modTier ..⟩

theorem wakes_retrain (ks : List Nat) (s : State) (k : Nat) : Wakes ks s (s.retrain k) := by
  unfold State.retrain
  split
  · exact .refl _ s
  · exact (wakes_modTier ..).trans (wakes_setFld _ _ fun a ha _ => Nat.ne_of_lt (Nat.lt_of_lt_of_le ha (le_aTIER_STAT k)))

theorem wakes_forAll_modCore (ks : List Nat) (s : State) (cores : List Nat) (f : Core → Core) :
    Wakes ks s (s.forAll cores fun s c => s.modCore c f) :=
  wakes_forAll _ _ _ fun s c _ => ⟨by unfold besideWake State.modCore; rfl, fun _ _ _ => State.reg_modCore ..⟩

theorem wakes_setGate {ks : List Nat} (s : State) {k : Nat} (hk : k ∈ ks) (on : Bool) : Wakes ks s (s.setGate k on) := by
  have set : Wakes ks s (s.setFld (aGOV_SET k) GOV_SET.GATE (b2n on)) := wakes_setFld s _ fun a _ apart => apart k hk
  unfold State.setGate
  extract_lets cores gated
  split
  · exact .refl _ s
  · split
    · exact set.trans (wakes_forAll_modCore ..)
    · exact set

/-- The cores of a cluster, as GATE lists them. -/
theorem clusterOfCore_gate {k j : Nat} (hk : k < 72) (hj : j < 16) :
    k / 18 * 288 + k % 18 * 16 + j < 1152 ∧ clusterOfCore (k / 18 * 288 + k % 18 * 16 + j) = k := by
  unfold clusterOfCore
  omega

/-- Where none of its cores is bound, a cluster is gated or powered (R38). -/
theorem gate_setGate {s : State} {k : Nat} (hk : k < 72) (on : Bool) (unbound : ∀ c : CoreId, clusterOfCore c = k → s.boundTo c = none) :
    (s.setGate k on).fld (aGOV_SET k) GOV_SET.GATE = b2n on := by
  have free : (((List.range 16).map fun j => k / 18 * 288 + k % 18 * 16 + j).any fun c => (s.boundTo c).isSome) = false := by
    simp only [List.any_eq_false, List.mem_map, List.mem_range]
    rintro c ⟨j, hj, rfl⟩
    obtain ⟨core, cluster⟩ := clusterOfCore_gate hk hj
    simp [unbound ⟨_, core⟩ cluster]
  have set : (s.setFld (aGOV_SET k) GOV_SET.GATE (b2n on)).fld (aGOV_SET k) GOV_SET.GATE = b2n on := by
    rw [State.fld_setFld_self _ _ _ _ (by decide)]
    cases on <;> decide
  rw [← set]
  unfold State.setGate
  simp only [free, Bool.false_eq_true, if_false]
  split
  · exact fld_of_reg ((wakes_forAll_modCore [] ..).reg _ (Nat.lt_trans (aGOV_SET_bounds (Nat.lt_trans hk (by decide))).1 (by decide)) (by simp)) _
  · rfl

theorem aGOV_SET_inj {x y : Nat} (hx : x < 76) (hy : y < 76) (h : aGOV_SET x = aGOV_SET y) : x = y :=
  aGOV_STAT_inj hx hy (congrArg (· + 8) h)

theorem boundTo_congr {s t : State} (h : t.images = s.images) (c : Nat) : t.boundTo c = s.boundTo c := by
  simp only [State.boundTo, State.image, h]

/-- A walk over the first clusters gates or powers each that has no bound core. -/
theorem gate_forAll (s : State) (on : Bool) (n : Nat) (hn : n ≤ 72) {k : Nat} (hk : k < n)
    (unbound : ∀ c : CoreId, clusterOfCore c = k → s.boundTo c = none) :
    (s.forAll (List.range n) fun s k => s.setGate k on).fld (aGOV_SET k) GOV_SET.GATE = b2n on := by
  induction n with
  | zero => exact absurd hk (Nat.not_lt_zero _)
  | succ n ih =>
    have walked : Wakes (List.range n) s (s.forAll (List.range n) fun s k => s.setGate k on) :=
      wakes_forAll _ _ _ fun t _ hx => wakes_setGate t hx on
    rw [forAll_range_succ]
    rcases Nat.lt_succ_iff_lt_or_eq.1 hk with lt | rfl
    · have low : aGOV_SET k < clusterBlk 0 := Nat.lt_trans (aGOV_SET_bounds (by omega)).1 (by decide)
      rw [fld_of_reg ((wakes_setGate (ks := [n]) _ (by simp) on).reg _ low fun x hx e => ?_)]
      · exact ih (by omega) lt
      · exact absurd (aGOV_SET_inj (by omega) (by simp at hx; omega) e) (by simp at hx; omega)
    · exact gate_setGate (by omega) on fun c hc => (boundTo_congr walked.images c).trans (unbound c hc)

/-- The state named is in force, its clusters gated or powered and its channels retrained. -/
def reachState (s : State) (t : Nat) : State :=
  (s.modMgmt fun m => { m with powerTarget := none }).setFld aPWR_STATE PWR_STATE.STATE (t % 4)

def gateClusters (s : State) (t : Nat) : State :=
  if t % 4 = 2 then s else s.forAll (List.range 72) fun s k => s.setGate k (t % 4 == 1)

def wakeChannels (s : State) (t : Nat) : State :=
  if t / 4 = 2 then s.forAll ((List.range 84).filter fun k => s.flag (aTIER_STAT k) NC_STAT.READY) (·.retrain ·) else s

theorem exec_powerStateReached {s : State} {t : Nat} (h : s.mgmt.powerTarget = some t) :
    exec .powerStateReached s = .next (s.commit (match (wakeChannels (gateClusters (reachState s t) t) t).mgmt.powerCmd with
      | some k => ((wakeChannels (gateClusters (reachState s t) t) t).modMgmt fun m => { m with powerCmd := none }).finalReply k 0 0 []
      | none => wakeChannels (gateClusters (reachState s t) t) t)) := by
  show execPowerStateReached s = _
  unfold execPowerStateReached
  rw [h]
  rfl

/-- The powered state before its reply: what it keeps, and the clusters it has gated or powered. -/
theorem wakes_powered (s : State) (t : Nat) : Wakes (List.range 72) s (wakeChannels (gateClusters s t) t) := by
  have gates : Wakes (List.range 72) s (gateClusters s t) := by
    unfold gateClusters
    split
    · exact .refl _ s
    · exact wakes_forAll _ _ _ fun u _ hk => wakes_setGate u hk _
  refine gates.trans ?_
  unfold wakeChannels
  split
  · exact wakes_forAll _ _ _ fun u _ _ => wakes_retrain _ u _
  · exact .refl _ _

theorem gate_powered (s : State) {target old : Nat} (ht : target < 2) {k : Nat} (hk : k < 72)
    (unbound : ∀ c : CoreId, clusterOfCore c = k → s.boundTo c = none) :
    (wakeChannels (gateClusters s (target + 4 * old)) (target + 4 * old)).fld (aGOV_SET k) GOV_SET.GATE = target := by
  have mod : (target + 4 * old) % 4 = target := by omega
  have low : aGOV_SET k < clusterBlk 0 := Nat.lt_trans (aGOV_SET_bounds (by omega)).1 (by decide)
  have woken : Wakes [] (gateClusters s (target + 4 * old)) (wakeChannels (gateClusters s (target + 4 * old)) (target + 4 * old)) := by
    unfold wakeChannels
    split
    · exact wakes_forAll _ _ _ fun u _ _ => wakes_retrain _ u _
    · exact .refl _ _
  rw [fld_of_reg (woken.reg _ low (by simp)), gateClusters, mod, if_neg (by omega), gate_forAll s _ 72 (Nat.le_refl _) hk unbound]
  rcases (by omega : target = 0 ∨ target = 1) with rfl | rfl <;> rfl

/-- A power state reached. -/
structure Reached (s v : State) (target : Nat) : Prop where
  images : v.images = s.images
  noTarget : v.mgmt.powerTarget = none
  pstate : v.pstate = target
  gates : ∀ k : Cluster, target ≠ 2 → (∀ c : CoreId, clusterOfCore c = k.val → s.boundTo c = none) → v.fld (aGOV_SET k) GOV_SET.GATE = target

theorem reached_powered (s : State) {target old : Nat} (ht : target < 3) :
    Reached s (wakeChannels (gateClusters (reachState s (target + 4 * old)) (target + 4 * old)) (target + 4 * old)) target := by
  have mod : (target + 4 * old) % 4 = target := by omega
  have wakes := wakes_powered (reachState s (target + 4 * old)) (target + 4 * old)
  have mgmt : (reachState s (target + 4 * old)).mgmt = { s.mgmt with powerTarget := none } := by simp [reachState]
  have images : (reachState s (target + 4 * old)).images = s.images := by simp [reachState]
  refine ⟨wakes.images.trans images, by rw [wakes.mgmt, mgmt], ?_,
    fun k ne unbound => gate_powered _ (by omega) k.isLt fun c hc => (boundTo_congr images c).trans (unbound c hc)⟩
  have state : (reachState s (target + 4 * old)).pstate = target := by
    rw [reachState, pstate_setFld, mod]
    omega
  refine (fld_of_reg (wakes.reg aPWR_STATE (by decide) fun k hk e => ?_) PWR_STATE.STATE).trans state
  have above : powerBlk + 0x1000 ≤ aGOV_SET k := (aGOV_SET_bounds (Nat.lt_trans (List.mem_range.1 hk) (by decide))).2
  rw [← e] at above
  exact absurd above (by decide)

theorem Reached.congr {s v w : State} {target : Nat} (h : Reached s v target) (images : w.images = v.images)
    (noTarget : w.mgmt.powerTarget = v.mgmt.powerTarget) (regs : ∀ a < clusterBlk 0, w.reg a = v.reg a) : Reached s w target :=
  ⟨images.trans h.images, noTarget.trans h.noTarget, (fld_of_reg (regs _ (by decide)) _).trans h.pstate, fun k ne unbound =>
    (fld_of_reg (regs _ (Nat.lt_trans (aGOV_SET_bounds (Nat.lt_trans k.isLt (by decide))).1 (by decide))) _).trans (h.gates k ne unbound)⟩

/-- A reply leaves the power state reached, and the command is no longer claimed. -/
theorem Reached.reply {s v : State} {target : Nat} (h : Reached s v target) (k : Nat) :
    Reached s (v.finalReply k 0 0 []) target ∧ ∀ q ∈ (v.finalReply k 0 0 []).claimed, q.id ≠ k := by
  have replies := replies_finalReply v k 0 0 []
  exact ⟨h.congr replies.images replies.powerTarget replies.reg, fun q hq => (not_claimed_finalReply v k 0 0 [] q hq).1⟩

theorem powerStatesChange : Claims.PowerStatesChange := by
  intro s asked
  refine ⟨powerReq_answers rfl, powerReq_answers rfl, powerReq_answers rfl, fun idle => ?_, fun target old due ht _ => ?_⟩
  · show execPowerStateReached s = _
    unfold execPowerStateReached
    rw [idle]
    rfl
  · obtain ⟨v, run, reached⟩ : ∃ v, exec .powerStateReached s = .next (s.commit v) ∧ Reached s v target ∧
        ∀ k, s.mgmt.powerCmd = some k → ∀ q ∈ v.claimed, q.id ≠ k := by
      have reached := reached_powered s (old := old) ht
      have command : (wakeChannels (gateClusters (reachState s (target + 4 * old)) (target + 4 * old)) (target + 4 * old)).mgmt.powerCmd =
          s.mgmt.powerCmd := by
        rw [(wakes_powered ..).mgmt, reachState, State.setFld_mgmt]
        rfl
      refine ⟨_, exec_powerStateReached due, ?_⟩
      generalize wakeChannels _ _ = v at reached command
      rw [command]
      split
      · rename_i k asked
        obtain ⟨replied, unclaimed⟩ := (reached.congr (w := v.modMgmt fun m => { m with powerCmd := none }) rfl rfl fun _ _ => rfl).reply k
        exact ⟨replied, fun x hx => Option.some.inj (asked.symm.trans hx) ▸ unclaimed⟩
      · rename_i none_
        exact ⟨reached, fun x hx => absurd (none_.symm.trans hx) (by simp)⟩
    obtain ⟨reached, unclaimed⟩ := reached
    refine ⟨_, run, ⟨rfl, rfl, rfl⟩, by rw [State.commit_images, reached.images], ?_, by rw [State.commit_mgmt, reached.noTarget], ?_, ?_⟩
    · rw [State.pstate, State.fld_commit]
      exact reached.pstate
    · rw [State.commit_claimed]
      exact unclaimed
    · simp -implicitDefEqProofs only [State.fld_commit]
      exact reached.gates

/-- Settles O49: each loop's step read off the walk over the rails, and a power state off the walk over the clusters. -/
theorem paceAndPowerStates : Obligations.PaceAndPowerStates := ⟨paceGoverned, powerStatesChange⟩

end Sys2Proof.Proofs
end

section
/-! SUPPORT. The clock domains: operating points, source switches, coasting, and resets by their watchdogs (R42-R50). -/

namespace Sys2Proof.Proofs
open Sys2Proof.Machine Sys2Proof.Claims

/-! A domain's registers and its sequencer -/

theorem aCLKD_STAT_ne_CTRL (n : Nat) : aCLKD_STAT n ≠ aCLKD_CTRL n := by simp [aCLKD_STAT]
theorem aCLKD_CTRL_ne_STAT (n : Nat) : aCLKD_CTRL n ≠ aCLKD_STAT n := (aCLKD_STAT_ne_CTRL n).symm
theorem aCLKD_OPP_ne_CTRL (n k : Nat) : aCLKD_OPP n k ≠ aCLKD_CTRL n := by simp [aCLKD_OPP, Nat.add_assoc]
theorem aCLKD_OPP_ne_STAT (n k : Nat) : aCLKD_OPP n k ≠ aCLKD_STAT n := by simp only [aCLKD_OPP, aCLKD_STAT]; omega

@[simp] theorem reg_modClk (s : State) (n : Dom) (f : ClkSeq → ClkSeq) (a : Nat) : (s.modClk n f).reg a = s.reg a := rfl
@[simp] theorem fld_modClk (s : State) (n : Dom) (f : ClkSeq → ClkSeq) (a : Nat) (g : Field) : (s.modClk n f).fld a g = s.fld a g := rfl

@[simp] theorem clk_setFld (s : State) (a : Nat) (f : Field) (v : Nat) (x : Dom) : (s.setFld a f v).clk[x] = s.clk[x] := rfl
@[simp] theorem clk_commit (s t : State) (x : Dom) : (s.commit t).clk[x] = t.clk[x] := rfl

@[simp] theorem clk_modClk_self (s : State) (n : Dom) (f : ClkSeq → ClkSeq) : (s.modClk n f).clk[n] = f s.clk[n] := by
  simp [State.modClk]

theorem clk_modClk_ne (s : State) {n x : Dom} (f : ClkSeq → ClkSeq) (h : x ≠ n) : (s.modClk n f).clk[x] = s.clk[x] := by
  have : n.val ≠ x.val := fun e => h (Fin.ext e.symm)
  simp [State.modClk, Vector.getElem_set_ne, this]

/-- From `s` on nothing has changed outside a domain: its control and status registers and its sequencer aside, control space, the cores and the sequencers stand. -/
structure Within (n : Dom) (s u : State) : Prop where
  regs : RegsBut s u [aCLKD_STAT n, aCLKD_CTRL n]
  cores : u.cores = s.cores
  clk : ∀ x : Dom, x ≠ n → u.clk[x] = s.clk[x]

theorem Within.refl (n : Dom) (s : State) : Within n s s := ⟨fun _ _ => rfl, rfl, fun _ _ => rfl⟩

theorem Within.trans {n : Dom} {s u v : State} (h : Within n s u) (k : Within n u v) : Within n s v :=
  ⟨fun a ha => (k.regs a ha).trans (h.regs a ha), k.cores.trans h.cores, fun x hx => (k.clk x hx).trans (h.clk x hx)⟩

theorem within_stat (n : Dom) (s : State) (f : Field) (v : Nat) : Within n s (s.setFld (aCLKD_STAT n) f v) :=
  ⟨fun _ ha => s.reg_setFld_ne _ _ (by simp_all), rfl, fun _ _ => rfl⟩

theorem within_ctrl (n : Dom) (s : State) (f : Field) (v : Nat) : Within n s (s.setFld (aCLKD_CTRL n) f v) :=
  ⟨fun _ ha => s.reg_setFld_ne _ _ (by simp_all), rfl, fun _ _ => rfl⟩

theorem within_modClk (n : Dom) (s : State) (f : ClkSeq → ClkSeq) : Within n s (s.modClk n f) :=
  ⟨fun _ _ => rfl, rfl, fun _ hx => clk_modClk_ne s f hx⟩

theorem Within.commit {n : Dom} {s u : State} (h : Within n s u) :
    RegsBut s (s.commit u) [aCLKD_STAT n, aCLKD_CTRL n] ∧ (s.commit u).cores = s.cores ∧ ∀ x : Dom, x ≠ n → (s.commit u).clk[x] = s.clk[x] :=
  ⟨h.regs, h.cores, h.clk⟩

/-- The frequency of an operating point. -/
def freqOf (s : State) (n : Dom) (k : Nat) : Nat := s.fld (aCLKD_OPP n k) CLKD_OPP.FREQ

theorem Within.point {n : Dom} {s u : State} (h : Within n s u) (k : Nat) (f : Field) : u.fld (aCLKD_OPP n k) f = s.fld (aCLKD_OPP n k) f :=
  fld_of_reg (h.regs _ (by simp [aCLKD_OPP_ne_CTRL, aCLKD_OPP_ne_STAT])) f

/-! Operating points (R43, R44) -/

/-- A sequence begins (R43). -/
theorem within_seqStart (s : State) (n : Dom) (opp : Nat) : Within n s (s.seqStart n opp) := by
  unfold State.seqStart
  extract_lets freq rising begun busy
  have run : Within n s busy := (within_modClk ..).trans (within_stat ..)
  split
  · exact run
  · exact run.trans (within_stat ..)

theorem clk_seqStart (s : State) (n : Dom) (opp : Nat) : (s.seqStart n opp).clk[n] =
    ⟨some opp, decide (freqOf s n (s.fld (aCLKD_STAT n) CLKD_STAT.CUR_OPP) < freqOf s n opp), false, none, s.clk[n].supply⟩ := by
  unfold State.seqStart
  extract_lets freq rising begun busy
  have run : busy.clk[n] = ⟨some opp, rising, false, none, s.clk[n].supply⟩ := (clk_setFld ..).trans (clk_modClk_self ..)
  split
  · exact run
  · exact (clk_setFld ..).trans run

theorem fld_seqStart (s : State) (n : Dom) (opp : Nat) : (s.seqStart n opp).fld (aCLKD_STAT n) CLKD_STAT.SEQ_BUSY = 1 ∧
    (s.seqStart n opp).fld (aCLKD_STAT n) CLKD_STAT.LOCK =
      if freqOf s n (s.fld (aCLKD_STAT n) CLKD_STAT.CUR_OPP) < freqOf s n opp then s.fld (aCLKD_STAT n) CLKD_STAT.LOCK else 0 := by
  unfold State.seqStart
  extract_lets freq rising begun busy
  have run : busy.fld (aCLKD_STAT n) CLKD_STAT.SEQ_BUSY = 1 := State.fld_setFld_self _ _ _ 1 (by decide)
  have lock : busy.fld (aCLKD_STAT n) CLKD_STAT.LOCK = s.fld (aCLKD_STAT n) CLKD_STAT.LOCK :=
    (State.fld_setFld_apart _ _ _ _ _ (by decide) (by decide)).trans (fld_modClk ..)
  by_cases up : freqOf s n (s.fld (aCLKD_STAT n) CLKD_STAT.CUR_OPP) < freqOf s n opp
  · have up' : rising = true := decide_eq_true up
    rw [if_pos up, if_pos up']
    exact ⟨run, lock⟩
  · have down : ¬rising = true := fun e => up (of_decide_eq_true e)
    rw [if_neg up, if_neg down]
    exact ⟨(State.fld_setFld_apart _ _ _ _ _ (by decide) (by decide)).trans run, State.fld_setFld_self _ _ _ 0 (by decide)⟩

/-- A write of OPP that names a usable entry (R44). -/
theorem oppWrite_held {s : State} {n : Dom} {opp : Fin 8} (valid : s.flag (aCLKD_OPP n opp) CLKD_OPP.VALID = true)
    (busy : s.fld (aCLKD_STAT n) CLKD_STAT.SEQ_BUSY = 1) :
    s.oppWrite n opp = (s.setFld (aCLKD_CTRL n) CLKD_CTRL.OPP opp).modClk n fun q => { q with held := some opp.val } := by
  have busy' : (s.setFld (aCLKD_CTRL n) CLKD_CTRL.OPP opp).flag (aCLKD_STAT n) CLKD_STAT.SEQ_BUSY = true := by
    rw [State.flag, State.fld_setFld_ne _ _ _ _ (aCLKD_STAT_ne_CTRL n), busy]
    rfl
  rw [State.oppWrite, valid]
  dsimp only
  rw [busy']
  rfl

theorem oppWrite_starts {s : State} {n : Dom} {opp : Fin 8} (valid : s.flag (aCLKD_OPP n opp) CLKD_OPP.VALID = true)
    (idle : s.fld (aCLKD_STAT n) CLKD_STAT.SEQ_BUSY = 0) :
    s.oppWrite n opp = (s.setFld (aCLKD_CTRL n) CLKD_CTRL.OPP opp).seqStart n opp := by
  have idle' : (s.setFld (aCLKD_CTRL n) CLKD_CTRL.OPP opp).flag (aCLKD_STAT n) CLKD_STAT.SEQ_BUSY = false := by
    rw [State.flag, State.fld_setFld_ne _ _ _ _ (aCLKD_STAT_ne_CTRL n), idle]
    rfl
  rw [State.oppWrite, valid]
  dsimp only
  rw [idle']
  rfl

/-- The first and the second step of a sequence: the supply has settled, or the loop has relocked (R43). -/
def stepFirst (s : State) (n : Dom) : State := s.modClk n fun q => { q with second := true }

def stepLast (s : State) (n : Dom) : State :=
  (s.modClk n fun q => { q with target := none, second := false, held := none }).setFld (aCLKD_STAT n) CLKD_STAT.SEQ_BUSY 0

def supplied (s : State) (n : Dom) (opp : Nat) : State :=
  s.modClk n fun q => { q with supply := s.fld (aCLKD_OPP n opp) CLKD_OPP.VOLT }

section Steps
variable {s : State} {n : Dom} {opp : Nat} (target : s.clk[n].target = some opp)
include target

theorem step_supplied_first (rising : s.clk[n].rising = true) (first : s.clk[n].second = false) :
    exec (.clkdSeqStepDone n) s = .next (s.commit ((stepFirst (supplied s n opp) n).setFld (aCLKD_STAT n) CLKD_STAT.LOCK 0)) := by
  show execClkdSeqStepDone n s = _
  unfold execClkdSeqStepDone
  simp only [target, rising, first]
  rfl

theorem step_locked_first (falling : s.clk[n].rising = false) (first : s.clk[n].second = false) (locks : s.fld (aCLKD_STAT n) CLKD_STAT.COAST = 0) :
    exec (.clkdSeqStepDone n) s = .next (s.commit (stepFirst (s.relocked n opp) n)) := by
  have steady : s.flag (aCLKD_STAT n) CLKD_STAT.COAST = false := by rw [State.flag, locks]; rfl
  show execClkdSeqStepDone n s = _
  unfold execClkdSeqStepDone
  simp only [target, falling, first, steady]
  rfl

/-- After the second step a held write is acted on (R44). -/
def actHeld (s : State) (n : Dom) (held : Option Nat) : State :=
  match held with
  | some o => (stepLast s n).seqStart n o
  | none => stepLast s n

theorem step_locked_last (rising : s.clk[n].rising = true) (last : s.clk[n].second = true) (locks : s.fld (aCLKD_STAT n) CLKD_STAT.COAST = 0) :
    exec (.clkdSeqStepDone n) s = .next (s.commit (actHeld (s.relocked n opp) n s.clk[n].held)) := by
  have steady : s.flag (aCLKD_STAT n) CLKD_STAT.COAST = false := by rw [State.flag, locks]; rfl
  show execClkdSeqStepDone n s = _
  unfold execClkdSeqStepDone
  simp only [target, rising, last, steady]
  rfl

theorem step_supplied_last (falling : s.clk[n].rising = false) (last : s.clk[n].second = true) :
    exec (.clkdSeqStepDone n) s = .next (s.commit (actHeld (supplied s n opp) n s.clk[n].held)) := by
  show execClkdSeqStepDone n s = _
  unfold execClkdSeqStepDone
  simp only [target, falling, last]
  rfl

end Steps

theorem within_relocked (s : State) (n : Dom) (opp : Nat) : Within n s (s.relocked n opp) := (within_stat ..).trans (within_stat ..)
theorem within_supplied (s : State) (n : Dom) (opp : Nat) : Within n s (supplied s n opp) := within_modClk ..
theorem within_stepFirst (s : State) (n : Dom) : Within n s (stepFirst s n) := within_modClk ..
theorem within_stepLast (s : State) (n : Dom) : Within n s (stepLast s n) := (within_modClk ..).trans (within_stat ..)

theorem clk_relocked (s : State) (n : Dom) (opp : Nat) : (s.relocked n opp).clk[n] = s.clk[n] := (clk_setFld ..).trans (clk_setFld ..)

theorem clk_supplied (s : State) (n : Dom) (opp : Nat) :
    (supplied s n opp).clk[n] = { s.clk[n] with supply := s.fld (aCLKD_OPP n opp) CLKD_OPP.VOLT } := clk_modClk_self ..

theorem clk_stepFirst (s : State) (n : Dom) : (stepFirst s n).clk[n] = { s.clk[n] with second := true } := clk_modClk_self ..

theorem clk_stepLast (s : State) (n : Dom) : (stepLast s n).clk[n] = { s.clk[n] with target := none, second := false, held := none } :=
  (clk_setFld ..).trans (clk_modClk_self ..)

theorem fld_stepFirst (s : State) (n : Dom) (a : Nat) (f : Field) : (stepFirst s n).fld a f = s.fld a f := fld_modClk ..

theorem fld_stepLast (s : State) (n : Dom) {f : Field} (h : CLKD_STAT.SEQ_BUSY.apart f) :
    (stepLast s n).fld (aCLKD_STAT n) f = s.fld (aCLKD_STAT n) f :=
  (State.fld_setFld_apart _ _ _ _ _ (by decide) h).trans (fld_modClk ..)

theorem busy_stepLast (s : State) (n : Dom) : (stepLast s n).fld (aCLKD_STAT n) CLKD_STAT.SEQ_BUSY = 0 :=
  State.fld_setFld_self _ _ _ 0 (by decide)

theorem fld_mod_size (s : State) (a : Nat) (f : Field) : s.fld a f % f.size = s.fld a f := Nat.mod_mod _ _

/-- A loop that has relocked stands at its operating point, and locks if it is enabled. -/
theorem fld_relocked (s : State) (n : Dom) (opp : Fin 8) : (s.relocked n opp).fld (aCLKD_STAT n) CLKD_STAT.CUR_OPP = opp ∧
    (s.relocked n opp).fld (aCLKD_STAT n) CLKD_STAT.LOCK = s.fld (aCLKD_CTRL n) CLKD_CTRL.LOOP_EN := by
  unfold State.relocked
  rw [State.fld_setFld_apart _ _ _ _ _ (by decide) (by decide), State.fld_setFld_self _ _ _ _ (by decide), State.fld_setFld_self _ _ _ _ (by decide)]
  exact ⟨Nat.mod_eq_of_lt opp.isLt, fld_mod_size s (aCLKD_CTRL n) CLKD_CTRL.LOOP_EN⟩

/-- A held write is acted on. -/
theorem actHeld_some (s : State) (n : Dom) (o : Nat) : Within n s (actHeld s n (some o)) ∧ (actHeld s n (some o)).clk[n].target = some o ∧
    (actHeld s n (some o)).clk[n].second = false ∧ (actHeld s n (some o)).clk[n].held = none ∧
    (actHeld s n (some o)).fld (aCLKD_STAT n) CLKD_STAT.SEQ_BUSY = 1 := by
  unfold actHeld
  refine ⟨(within_stepLast s n).trans (within_seqStart ..), ?_, ?_, ?_, (fld_seqStart ..).1⟩ <;> rw [clk_seqStart]

/-! Source switches and loops (R46, R47) -/

theorem srcWrite_answers (s : State) (n : Dom) (src : Bool) : Answers (.clkdSrcWrite n src) s fun u =>
    (RegsBut s u [aCLKD_STAT n, aCLKD_CTRL n] ∧ u.cores = s.cores ∧ ∀ x : Dom, x ≠ n → u.clk[x] = s.clk[x]) ∧ u.clk = s.clk ∧
      u.fld (aCLKD_CTRL n) CLKD_CTRL.SRC = b2n src ∧
      u.fld (aCLKD_STAT n) CLKD_STAT.SWITCHING = (if s.fld (aCLKD_CTRL n) CLKD_CTRL.SRC = b2n src then s.fld (aCLKD_STAT n) CLKD_STAT.SWITCHING else 1) ∧
      u.fld (aCLKD_STAT n) CLKD_STAT.SEL = s.fld (aCLKD_STAT n) CLKD_STAT.SEL := by
  refine answers_commit (s.srcWrite n src) rfl ?_
  have same : (s.flag (aCLKD_CTRL n) CLKD_CTRL.SRC == src) = decide (s.fld (aCLKD_CTRL n) CLKD_CTRL.SRC = b2n src) := by
    have bit : s.fld (aCLKD_CTRL n) CLKD_CTRL.SRC < 2 := Nat.mod_lt _ (by decide)
    rw [State.flag]
    rcases (by omega : s.fld (aCLKD_CTRL n) CLKD_CTRL.SRC = 0 ∨ s.fld (aCLKD_CTRL n) CLKD_CTRL.SRC = 1) with h | h <;>
      rw [h] <;> cases src <;> rfl
  have set : (s.setFld (aCLKD_CTRL n) CLKD_CTRL.SRC (b2n src)).fld (aCLKD_CTRL n) CLKD_CTRL.SRC = b2n src := by
    rw [State.fld_setFld_self _ _ _ _ (by decide)]
    cases src <;> rfl
  have stat : ∀ f, (s.setFld (aCLKD_CTRL n) CLKD_CTRL.SRC (b2n src)).fld (aCLKD_STAT n) f = s.fld (aCLKD_STAT n) f := fun f =>
    State.fld_setFld_ne _ _ _ _ (aCLKD_STAT_ne_CTRL n)
  simp -implicitDefEqProofs only [State.fld_commit, State.commit_clk]
  unfold State.srcWrite
  dsimp only
  rw [same]
  by_cases h : s.fld (aCLKD_CTRL n) CLKD_CTRL.SRC = b2n src
  · rw [if_pos (decide_eq_true h), if_pos h]
    exact ⟨(within_ctrl ..).commit, State.setFld_clk .., set, stat _, stat _⟩
  · rw [if_neg (by simpa using h), if_neg h]
    refine ⟨((within_ctrl ..).trans (within_stat ..)).commit, (State.setFld_clk ..).trans (State.setFld_clk ..), ?_,
      State.fld_setFld_self _ _ _ 1 (by decide), ?_⟩
    · rw [State.fld_setFld_ne _ _ _ _ (aCLKD_CTRL_ne_STAT n), set]
    · rw [State.fld_setFld_apart _ _ _ _ _ (by decide) (by decide), stat]

theorem switchDone_answers {s : State} {n : Dom} (switching : s.fld (aCLKD_STAT n) CLKD_STAT.SWITCHING = 1)
    (enabled : s.fld (aCLKD_CTRL n) CLKD_CTRL.LOOP_EN = 1) (runs : s.crystalLost = false) : Answers (.clkdSwitchDone n) s fun u =>
    (RegsBut s u [aCLKD_STAT n, aCLKD_CTRL n] ∧ u.cores = s.cores ∧ ∀ x : Dom, x ≠ n → u.clk[x] = s.clk[x]) ∧ u.clk = s.clk ∧
      u.fld (aCLKD_STAT n) CLKD_STAT.SEL = s.fld (aCLKD_CTRL n) CLKD_CTRL.SRC ∧ u.fld (aCLKD_STAT n) CLKD_STAT.SWITCHING = 0 := by
  have go : (!s.flag (aCLKD_STAT n) CLKD_STAT.SWITCHING || !s.flag (aCLKD_CTRL n) CLKD_CTRL.LOOP_EN || s.crystalLost) = false := by
    rw [State.flag, State.flag, switching, enabled, runs]
    rfl
  have run : exec (.clkdSwitchDone n) s = .next (s.commit ((s.setFld (aCLKD_STAT n) CLKD_STAT.SEL (s.fld (aCLKD_CTRL n) CLKD_CTRL.SRC)).setFld
      (aCLKD_STAT n) CLKD_STAT.SWITCHING 0)) := by
    show s.done _ = _
    rw [go]
    rfl
  refine answers_commit _ run ?_
  simp -implicitDefEqProofs only [State.fld_commit, State.commit_clk]
  refine ⟨((within_stat ..).trans (within_stat ..)).commit, (State.setFld_clk ..).trans (State.setFld_clk ..), ?_,
    State.fld_setFld_self _ _ _ 0 (by decide)⟩
  rw [State.fld_setFld_apart _ _ _ _ _ (by decide) (by decide), State.fld_setFld_self _ _ _ _ (by decide)]
  exact fld_mod_size s (aCLKD_CTRL n) CLKD_CTRL.SRC

/-- What a step of a walk brings about and every step keeps holds after the walk. -/
theorem forAll_establishes {α : Type} {P : State → Prop} {f : State → α → State} {l : List α} {a : α} (ha : a ∈ l) (s : State)
    (brings : ∀ t, P (f t a)) (keeps : ∀ t b, P t → P (f t b)) : P (s.forAll l f) := by
  induction l generalizing s with
  | nil => simp at ha
  | cons b l ih =>
    show P ((f s b).forAll l f)
    rcases List.mem_cons.1 ha with rfl | rest
    · exact State.forAll_inv P _ _ (fun t x _ h => keeps t x h) _ (brings s)
    · exact ih rest _

/-- A flash channel reopens (R49). -/
def reopen (s : State) (f : Nat) : State :=
  (s.modDeep fun d => { d with closed := d.closed.filter (· ≠ f) }).setFld (aFC_STAT f) FC_STAT.READY 1

theorem closed_reopen (s : State) (f : Nat) : (reopen s f).deep.closed = s.deep.closed.filter (· ≠ f) := rfl

theorem ready_reopen_self (s : State) (f : Nat) : (reopen s f).fld (aFC_STAT f) FC_STAT.READY = 1 :=
  State.fld_setFld_self _ _ _ 1 (by decide)

theorem ready_reopen {s : State} {f g : Nat} (h : s.fld (aFC_STAT g) FC_STAT.READY = 1) : (reopen s f).fld (aFC_STAT g) FC_STAT.READY = 1 := by
  by_cases same : aFC_STAT g = aFC_STAT f
  · rw [same]
    exact ready_reopen_self s f
  · exact (State.fld_setFld_ne _ _ _ _ same).trans h

theorem flashReopen_eq (s : State) (n : Nat) : s.flashReopen n = s.forAll ((flashOf n).filter s.deep.closed.contains) reopen := rfl

/-- Once the loop of its domain has locked, a closed channel is open (R49). -/
theorem flashReopen_opens {s : State} {n g : Nat} (hg : g ∈ flashOf n) (closed : g ∈ s.deep.closed) :
    g ∉ (s.flashReopen n).deep.closed ∧ (s.flashReopen n).fld (aFC_STAT g) FC_STAT.READY = 1 := by
  have listed : g ∈ (flashOf n).filter s.deep.closed.contains := List.mem_filter.2 ⟨hg, by simpa using closed⟩
  rw [flashReopen_eq]
  refine forAll_establishes (P := fun t => g ∉ t.deep.closed ∧ t.fld (aFC_STAT g) FC_STAT.READY = 1) listed s (fun t => ?_) fun t b h => ?_
  · exact ⟨by simp [closed_reopen], ready_reopen_self t g⟩
  · exact ⟨fun k => h.1 (List.mem_of_mem_filter (closed_reopen t b ▸ k)), ready_reopen h.2⟩

theorem aCLKD_CTRL_lt (x : Dom) : aCLKD_CTRL x < clusterBlk 0 := by
  have low : aCLKD_CTRL x < powerBlk + 0x3000 := by
    rw [aCLKD_CTRL]
    omega
  exact Nat.lt_of_lt_of_le low (by decide)

theorem aCLKD_STAT_lt (x : Dom) : aCLKD_STAT x < clusterBlk 0 := by
  have low : aCLKD_STAT x < powerBlk + 0x3000 := by
    rw [aCLKD_STAT, aCLKD_CTRL]
    omega
  exact Nat.lt_of_lt_of_le low (by decide)

theorem le_aFC_STAT (f : Nat) : clusterBlk 0 ≤ aFC_STAT f := by
  simp only [aFC_STAT, flashBlk, clusterBlk]
  omega

theorem reopen_beside (s : State) (f : Nat) : (reopen s f).cores = s.cores ∧ (reopen s f).clk = s.clk ∧
    ∀ x : Dom, (reopen s f).reg (aCLKD_STAT x) = s.reg (aCLKD_STAT x) :=
  ⟨rfl, rfl, fun x => State.reg_setFld_ne _ _ _ (Nat.ne_of_lt (Nat.lt_of_lt_of_le (aCLKD_STAT_lt x) (le_aFC_STAT f)))⟩

theorem flashReopen_beside (s : State) (n : Nat) : (s.flashReopen n).cores = s.cores ∧ (s.flashReopen n).clk = s.clk ∧
    ∀ x : Dom, (s.flashReopen n).reg (aCLKD_STAT x) = s.reg (aCLKD_STAT x) := by
  rw [flashReopen_eq]
  exact ⟨s.forAll_keeps State.cores _ _ fun t f _ => (reopen_beside t f).1, s.forAll_keeps State.clk _ _ fun t f _ => (reopen_beside t f).2.1,
    fun x => s.forAll_keeps (·.reg (aCLKD_STAT x)) _ _ fun t f _ => (reopen_beside t f).2.2 x⟩

theorem flashReopen_other (s : State) {n : Dom} (h : n ≠ 8) (k : n ≠ 9) : s.flashReopen n = s := by
  have h' : n.val ≠ 8 := fun e => h (Fin.ext e)
  have k' : n.val ≠ 9 := fun e => k (Fin.ext e)
  rw [flashReopen_eq, flashOf, if_neg h', if_neg k']
  rfl

/-- The loop of a domain locks: a coast ends (R46). -/
def lockLoop (s : State) (n : Dom) : State := (s.setFld (aCLKD_STAT n) CLKD_STAT.LOCK 1).setFld (aCLKD_STAT n) CLKD_STAT.COAST 0

theorem within_lockLoop (s : State) (n : Dom) : Within n s (lockLoop s n) := (within_stat ..).trans (within_stat ..)

theorem lockLoop_clk (s : State) (n : Dom) : (lockLoop s n).clk = s.clk := (State.setFld_clk ..).trans (State.setFld_clk ..)
theorem lockLoop_closed (s : State) (n : Dom) : (lockLoop s n).deep = s.deep := (State.setFld_deep ..).trans (State.setFld_deep ..)

theorem lockLoop_stat (s : State) (n : Dom) : (lockLoop s n).fld (aCLKD_STAT n) CLKD_STAT.LOCK = 1 ∧ (lockLoop s n).fld (aCLKD_STAT n) CLKD_STAT.COAST = 0 :=
  ⟨(State.fld_setFld_apart _ _ _ _ _ (by decide) (by decide)).trans (State.fld_setFld_self _ _ _ 1 (by decide)), State.fld_setFld_self _ _ _ 0 (by decide)⟩

theorem exec_loopLock {s : State} {n : Dom} (enabled : s.fld (aCLKD_CTRL n) CLKD_CTRL.LOOP_EN = 1) :
    exec (.clkdLoopLock n) s = .next (s.commit ((lockLoop s n).flashReopen n)) := by
  have on : s.flag (aCLKD_CTRL n) CLKD_CTRL.LOOP_EN = true := by rw [State.flag, enabled]; rfl
  show s.done _ = _
  rw [if_pos on]
  rfl

theorem loopLock_answers {s : State} {n : Dom} (enabled : s.fld (aCLKD_CTRL n) CLKD_CTRL.LOOP_EN = 1) (h : n ≠ 8) (k : n ≠ 9) :
    Answers (.clkdLoopLock n) s fun u =>
      (RegsBut s u [aCLKD_STAT n, aCLKD_CTRL n] ∧ u.cores = s.cores ∧ ∀ x : Dom, x ≠ n → u.clk[x] = s.clk[x]) ∧ u.clk = s.clk ∧
        u.fld (aCLKD_STAT n) CLKD_STAT.LOCK = 1 ∧ u.fld (aCLKD_STAT n) CLKD_STAT.COAST = 0 := by
  refine answers_commit _ (exec_loopLock enabled) ?_
  rw [flashReopen_other _ h k]
  simp -implicitDefEqProofs only [State.fld_commit, State.commit_clk]
  exact ⟨(within_lockLoop s n).commit, lockLoop_clk s n, lockLoop_stat s n⟩

theorem loopLock_reopens {s : State} {n : Dom} (enabled : s.fld (aCLKD_CTRL n) CLKD_CTRL.LOOP_EN = 1) :
    Answers (.clkdLoopLock n) s fun u => u.clk = s.clk ∧ u.cores = s.cores ∧ u.fld (aCLKD_STAT n) CLKD_STAT.LOCK = 1 ∧
      u.fld (aCLKD_STAT n) CLKD_STAT.COAST = 0 ∧ ∀ g ∈ flashOf n, g ∈ s.deep.closed → g ∉ u.deep.closed ∧ u.fld (aFC_STAT g) FC_STAT.READY = 1 := by
  obtain ⟨cores, clk, stat⟩ := flashReopen_beside (lockLoop s n) n
  refine answers_commit _ (exec_loopLock enabled) ?_
  simp -implicitDefEqProofs only [State.fld_commit, State.commit_clk, State.commit_cores, State.commit_deep]
  exact ⟨clk.trans (lockLoop_clk s n), cores.trans (within_lockLoop s n).cores, (fld_of_reg (stat n) _).trans (lockLoop_stat s n).1,
    (fld_of_reg (stat n) _).trans (lockLoop_stat s n).2, fun g hg closed => flashReopen_opens hg (lockLoop_closed s n ▸ closed)⟩

/-! Breaches noted on images (R32, R46) -/

/-- All of a state but control space, the ports, the images, the pins and the error log with what it hands to the sideband. -/
def besideNotice (s : State) : State :=
  { s with
    regs := [], ports := State.reset.ports, images := State.reset.images, pins := State.reset.pins
    mgmt := { s.mgmt with errlog := [], held := [], smbOut := [] } }

/-- From `s` on images were marked, and events logged and sent to hosts. -/
structure Notices (s u : State) : Prop where
  rest : besideNotice u = besideNotice s
  reg : ∀ a < clusterBlk 0, u.reg a = s.reg a
  port : ∀ p, Grows (s.port p) (u.port p)

theorem Notices.refl (s : State) : Notices s s := ⟨rfl, fun _ _ => rfl, fun _ => .refl _⟩

theorem Notices.trans {s u v : State} (h : Notices s u) (k : Notices u v) : Notices s v :=
  ⟨k.rest.trans h.rest, fun a ha => (k.reg a ha).trans (h.reg a ha), fun p => (h.port p).trans (k.port p)⟩

theorem Notices.cores {s u : State} (h : Notices s u) : u.cores = s.cores := (congrArg State.cores h.rest :)
theorem Notices.clk {s u : State} (h : Notices s u) : u.clk = s.clk := (congrArg State.clk h.rest :)
theorem Notices.ilv {s u : State} (h : Notices s u) : u.ilv = s.ilv := (congrArg State.ilv h.rest :)
theorem Notices.claimed {s u : State} (h : Notices s u) : u.claimed = s.claimed := (congrArg State.claimed h.rest :)

theorem Tells.notices {s u : State} (h : Tells s u) : Notices s u :=
  ⟨(congrArg besideNotice h.rest :), fun a ha => h.reg a fun hr => Nat.not_le.2 ha hr.inBar0.ge, h.port⟩

theorem Logs.notices {s u : State} (h : Logs s u) : Notices s u := by
  have ports : u.ports = s.ports := (congrArg State.ports h.rest :)
  refine ⟨(congrArg besideNotice h.rest :), fun a ha => h.reg a ?_ ?_, fun p => by rw [State.port, State.port, ports]; exact .refl _⟩
  · exact Nat.ne_of_lt (Nat.lt_of_lt_of_le ha (by decide))
  · exact Nat.ne_of_lt (Nat.lt_of_lt_of_le ha (by decide))

theorem notices_setImage (s : State) (k : Nat) (i : Option Image) : Notices s (s.setImage k i) := by
  unfold State.setImage
  split
  · exact ⟨by unfold besideNotice; rfl, fun _ _ => rfl, fun _ => .refl _⟩
  · exact .refl s

theorem notices_modImage (s : State) (k : Nat) (f : Image → Image) : Notices s (s.modImage k f) := by
  unfold State.modImage
  split
  · exact notices_setImage ..
  · exact .refl s

theorem notices_forAll {α : Type} (s : State) (l : List α) (f : State → α → State) (h : ∀ s, ∀ a ∈ l, Notices s (f s a)) :
    Notices s (s.forAll l f) := by
  induction l generalizing s with
  | nil => exact .refl s
  | cons a l ih => exact (h s a (by simp)).trans (ih (f s a) fun s b hb => h s b (by simp [hb]))

theorem notices_breachBy (s : State) (k : Nat) (im : Image) (kind index data0 : Nat) : Notices s (s.breachBy k im kind index data0) := by
  unfold State.breachBy
  split
  · exact .refl s
  · exact ((notices_modImage ..).trans (logs_logErr ..).notices).trans (tells_eventOwner ..).notices

theorem notices_coastBreach (s : State) (n k : Nat) : Notices s (s.coastBreach n k) := by
  unfold State.coastBreach
  split
  · split
    · exact notices_breachBy ..
    · exact .refl s
  · exact .refl s

/-- A domain whose loop coasts (R46). -/
theorem within_coast (s : State) (n : Dom) : Within n s (s.coast n) := ((within_stat ..).trans (within_stat ..)).trans (within_stat ..)

theorem coast_stat (s : State) (n : Dom) : (s.coast n).fld (aCLKD_STAT n) CLKD_STAT.COAST = 1 ∧
    (s.coast n).fld (aCLKD_STAT n) CLKD_STAT.COAST_SEEN = 1 ∧ (s.coast n).fld (aCLKD_STAT n) CLKD_STAT.LOCK = 0 := by
  unfold State.coast
  simp +decide -implicitDefEqProofs only [State.fld_setFld_self, State.fld_setFld_apart, Nat.zero_mod, true_and]

theorem coast_ports (s : State) (n : Dom) : (s.coast n).ports = s.ports := by
  rw [State.coast, State.setFld_ports, State.setFld_ports, State.setFld_ports]

/-- The state after a source is lost, but for a link that it takes down. -/
def loseSource (s : State) (n : Dom) : State :=
  let s := (s.coast n).logErr 0x0605 0x08 n 1 0 0 0
  s.forAll s.loadedSlots fun s k => s.coastBreach n k

theorem notices_loseSource (s : State) (n : Dom) : Notices (s.coast n) (loseSource s n) :=
  (logs_logErr ..).notices.trans (notices_forAll _ _ _ fun _ _ _ => notices_coastBreach ..)

theorem exec_clockSourceLost {s : State} {n : Dom} (enabled : s.fld (aCLKD_CTRL n) CLKD_CTRL.LOOP_EN = 1) (h : n ≠ 10) (k : n ≠ 11) :
    exec (.clockSourceLost n) s = .next (s.commit (loseSource s n)) := by
  have on : s.flag (aCLKD_CTRL n) CLKD_CTRL.LOOP_EN = true := by rw [State.flag, enabled]; rfl
  show execClockSourceLost n s = _
  unfold execClockSourceLost
  rw [on, if_neg (by simp)]
  dsimp only
  rw [if_neg h, if_neg k]
  rfl

theorem clockSourceLost_answers {s : State} {n : Dom} (enabled : s.fld (aCLKD_CTRL n) CLKD_CTRL.LOOP_EN = 1) (h : n ≠ 10) (k : n ≠ 11) :
    Answers (.clockSourceLost n) s fun u => u.cores = s.cores ∧ u.fld (aCLKD_STAT n) CLKD_STAT.COAST = 1 ∧
      u.fld (aCLKD_STAT n) CLKD_STAT.COAST_SEEN = 1 ∧ u.fld (aCLKD_STAT n) CLKD_STAT.LOCK = 0 ∧ u.ports.map (·.up) = s.ports.map (·.up) := by
  have notices := notices_loseSource s n
  have stat := notices.reg _ (aCLKD_STAT_lt n)
  refine answers_commit _ (exec_clockSourceLost enabled h k) ?_
  simp -implicitDefEqProofs only [State.fld_commit, State.commit_cores, State.commit_ports, fld_of_reg stat]
  obtain ⟨coasts, seen, unlocked⟩ := coast_stat s n
  refine ⟨notices.cores.trans (within_coast s n).cores, coasts, seen, unlocked, ?_⟩
  rw [← coast_ports s n]
  ext p hp
  rw [Vector.getElem_map, Vector.getElem_map]
  exact (notices.port ⟨p, hp⟩).up

end Sys2Proof.Proofs
end

section
/-! SUPPORT. What writes to memory leave besides its contents: the lists of poisoned units and their counts (R416, R419). -/

namespace Sys2Proof.Proofs
open Sys2Proof.Machine Sys2Proof.Claims

/-- All of a state but control space, the tier controllers, the accesses in flight and the free values drawn. -/
def besidePoison (s : State) : State := { s with regs := [], tiers := State.reset.tiers, txns := [], free := 0 }

/-- From `s` on units were entered in lists of poisoned units and taken from them, and accesses performed. -/
structure Poisons (s u : State) : Prop where
  rest : besidePoison u = besidePoison s
  reg : ∀ a, (∀ n, a ≠ ncBlk n + 8) → u.reg a = s.reg a

theorem Poisons.refl (s : State) : Poisons s s := ⟨rfl, fun _ _ => rfl⟩

theorem Poisons.trans {s u v : State} (h : Poisons s u) (k : Poisons u v) : Poisons s v :=
  ⟨k.rest.trans h.rest, fun a ha => (k.reg a ha).trans (h.reg a ha)⟩

theorem Poisons.images {s u : State} (h : Poisons s u) : u.images = s.images := (congrArg State.images h.rest :)
theorem Poisons.cores {s u : State} (h : Poisons s u) : u.cores = s.cores := (congrArg State.cores h.rest :)
theorem Poisons.claimed {s u : State} (h : Poisons s u) : u.claimed = s.claimed := (congrArg State.claimed h.rest :)
theorem Poisons.clk {s u : State} (h : Poisons s u) : u.clk = s.clk := (congrArg State.clk h.rest :)

theorem ncBlk_ge (n : Nat) : dieBlk 0 ≤ ncBlk n := by
  simp only [ncBlk, dieBlk]
  split <;> omega

theorem ne_ncBlk_of_lt {a : Nat} (h : a < dieBlk 0) (n : Nat) : a ≠ ncBlk n + 8 :=
  Nat.ne_of_lt (Nat.lt_of_lt_of_le h (Nat.le_trans (ncBlk_ge n) (Nat.le_add_right _ 8)))

/-- FATAL_STAT is no register of a channel. -/
theorem aFATAL_STAT_ne_ncBlk (n : Nat) : aFATAL_STAT 0 ≠ ncBlk n + 8 := by
  intro h
  have page : (ncBlk n + 8) % 0x1000 = 8 := by
    simp only [ncBlk, dieBlk, ctrlBase]
    split <;> omega
  exact absurd (h ▸ page) (by decide)

theorem poisons_forAll {α : Type} (s : State) (l : List α) (f : State → α → State) (h : ∀ s, ∀ a ∈ l, Poisons s (f s a)) :
    Poisons s (s.forAll l f) := by
  induction l generalizing s with
  | nil => exact .refl s
  | cons a l ih => exact (h s a (by simp)).trans (ih (f s a) fun s b hb => h s b (by simp [hb]))

theorem poisons_setFld (s : State) (n : Nat) (f : Field) (v : Nat) : Poisons s (s.setFld (ncBlk n + 8) f v) :=
  ⟨by unfold besidePoison; rfl, fun _ ha => s.reg_setFld_ne _ _ (ha n)⟩

theorem poisons_modTier (s : State) (n : Nat) (f : Tier → Tier) : Poisons s (s.modTier n f) :=
  ⟨by unfold besidePoison State.modTier; rfl, fun _ _ => State.reg_modTier ..⟩

theorem poisons_plistStat (s : State) (n : Nat) : Poisons s (s.plistStat n) :=
  ((poisons_setFld ..).trans (poisons_setFld ..)).trans (poisons_setFld ..)

theorem poisons_plistEnter (s : State) (n unit : Nat) : Poisons s (s.plistEnter n unit) := by
  unfold State.plistEnter
  dsimp only
  split
  · exact .refl s
  · exact (poisons_modTier ..).trans (poisons_plistStat ..)

theorem poisons_plistLeave (s : State) (n unit : Nat) : Poisons s (s.plistLeave n unit) := by
  unfold State.plistLeave
  split
  · exact (poisons_modTier ..).trans (poisons_plistStat ..)
  · exact .refl s

theorem poisons_plistAdd (s : State) (n unit : Nat) : Poisons s (s.plistAdd n unit) := by
  unfold State.plistAdd
  dsimp only
  split
  · exact (poisons_plistEnter ..).trans (poisons_plistEnter ..)
  · exact poisons_plistEnter ..

theorem poisons_plistDel (s : State) (n unit : Nat) : Poisons s (s.plistDel n unit) := by
  unfold State.plistDel
  dsimp only
  split
  · exact (poisons_plistLeave ..).trans (poisons_plistLeave ..)
  · exact poisons_plistLeave ..

theorem poisons_plistDrop (s : State) (n lo count : Nat) : Poisons s (s.plistDrop n lo count) := by
  unfold State.plistDrop
  dsimp only
  split
  · exact (poisons_modTier ..).trans (poisons_plistStat ..)
  · exact .refl s

theorem poisons_writePoison (s : State) (ws : List (Nat × Byte × Bool)) : Poisons s (s.writePoison ws).1 := by
  unfold State.writePoison
  dsimp only
  refine (poisons_forAll _ _ _ fun t b _ => ?_).trans (poisons_forAll _ _ _ fun t b _ => ?_)
  · split
    · split
      · exact poisons_plistAdd ..
      · split
        · exact poisons_plistDel ..
        · exact .refl t
    · exact .refl t
  · split
    · split
      · exact poisons_modTier ..
      · split
        · exact poisons_modTier ..
        · exact .refl t
    · exact .refl t

theorem poisons_writeHome (s : State) (ws : List (Nat × Byte × Bool)) : Poisons s (s.writeHome ws).1 := poisons_writePoison s ws

theorem poisons_draw (s : State) : Poisons s s.draw.2 := ⟨by unfold besidePoison State.draw; rfl, fun _ _ => rfl⟩

theorem poisons_unknownBytes (s : State) (as : List Nat) : Poisons s (s.unknownBytes as).1 := by
  suffices drawn : ∀ (l : List Nat) (r : State × List (Nat × Byte × Bool)), Poisons r.1
      (l.foldl (fun r a => let (v, t) := r.1.draw; (t, r.2 ++ [(a, v.setWidth 8, true)])) r).1 from drawn as (s, [])
  intro l
  induction l with
  | nil => exact fun r => .refl r.1
  | cons a l ih => exact fun r => (poisons_draw r.1).trans (ih (r.1.draw.2, r.2 ++ [(a, r.1.draw.1.setWidth 8, true)]))

theorem poisons_modTxn (s : State) (id : Nat) (f : Txn → Txn) : Poisons s (s.modTxn id f) :=
  ⟨by unfold besidePoison State.modTxn; rfl, fun _ _ => rfl⟩

theorem poisons_poisonEnd (s : State) (x : Txn) : Poisons s (s.poisonEnd x).1 := by
  unfold State.poisonEnd
  dsimp only
  split
  · exact ((poisons_unknownBytes ..).trans (poisons_writeHome ..)).trans (poisons_modTxn ..)
  · exact poisons_modTxn ..

/-- What every step of a walk that also writes memory keeps, the walk keeps. -/
theorem eachMem_keeps {α : Type} {R : State → State → Prop} (refl : ∀ s, R s s) (trans : ∀ {s t u}, R s t → R t u → R s u)
    (s : State) (l : List α) (f : State → α → State × MemUpd) (h : ∀ s, ∀ a ∈ l, R s (f s a).1) : R s (s.eachMem l f).1 := by
  suffices walk : ∀ (l' : List α) (r : State × MemUpd), (∀ a ∈ l', a ∈ l) → R r.1 (l'.foldl (fun r a => andThen r fun s => f s a) r).1 from
    walk l (s, .none) fun _ ha => ha
  intro l'
  induction l' with
  | nil => exact fun r _ => refl r.1
  | cons a l' ih => exact fun r ha => trans (h r.1 a (ha a (by simp))) (ih (andThen r fun s => f s a) fun b hb => ha b (by simp [hb]))

theorem poisons_clearBad (s : State) (g : Nat) : Poisons s (s.clearBad g) := by
  unfold State.clearBad
  dsimp only
  split
  · split
    · exact poisons_forAll _ _ _ fun _ _ _ => poisons_plistDrop ..
    · exact poisons_forAll _ _ _ fun _ _ _ => poisons_plistDrop ..
  · exact poisons_forAll _ _ _ fun _ _ _ => poisons_modTier ..

theorem poisons_fillPage (s : State) (g : Nat) (content : List (Nat × Byte)) : Poisons s (s.fillPage g content).1 := poisons_clearBad s g

/-! A domain reset by its watchdog (R49) -/

/-- From `s` on the registers below the clusters' and the sequencers of the clock domains stand. -/
structure Aside (s u : State) : Prop where
  clk : u.clk = s.clk
  reg : ∀ a < clusterBlk 0, u.reg a = s.reg a

theorem Aside.refl (s : State) : Aside s s := ⟨rfl, fun _ _ => rfl⟩

theorem Aside.trans {s u v : State} (h : Aside s u) (k : Aside u v) : Aside s v :=
  ⟨k.clk.trans h.clk, fun a ha => (k.reg a ha).trans (h.reg a ha)⟩

theorem Poisons.aside {s u : State} (h : Poisons s u) : Aside s u :=
  ⟨h.clk, fun a ha => h.reg a (ne_ncBlk_of_lt (Nat.lt_of_lt_of_le ha (by decide)))⟩

theorem Replies.aside {s u : State} (h : Replies s u) : Aside s u := ⟨h.clk, h.reg⟩

theorem Wakes.aside {s u : State} (h : Wakes [] s u) : Aside s u :=
  ⟨(congrArg State.clk h.rest :), fun a ha => h.reg a ha (by simp)⟩

theorem Notices.aside {s u : State} (h : Notices s u) : Aside s u := ⟨h.clk, h.reg⟩

theorem aside_setReg (s : State) {a : Nat} (w : Word) (h : clusterBlk 0 ≤ a) : Aside s (s.setReg a w) := (replies_setReg s w h).aside

theorem aside_setFld (s : State) {a : Nat} (f : Field) (v : Nat) (h : clusterBlk 0 ≤ a) : Aside s (s.setFld a f v) := aside_setReg s _ h

theorem aside_forAll {α : Type} (s : State) (l : List α) (f : State → α → State) (h : ∀ s, ∀ a ∈ l, Aside s (f s a)) : Aside s (s.forAll l f) := by
  induction l generalizing s with
  | nil => exact .refl s
  | cons a l ih => exact (h s a (by simp)).trans (ih (f s a) fun s b hb => h s b (by simp [hb]))

theorem aside_retrainClosed (s : State) (k : Nat) : Aside s (if s.flag (aTIER_STAT k) NC_STAT.READY then
    ((s.setFld (aTIER_STAT k) NC_STAT.READY 0).modTier k fun t => { t with burst := none, calls := [], retrainLeft := 0 }).retrain k else s) := by
  split
  · exact ((aside_setFld s _ _ (le_aTIER_STAT k)).trans (wakes_modTier [] ..).aside).trans (wakes_retrain [] ..).aside
  · exact .refl s

theorem aside_memDomainReset (s : State) (n : Nat) : Aside s (s.memDomainReset n).1 := by
  unfold State.memDomainReset
  extract_lets ks hit
  exact (eachMem_keeps (R := Aside) Aside.refl .trans _ _ _ fun t x _ => (poisons_poisonEnd t x).aside).trans
    (aside_forAll _ _ _ fun t k _ => aside_retrainClosed t k)

/-- The registers of a port lie above those of the clusters. -/
theorem port_register_ge (p o : Nat) : clusterBlk 0 ≤ bar0 p + o := by
  simp only [bar0, clusterBlk]
  omega

theorem ring_register_ge (p r o : Nat) : clusterBlk 0 ≤ ringBlk p r + o := by
  rw [ringBlk, Nat.add_assoc, Nat.add_assoc]
  exact port_register_ge ..

theorem aside_modRing (s : State) (p : Port) (r : Ring) (f : RingSt → RingSt) : Aside s (s.modRing p r f) := ⟨rfl, fun _ _ => rfl⟩
theorem aside_modPort (s : State) (p : Port) (f : PortSt → PortSt) : Aside s (s.modPort p f) := ⟨rfl, fun _ _ => rfl⟩

theorem aside_withdraw (s : State) (who : Waiter) : Aside s (s.withdraw who).2 := by
  unfold State.withdraw
  extract_lets passed objs t
  have begun : Aside s t := ⟨rfl, fun _ _ => rfl⟩
  exact begun.trans (replies_forAll _ _ _ fun _ _ _ => replies_parkStat ..).aside

theorem aside_ringWithdraw (s : State) (p : Port) (r : Ring) : Aside s (s.ringWithdraw p r) := by
  unfold State.ringWithdraw
  split
  · exact (aside_withdraw ..).trans (aside_modRing ..)
  · exact .refl s

theorem aside_pairOff (s : State) (p : Port) (r : Ring) : Aside s (s.pairOff p r) := by
  unfold State.pairOff
  extract_lets t
  have closed : Aside s t := (aside_ringWithdraw ..).trans (aside_modRing ..)
  have orphaned : ∀ l, Aside t { t with claimed := l } := fun _ => ⟨rfl, fun _ _ => rfl⟩
  exact (closed.trans (orphaned _)).trans (proceeds_outStat ..).toReplies.aside

/-- Registers of a port put back to their reset values. -/
theorem aside_resets (l : List Nat) (h : ∀ a ∈ l, clusterBlk 0 ≤ a) (s : State) : Aside s (l.foldl (fun s a => s.setReg a (resetAt a)) s) :=
  aside_forAll s l (fun s a => s.setReg a (resetAt a)) fun t a ha => aside_setReg t _ (h a ha)

theorem aside_portReset (s : State) (p : Port) : Aside s (s.portReset p) := by
  have rings_ : Aside s (s.forAll rings fun s r =>
      [aCR_BASE p r, aCR_CTRL p r, aCR_STAT p r, aCC_BASE p r, aCC_CTRL p r, aCC_STAT p r, aCC_DROP p r].foldl
        (fun s a => s.setReg a (resetAt a)) ((s.pairOff p r).modRing p r fun q => { RingSt.reset with last := q.last })) :=
    aside_forAll _ _ _ fun t r _ => ((aside_pairOff ..).trans (aside_modRing ..)).trans (aside_resets _ (by
      simp only [List.forall_mem_cons, aCR_BASE, aCR_CTRL, aCR_STAT, aCC_BASE, aCC_CTRL, aCC_STAT, aCC_DROP]
      exact ⟨ring_register_ge p r 0, ring_register_ge .., ring_register_ge .., ring_register_ge .., ring_register_ge .., ring_register_ge ..,
        ring_register_ge .., by simp⟩) _)
  exact rings_.trans (aside_resets _ (by
    simp only [List.forall_mem_cons, aEVT_BASE, aEVT_CTRL, aEVT_STAT, aEVT_CONS, aBAR2_BASE, aHW_BASE]
    exact ⟨port_register_ge .., port_register_ge .., port_register_ge .., port_register_ge .., port_register_ge .., port_register_ge ..,
      by simp⟩) _)

theorem aside_linkLost (s : State) (p : Port) : Aside s (s.linkLost p) := by
  unfold State.linkLost
  split
  · exact .refl s
  · extract_lets t u
    have windows : Aside s { s with bar2 := s.bar2.filter (·.1 ≠ p) } := ⟨rfl, fun _ _ => rfl⟩
    have down : Aside s t := (windows.trans (aside_portReset ..)).trans (aside_modPort ..)
    have lanes : Aside s u := (down.trans (aside_setFld _ _ _ (port_register_ge ..))).trans (aside_setFld _ _ _ (port_register_ge ..))
    exact (lanes.trans (aside_setFld _ _ _ (port_register_ge ..))).trans (tells_errSum ..).proceeds.toReplies.aside

theorem mgmt_register_ge (m o : Nat) : clusterBlk 0 ≤ mgmtBlk m + o := by
  simp only [mgmtBlk, clusterBlk]
  omega

theorem le_aFATAL_STAT : clusterBlk 0 ≤ aFATAL_STAT 0 := by decide
theorem le_aMGMT_ROLE : clusterBlk 0 ≤ aMGMT_ROLE 0 := by decide
theorem le_aBOOT_STAT (m : Nat) : clusterBlk 0 ≤ aBOOT_STAT m := by
  rw [aBOOT_STAT, ← Nat.add_zero (mgmtBlk m)]
  exact mgmt_register_ge m 0

theorem aside_pins (s : State) (pins : Pins) : Aside s { s with pins := pins } := ⟨rfl, fun _ _ => rfl⟩

theorem aside_fatalMark (s : State) (code : Nat) : Aside s (s.fatalMark code) := by
  unfold State.fatalMark
  extract_lets marked pins
  have toMarked : Aside s marked := (aside_setFld s _ _ le_aFATAL_STAT).trans (aside_setFld _ _ _ le_aFATAL_STAT)
  exact (toMarked.trans (aside_pins ..)).trans (logs_alert ..).notices.aside

theorem aside_fatal_mgmt (s : State) (kind index data1 data0 : Nat) : Aside s (s.fatal 0x0404 kind index data1 data0).1 := by
  unfold State.fatal
  extract_lets was
  rw [if_pos rfl]
  split
  · exact .refl s
  · exact aside_fatalMark ..

/-- The active management complex is down. -/
def mgmtDown (s : State) : State := s.setFld (aBOOT_STAT s.activeMc) BOOT_STAT.PHASE 0

theorem mgmtLost_eq (s : State) : s.mgmtLost =
    if (mgmtDown s).flag (aMGMT_ROLE 0) MGMT_ROLE.STANDBY_UP then (mgmtDown s, .none) else (mgmtDown s).fatal 0x0404 0x0A s.activeMc 0 0 := rfl

theorem aside_mgmtLost (s : State) : Aside s s.mgmtLost.1 := by
  have down : Aside s (mgmtDown s) := aside_setFld _ _ _ (le_aBOOT_STAT _)
  rw [mgmtLost_eq]
  split
  · exact down
  · exact down.trans (aside_fatal_mgmt ..)

theorem aside_flashClose (s : State) (f : Nat) : Aside s ((s.modDeep fun d => { d with closed := d.closed ++ [f] }).setFld (aFC_STAT f) FC_STAT.READY 0) :=
  have closed : Aside s (s.modDeep fun d => { d with closed := d.closed ++ [f] }) := ⟨rfl, fun _ _ => rfl⟩
  closed.trans (aside_setFld _ _ _ (le_aFC_STAT f))

/-- What a reset domain carried ends (R49, R510, R511). -/
def domainEnds (s : State) (n : Dom) : State × MemUpd :=
  if n.val < 8 then s.memDomainReset n
  else if n = 10 then (s.linkLost 0, .none)
  else if n = 11 then (s.linkLost 1, .none)
  else if n = 12 ∨ n = 13 then
    let m := n.val - 12
    if m = s.activeMc then (if s.ahnal then s.mgmtLost else (s, .none))
    else ((s.setFld (aMGMT_ROLE 0) MGMT_ROLE.STANDBY_UP 0).setFld (aBOOT_STAT m) BOOT_STAT.PHASE 0, .none)
  else (s.forAll ((flashOf n).filter fun f => s.flag (aFC_STAT f) FC_STAT.READY) fun s f =>
    (s.modDeep fun d => { d with closed := d.closed ++ [f] }).setFld (aFC_STAT f) FC_STAT.READY 0, .none)

theorem aside_domainEnds (s : State) (n : Dom) : Aside s (domainEnds s n).1 := by
  unfold domainEnds
  split
  · exact aside_memDomainReset ..
  split
  · exact aside_linkLost ..
  split
  · exact aside_linkLost ..
  split
  · dsimp only
    split
    · split
      · exact aside_mgmtLost s
      · exact .refl s
    · exact (aside_setFld s _ _ le_aMGMT_ROLE).trans (aside_setFld _ _ _ (le_aBOOT_STAT _))
  · exact aside_forAll _ _ _ fun t f _ => aside_flashClose t f

/-- The registers and the sequencer of a domain after its reset. -/
def resetDomain (s : State) (n : Dom) : State :=
  let st := aCLKD_STAT n
  let seen := s.fld st CLKD_STAT.COAST_SEEN
  let s := (s.setReg (aCLKD_CTRL n) (fieldsReset CLKD_CTRL)).setReg st
    (CLKD_STAT.WDOG_RESET.put (CLKD_STAT.COAST_SEEN.put (fieldsReset CLKD_STAT) seen) 1)
  s.modClk n fun _ => ClkSeq.reset

theorem exec_watchdog {s : State} {n : Dom} (h : s.fld (aCLKD_STAT n) CLKD_STAT.SWITCHING = 1 ∨ s.fld (aCLKD_STAT n) CLKD_STAT.SEQ_BUSY = 1) :
    exec (.domainWatchdogExpiry n) s = .next (s.commitMem (domainEnds ((resetDomain s n).logErr 0x0606 0x08 n 1 0 0 0) n)) := by
  have due : (!s.flag (aCLKD_STAT n) CLKD_STAT.SWITCHING && !s.flag (aCLKD_STAT n) CLKD_STAT.SEQ_BUSY) = false := by
    rw [State.flag, State.flag]
    rcases h with h | h <;> simp [h]
  show execDomainWatchdogExpiry n s = _
  unfold execDomainWatchdogExpiry
  dsimp only
  rw [due]
  rfl

theorem resetAt_ctrl : ∀ n : Dom, resetAt (aCLKD_CTRL n) = fieldsReset CLKD_CTRL := by decide

/-- The status register of a domain after its reset. -/
theorem resetDomain_stat (s : State) (n : Dom) : (resetDomain s n).fld (aCLKD_STAT n) CLKD_STAT.WDOG_RESET = 1 ∧
    (resetDomain s n).fld (aCLKD_STAT n) CLKD_STAT.SEQ_BUSY = 0 ∧
    (resetDomain s n).fld (aCLKD_STAT n) CLKD_STAT.COAST_SEEN = s.fld (aCLKD_STAT n) CLKD_STAT.COAST_SEEN := by
  have idle : CLKD_STAT.SEQ_BUSY.get (fieldsReset CLKD_STAT) = 0 := by decide
  unfold resetDomain
  dsimp only
  rw [fld_modClk, fld_modClk, fld_modClk, State.fld_setReg_self, State.fld_setReg_self, State.fld_setReg_self]
  refine ⟨Field.get_put _ _ _ (by decide), ?_, ?_⟩
  · rw [Field.get_put_apart _ _ _ _ (by decide) (by decide), Field.get_put_apart _ _ _ _ (by decide) (by decide), idle]
  · rw [Field.get_put_apart _ _ _ _ (by decide) (by decide), Field.get_put _ _ _ (by decide)]
    exact fld_mod_size s (aCLKD_STAT n) CLKD_STAT.COAST_SEEN

theorem resetDomain_ctrl (s : State) (n : Dom) : (resetDomain s n).reg (aCLKD_CTRL n) = resetAt (aCLKD_CTRL n) := by
  unfold resetDomain
  dsimp only
  rw [reg_modClk, State.reg_setReg_ne _ _ (aCLKD_CTRL_ne_STAT n), State.reg_setReg_self, resetAt_ctrl]

theorem resetDomain_clk (s : State) (n : Dom) : (resetDomain s n).clk[n] = ClkSeq.reset := clk_modClk_self ..

theorem clk_of_eq {s u : State} (h : u.clk = s.clk) (n : Dom) : u.clk[n] = s.clk[n] := by simp only [h]

theorem watchdog_resets {s : State} {n : Dom} (h : s.fld (aCLKD_STAT n) CLKD_STAT.SWITCHING = 1 ∨ s.fld (aCLKD_STAT n) CLKD_STAT.SEQ_BUSY = 1) :
    ∃ u, exec (.domainWatchdogExpiry n) s = .next u ∧ u.pending = s.pending ∧ u.clk[n] = ClkSeq.reset ∧ u.reg (aCLKD_CTRL n) = resetAt (aCLKD_CTRL n) ∧
      u.fld (aCLKD_STAT n) CLKD_STAT.WDOG_RESET = 1 ∧ u.fld (aCLKD_STAT n) CLKD_STAT.SEQ_BUSY = 0 ∧
      u.fld (aCLKD_STAT n) CLKD_STAT.COAST_SEEN = s.fld (aCLKD_STAT n) CLKD_STAT.COAST_SEEN := by
  have aside : Aside (resetDomain s n) (domainEnds ((resetDomain s n).logErr 0x0606 0x08 n 1 0 0 0) n).1 :=
    (logs_logErr ..).notices.aside.trans (aside_domainEnds ..)
  obtain ⟨marked, idle, seen⟩ := resetDomain_stat s n
  have stat : ∀ f, (domainEnds ((resetDomain s n).logErr 0x0606 0x08 n 1 0 0 0) n).1.fld (aCLKD_STAT n) f = (resetDomain s n).fld (aCLKD_STAT n) f :=
    fun f => fld_of_reg (aside.reg _ (aCLKD_STAT_lt n)) f
  refine ⟨_, exec_watchdog h, rfl, ?_⟩
  generalize domainEnds _ n = ended at aside stat
  rw [clk_of_eq (State.commitMem_clk ..), State.reg_commitMem, State.fld_commitMem, State.fld_commitMem, State.fld_commitMem]
  exact ⟨(clk_of_eq aside.clk n).trans (resetDomain_clk s n), (aside.reg _ (aCLKD_CTRL_lt n)).trans (resetDomain_ctrl s n),
    (stat _).trans marked, (stat _).trans idle, (stat _).trans seen⟩

end Sys2Proof.Proofs
end

section
/-! SUPPORT. Floors of rails, and the end of an invocation (R27, R33, R466-R468). -/

namespace Sys2Proof.Proofs
open Sys2Proof.Machine Sys2Proof.Claims

/-! Floors -/

/-- From `s` on only the settings and the status registers of some rails have changed, and the windows in which rails were blocked. -/
structure Floors (rs : List Nat) (s u : State) : Prop where
  rest : besideRails u = besideRails s
  reg : ∀ a, (∀ r ∈ rs, a ≠ aGOV_SET r ∧ a ≠ aGOV_STAT r) → u.reg a = s.reg a

theorem Floors.refl (rs : List Nat) (s : State) : Floors rs s s := ⟨rfl, fun _ _ => rfl⟩

theorem Floors.trans {rs : List Nat} {s u v : State} (h : Floors rs s u) (k : Floors rs u v) : Floors rs s v :=
  ⟨k.rest.trans h.rest, fun a ha => (k.reg a ha).trans (h.reg a ha)⟩

theorem Floors.images {rs : List Nat} {s u : State} (h : Floors rs s u) : u.images = s.images := (congrArg State.images h.rest :)
theorem Floors.cores {rs : List Nat} {s u : State} (h : Floors rs s u) : u.cores = s.cores := (congrArg State.cores h.rest :)
theorem Floors.claimed {rs : List Nat} {s u : State} (h : Floors rs s u) : u.claimed = s.claimed := (congrArg State.claimed h.rest :)
theorem Floors.ports {rs : List Nat} {s u : State} (h : Floors rs s u) : u.ports = s.ports := (congrArg State.ports h.rest :)
theorem Floors.ilv {rs : List Nat} {s u : State} (h : Floors rs s u) : u.ilv = s.ilv := (congrArg State.ilv h.rest :)

theorem Floors.image {rs : List Nat} {s u : State} (h : Floors rs s u) (k : Nat) : u.image k = s.image k := by
  rw [State.image, State.image, h.images]

theorem floors_forAll {α : Type} {rs : List Nat} (s : State) (l : List α) (f : State → α → State) (h : ∀ s, ∀ a ∈ l, Floors rs s (f s a)) :
    Floors rs s (s.forAll l f) := by
  induction l generalizing s with
  | nil => exact .refl rs s
  | cons a l ih => exact (h s a (by simp)).trans (ih (f s a) fun s b hb => h s b (by simp [hb]))

theorem floors_setting {rs : List Nat} {r : Nat} (hr : r ∈ rs) (s : State) (f : Field) (v : Nat) : Floors rs s (s.setFld (aGOV_SET r) f v) :=
  ⟨by unfold besideRails; rfl, fun _ ha => s.reg_setFld_ne _ _ (ha r hr).1⟩

theorem floors_status {rs : List Nat} {r : Nat} (hr : r ∈ rs) (s : State) (f : Field) (v : Nat) : Floors rs s (s.setFld (aGOV_STAT r) f v) :=
  ⟨by unfold besideRails; rfl, fun _ ha => s.reg_setFld_ne _ _ (ha r hr).2⟩

theorem floors_windows (rs : List Nat) (s : State) (l : List (Nat × Nat)) : Floors rs s { s with breachWin := l } := ⟨rfl, fun _ _ => rfl⟩

theorem floors_writeFloors (s : State) (rs : List Nat) : Floors rs s (s.writeFloors rs) := by
  refine floors_forAll _ _ _ fun t r hr => ?_
  dsimp only
  split
  · exact (floors_setting hr ..).trans (floors_setting hr ..)
  · exact floors_setting hr ..

theorem floors_armFloors (s : State) (rs : List Nat) : Floors rs s (s.armFloors rs) :=
  floors_forAll _ _ _ fun _ _ hr => ((floors_setting hr ..).trans (floors_status hr ..)).trans (floors_windows ..)

/-! The end of an invocation, step by step (R466-R468) -/

/-- What START is answered with. -/
def endResult (im : Image) : List Byte :=
  match im.firstFault.getD (0xFFFF, 0) with
  | (w, v) => toBytes 4 im.invocations ++ toBytes 2 w ++ toBytes 1 v ++ toBytes 1 (b2n im.breach)

/-- An image whose invocation has ended. -/
def endImage (im : Image) (status detail : Nat) : Image :=
  { im with
    state := .loaded, startCmd := none, stopCmds := [], ending := .none, probe := none, windows := 0
    lastStatus := status, lastDetail := detail, lastResult := endResult im }

def begunImage (im : Image) : Bool := im.state == .running || im.state == .stopping

/-- The floors of an invocation are withdrawn. -/
def dropFloors (s : State) (im : Image) : State :=
  if begunImage im then (s.writeFloors im.rails).armFloors im.rails else s.writeFloors im.rails

def answerStart (s : State) (im : Image) (status detail : Nat) : State :=
  match im.startCmd with
  | some k => s.finalReply k status detail (endResult im)
  | none => s

def answerStops (s : State) (im : Image) : State := s.forAll im.stopCmds fun s k => s.finalReply k 0 0 []

/-- The owner of an image is woken where its port sleeps (R567). -/
def wakeOwner (s : State) (im : Image) : State :=
  match im.owner with
  | some p => if (s.port p).d3 && begunImage im then s.modPort p fun q => { q with wake := true } else s
  | none => s

theorem endInvocation_eq (s : State) (slot : Slot) (im : Image) (status detail : Nat) : s.endInvocation slot im status detail =
    wakeOwner (answerStops (answerStart (dropFloors (s.setImage slot (some (endImage im status detail))) im) im status detail) im) im := by
  unfold State.endInvocation dropFloors
  rfl

theorem floors_dropFloors (s : State) (im : Image) : Floors im.rails s (dropFloors s im) := by
  unfold dropFloors
  split
  · exact (floors_writeFloors ..).trans (floors_armFloors ..)
  · exact floors_writeFloors ..

/-- From `s` on commands were answered: the images stand, each core but for its threads, and no command was claimed anew. -/
structure Answering (s u : State) : Prop where
  images : u.images = s.images
  core : ∀ c, besideThreads (u.core c) = besideThreads (s.core c)
  claimed : ∀ c ∈ u.claimed, c ∈ s.claimed

theorem Answering.refl (s : State) : Answering s s := ⟨rfl, fun _ => rfl, fun _ h => h⟩

theorem Answering.trans {s u v : State} (h : Answering s u) (k : Answering u v) : Answering s v :=
  ⟨k.images.trans h.images, fun c => (k.core c).trans (h.core c), fun c hc => h.claimed c (k.claimed c hc)⟩

theorem answering_finalReply (s : State) (k status detail : Nat) (result : List Byte) : Answering s (s.finalReply k status detail result) :=
  ⟨finalReply_images .., (replies_finalReply s k status detail result).core, fun c hc => (not_claimed_finalReply s k status detail result c hc).2⟩

theorem answering_answerStart (s : State) (im : Image) (status detail : Nat) : Answering s (answerStart s im status detail) := by
  unfold answerStart
  split
  · exact answering_finalReply ..
  · exact .refl s

theorem answering_answerStops (s : State) (im : Image) : Answering s (answerStops s im) := by
  unfold answerStops
  generalize im.stopCmds = l
  induction l generalizing s with
  | nil => exact .refl s
  | cons k l ih => exact (answering_finalReply s k 0 0 []).trans (ih _)

theorem answering_wakeOwner (s : State) (im : Image) : Answering s (wakeOwner s im) := by
  unfold wakeOwner
  split
  · split
    · exact ⟨rfl, fun _ => rfl, fun _ h => h⟩
    · exact .refl s
  · exact .refl s

theorem Floors.answering {rs : List Nat} {s u : State} (h : Floors rs s u) : Answering s u :=
  ⟨h.images, fun c => by rw [State.core, State.core, h.cores], fun c hc => h.claimed ▸ hc⟩

/-- What follows the change of an image whose invocation ends. -/
theorem answering_endInvocation (s : State) (slot : Slot) (im : Image) (status detail : Nat) :
    Answering (s.setImage slot (some (endImage im status detail))) (s.endInvocation slot im status detail) := by
  rw [endInvocation_eq]
  exact (((floors_dropFloors ..).answering.trans (answering_answerStart ..)).trans (answering_answerStops ..)).trans (answering_wakeOwner ..)

/-- A command is no longer claimed. -/
def Gone (s : State) (k : Nat) : Prop := ∀ c ∈ s.claimed, c.id ≠ k

theorem gone_finalReply (s : State) (k status detail : Nat) (result : List Byte) : Gone (s.finalReply k status detail result) k :=
  fun c hc => (not_claimed_finalReply s k status detail result c hc).1

theorem Answering.gone {s u : State} (h : Answering s u) {k : Nat} (hk : Gone s k) : Gone u k := fun c hc => hk c (h.claimed c hc)

theorem gone_endInvocation_start (s : State) (slot : Slot) {im : Image} {k : Nat} (h : im.startCmd = some k) (status detail : Nat) :
    Gone (s.endInvocation slot im status detail) k := by
  rw [endInvocation_eq]
  refine ((answering_answerStops ..).trans (answering_wakeOwner ..)).gone ?_
  rw [answerStart, h]
  exact gone_finalReply _ k status detail (endResult im)

theorem gone_endInvocation_stop (s : State) (slot : Slot) {im : Image} {k : Nat} (h : k ∈ im.stopCmds) (status detail : Nat) :
    Gone (s.endInvocation slot im status detail) k := by
  rw [endInvocation_eq]
  refine (answering_wakeOwner ..).gone ?_
  exact forAll_establishes (P := fun t => Gone t k) h _ (fun t => gone_finalReply t k 0 0 []) fun t b ht => (answering_finalReply t b 0 0 []).gone ht

theorem endInvocation_image (s : State) (slot : Slot) (im : Image) (status detail : Nat) :
    (s.endInvocation slot im status detail).image slot = some (endImage im status detail) := by
  rw [State.image, (answering_endInvocation ..).images, ← State.image, State.image_setImage_self _ _ _ slot.isLt]

theorem endInvocation_others (s : State) (slot : Slot) (im : Image) (status detail : Nat) {x : Nat} (h : x ≠ slot.val) :
    (s.endInvocation slot im status detail).image x = s.image x := by
  rw [State.image, (answering_endInvocation ..).images, ← State.image, State.image_setImage_ne _ _ h]

/-! The fatal error of a stopped crystal (R50, R504-R506) -/

/-- From `s` on the clock domains' registers stand, and fatal state lasts. -/
structure Halts (s u : State) : Prop where
  reg : ∀ a, powerBlk + 0x2000 ≤ a → a < clusterBlk 0 → u.reg a = s.reg a
  fatal : s.flag (aFATAL_STAT 0) FATAL_STAT.FATAL = true → u.flag (aFATAL_STAT 0) FATAL_STAT.FATAL = true

theorem Halts.refl (s : State) : Halts s s := ⟨fun _ _ _ => rfl, id⟩

theorem Halts.trans {s u v : State} (h : Halts s u) (k : Halts u v) : Halts s v :=
  ⟨fun a lo hi => (k.reg a lo hi).trans (h.reg a lo hi), fun hf => k.fatal (h.fatal hf)⟩

theorem halts_of_reg {s u : State} (low : ∀ a, powerBlk + 0x2000 ≤ a → a < clusterBlk 0 → u.reg a = s.reg a)
    (fatal : u.reg (aFATAL_STAT 0) = s.reg (aFATAL_STAT 0)) : Halts s u :=
  ⟨low, fun hf => by rw [flag_of_reg fatal, hf]⟩

theorem halts_of_regs {s u : State} (h : u.regs = s.regs) : Halts s u := halts_of_reg (fun a _ _ => reg_of_regs h a) (reg_of_regs h _)

theorem halts_forAll {α : Type} (s : State) (l : List α) (f : State → α → State) (h : ∀ s, ∀ a ∈ l, Halts s (f s a)) : Halts s (s.forAll l f) := by
  induction l generalizing s with
  | nil => exact .refl s
  | cons a l ih => exact (h s a (by simp)).trans (ih (f s a) fun s b hb => h s b (by simp [hb]))

theorem Poisons.halts {s u : State} (h : Poisons s u) : Halts s u :=
  halts_of_reg (fun _ _ hi => h.aside.reg _ hi) (h.reg _ aFATAL_STAT_ne_ncBlk)

theorem Floors.halts {rs : List Nat} {s u : State} (h : Floors rs s u) (hrs : ∀ r ∈ rs, r < 76) : Halts s u := by
  have apart : ∀ a, powerBlk + 0x2000 ≤ a → u.reg a = s.reg a := fun a lo => h.reg a fun r hr =>
    ⟨fun e => absurd (e ▸ (aGOV_SET_bounds (hrs r hr)).1) (Nat.not_lt.2 lo), fun e => absurd (e ▸ (aGOV_STAT_bounds (hrs r hr)).1) (Nat.not_lt.2 lo)⟩
  exact halts_of_reg (fun a lo _ => apart a lo) (apart _ (by decide))

theorem dma_register_ne_fatal (ch : DmaCh) : aFATAL_STAT 0 ≠ aDMA_STAT ch := by
  have low : aDMA_STAT ch < aFATAL_STAT 0 := by
    simp only [aDMA_STAT, dmaBlk, dieBlk, aFATAL_STAT, mgmtBlk]
    omega
  exact Nat.ne_of_gt low

theorem le_aDMA_STAT (ch : Nat) : clusterBlk 0 ≤ aDMA_STAT ch := by
  simp only [aDMA_STAT, dmaBlk, dieBlk, clusterBlk]
  omega

theorem halts_setDma (s : State) (ch : DmaCh) (st why : Nat) : Halts s (s.setDma ch st why) := by
  have set : ∀ (t : State) f v, Halts t (t.setFld (aDMA_STAT ch) f v) := fun t f v =>
    halts_of_reg (fun _ _ hi => t.reg_setFld_ne _ _ (Nat.ne_of_lt (Nat.lt_of_lt_of_le hi (le_aDMA_STAT ch)))) (t.reg_setFld_ne _ _ (dma_register_ne_fatal ch))
  exact (set ..).trans (set ..)

/-- A field of FATAL_STAT other than FATAL. -/
theorem halts_fatalStat (s : State) (f : Field) (v : Nat) (fits : f.fits) (apart : f.apart FATAL_STAT.FATAL) : Halts s (s.setFld (aFATAL_STAT 0) f v) :=
  ⟨fun _ _ hi => s.reg_setFld_ne _ _ (Nat.ne_of_lt (Nat.lt_of_lt_of_le hi le_aFATAL_STAT)), fun hf => by
    rw [State.flag, State.fld_setFld_apart _ _ _ _ _ fits apart]
    exact hf⟩

theorem halts_modDeep (s : State) (f : Deep → Deep) : Halts s (s.modDeep f) := halts_of_regs rfl

theorem halts_dumpDeep (s : State) : Halts s s.dumpDeep := by
  unfold State.dumpDeep
  dsimp only
  split
  · exact (halts_modDeep ..).trans (halts_fatalStat _ FATAL_STAT.MIRROR_DONE 1 (by decide) (by decide))
  · exact .refl s

theorem andThen_fst (r : State × MemUpd) (f : State → State × MemUpd) : (andThen r f).1 = (f r.1).1 := rfl

theorem halts_dumpNear (s : State) : Halts s s.dumpNear.1 := by
  have pages := eachMem_keeps (R := Halts) Halts.refl .trans s dumpPages (fun s g => s.fillPage g []) fun t g _ => (poisons_fillPage t g []).halts
  unfold State.dumpNear
  extract_lets cells
  rw [andThen_fst]
  clear_value cells
  generalize (s.eachMem dumpPages fun s g => s.fillPage g []).1 = t at pages
  exact (pages.trans (poisons_writeHome t _).halts).trans (halts_fatalStat _ FATAL_STAT.DUMP_DONE 1 (by decide) (by decide))

/-- With no command claimed, an invocation's end answers none. -/
theorem finalReply_idle {s : State} (h : s.claimed = []) (k status detail : Nat) (result : List Byte) : s.finalReply k status detail result = s :=
  (finalReply_of_not_claimed (by simp [State.claim?, h]) status detail result).1

theorem answerStart_idle {s : State} (h : s.claimed = []) (im : Image) (status detail : Nat) : answerStart s im status detail = s := by
  unfold answerStart
  split
  · exact finalReply_idle h ..
  · rfl

theorem answerStops_idle {s : State} (h : s.claimed = []) (im : Image) : answerStops s im = s := by
  unfold answerStops
  generalize im.stopCmds = l
  induction l with
  | nil => rfl
  | cons k l ih =>
    show (s.finalReply k 0 0 []).forAll l _ = s
    rw [finalReply_idle h]
    exact ih

theorem halts_wakeOwner (s : State) (im : Image) : Halts s (wakeOwner s im) := by
  unfold wakeOwner
  split
  · split
    · exact halts_of_regs rfl
    · exact .refl s
  · exact .refl s

theorem claimed_wakeOwner (s : State) (im : Image) : (wakeOwner s im).claimed = s.claimed := by
  unfold wakeOwner
  split
  · split
    · rfl
    · rfl
  · rfl

theorem endInvocation_idle {s : State} (h : s.claimed = []) (slot : Slot) (im : Image) (status detail : Nat) :
    s.endInvocation slot im status detail = wakeOwner (dropFloors (s.setImage slot (some (endImage im status detail))) im) im := by
  have idle : (dropFloors (s.setImage slot (some (endImage im status detail))) im).claimed = [] := by
    rw [(floors_dropFloors ..).claimed, State.setImage_claimed, h]
  rw [endInvocation_eq, answerStart_idle idle, answerStops_idle idle]

/-- What every step of the end of all invocations keeps. -/
structure Halting (s t : State) : Prop where
  halts : Halts s t
  tidy : Tidy t

theorem rails_endImage (im : Image) (status detail : Nat) : (endImage im status detail).rails = im.rails := rfl

theorem Halting.endInvocation {s t : State} (h : Halting s t) {slot : Slot} {im : Image} (him : t.image slot = some im) (status detail : Nat) :
    Halting s (t.endInvocation slot im status detail) := by
  obtain ⟨halts, claimed, rails⟩ := h
  refine ⟨halts.trans ?_, ?_, fun i im' him' => ?_⟩
  · rw [endInvocation_idle claimed]
    exact ((halts_of_regs (State.setImage_regs ..)).trans ((floors_dropFloors ..).halts (rails slot im him))).trans (halts_wakeOwner ..)
  · rw [endInvocation_idle claimed, claimed_wakeOwner, (floors_dropFloors ..).claimed, State.setImage_claimed, claimed]
  · by_cases own : i = slot
    · rw [own, endInvocation_image, Option.mem_some_iff] at him'
      rw [← him', rails_endImage]
      exact rails slot im him
    · rw [endInvocation_others _ _ _ _ _ fun e => own (Fin.ext e)] at him'
      exact rails i im' him'

/-- The invocation of a slot ends, where one is under way. -/
def endActive (s : State) (k : Slot) : State :=
  match s.image k with
  | some im => if im.active then s.endInvocation k im 0x30 0 else s
  | none => s

theorem endAll_eq (s : State) : s.endAll = (s.forAll (List.finRange 16) endActive).forAll
    ((s.forAll (List.finRange 16) endActive).claimed.filter fun q => !fatalServes q.packet) fun s q => s.finalReply q.id 0x3F 0 [] := rfl

theorem Halting.endActive {s t : State} (h : Halting s t) (k : Slot) : Halting s (endActive t k) := by
  unfold Proofs.endActive
  split
  · rename_i im him
    split
    · exact h.endInvocation him 0x30 0
    · exact h
  · exact h

theorem forAll_nil {α : Type} (s : State) (f : State → α → State) : s.forAll [] f = s := rfl

theorem halts_endAll {s : State} (h : Tidy s) : Halts s s.endAll := by
  have ended : Halting s (s.forAll (List.finRange 16) endActive) :=
    State.forAll_inv (Halting s) _ _ (fun _ k _ ht => ht.endActive k) s ⟨.refl s, h⟩
  rw [endAll_eq, ended.tidy.1, List.filter_nil, forAll_nil]
  exact ended.halts

/-- Whether commands are claimed and which rails images use is the same. -/
theorem tidy_congr {s t : State} (h : Tidy s) (claimed : t.claimed = s.claimed) (images : t.images = s.images) : Tidy t :=
  ⟨claimed.trans h.1, fun i im him => h.2 i im (by rwa [State.image, images] at him)⟩

/-- A channel that runs is stopped. -/
def freezeDma (s : State) (ch : DmaCh) : State :=
  if s.dmaState ch = dmaRunning ∨ s.dmaState ch = dmaWaiting ∨ s.dmaState ch = dmaStopping then s.setDma ch dmaStopped 0 else s

theorem freezeDma_beside (s : State) (ch : DmaCh) :
    (freezeDma s ch).claimed = s.claimed ∧ (freezeDma s ch).images = s.images ∧ Halts s (freezeDma s ch) := by
  unfold freezeDma
  split
  · exact ⟨(State.setFld_claimed ..).trans (State.setFld_claimed ..), (State.setFld_images ..).trans (State.setFld_images ..), halts_setDma ..⟩
  · exact ⟨rfl, rfl, .refl s⟩

theorem forAll_modCore_beside (s : State) (l : List Nat) (f : Core → Core) : (s.forAll l fun s c => s.modCore c f).claimed = s.claimed ∧
    (s.forAll l fun s c => s.modCore c f).images = s.images ∧ Halts s (s.forAll l fun s c => s.modCore c f) :=
  ⟨State.forAll_keeps State.claimed _ _ (fun _ _ _ => State.modCore_claimed ..) _, State.forAll_keeps State.images _ _ (fun _ _ _ => State.modCore_images ..) _,
    halts_forAll _ _ _ fun _ _ _ => halts_of_regs (State.modCore_regs ..)⟩

theorem forAll_freezeDma_beside (s : State) (l : List DmaCh) : (s.forAll l freezeDma).claimed = s.claimed ∧
    (s.forAll l freezeDma).images = s.images ∧ Halts s (s.forAll l freezeDma) :=
  ⟨State.forAll_keeps State.claimed _ _ (fun t ch _ => (freezeDma_beside t ch).1) _, State.forAll_keeps State.images _ _ (fun t ch _ => (freezeDma_beside t ch).2.1) _,
    halts_forAll _ _ _ fun t ch _ => (freezeDma_beside t ch).2.2⟩

theorem freeze_beside (s : State) : s.freeze.claimed = s.claimed ∧ s.freeze.images = s.images ∧ Halts s s.freeze := by
  unfold State.freeze
  extract_lets halted
  obtain ⟨claimed, images, halts⟩ : halted.claimed = s.claimed ∧ halted.images = s.images ∧ Halts s halted := forAll_modCore_beside s _ _
  clear_value halted
  obtain ⟨claimed', images', halts'⟩ := forAll_freezeDma_beside halted (List.finRange 128)
  exact ⟨claimed'.trans claimed, images'.trans images, halts.trans halts'⟩

theorem fatalMark_beside (s : State) (code : Nat) : (s.fatalMark code).claimed = s.claimed ∧ (s.fatalMark code).images = s.images := by
  unfold State.fatalMark
  extract_lets marked pins
  have claimed : marked.claimed = s.claimed := (State.setFld_claimed ..).trans (State.setFld_claimed ..)
  have images : marked.images = s.images := (State.setFld_images ..).trans (State.setFld_images ..)
  clear_value marked
  exact ⟨claimed, images⟩

theorem fld_pins (s : State) (pins : Pins) (a : Nat) (f : Field) : ({ s with pins := pins } : State).fld a f = s.fld a f := rfl

theorem fatal_fatalMark (s : State) (code : Nat) : (s.fatalMark code).flag (aFATAL_STAT 0) FATAL_STAT.FATAL = true := by
  have ne : aFATAL_STAT 0 ≠ aALERT_SRC 0 := by decide
  unfold State.fatalMark
  dsimp only
  rw [State.flag, fld_alert_ne _ _ _ ne, fld_pins, State.fld_setFld_apart _ _ _ _ _ (by decide) (by decide), State.fld_setFld_self _ _ _ _ (by decide)]
  rfl

/-- The first step of a fatal error: it is logged (R504). -/
theorem Logs.halts {s u : State} (h : Logs s u) : Halts s u :=
  halts_of_reg (fun a _ hi => h.notices.reg a hi) (h.reg _ (by decide) (by decide))

theorem Logs.tidy {s u : State} (h : Logs s u) (hs : Tidy s) : Tidy u :=
  tidy_congr hs (congrArg State.claimed h.rest :) (congrArg State.images h.rest :)

theorem halts_modMgmt (s : State) (f : Mgmt → Mgmt) : Halts s (s.modMgmt f) := halts_of_regs rfl

/-- The state after a fatal error of the crystal: the module stops and dumps, where it is not in fatal state already (R504-R506). -/
theorem fatal_crystal_halts {s : State} (h : Tidy s) : (s.fatal 0x0401 0x00 0 0 0).1.flag (aFATAL_STAT 0) FATAL_STAT.FATAL = true ∧
    ∀ a, powerBlk + 0x2000 ≤ a → a < clusterBlk 0 → (s.fatal 0x0401 0x00 0 0 0).1.reg a = s.reg a := by
  have logs := logs_logErr s 0x0401 0x00 0 1 0 0 0
  unfold State.fatal
  extract_lets was logged stopped noDump dumped
  change Logs s logged at logs
  clear_value logged
  rw [if_neg (by decide)]
  split
  · rename_i already
    exact ⟨logs.halts.fatal already, logs.halts.reg⟩
  · have marked := fatalMark_beside logged 0x0401
    have frozen := freeze_beside (logged.fatalMark 0x0401)
    have tidy : Tidy (logged.fatalMark 0x0401).freeze := tidy_congr (logs.tidy h) (frozen.1.trans marked.1) (frozen.2.1.trans marked.2)
    have toStopped : Halts (logged.fatalMark 0x0401) stopped := frozen.2.2.trans (halts_endAll tidy)
    rw [if_neg (by decide), andThen_fst]
    clear_value stopped
    have toDumped : Halts stopped dumped := halts_modMgmt stopped _
    clear_value dumped
    have stops := ((toStopped.trans toDumped).trans (halts_dumpNear dumped)).trans (halts_dumpDeep _)
    dsimp only
    generalize dumped.dumpNear.1.dumpDeep = ended at stops
    exact ⟨stops.fatal (fatal_fatalMark logged _), fun a lo hi =>
      ((stops.reg a lo hi).trans ((aside_fatalMark logged _).reg a hi)).trans (logs.halts.reg a lo hi)⟩

end Sys2Proof.Proofs
end

section
/-! SUPPORT. The crystal's loss, and the clock domains together (R42-R50). -/

namespace Sys2Proof.Proofs
open Sys2Proof.Machine Sys2Proof.Claims

theorem aCLKD_STAT_inj {x y : Dom} (h : aCLKD_STAT x = aCLKD_STAT y) : x = y := by
  rw [aCLKD_STAT, aCLKD_STAT, aCLKD_CTRL, aCLKD_CTRL] at h
  exact Fin.ext (by omega)

theorem aCLKD_STAT_ne_any_CTRL (x y : Dom) : aCLKD_STAT x ≠ aCLKD_CTRL y := by
  intro h
  rw [aCLKD_STAT, aCLKD_CTRL, aCLKD_CTRL] at h
  omega

/-- A domain coasts unlocked. -/
def Coasts (s : State) (n : Dom) : Prop := s.fld (aCLKD_STAT n) CLKD_STAT.COAST = 1 ∧ s.fld (aCLKD_STAT n) CLKD_STAT.LOCK = 0

theorem coasts_coast (s : State) (n : Dom) : Coasts (s.coast n) n :=
  have ⟨coasts, _, unlocked⟩ := coast_stat s n
  ⟨coasts, unlocked⟩

theorem Coasts.coast {s : State} {n : Dom} (h : Coasts s n) (x : Dom) : Coasts (s.coast x) n := by
  by_cases same : n = x
  · rw [← same]
    exact coasts_coast s n
  · have reg : (s.coast x).reg (aCLKD_STAT n) = s.reg (aCLKD_STAT n) :=
      (within_coast s x).regs _ (by
        simp only [List.mem_cons, List.not_mem_nil, or_false, aCLKD_STAT_ne_any_CTRL]
        exact fun e => same (aCLKD_STAT_inj e))
    exact ⟨(fld_of_reg reg _).trans h.1, (fld_of_reg reg _).trans h.2⟩

/-- Every domain that the crystal feeds coasts. -/
def crystalCoast (s : State) : State := s.forAll crystalDoms (·.coast ·)

theorem coasts_crystalCoast (s : State) {n : Dom} (hn : n ∈ crystalDoms) : Coasts (crystalCoast s) n :=
  forAll_establishes (P := fun t => Coasts t n) hn s (fun t => coasts_coast t n) fun _ x h => h.coast x

theorem coast_beside (s : State) (n : Dom) : (s.coast n).claimed = s.claimed ∧ (s.coast n).images = s.images :=
  ⟨((State.setFld_claimed ..).trans (State.setFld_claimed ..)).trans (State.setFld_claimed ..),
    ((State.setFld_images ..).trans (State.setFld_images ..)).trans (State.setFld_images ..)⟩

theorem tidy_crystalCoast {s : State} (h : Tidy s) : Tidy (crystalCoast s) :=
  tidy_congr h (State.forAll_keeps State.claimed _ _ (fun t n _ => (coast_beside t n).1) s)
    (State.forAll_keeps State.images _ _ (fun t n _ => (coast_beside t n).2) s)

theorem exec_crystalStopped {s : State} (on : s.power = .on) :
    exec .crystalStopped s = .next (s.commitMem ((crystalCoast s).fatal 0x0401 0x00 0 0 0)) := by
  have live : (s.power != .on) = false := by simp [on]
  show execCrystalStopped s = _
  unfold execCrystalStopped
  simp only [live, Bool.false_eq_true, if_false]
  rw [crystalCoast, State.doneMem]

theorem crystalStopped_halts {s : State} (on : s.power = .on) (tidy : Tidy s) : ∃ u, exec .crystalStopped s = .next u ∧ u.pending = s.pending ∧
    u.flag (aFATAL_STAT 0) FATAL_STAT.FATAL = true ∧ ∀ n ∈ ([0, 1, 2, 3, 4, 5, 6, 7, 8, 9, 12, 13] : List Dom),
      u.fld (aCLKD_STAT n) CLKD_STAT.COAST = 1 ∧ u.fld (aCLKD_STAT n) CLKD_STAT.LOCK = 0 := by
  obtain ⟨fatal, regs⟩ := fatal_crystal_halts (tidy_crystalCoast tidy)
  have stat : ∀ n : Dom, powerBlk + 0x2000 ≤ aCLKD_STAT n := fun n => by
    rw [aCLKD_STAT, aCLKD_CTRL]
    omega
  refine ⟨_, exec_crystalStopped on, rfl, ?_, fun n hn => ?_⟩
  · rw [State.flag_commitMem]
    exact fatal
  · obtain ⟨coasts, unlocked⟩ := coasts_crystalCoast s hn
    have reg := regs _ (stat n) (aCLKD_STAT_lt n)
    rw [State.fld_commitMem, State.fld_commitMem]
    exact ⟨(fld_of_reg reg _).trans coasts, (fld_of_reg reg _).trans unlocked⟩

/-! The sequencer's answers -/

theorem ctrl_seqStart (s : State) (n : Dom) (opp : Nat) : (s.seqStart n opp).reg (aCLKD_CTRL n) = s.reg (aCLKD_CTRL n) := by
  unfold State.seqStart
  dsimp only
  split
  · rw [State.reg_setFld_ne _ _ _ (aCLKD_CTRL_ne_STAT n), reg_modClk]
  · rw [State.reg_setFld_ne _ _ _ (aCLKD_CTRL_ne_STAT n), State.reg_setFld_ne _ _ _ (aCLKD_CTRL_ne_STAT n), reg_modClk]

/-- A sequence that a write of OPP starts. -/
theorem oppWrite_sequence (s : State) (n : Dom) (opp : Fin 8) (u : State) (hu : u = (s.setFld (aCLKD_CTRL n) CLKD_CTRL.OPP opp).seqStart n opp) :
    Within n s u ∧ u.fld (aCLKD_CTRL n) CLKD_CTRL.OPP = opp ∧ u.fld (aCLKD_STAT n) CLKD_STAT.SEQ_BUSY = 1 ∧
      u.clk[n] = ⟨some opp.val, decide (freqOf s n (s.fld (aCLKD_STAT n) CLKD_STAT.CUR_OPP) < freqOf s n opp), false, none, s.clk[n].supply⟩ ∧
      u.fld (aCLKD_STAT n) CLKD_STAT.LOCK =
        if freqOf s n (s.fld (aCLKD_STAT n) CLKD_STAT.CUR_OPP) < freqOf s n opp then s.fld (aCLKD_STAT n) CLKD_STAT.LOCK else 0 := by
  have written : Within n s (s.setFld (aCLKD_CTRL n) CLKD_CTRL.OPP opp) := within_ctrl ..
  have stat : ∀ f, (s.setFld (aCLKD_CTRL n) CLKD_CTRL.OPP opp).fld (aCLKD_STAT n) f = s.fld (aCLKD_STAT n) f := fun f =>
    State.fld_setFld_ne _ _ _ _ (aCLKD_STAT_ne_CTRL n)
  have freq : ∀ k, freqOf (s.setFld (aCLKD_CTRL n) CLKD_CTRL.OPP opp) n k = freqOf s n k := fun k => written.point k _
  obtain ⟨busy, lock⟩ := fld_seqStart (s.setFld (aCLKD_CTRL n) CLKD_CTRL.OPP opp) n opp
  have clk := clk_seqStart (s.setFld (aCLKD_CTRL n) CLKD_CTRL.OPP opp) n opp
  rw [stat, freq, freq, stat] at lock
  rw [stat, freq, freq, clk_setFld] at clk
  subst hu
  refine ⟨written.trans (within_seqStart ..), ?_, busy, clk, lock⟩
  rw [fld_of_reg (ctrl_seqStart ..), State.fld_setFld_self _ _ _ _ (by decide)]
  exact Nat.mod_eq_of_lt opp.isLt

/-- Outside a domain nothing of control space, the cores and the sequencers has changed. -/
def OnlyDomain (n : Dom) (s u : State) : Prop :=
  RegsBut s u [aCLKD_STAT n, aCLKD_CTRL n] ∧ u.cores = s.cores ∧ ∀ x : Dom, x ≠ n → u.clk[x] = s.clk[x]

section Writes
variable {s : State} {n : Dom} {opp : Fin 8}

theorem oppWrite_ignored (unusable : s.flag (aCLKD_OPP n opp) CLKD_OPP.VALID = false) : exec (.clkdOppWrite n opp) s = .next s := by
  show s.done (s.oppWrite n opp) = _
  rw [State.oppWrite, unusable]
  rfl

theorem oppWrite_answers_held (valid : s.flag (aCLKD_OPP n opp) CLKD_OPP.VALID = true) (busy : s.fld (aCLKD_STAT n) CLKD_STAT.SEQ_BUSY = 1) :
    Answers (.clkdOppWrite n opp) s fun u => OnlyDomain n s u ∧ u.fld (aCLKD_CTRL n) CLKD_CTRL.OPP = opp ∧
      u.clk[n] = { s.clk[n] with held := some opp.val } ∧ u.reg (aCLKD_STAT n) = s.reg (aCLKD_STAT n) := by
  refine answers_commit (s.oppWrite n opp) rfl ?_
  rw [oppWrite_held valid busy]
  refine ⟨((within_ctrl ..).trans (within_modClk ..)).commit, ?_, ?_, ?_⟩
  · rw [State.fld_commit, fld_modClk, State.fld_setFld_self _ _ _ _ (by decide)]
    exact Nat.mod_eq_of_lt opp.isLt
  · rw [clk_commit, clk_modClk_self, clk_setFld]
  · rw [State.reg_commit, reg_modClk, State.reg_setFld_ne _ _ _ (aCLKD_STAT_ne_CTRL n)]

theorem oppWrite_answers_sequence (valid : s.flag (aCLKD_OPP n opp) CLKD_OPP.VALID = true) (idle : s.fld (aCLKD_STAT n) CLKD_STAT.SEQ_BUSY = 0) :
    Answers (.clkdOppWrite n opp) s fun u => OnlyDomain n s u ∧ u.fld (aCLKD_CTRL n) CLKD_CTRL.OPP = opp ∧
      u.fld (aCLKD_STAT n) CLKD_STAT.SEQ_BUSY = 1 ∧ u.clk[n].target = some opp.val ∧ u.clk[n].second = false ∧ u.clk[n].supply = s.clk[n].supply ∧
      (freqOf s n (s.fld (aCLKD_STAT n) CLKD_STAT.CUR_OPP) < freqOf s n opp →
        u.clk[n].rising = true ∧ u.fld (aCLKD_STAT n) CLKD_STAT.LOCK = s.fld (aCLKD_STAT n) CLKD_STAT.LOCK) ∧
      (freqOf s n opp ≤ freqOf s n (s.fld (aCLKD_STAT n) CLKD_STAT.CUR_OPP) → u.clk[n].rising = false ∧ u.fld (aCLKD_STAT n) CLKD_STAT.LOCK = 0) := by
  obtain ⟨within, point, begun, clk, lock⟩ := oppWrite_sequence s n opp _ rfl
  refine answers_commit (s.oppWrite n opp) rfl ?_
  rw [oppWrite_starts valid idle]
  generalize (s.setFld (aCLKD_CTRL n) CLKD_CTRL.OPP opp).seqStart n opp = t at *
  rw [clk_commit, clk]
  exact ⟨within.commit, point, begun, rfl, rfl, rfl, fun up => ⟨decide_eq_true up, lock.trans (if_pos up)⟩,
    fun down => ⟨decide_eq_false (Nat.not_lt.2 down), lock.trans (if_neg (Nat.not_lt.2 down))⟩⟩

end Writes

/-- With no operating point to reach the sequencer takes no step. -/
theorem seqStepDone_idle {s : State} {n : Dom} (h : s.clk[n].target = none) : exec (.clkdSeqStepDone n) s = .next s := by
  show execClkdSeqStepDone n s = _
  unfold execClkdSeqStepDone
  simp only [h]
  rfl

theorem actHeld_none (s : State) (n : Dom) : actHeld s n none = stepLast s n := rfl

section Sequence
variable {s : State} {n : Dom} {opp : Fin 8} (target : s.clk[n].target = some opp.val)
include target

theorem supplied_first_answers (rising : s.clk[n].rising = true) (first : s.clk[n].second = false) : Answers (.clkdSeqStepDone n) s fun u =>
    OnlyDomain n s u ∧ u.clk[n] = { s.clk[n] with supply := s.fld (aCLKD_OPP n opp) CLKD_OPP.VOLT, second := true } ∧
      u.fld (aCLKD_STAT n) CLKD_STAT.LOCK = 0 := by
  refine answers_commit _ (step_supplied_first target rising first) ?_
  refine ⟨(((within_supplied ..).trans (within_stepFirst ..)).trans (within_stat ..)).commit, ?_, State.fld_setFld_self _ _ _ 0 (by decide)⟩
  rw [clk_commit, clk_setFld, clk_stepFirst, clk_supplied]

theorem locked_first_answers (falling : s.clk[n].rising = false) (first : s.clk[n].second = false) (locks : s.fld (aCLKD_STAT n) CLKD_STAT.COAST = 0) :
    Answers (.clkdSeqStepDone n) s fun u => OnlyDomain n s u ∧ u.clk[n] = { s.clk[n] with second := true } ∧
      u.fld (aCLKD_STAT n) CLKD_STAT.CUR_OPP = opp ∧ u.fld (aCLKD_STAT n) CLKD_STAT.LOCK = s.fld (aCLKD_CTRL n) CLKD_CTRL.LOOP_EN := by
  obtain ⟨point, lock⟩ := fld_relocked s n opp
  refine answers_commit _ (step_locked_first target falling first locks) ?_
  refine ⟨((within_relocked ..).trans (within_stepFirst ..)).commit, ?_, (fld_stepFirst (s.relocked n opp) n _ _).trans point,
    (fld_stepFirst (s.relocked n opp) n _ _).trans lock⟩
  rw [clk_commit, clk_stepFirst, clk_relocked]

theorem locked_last_answers (rising : s.clk[n].rising = true) (last : s.clk[n].second = true) (held : s.clk[n].held = none)
    (locks : s.fld (aCLKD_STAT n) CLKD_STAT.COAST = 0) : Answers (.clkdSeqStepDone n) s fun u =>
      OnlyDomain n s u ∧ u.clk[n] = { s.clk[n] with target := none, second := false } ∧ u.fld (aCLKD_STAT n) CLKD_STAT.SEQ_BUSY = 0 ∧
        u.fld (aCLKD_STAT n) CLKD_STAT.CUR_OPP = opp ∧ u.fld (aCLKD_STAT n) CLKD_STAT.LOCK = s.fld (aCLKD_CTRL n) CLKD_CTRL.LOOP_EN := by
  obtain ⟨point, lock⟩ := fld_relocked s n opp
  have run := step_locked_last target rising last locks
  rw [held, actHeld_none] at run
  refine answers_commit _ run ?_
  simp -implicitDefEqProofs only [State.fld_commit]
  refine ⟨((within_relocked ..).trans (within_stepLast ..)).commit, ?_, busy_stepLast (s.relocked n opp) n, (fld_stepLast (s.relocked n opp) n (by decide)).trans point,
    (fld_stepLast (s.relocked n opp) n (by decide)).trans lock⟩
  rw [clk_commit, clk_stepLast, clk_relocked, ← held]

theorem supplied_last_answers (falling : s.clk[n].rising = false) (last : s.clk[n].second = true) (held : s.clk[n].held = none) :
    Answers (.clkdSeqStepDone n) s fun u => OnlyDomain n s u ∧
      u.clk[n] = { s.clk[n] with target := none, second := false, supply := s.fld (aCLKD_OPP n opp) CLKD_OPP.VOLT } ∧
      u.fld (aCLKD_STAT n) CLKD_STAT.SEQ_BUSY = 0 ∧ u.fld (aCLKD_STAT n) CLKD_STAT.LOCK = s.fld (aCLKD_STAT n) CLKD_STAT.LOCK := by
  have run := step_supplied_last target falling last
  rw [held, actHeld_none] at run
  refine answers_commit _ run ?_
  refine ⟨((within_supplied ..).trans (within_stepLast ..)).commit, ?_, busy_stepLast .., (fld_stepLast _ _ (by decide)).trans (fld_modClk ..)⟩
  rw [clk_commit, clk_stepLast, clk_supplied, ← held]

omit target in
/-- A held write, acted on after the sequence's second step (R44). -/
theorem actHeld_answers {i : Instr} {t : State} {o : Nat} (run : exec i s = .next (s.commit (actHeld t n (some o)))) (within : Within n s t) :
    Answers i s fun u => OnlyDomain n s u ∧ u.clk[n].target = some o ∧ u.clk[n].second = false ∧ u.clk[n].held = none ∧
      u.fld (aCLKD_STAT n) CLKD_STAT.SEQ_BUSY = 1 := by
  obtain ⟨after, target, second, held, busy⟩ := actHeld_some t n o
  refine answers_commit _ run ⟨(within.trans after).commit, ?_, ?_, ?_, busy⟩
  · rw [clk_commit, target]
  · rw [clk_commit, second]
  · rw [clk_commit, held]

theorem last_answers_held {o : Fin 8} (last : s.clk[n].second = true) (held : s.clk[n].held = some o.val)
    (locks : s.fld (aCLKD_STAT n) CLKD_STAT.COAST = 0) : Answers (.clkdSeqStepDone n) s fun u =>
      OnlyDomain n s u ∧ u.clk[n].target = some o.val ∧ u.clk[n].second = false ∧ u.clk[n].held = none ∧ u.fld (aCLKD_STAT n) CLKD_STAT.SEQ_BUSY = 1 := by
  rcases rising : s.clk[n].rising with _ | _
  · have run := step_supplied_last target rising last
    rw [held] at run
    exact actHeld_answers run (within_supplied ..)
  · have run := step_locked_last target rising last locks
    rw [held] at run
    exact actHeld_answers run (within_relocked ..)

end Sequence

/-- What does nothing: a switch onto a stopped clock, a loop that is not enabled, a watchdog with nothing to watch, a crystal without main power. -/
theorem switchDone_stays {s : State} {n : Dom} (lost : s.crystalLost = true) : exec (.clkdSwitchDone n) s = .next s := by
  show s.done _ = _
  rw [lost, Bool.or_true]
  rfl

theorem loop_disabled {s : State} {n : Dom} (off : s.fld (aCLKD_CTRL n) CLKD_CTRL.LOOP_EN = 0) :
    exec (.clkdLoopLock n) s = .next s ∧ exec (.clockSourceLost n) s = .next s := by
  have off' : s.flag (aCLKD_CTRL n) CLKD_CTRL.LOOP_EN = false := by rw [State.flag, off]; rfl
  constructor
  · show s.done _ = _
    rw [off']
    rfl
  · show execClockSourceLost n s = _
    unfold execClockSourceLost
    rw [off']
    rfl

theorem watchdog_stays {s : State} {n : Dom} (idle : s.fld (aCLKD_STAT n) CLKD_STAT.SWITCHING = 0) (rests : s.fld (aCLKD_STAT n) CLKD_STAT.SEQ_BUSY = 0) :
    exec (.domainWatchdogExpiry n) s = .next s := by
  have quiet : (!s.flag (aCLKD_STAT n) CLKD_STAT.SWITCHING && !s.flag (aCLKD_STAT n) CLKD_STAT.SEQ_BUSY) = true := by
    rw [State.flag, State.flag, idle, rests]
    rfl
  show execDomainWatchdogExpiry n s = _
  unfold execDomainWatchdogExpiry
  dsimp only
  rw [quiet]
  rfl

theorem crystalStopped_dark {s : State} (off : s.power ≠ .on) : exec .crystalStopped s = .next s := by
  have dark : (s.power != .on) = true := by simpa using off
  show execCrystalStopped s = _
  unfold execCrystalStopped
  rw [dark]
  rfl

/-- Settles O50: each clause by what its command writes of one domain, the watchdog by what a reset domain's ends leave, the crystal by what fatal state leaves. -/
theorem clocksChange : Obligations.ClocksChange := by
  unfold Obligations.ClocksChange
  exact ⟨fun s n opp => ⟨oppWrite_ignored, oppWrite_answers_held, oppWrite_answers_sequence, seqStepDone_idle, supplied_first_answers,
      locked_first_answers, locked_last_answers, supplied_last_answers, fun _ target last held locks => last_answers_held target last held locks,
      switchDone_stays, srcWrite_answers s n, switchDone_answers, loopLock_answers, fun on _ => loopLock_reopens on, loop_disabled,
      clockSourceLost_answers, watchdog_stays, watchdog_resets⟩,
    fun _ => ⟨crystalStopped_dark, crystalStopped_halts⟩⟩

end Sys2Proof.Proofs
end

section
/-! SUPPORT. START, and the floors of its rails (R33, R86, R117, R467). -/

namespace Sys2Proof.Proofs
open Sys2Proof.Machine Sys2Proof.Claims

/-! What a command writes to memory -/

/-- An effect on memory clears nothing and writes only some addresses. -/
structure WritesIn (A : Nat → Prop) (u : MemUpd) : Prop where
  clear : u.clear = false
  bytes : ∀ p ∈ u.bytes, A p.1

theorem writesIn_none (A : Nat → Prop) : WritesIn A .none := ⟨rfl, by simp [MemUpd.none]⟩

theorem WritesIn.then {A : Nat → Prop} {u v : MemUpd} (h : WritesIn A u) (k : WritesIn A v) : WritesIn A (u.then v) := by
  rw [MemUpd.then, k.clear]
  refine ⟨h.clear, fun p hp => ?_⟩
  rcases List.mem_append.1 hp with hp | hp
  · exact h.bytes p hp
  · exact k.bytes p hp

theorem andThen_snd (r : State × MemUpd) (f : State → State × MemUpd) : (andThen r f).2 = r.2.then (f r.1).2 := rfl

theorem eachMem_writes {α : Type} {A : Nat → Prop} (s : State) (l : List α) (f : State → α → State × MemUpd)
    (h : ∀ s, ∀ a ∈ l, WritesIn A (f s a).2) : WritesIn A (s.eachMem l f).2 := by
  suffices walk : ∀ (l' : List α) (r : State × MemUpd), (∀ a ∈ l', a ∈ l) → WritesIn A r.2 →
      WritesIn A (l'.foldl (fun r a => andThen r fun s => f s a) r).2 from walk l (s, .none) (fun _ ha => ha) (writesIn_none A)
  intro l'
  induction l' with
  | nil => exact fun r _ hr => hr
  | cons a l' ih =>
    intro r sub hr
    refine ih (andThen r fun s => f s a) (fun b hb => sub b (by simp [hb])) ?_
    rw [andThen_snd]
    exact hr.then (h r.1 a (sub a (by simp)))

/-- Outside the addresses written memory stands. -/
theorem WritesIn.keeps {A : Nat → Prop} {s t : State} {u : MemUpd} (h : WritesIn A u) {a : Nat} (ha : ¬A a) :
    memByte (s.commitMem (t, u)).mem a = memByte s.mem a := by
  show memByte (memWrite (if u.clear then [] else s.mem) u.bytes) a = _
  rw [h.clear]
  exact memByte_memWrite_other _ _ _ fun p hp e => ha (e ▸ h.bytes p hp)

/-! The contents that a START after the first loses (R117) -/

/-- The free bytes that a page then reads as. -/
def drawPage (s : State) (g : Nat) (l : List Nat) : State × List (Nat × Byte × Bool) :=
  l.foldl (fun (y : State × List (Nat × Byte × Bool)) i =>
    let v := y.1.draw
    (v.2, (g * pageSize + i, v.1.setWidth 8, false) :: y.2)) (s, [])

theorem drawPage_spec (s : State) (g : Nat) (l : List Nat) :
    Poisons s (drawPage s g l).1 ∧ ∀ p ∈ (drawPage s g l).2, ∃ i ∈ l, p.1 = g * pageSize + i := by
  suffices walk : ∀ (l' : List Nat) (y : State × List (Nat × Byte × Bool)), (∀ i ∈ l', i ∈ l) → Poisons s y.1 →
      (∀ p ∈ y.2, ∃ i ∈ l, p.1 = g * pageSize + i) → let z := l'.foldl (fun (y : State × List (Nat × Byte × Bool)) i =>
        let v := y.1.draw
        (v.2, (g * pageSize + i, v.1.setWidth 8, false) :: y.2)) y
      Poisons s z.1 ∧ ∀ p ∈ z.2, ∃ i ∈ l, p.1 = g * pageSize + i from walk l (s, []) (fun _ h => h) (.refl s) (by simp)
  intro l'
  induction l' with
  | nil => exact fun y _ hs hp => ⟨hs, hp⟩
  | cons i l' ih =>
    intro y sub hs hp
    refine ih (y.1.draw.2, (g * pageSize + i, y.1.draw.1.setWidth 8, false) :: y.2) (fun j hj => sub j (by simp [hj])) (hs.trans (poisons_draw y.1)) ?_
    intro p h
    rcases List.mem_cons.1 h with rfl | h
    · exact ⟨i, sub i (by simp), rfl⟩
    · exact hp p h

/-- A page's contents are lost. -/
def losePage (s : State) (g : Nat) : State × MemUpd := (drawPage s g (List.range pageSize)).1.writeHome (drawPage s g (List.range pageSize)).2

theorem poisons_losePage (s : State) (g : Nat) : Poisons s (losePage s g).1 := (drawPage_spec s g _).1.trans (poisons_writeHome ..)

theorem writeHome_writes {A : Nat → Prop} (s : State) (ws : List (Nat × Byte × Bool)) (h : ∀ p ∈ ws, A p.1) : WritesIn A (s.writeHome ws).2 := by
  refine ⟨rfl, fun p hp => ?_⟩
  obtain ⟨w, hw, rfl⟩ := List.mem_map.1 hp
  exact h w hw

theorem writes_losePage (s : State) (g : Nat) : WritesIn (fun a => a / 2 ^ 21 = g) (losePage s g).2 := by
  refine writeHome_writes _ _ fun p hp => ?_
  obtain ⟨i, hi, e⟩ := (drawPage_spec s g _).2 p hp
  have lt : i < 2 ^ 21 := List.mem_range.1 hi
  rw [e, pageSize]
  omega

/-- The regions whose contents a START loses. -/
def lostRegions (im : Image) : List Region :=
  im.regions.filter fun r => decide (r.tier ≤ 1) && bit r.attrs 0 && !bit r.attrs 2 && im.invocations != 0

theorem loseContents_eq (s : State) (im : Image) :
    s.loseContents im = s.eachMem (lostRegions im) fun s r => s.eachMem (r.pages.take (r.size / pageSize)) losePage := rfl

theorem poisons_loseContents (s : State) (im : Image) : Poisons s (s.loseContents im).1 := by
  rw [loseContents_eq]
  exact eachMem_keeps (R := Poisons) Poisons.refl .trans _ _ _ fun t r _ =>
    eachMem_keeps (R := Poisons) Poisons.refl .trans _ _ _ fun t g _ => poisons_losePage t g

theorem writes_loseContents (s : State) (im : Image) :
    WritesIn (fun a => a / 2 ^ 21 ∈ (lostRegions im).flatMap (·.pages)) (s.loseContents im).2 := by
  rw [loseContents_eq]
  refine eachMem_writes _ _ _ fun t r hr => eachMem_writes _ _ _ fun t' g hg => ?_
  obtain ⟨clear, bytes⟩ := writes_losePage t' g
  exact ⟨clear, fun p hp => List.mem_flatMap.2 ⟨r, hr, bytes p hp ▸ List.mem_of_mem_take hg⟩⟩

/-- The first START loses nothing. -/
theorem loseContents_first (s : State) {im : Image} (h : im.invocations = 0) : s.loseContents im = (s, .none) := by
  have none_ : lostRegions im = [] := by simp [lostRegions, h]
  rw [loseContents_eq, none_]
  rfl

/-! Floors written and armed (R33) -/

/-- What a step of a walk brings about and the others keep, with what all steps keep, holds after the walk. -/
theorem forAll_brings {α : Type} {I P : State → Prop} {f : State → α → State} {l : List α} {a : α} (ha : a ∈ l) (s : State) (hs : I s)
    (inv : ∀ t, ∀ b ∈ l, I t → I (f t b)) (brings : ∀ t, I t → P (f t a)) (keeps : ∀ t, ∀ b ∈ l, I t → P t → P (f t b)) : P (s.forAll l f) := by
  induction l generalizing s with
  | nil => simp at ha
  | cons b l ih =>
    have rest : ∀ t, I t → P t → P (t.forAll l f) := fun t ht hp =>
      (State.forAll_inv (fun u => I u ∧ P u) l f (fun u c hc h => ⟨inv u c (by simp [hc]) h.1, keeps u c (by simp [hc]) h.1 h.2⟩) t ⟨ht, hp⟩).2
    show P ((f s b).forAll l f)
    rcases List.mem_cons.1 ha with rfl | later
    · exact rest _ (inv s a (by simp) hs) (brings s hs)
    · exact ih later _ (inv s b (by simp) hs) (fun t c hc => inv t c (by simp [hc])) fun t c hc => keeps t c (by simp [hc])

/-- One rail's FLOOR is written. -/
def writeFloor (s : State) (r : Nat) : State :=
  let f := s.railFloor r false
  let s := s.setFld (aGOV_SET r) GOV_SET.FLOOR f
  if s.fld (aGOV_SET r) GOV_SET.CEIL < f then s.setFld (aGOV_SET r) GOV_SET.CEIL 0 else s

theorem writeFloors_eq (s : State) (rs : List Nat) : s.writeFloors rs = s.forAll rs writeFloor := rfl

theorem floors_writeFloor (s : State) (r : Nat) : Floors [r] s (writeFloor s r) := by
  unfold writeFloor
  dsimp only
  split
  · exact (floors_setting (by simp) ..).trans (floors_setting (by simp) ..)
  · exact floors_setting (by simp) ..

theorem floor_writeFloor (s : State) (r : Nat) : (writeFloor s r).fld (aGOV_SET r) GOV_SET.FLOOR = s.railFloor r false % GOV_SET.FLOOR.size := by
  unfold writeFloor
  dsimp only
  split
  · rw [State.fld_setFld_apart _ _ _ _ _ (by decide) (by decide), State.fld_setFld_self _ _ _ _ (by decide)]
  · rw [State.fld_setFld_self _ _ _ _ (by decide)]

theorem railFloor_congr {s t : State} (h : t.images = s.images) (r : Nat) (begun : Bool) : t.railFloor r begun = s.railFloor r begun := by
  simp only [State.railFloor, State.image, h]

/-- The floor that Ahnal writes stands on each rail named (R27). -/
theorem floor_writeFloors (s : State) {rs : List Nat} (hrs : ∀ x ∈ rs, x < 76) {r : Nat} (hr : r ∈ rs) :
    (s.writeFloors rs).fld (aGOV_SET r) GOV_SET.FLOOR = s.railFloor r false % GOV_SET.FLOOR.size := by
  rw [writeFloors_eq]
  refine forAll_brings (I := fun t => t.images = s.images) (P := fun t => t.fld (aGOV_SET r) GOV_SET.FLOOR = s.railFloor r false % GOV_SET.FLOOR.size)
    hr s rfl (fun t b _ ht => (floors_writeFloor t b).images.trans ht) (fun t ht => ?_) fun t b hb ht hp => ?_
  · rw [floor_writeFloor, railFloor_congr ht]
  · by_cases same : b = r
    · rw [same, floor_writeFloor, railFloor_congr ht]
    · rw [fld_of_reg ((floors_writeFloor t b).reg _ fun x hx => ?_), hp]
      obtain rfl := List.mem_singleton.1 hx
      exact ⟨fun e => same (aGOV_SET_inj (hrs r hr) (hrs x hb) e).symm, aGOV_SET_off_rails r x⟩

/-- What the image of a slot adds to the floor of a rail. -/
def floorStep (s : State) (r f k : Nat) : Nat :=
  match s.image k with
  | some im => if im.active && im.rails.contains r then Nat.max f im.floor else f
  | none => f

theorem railFloor_eq (s : State) (r : Nat) : s.railFloor r false = (List.range 16).foldl (floorStep s r) 0 := rfl

/-- The floor of a rail that one image alone uses. -/
theorem railFloor_alone {s : State} {slot : Slot} {im : Image} (him : s.image slot = some im) (alone : ∀ x : Slot, x ≠ slot → s.image x = none)
    (active : im.active = true) {r : Nat} (hr : r ∈ im.rails) : s.railFloor r false = im.floor := by
  have own : ∀ f, floorStep s r f slot = max f im.floor := fun f => by simp [floorStep, him, active, hr, Nat.max_def]
  have other : ∀ f k, k < 16 → k ≠ slot.val → floorStep s r f k = f := fun f k lt ne => by
    rw [floorStep, alone ⟨k, lt⟩ fun e => ne (congrArg Fin.val e)]
  have walk : ∀ (l : List Nat), (∀ k ∈ l, k < 16) → ∀ f, l.foldl (floorStep s r) f = if slot.val ∈ l then max f im.floor else f := by
    intro l
    induction l with
    | nil => exact fun _ f => by simp
    | cons k l ih =>
      intro lt f
      rw [List.foldl_cons, ih fun x hx => lt x (by simp [hx])]
      by_cases e : k = slot.val
      · rw [e, own]
        simp
      · rw [other f k (lt k (by simp)) e]
        simp [Ne.symm e]
  rw [railFloor_eq, walk _ (fun k hk => List.mem_range.1 hk), if_pos (List.mem_range.2 slot.isLt), Nat.zero_max]

/-! START (R86, R467) -/

/-- An image whose START has been accepted. -/
def acceptedImage (im : Image) (k : Nat) : Image :=
  { im with state := .starting, invocations := im.invocations + 1, startCmd := some k, windows := 0, firstFault := none, breach := false }

theorem accept_eq {s : State} {slot : Slot} {im : Image} (him : s.image slot = some im) (k : Nat) :
    s.accept k slot = ((s.setImage slot (some (acceptedImage im k))).claimBegun k).writeFloors im.rails := by
  rw [State.accept, him]
  rfl

section Accept
variable {s : State} {slot : Slot} {im : Image} (him : s.image slot = some im) (k : Nat)
include him

theorem accept_images : (s.accept k slot).images = (s.setImage slot (some (acceptedImage im k))).images := by
  rw [accept_eq him]
  exact (floors_writeFloors ..).images

theorem accept_image : (s.accept k slot).image slot = some (acceptedImage im k) := by
  rw [State.image, accept_images him, ← State.image, State.image_setImage_self _ _ _ slot.isLt]

theorem accept_others {x : Nat} (h : x ≠ slot.val) : (s.accept k slot).image x = s.image x := by
  rw [State.image, accept_images him, ← State.image, State.image_setImage_ne _ _ h]

theorem accept_cores : (s.accept k slot).cores = s.cores := by
  rw [accept_eq him, (floors_writeFloors ..).cores]
  exact State.setImage_cores ..

theorem accept_floor (alone : ∀ x : Slot, x ≠ slot → s.image x = none) (low : im.floor < 2 ^ 11) (rails : ∀ x ∈ im.rails, x < 76) {r : Nat}
    (hr : r ∈ im.rails) : (s.accept k slot).fld (aGOV_SET r) GOV_SET.FLOOR = im.floor := by
  have images : ∀ x : Nat, ((s.setImage slot (some (acceptedImage im k))).claimBegun k).image x = (s.setImage slot (some (acceptedImage im k))).image x :=
    fun _ => rfl
  have floor := railFloor_alone (s := (s.setImage slot (some (acceptedImage im k))).claimBegun k) (slot := slot) (im := acceptedImage im k)
    ((images _).trans (State.image_setImage_self _ _ _ slot.isLt))
    (fun x hx => ((images _).trans (State.image_setImage_ne _ _ fun e => hx (Fin.ext e))).trans (alone x hx)) rfl (r := r) hr
  rw [accept_eq him, floor_writeFloors _ rails hr, floor]
  exact Nat.mod_eq_of_lt low

end Accept

/-- No substitution is made for an image that binds no retired core. -/
theorem substitutes_none {s : State} {im : Image} (h : ∀ a ∈ s.mgmt.pendingSub, a ∉ im.bind) : s.substitutes im = [] := by
  have none_ : s.mgmt.pendingSub.filter im.bind.contains = [] := by simpa [List.filter_eq_nil_iff] using h
  rw [State.substitutes, none_]
  rfl

theorem exec_start {s : State} {k : Nat} {q : Claimed} {slot : Slot} {im : Image} (hq : s.cmdReady k 0x0011 = some q)
    (hi : s.byHandle (field q.packet 8 4) = some (slot, im)) (loaded : im.state = .loaded) (free : ∀ c ∈ im.bindPhys, (s.core c).lock = 0)
    (unspared : ∀ a ∈ s.mgmt.pendingSub, a ∉ im.bind) :
    exec (.start k) s = .next (s.commitMem (andThen (s.loseContents im) fun s => (s.accept k slot, .none))) := by
  have unlocked : (im.bindPhys.any fun c => decide ((s.core c).lock ≠ 0)) = false := by simpa using free
  show execStart k s = _
  unfold execStart
  rw [onImage_of_ready hq hi]
  simp only [loaded, substitutes_none unspared, unlocked, Bool.false_eq_true, if_false, ne_eq, not_true_eq_false]
  rfl

/-- What a START after the first loses lies in the pinned pages without RES. -/
theorem mem_lostRegions {im : Image} {g : Nat} (h : g ∈ (lostRegions im).flatMap (·.pages)) :
    g ∈ (im.regions.filter fun r => decide (r.tier ≤ 1) && bit r.attrs 0 && !bit r.attrs 2).flatMap (·.pages) := by
  obtain ⟨r, hr, hg⟩ := List.mem_flatMap.1 h
  obtain ⟨hr, kept⟩ := List.mem_filter.1 hr
  exact List.mem_flatMap.2 ⟨r, List.mem_filter.2 ⟨hr, (Bool.and_eq_true_iff.1 kept).1⟩, hg⟩

theorem start_accepted {s : State} {k : Nat} {q : Claimed} {slot : Slot} {im : Image} (hq : s.cmdReady k 0x0011 = some q)
    (hi : s.byHandle (field q.packet 8 4) = some (slot, im)) (loaded : im.state = .loaded) (free : ∀ c ∈ im.bindPhys, (s.core c).lock = 0)
    (unspared : ∀ a ∈ s.mgmt.pendingSub, a ∉ im.bind) :
    ∃ u, exec (.start k) s = .next u ∧ (∀ x : Slot, x ≠ slot → u.image x = s.image x) ∧ u.cores = s.cores ∧ u.pending = s.pending ∧
      u.image slot = some (acceptedImage im k) ∧
      ((∀ x : Slot, x ≠ slot → s.image x = none) → ∀ r ∈ im.rails, (∀ x ∈ im.rails, x < 76) → im.floor < 2 ^ 11 →
        u.fld (aGOV_SET r) GOV_SET.FLOOR = im.floor) ∧
      (im.invocations = 0 → u.mem = s.mem) ∧
      ∀ a, a / 2 ^ 21 ∉ (im.regions.filter fun r => decide (r.tier ≤ 1) && bit r.attrs 0 && !bit r.attrs 2).flatMap (·.pages) →
        memByte u.mem a = memByte s.mem a := by
  have poisons := poisons_loseContents s im
  have writes := (writes_loseContents s im).then (writesIn_none _)
  have first := loseContents_first s (im := im)
  have images : ∀ x, (s.loseContents im).1.image x = s.image x := fun x => by rw [State.image, poisons.images, ← State.image]
  have him := (images slot).trans (image_of_byHandle hi)
  refine ⟨_, exec_start hq hi loaded free unspared, ?_⟩
  simp -implicitDefEqProofs only [State.image_commitMem, State.commitMem_cores, State.commitMem_pending, State.fld_commitMem, andThen_fst]
  refine ⟨fun x hx => (accept_others him k fun e => hx (Fin.ext e)).trans (images x), (accept_cores him k).trans poisons.cores, trivial, accept_image him k,
    fun alone r hr rails low => accept_floor him k (fun x hx => (images x).trans (alone x hx)) low rails hr, fun zero => ?_, fun a ha => ?_⟩
  · rw [first zero]
    exact State.commitMem_none_mem ..
  · exact writes.keeps fun h => ha (mem_lostRegions h)

/-- START of an image that is not LOADED is refused (R467). -/
theorem start_refused {s : State} {k : Nat} {q : Claimed} {slot : Slot} {im : Image} (hq : s.cmdReady k 0x0011 = some q)
    (hi : s.byHandle (field q.packet 8 4) = some (slot, im)) (busy : im.state ≠ .loaded) :
    Answers (.start k) s fun u => Steady s u q.packet ∧ Answered s u q 0x10 0x0006 [] := by
  refine answers_reply (claim_of_cmdReady hq) 0x10 0x0006 ?_
  rw [exec, execStart, onImage_of_ready hq hi, if_pos busy]
  rfl

end Sys2Proof.Proofs
end

section
/-! SUPPORT. The beginning of an invocation (R33, R46, R86, R197, R222). -/

namespace Sys2Proof.Proofs
open Sys2Proof.Machine Sys2Proof.Claims

/-- Writing one field leaves a field of other bits at whatever address. -/
theorem fld_setFld_apart_any (s : State) (a b : Nat) {f g : Field} (v : Nat) (fits : f.fits) (apart : f.apart g) : (s.setFld b f v).fld a g = s.fld a g := by
  by_cases h : a = b
  · rw [h, s.fld_setFld_apart b f g v fits apart]
  · exact s.fld_setFld_ne f g v h

/-- Whether a memory domain coasts. -/
def coasts (s : State) (n : Nat) : Bool := s.flag (aCLKD_STAT n) CLKD_STAT.COAST

theorem coasts_of_reg {s u : State} {n : Nat} (h : u.reg (aCLKD_STAT n) = s.reg (aCLKD_STAT n)) : coasts u n = coasts s n := flag_of_reg h _

/-- From `s` on an invocation is prepared: no image changes, and each memory domain coasts as before. -/
structure Readies (s u : State) : Prop where
  images : u.images = s.images
  ilv : u.ilv = s.ilv
  coast : ∀ n < 8, coasts u n = coasts s n

theorem Readies.refl (s : State) : Readies s s := ⟨rfl, rfl, fun _ _ => rfl⟩

theorem Readies.trans {s u v : State} (h : Readies s u) (k : Readies u v) : Readies s v :=
  ⟨k.images.trans h.images, k.ilv.trans h.ilv, fun n hn => (k.coast n hn).trans (h.coast n hn)⟩

theorem Readies.image {s u : State} (h : Readies s u) (k : Nat) : u.image k = s.image k := by
  rw [State.image, State.image, h.images]

theorem readies_forAll {α : Type} (s : State) (l : List α) (f : State → α → State) (h : ∀ s, ∀ a ∈ l, Readies s (f s a)) :
    Readies s (s.forAll l f) := by
  induction l generalizing s with
  | nil => exact .refl s
  | cons a l ih => exact (h s a (by simp)).trans (ih (f s a) fun s b hb => h s b (by simp [hb]))

/-- What changes neither the images nor control space. -/
theorem readies_of_regs {s u : State} (images : u.images = s.images) (ilv : u.ilv = s.ilv) (regs : u.regs = s.regs) : Readies s u :=
  ⟨images, ilv, fun _ _ => coasts_of_reg (reg_of_regs regs _)⟩

theorem readies_setReg (s : State) {a : Nat} (w : Word) (h : ∀ n < 8, aCLKD_STAT n ≠ a) : Readies s (s.setReg a w) :=
  ⟨rfl, rfl, fun n hn => coasts_of_reg (s.reg_setReg_ne w (h n hn))⟩

theorem aCLKD_STAT_bounds {n : Nat} (h : n < 8) : powerBlk ≤ aCLKD_STAT n ∧ aCLKD_STAT n < clusterBlk 0 := by
  have top : clusterBlk 0 = powerBlk + 0x100_0000 := rfl
  simp only [aCLKD_STAT, aCLKD_CTRL]
  omega

theorem readies_setReg_high (s : State) {a : Nat} (w : Word) (h : clusterBlk 0 ≤ a) : Readies s (s.setReg a w) :=
  readies_setReg s w fun _ low => Nat.ne_of_lt (Nat.lt_of_lt_of_le (aCLKD_STAT_bounds low).2 h)

theorem readies_setReg_low (s : State) {a : Nat} (w : Word) (h : a < powerBlk) : Readies s (s.setReg a w) :=
  readies_setReg s w fun _ hn => Nat.ne_of_gt (Nat.lt_of_lt_of_le h (aCLKD_STAT_bounds hn).1)

/-- A field of whatever register but for COAST's bit. -/
theorem readies_setFld_apart (s : State) (a : Nat) {f : Field} (v : Nat) (fits : f.fits) (apart : f.apart CLKD_STAT.COAST) : Readies s (s.setFld a f v) :=
  ⟨rfl, rfl, fun _ _ => by rw [coasts, coasts, State.flag, State.flag, fld_setFld_apart_any s _ a v fits apart]⟩

theorem readies_armFloors (s : State) (rs : List Nat) : Readies s (s.armFloors rs) := by
  refine readies_forAll _ _ _ fun t r _ => ?_
  have bound := readies_setFld_apart t (aGOV_SET r) (f := GOV_SET.BFLOOR) (t.railFloor r true) (by decide) (by decide)
  have cleared := readies_setFld_apart (t.setFld (aGOV_SET r) GOV_SET.BFLOOR (t.railFloor r true)) (aGOV_STAT r) (f := GOV_STAT.BREACH) 0 (by decide) (by decide)
  exact (bound.trans cleared).trans (readies_of_regs rfl rfl rfl)

theorem Notices.readies {s u : State} (h : Notices s u) (images : u.images = s.images) : Readies s u :=
  ⟨images, h.ilv, fun _ low => coasts_of_reg (h.reg _ (aCLKD_STAT_bounds low).2)⟩

theorem Replies.readies {s u : State} (h : Replies s u) : Readies s u :=
  ⟨h.images, (congrArg State.ilv h.rest :), fun _ low => coasts_of_reg (h.reg _ (aCLKD_STAT_bounds low).2)⟩

/-! A core at START -/

/-- A thread of a core at START. -/
def startThread (im : Image) (w : Nat) (t : Thr) : Thread :=
  let r := (startRec im.bytes w).getD []
  let o := 0x10 + t.val * 24
  let on := if im.static then bit (field r 3 1) t.val else t.val == 0
  if on then Thread.start (BitVec.ofNat 64 (field r o 8)) (BitVec.ofNat 64 (field r (o + 8) 8)) (BitVec.ofNat 64 w)
    (BitVec.ofNat 64 im.k) (if im.static then BitVec.ofNat 64 t.val else 0) (field r (o + 0x10) 4) (field r (o + 0x14) 4)
    (if im.static then bit (field r 2 1) t.val else true)
  else Thread.reset

/-- A core at START. -/
def startedCore (im : Image) (w : Nat) (q : Core) : Core :=
  { Core.reset with
    imem := q.imem, imemPoison := q.imemPoison, tlb := q.tlb, irlog := q.irlog, nextKey := q.nextKey
    thr := Vector.ofFn (startThread im w)
    next := some 0
    dtbase := DTBASE.OFFSET.put 0 (field ((startRec im.bytes w).getD []) 4 4 / 1024) }

/-- The registers of a core's control block that START puts back. -/
def startRegs (c : CoreId) : List Nat :=
  [aCCTL c, aCSTAT c, aTR_STAT c, aMX_STAT c, aVX_STAT c, aMX_BUSYHS c, aVX_BUSYHS c, aDBG_BP c 0, aDBG_BP c 1, aDBG_BP c 2, aDBG_BP c 3]

theorem startCore_eq (s : State) (im : Image) (c : CoreId) (w : Nat) : s.startCore im c w =
    ((((s.modCore c (startedCore im w)).forAll (startRegs c) fun s a => s.setReg a (resetAt a)).forAll queues fun s q => s.setReg (aQCNT c q) 0).setFld
      (aIMEM_STAT c) IMEM_STAT.WORDS 0) := rfl

theorem startCore_cores (s : State) (im : Image) (c : CoreId) (w : Nat) : (s.startCore im c w).cores = (s.modCore c (startedCore im w)).cores := by
  rw [startCore_eq, State.setFld_cores]
  exact (State.forAll_keeps State.cores _ _ (fun t q _ => State.setReg_cores ..) _).trans (State.forAll_keeps State.cores _ _ (fun t a _ => State.setReg_cores ..) _)

theorem core_startCore_self (s : State) (im : Image) (c : CoreId) (w : Nat) : (s.startCore im c w).core c = startedCore im w (s.core c) := by
  rw [State.core, startCore_cores, ← State.core, State.core_modCore_self]

theorem core_startCore_ne (s : State) (im : Image) {c x : CoreId} (w : Nat) (h : x ≠ c) : (s.startCore im c w).core x = s.core x := by
  rw [State.core, startCore_cores, ← State.core, State.core_modCore_ne _ _ fun e => h (Fin.ext e)]

/-- The control blocks of the cores lie below the power block. -/
theorem core_register_lt (c : CoreId) {o : Nat} (h : o < 0x1_0000) : coreBlk c + o < powerBlk := by
  have top : powerBlk = ctrlBase + 0x0800_0000 := rfl
  have := c.isLt
  simp only [coreBlk]
  omega

theorem startRegs_lt (c : CoreId) : ∀ a ∈ startRegs c, a < powerBlk := by
  simp only [startRegs, List.forall_mem_cons, aCCTL, aCSTAT, aTR_STAT, aMX_STAT, aVX_STAT, aMX_BUSYHS, aVX_BUSYHS, aDBG_BP, Nat.add_assoc]
  simp [core_register_lt]

theorem aQCNT_lt (c : CoreId) (q : Fin 8) : aQCNT c q < powerBlk := by
  have := q.isLt
  rw [aQCNT, Nat.add_assoc]
  exact core_register_lt c (by omega)

theorem readies_startCore (s : State) (im : Image) (c : CoreId) (w : Nat) : Readies s (s.startCore im c w) := by
  have changed : Readies s (s.modCore c (startedCore im w)) := readies_of_regs rfl rfl rfl
  have statics := readies_forAll (s.modCore c (startedCore im w)) (startRegs c) (fun s a => s.setReg a (resetAt a)) fun t a ha => readies_setReg_low t _ (startRegs_lt c a ha)
  have counts := readies_forAll ((s.modCore c (startedCore im w)).forAll (startRegs c) fun s a => s.setReg a (resetAt a)) queues
    (fun s q => s.setReg (aQCNT c q) 0) fun t q _ => readies_setReg_low t 0 (aQCNT_lt c q)
  rw [startCore_eq]
  exact ((changed.trans statics).trans counts).trans (readies_setReg_low _ _ (core_register_lt c (by decide)))

/-- The cores of an image, with their workload numbers. -/
def boundCores (im : Image) : List (CoreId × Nat) := im.coreIds.zip (List.range im.k)

def startCores (s : State) (im : Image) : State := s.forAll (boundCores im) fun s x => s.startCore im x.1 x.2

theorem readies_startCores (s : State) (im : Image) : Readies s (startCores s im) := readies_forAll _ _ _ fun t x _ => readies_startCore t im x.1 x.2

theorem ofNat_core {x : Nat} (h : x < 1152) : (Fin.ofNat 1152 x).val = x := by rw [Fin.val_ofNat, Nat.mod_eq_of_lt h]

/-- A core among those of an image is bound. -/
theorem mem_coreIds {im : Image} (low : ∀ x ∈ im.bindPhys, x < 1152) {c : CoreId} : c ∈ im.coreIds ↔ c.val ∈ im.bindPhys := by
  rw [Image.coreIds, List.mem_map]
  constructor
  · rintro ⟨x, hx, rfl⟩
    rwa [ofNat_core (low x hx)]
  · exact fun h => ⟨c.val, h, Fin.ext (ofNat_core c.isLt)⟩

theorem startCores_unbound (s : State) {im : Image} (low : ∀ x ∈ im.bindPhys, x < 1152) {c : CoreId} (h : c.val ∉ im.bindPhys) :
    (startCores s im).core c = s.core c := by
  have apart : ∀ (t : State) (x : CoreId × Nat), x ∈ boundCores im → (t.startCore im x.1 x.2).core c = t.core c := fun t x hx =>
    core_startCore_ne t im x.2 fun e => h (e ▸ (mem_coreIds low).1 (List.of_mem_zip (a := x.1) (b := x.2) hx).1)
  exact State.forAll_keeps (fun t => t.core c) (boundCores im) _ apart s

/-- The place of a core in an image's binding. -/
theorem boundCores_at {im : Image} (low : ∀ x ∈ im.bindPhys, x < 1152) {x : CoreId × Nat} (h : x ∈ boundCores im) : im.bindPhys[x.2]? = some x.1.val := by
  obtain ⟨i, hi⟩ := List.mem_iff_getElem?.1 h
  obtain ⟨core, number⟩ := List.getElem?_zip_eq_some.1 hi
  obtain ⟨lt, e⟩ := List.getElem?_eq_some_iff.1 number
  rw [List.getElem_range] at e
  subst e
  rw [Image.coreIds, List.getElem?_map] at core
  obtain ⟨p, hp, e⟩ := Option.map_eq_some_iff.1 core
  rw [hp, ← e, ofNat_core (low p (List.mem_of_getElem? hp))]

theorem mem_boundCores {im : Image} (len : im.bindPhys.length = im.k) {w : Nat} {c : CoreId} (h : im.bindPhys[w]? = some c.val) : (c, w) ∈ boundCores im := by
  have lt : w < im.k := len ▸ (List.getElem?_eq_some_iff.1 h).1
  refine List.mem_iff_getElem?.2 ⟨w, List.getElem?_zip_eq_some.2 ⟨?_, ?_⟩⟩
  · rw [Image.coreIds, List.getElem?_map, h]
    simp
  · simp [lt]

/-- Each bound core is at its START state, its instructions kept. -/
theorem startCores_bound (s : State) {im : Image} (low : ∀ x ∈ im.bindPhys, x < 1152) (nodup : im.bindPhys.Nodup) (len : im.bindPhys.length = im.k)
    {w : Nat} {c : CoreId} (h : im.bindPhys[w]? = some c.val) :
    ∃ q, q.imem = (s.core c).imem ∧ (startCores s im).core c = startedCore im w q := by
  unfold startCores
  refine forAll_brings (f := fun s x => s.startCore im x.1 x.2) (I := fun t => (t.core c).imem = (s.core c).imem)
    (P := fun t => ∃ q, q.imem = (s.core c).imem ∧ t.core c = startedCore im w q)
    (mem_boundCores len h) s (Eq.refl (s.core c).imem) (fun t x _ ht => ?_) (fun t ht => ?_) fun t x hx ht hp => ?_
  · by_cases e : c = x.1
    · rw [e, core_startCore_self, ← e]
      exact ht
    · rw [core_startCore_ne t im x.2 e, ht]
  · exact ⟨t.core c, ht, core_startCore_self t im c w⟩
  · by_cases e : c = x.1
    · have same : x.2 = w := by
        have place := boundCores_at low hx
        rw [← e] at place
        exact (List.getElem?_inj (List.getElem?_eq_some_iff.1 place).1 nodup).1 (place.trans h.symm)
      exact ⟨t.core c, ht, by rw [e, core_startCore_self, same]⟩
    · rw [core_startCore_ne t im x.2 e]
      exact hp

/-- The first thread of a core at START runs from its start record, and no other thread of an image that is not static has started. -/
theorem startedCore_runs {im : Image} (dynamic : im.static = false) {w : Nat} {rec_ : List Byte} (hrec : startRec im.bytes w = some rec_) (q : Core) :
    let k := startedCore im w q
    k.thr[(0 : Thr)].st = .ready ∧ k.thr[(0 : Thr)].pc = loopAddr (BitVec.ofNat 64 (field rec_ 0x10 8)) ∧
      k.thr[(0 : Thr)].a = (Vector.replicate 16 0).set 15 (BitVec.ofNat 48 (field rec_ 0x18 8)) ∧
      k.thr[(0 : Thr)].d = ((Vector.replicate 32 0).set 0 (BitVec.ofNat 64 w)).set 1 (BitVec.ofNat 64 im.k) ∧ k.imem = q.imem ∧
      (∀ t : Thr, t ≠ 0 → k.thr[t].st = .notStarted) ∧ k.tt = [] ∧ k.zt = [] := by
  have thread : ∀ t : Thr, (startedCore im w q).thr[t] = startThread im w t := fun t => by simp [startedCore]
  have first : startThread im w 0 = Thread.start (BitVec.ofNat 64 (field rec_ 0x10 8)) (BitVec.ofNat 64 (field rec_ 0x18 8)) (BitVec.ofNat 64 w)
      (BitVec.ofNat 64 im.k) 0 (field rec_ 0x20 4) (field rec_ 0x24 4) true := by
    simp [startThread, dynamic, hrec]
  have others : ∀ t : Thr, t ≠ 0 → startThread im w t = Thread.reset := fun t ht => by
    have : t.val ≠ 0 := fun e => ht (Fin.ext e)
    simp [startThread, dynamic, this]
  dsimp only
  simp only [thread, first]
  refine ⟨rfl, rfl, ?_, ?_, rfl, fun t ht => by rw [others t ht]; rfl, rfl, rfl⟩
  · show (Vector.replicate 16 0).set 15 ((BitVec.ofNat 64 (field rec_ 0x18 8)).setWidth 48) = _
    rw [BitVec.setWidth_ofNat_of_le (by decide)]
  · show (((Vector.replicate 32 0).set 0 (BitVec.ofNat 64 w)).set 1 (BitVec.ofNat 64 im.k)).set 2 0 = _
    ext i hi : 1
    by_cases h2 : i = 2
    · subst h2
      simp
    · rw [Vector.getElem_set_ne _ _ (Ne.symm h2)]

/-! The objects of an image at START -/

/-- From `s` on objects of an image were put back, whose registers lie from the clusters' on. -/
structure Objects (s u : State) : Prop extends Readies s u where
  cores : u.cores = s.cores

theorem Objects.refl (s : State) : Objects s s := ⟨.refl s, rfl⟩

theorem Objects.trans {s u v : State} (h : Objects s u) (k : Objects u v) : Objects s v := ⟨h.toReadies.trans k.toReadies, k.cores.trans h.cores⟩

theorem objects_forAll {α : Type} (s : State) (l : List α) (f : State → α → State) (h : ∀ s, ∀ a ∈ l, Objects s (f s a)) :
    Objects s (s.forAll l f) := by
  induction l generalizing s with
  | nil => exact .refl s
  | cons a l ih => exact (h s a (by simp)).trans (ih (f s a) fun s b hb => h s b (by simp [hb]))

theorem objects_setReg (s : State) {a : Nat} (w : Word) (h : clusterBlk 0 ≤ a) : Objects s (s.setReg a w) := ⟨readies_setReg_high s w h, rfl⟩

theorem objects_parkStat (s : State) (obj : SyncObj) : Objects s (s.parkStat obj) := by
  unfold State.parkStat
  cases obj with
  | counter k i => exact objects_setReg _ _ (le_aSCNT k i)
  | barrier u => exact objects_setReg _ _ (le_aBU1 u)

theorem dma_register_ge (ch o : Nat) : clusterBlk 0 ≤ dmaBlk ch + o := by
  simp only [dmaBlk, dieBlk, clusterBlk]
  omega

/-- The registers of a channel that START puts back. -/
def dmaStartRegs (ch : DmaCh) : List Nat :=
  [aDMA_CTRL ch, aDMA_STAT ch, aDMA_PROG ch, aDMA_PC ch, aDMA_SA ch, aDMA_DA ch, aDMA_LC ch 0, aDMA_LC ch 1, aDMA_LC ch 2,
    aDMA_LC ch 3, aDMA_CQBASE ch, aDMA_CQSEQ ch, aDMA_ERR ch, aDMA_ERRADDR ch, aDMA_CNT ch]

theorem dmaStartRegs_ge (ch : DmaCh) : ∀ a ∈ dmaStartRegs ch, clusterBlk 0 ≤ a := by
  have base : clusterBlk 0 ≤ dmaBlk ch := dma_register_ge ch 0
  simp only [dmaStartRegs, List.forall_mem_cons, aDMA_CTRL, aDMA_STAT, aDMA_PROG, aDMA_PC, aDMA_SA, aDMA_DA, aDMA_LC, aDMA_CQBASE, aDMA_CQSEQ,
    aDMA_ERR, aDMA_ERRADDR, aDMA_CNT, Nat.add_assoc]
  simp [dma_register_ge, base]

/-- A channel of an image at START. -/
def startDma (s : State) (ch : DmaCh) : State :=
  ((s.forAll (dmaStartRegs ch) fun s a => s.setReg a (resetAt a)).modDma ch fun _ => Dma.reset).dmaForget ch fun _ => true

theorem objects_clearDma (s : State) (ch : DmaCh) (f : Dma → Dma) (g : Txn → Bool) : Objects s ((s.modDma ch f).dmaForget ch g) :=
  ⟨readies_of_regs rfl rfl rfl, rfl⟩

theorem objects_startDma (s : State) (ch : DmaCh) : Objects s (startDma s ch) := by
  have regs := objects_forAll s (dmaStartRegs ch) (fun s a => s.setReg a (resetAt a)) fun t a ha => objects_setReg t _ (dmaStartRegs_ge ch a ha)
  exact regs.trans (objects_clearDma ..)

/-- A counter of an image at START. -/
def startCounter (k : Nat) (s : State) (i : Nat) : State :=
  let obj : SyncObj := .counter k i
  let s : State := { s with
    parked := s.parked.filter (·.obj ≠ obj), inputs := s.inputs.filter (·.obj ≠ obj), sync := s.sync.filter (·.obj ≠ obj) }
  (s.setFld (aSCNT k i) SCNT.VALUE 0).parkStat obj

theorem objects_startCounter (k : Nat) (s : State) (i : Nat) : Objects s (startCounter k s i) := by
  unfold startCounter
  extract_lets obj t
  have forgot : Objects s t := ⟨readies_of_regs rfl rfl rfl, rfl⟩
  exact (forgot.trans (objects_setReg _ _ (le_aSCNT k i))).trans (objects_parkStat ..)

theorem le_barrier_mask (u o w : Nat) : clusterBlk 0 ≤ barrierBlk u + o + w * 8 := by
  simp only [barrierBlk, clusterBlk]
  omega

theorem objects_setMask (s : State) (at_ : Nat → Nat) (f : Nat → Bool) (h : ∀ w, clusterBlk 0 ≤ at_ w) : Objects s (s.setMask at_ f) :=
  objects_forAll _ _ _ fun _ w _ => objects_setReg _ _ (h w)

/-- A barrier of an image at START. -/
def startBarrier (im : Image) (s : State) (u : Nat) : State :=
  let s : State := { s with parked := s.parked.filter (·.obj ≠ .barrier u), sync := s.sync.filter (·.obj ≠ .barrier u) }
  (((s.setFld (aBU1 u) BU1.PHASE 0).setMask (aARR u) fun _ => false).setMask (aMASK u) fun j => im.bind.contains j).parkStat (.barrier u)

theorem objects_startBarrier (im : Image) (s : State) (u : Nat) : Objects s (startBarrier im s u) := by
  unfold startBarrier
  extract_lets t
  have forgot : Objects s t := ⟨readies_of_regs rfl rfl rfl, rfl⟩
  have phase := forgot.trans (objects_setReg _ (BU1.PHASE.put (t.reg (aBU1 u)) 0) (le_aBU1 u))
  exact ((phase.trans (objects_setMask _ _ _ (le_barrier_mask u 0x200))).trans (objects_setMask _ _ _ (le_barrier_mask u 0x100))).trans (objects_parkStat ..)

/-- The messages of an image are dropped and its channels' credits whole. -/
def startChannels (s : State) (slot : Nat) (es : List Nat) : State :=
  let s : State := { s with
    msgs := s.msgs.filter fun m => m.slot ≠ slot
    tokens := s.tokens.filter fun k => !es.contains k.dir }
  s.forAll es fun s e => s.setReg (aDIR1 e) (DIR1.AVAIL.put 0 (s.fld (aDIR0 e) DIR0.CRED))

theorem le_aDIR1 (e : Nat) : clusterBlk 0 ≤ aDIR1 e := by
  simp only [aDIR1, dirEntry, clusterBlk]
  omega

theorem objects_startChannels (s : State) (slot : Nat) (es : List Nat) : Objects s (startChannels s slot es) := by
  unfold startChannels
  extract_lets t
  have forgot : Objects s t := ⟨readies_of_regs rfl rfl rfl, rfl⟩
  exact forgot.trans (objects_forAll _ _ _ fun _ e _ => objects_setReg _ _ (le_aDIR1 e))

/-- The counters of an image in a cluster at START. -/
def startCounters (slot : Nat) (s : State) (k : Nat) : State :=
  let b := s.fld (aSALLOC k slot) SALLOC.BASE
  s.forAll (List.range (s.fld (aSALLOC k slot) SALLOC.COUNT)) fun s i => startCounter k s (b + i)

theorem startObjects_eq (s : State) (slot : Nat) (im : Image) : s.startObjects slot im =
    let t := ((s.forAll (s.imageDmas slot) startDma).forAll im.coreClusters (startCounters slot)).forAll (List.range im.barriers.2) fun s i =>
      startBarrier im s (im.barriers.1 + i)
    startChannels t slot (t.imageChannels slot) := rfl

theorem objects_startObjects (s : State) (slot : Nat) (im : Image) : Objects s (s.startObjects slot im) := by
  have dmas := objects_forAll s (s.imageDmas slot) startDma fun t ch _ => objects_startDma t ch
  have counters := objects_forAll (s.forAll (s.imageDmas slot) startDma) im.coreClusters (startCounters slot) fun t k _ =>
    objects_forAll _ _ _ fun t i _ => objects_startCounter k t _
  have barriers := objects_forAll ((s.forAll (s.imageDmas slot) startDma).forAll im.coreClusters (startCounters slot)) (List.range im.barriers.2)
    (fun s i => startBarrier im s (im.barriers.1 + i)) fun t i _ => objects_startBarrier im t _
  rw [startObjects_eq]
  exact ((dmas.trans counters).trans barriers).trans (objects_startChannels ..)

end Sys2Proof.Proofs
end

section
/-! SUPPORT. INVOCATION_BEGIN (R46, R86, R197). -/

namespace Sys2Proof.Proofs
open Sys2Proof.Machine Sys2Proof.Claims

/-- An image whose invocation has begun. -/
def runningImage (im : Image) : Image :=
  { im with state := .running, windows := 0, ending := .none, firstFault := none, breach := false, probe := none }

/-- The floors of an invocation that begins are armed. -/
def armedState (s : State) (slot : Slot) (im : Image) : State := (s.setImage slot (some (runningImage im))).armFloors im.rails

/-- The invocation has begun, its coasting domains not yet looked at. -/
def begunState (s : State) (slot : Slot) (im : Image) : State :=
  ((startCores (armedState s slot im) im).startObjects slot im).eventOwner im 0xE006 0

theorem begin_eq (s : State) (slot : Slot) (im : Image) : s.begin slot im =
    (begunState s slot im).forAll ((List.range 8).filter (coasts (begunState s slot im))) fun s n => s.coastBreach n slot := rfl

theorem objects_eventOwner (s : State) (im : Image) (code status : Nat) : Objects s (s.eventOwner im code status) :=
  have told := tells_eventOwner s im code status
  ⟨told.notices.readies told.proceeds.images, told.notices.cores⟩

theorem objects_begunState (s : State) (slot : Slot) (im : Image) : Objects (startCores (armedState s slot im) im) (begunState s slot im) :=
  (objects_startObjects ..).trans (objects_eventOwner ..)

theorem readies_begunState (s : State) (slot : Slot) (im : Image) : Readies (s.setImage slot (some (runningImage im))) (begunState s slot im) :=
  ((readies_armFloors ..).trans (readies_startCores ..)).trans (objects_begunState ..).toReadies

theorem begunState_image (s : State) (slot : Slot) (im : Image) : (begunState s slot im).image slot = some (runningImage im) := by
  rw [(readies_begunState s slot im).image, State.image_setImage_self _ _ _ slot.isLt]

theorem begunState_others (s : State) (slot : Slot) (im : Image) {x : Nat} (h : x ≠ slot.val) : (begunState s slot im).image x = s.image x := by
  rw [(readies_begunState s slot im).image, State.image_setImage_ne _ _ h]

theorem begunState_ilv (s : State) (slot : Slot) (im : Image) : (begunState s slot im).ilv = s.ilv :=
  (readies_begunState s slot im).ilv.trans (State.setImage_ilv ..)

theorem begunState_coasts (s : State) (slot : Slot) (im : Image) {n : Nat} (h : n < 8) : coasts (begunState s slot im) n = coasts s n :=
  ((readies_begunState s slot im).coast n h).trans (coasts_of_reg (reg_of_regs (State.setImage_regs ..) _))

theorem armedState_cores (s : State) (slot : Slot) (im : Image) : (armedState s slot im).cores = s.cores :=
  (floors_armFloors ..).cores.trans (State.setImage_cores ..)

/-! A breach noted on an image (R34, R46) -/

theorem breachBy_images {s : State} {im : Image} (bound : im.floor ≠ 0) (under : im.state = .running ∨ im.state = .stopping) (fresh : im.breach = false)
    (k kind index data0 : Nat) : (s.breachBy k im kind index data0).images = (s.modImage k fun i => { i with breach := true }).images := by
  have due : ¬(im.floor = 0 ∨ im.breach = true ∨ (im.state ≠ .running ∧ im.state ≠ .stopping)) := by
    rcases under with h | h <;> simp [bound, fresh, h]
  rw [State.breachBy, if_neg due]
  exact (tells_eventOwner ..).proceeds.images.trans (logs_logErr ..).images

theorem breachBy_idle (s : State) {im : Image} (h : im.floor = 0 ∨ im.breach = true) (k kind index data0 : Nat) : s.breachBy k im kind index data0 = s := by
  rw [State.breachBy, if_pos]
  rcases h with h | h <;> simp [h]

/-- A breach marks its own image. -/
theorem breachBy_image {s : State} {k : Nat} {im : Image} (him : s.image k = some im) (bound : im.floor ≠ 0)
    (under : im.state = .running ∨ im.state = .stopping) (kind index data0 : Nat) :
    (s.breachBy k im kind index data0).image k = some { im with breach := true } := by
  cases fresh : im.breach with
  | true => rw [breachBy_idle s (.inr fresh), him, ← fresh]
  | false =>
    rw [State.image, breachBy_images bound under fresh, ← State.image, State.image_modImage_self, him]
    rfl

theorem breachBy_others (s : State) (im : Image) {k x : Nat} (h : x ≠ k) (kind index data0 : Nat) : (s.breachBy k im kind index data0).image x = s.image x := by
  unfold State.breachBy
  split
  · rfl
  · rw [(tells_eventOwner ..).proceeds.image, State.image, (logs_logErr ..).images, ← State.image, State.image_modImage_ne _ _ h]

theorem coastBreach_others (s : State) (n : Nat) {k x : Nat} (h : x ≠ k) : (s.coastBreach n k).image x = s.image x := by
  unfold State.coastBreach
  split
  · split
    · exact breachBy_others s _ h ..
    · rfl
  · rfl

/-- An image that runs, breached or not. -/
def Runs (slot : Slot) (im : Image) (t : State) : Prop := ∃ b, t.image slot = some { runningImage im with breach := b }

/-- A walk over coasting domains leaves the image running, and marks it where it uses one. -/
theorem coastBreach_runs {t : State} {slot : Slot} {im : Image} (bound : im.floor ≠ 0) (h : Runs slot im t) (n : Nat) :
    Runs slot im (t.coastBreach n slot) ∧
    (im.onDomain t.ilv n = true → (t.coastBreach n slot).image slot = some { runningImage im with breach := true }) ∧
    (t.image slot = some { runningImage im with breach := true } → (t.coastBreach n slot).image slot = some { runningImage im with breach := true }) := by
  obtain ⟨b, him⟩ := h
  rw [State.coastBreach, him]
  dsimp only
  have marked := breachBy_image him bound (.inl rfl) 0x08 n 0
  have same : Image.onDomain { runningImage im with breach := b } t.ilv n = im.onDomain t.ilv n := rfl
  rw [same]
  split
  · exact ⟨⟨true, marked⟩, fun _ => marked, fun _ => marked⟩
  · rename_i off
    exact ⟨⟨b, him⟩, fun on => absurd on off, him.trans⟩

theorem exec_invocationBegin {s : State} {slot : Slot} {im : Image} (him : s.image slot = some im) (starting : im.state = .starting)
    (soon : im.windows ≤ 64) (met : s.floorsMet im = true) : exec (.invocationBegin slot) s = .next (s.commit (s.begin slot im)) := by
  show s.done _ = _
  rw [him]
  dsimp only
  rw [if_pos ⟨starting, soon, met⟩]
  rfl

/-- An invocation that begins while a domain it uses coasts is breached at once (R46). -/
theorem begin_breached {s : State} {slot : Slot} {im : Image} (him : s.image slot = some im) (starting : im.state = .starting) (soon : im.windows ≤ 64)
    (bound : im.floor ≠ 0) (met : s.floorsMet im = true)
    (coast : ∃ n, n < 8 ∧ s.flag (aCLKD_STAT n) CLKD_STAT.COAST = true ∧ im.onDomain s.ilv n = true) :
    ∃ u, exec (.invocationBegin slot) s = .next u ∧ (∀ x : Slot, x ≠ slot → u.image x = s.image x) ∧
      ∃ im', u.image slot = some im' ∧ im'.state = .running ∧ im'.breach = true := by
  obtain ⟨n, lt, coasting, uses⟩ := coast
  have mem : n ∈ (List.range 8).filter (coasts (begunState s slot im)) :=
    List.mem_filter.2 ⟨List.mem_range.2 lt, (begunState_coasts s slot im lt).trans coasting⟩
  refine ⟨_, exec_invocationBegin him starting soon met, ?_⟩
  simp -implicitDefEqProofs only [State.image_commit]
  rw [begin_eq]
  refine ⟨fun x hx => ?_, { runningImage im with breach := true }, ?_, rfl, rfl⟩
  · have apart : x.val ≠ slot.val := fun e => hx (Fin.ext e)
    exact (State.forAll_keeps (fun t => t.image x) _ _ (fun t n _ => coastBreach_others t n apart) _).trans (begunState_others s slot im apart)
  · exact forAll_brings (I := fun t => t.ilv = s.ilv ∧ Runs slot im t)
      (P := fun t => t.image slot = some { runningImage im with breach := true }) mem (begunState s slot im)
      ⟨begunState_ilv s slot im, false, begunState_image s slot im⟩
      (fun t n _ h => ⟨(notices_coastBreach t n slot).ilv.trans h.1, (coastBreach_runs bound h.2 n).1⟩)
      (fun t h => (coastBreach_runs bound h.2 n).2.1 (h.1 ▸ uses)) fun t n _ h marked => (coastBreach_runs bound h.2 n).2.2 marked

/-- Where no domain coasts, or the image is not Guaranteed, nothing follows the beginning. -/
theorem begin_unbreached {s : State} {slot : Slot} {im : Image} (h : im.floor = 0 ∨ ∀ n < 8, s.flag (aCLKD_STAT n) CLKD_STAT.COAST = false) :
    s.begin slot im = begunState s slot im := by
  have image := begunState_image s slot im
  rw [begin_eq]
  rcases h with elastic | still
  · refine State.forAll_inv (fun t => t = begunState s slot im) _ _ (fun t n _ e => ?_) _ rfl
    rw [e, State.coastBreach, image]
    dsimp only
    split
    · exact breachBy_idle (im := runningImage im) _ (.inl elastic) ..
    · rfl
  · have none_ : (List.range 8).filter (coasts (begunState s slot im)) = [] := List.filter_eq_nil_iff.2 fun n hn => by
      have lt := List.mem_range.1 hn
      rw [begunState_coasts s slot im lt, coasts, still n lt]
      decide
    rw [none_]
    rfl

theorem begin_answers {s : State} {slot : Slot} {im : Image} (him : s.image slot = some im) (starting : im.state = .starting) (soon : im.windows ≤ 64)
    (still : im.floor = 0 ∨ ∀ n < 8, s.flag (aCLKD_STAT n) CLKD_STAT.COAST = false)
    (met : ∀ r ∈ im.rails, r < 76 ∧ needCount (s.fld (aGOV_SET r) GOV_SET.FLOOR) ≤ s.fld (aGOV_STAT r) GOV_STAT.PACE) :
    Answers (.invocationBegin slot) s fun u => (∀ x : Slot, x ≠ slot → u.image x = s.image x) ∧ u.image slot = some (runningImage im) ∧
      ((∀ x ∈ im.bindPhys, x < 1152) → ∀ c : CoreId, c.val ∉ im.bindPhys → u.core c = s.core c) ∧
      (im.static = false → im.bindPhys.Nodup → (∀ c ∈ im.bindPhys, c < 1152) → im.bindPhys.length = im.k → ∀ (w : Nat) (c : CoreId) rec_,
        im.bindPhys[w]? = some c.val → startRec im.bytes w = some rec_ → (u.thr c 0).st = .ready ∧
          (u.thr c 0).pc = loopAddr (BitVec.ofNat 64 (field rec_ 0x10 8)) ∧
          (u.thr c 0).a = (Vector.replicate 16 0).set 15 (BitVec.ofNat 48 (field rec_ 0x18 8)) ∧
          (u.thr c 0).d = ((Vector.replicate 32 0).set 0 (BitVec.ofNat 64 w)).set 1 (BitVec.ofNat 64 im.k) ∧ (u.core c).imem = (s.core c).imem ∧
          (∀ t : Thr, t ≠ 0 → (u.thr c t).st = .notStarted) ∧ (u.core c).tt = [] ∧ (u.core c).zt = []) := by
  have paced : s.floorsMet im = true := List.all_eq_true.2 fun r hr => decide_eq_true (met r hr).2
  have armed : ∀ c : Nat, (armedState s slot im).core c = s.core c := fun c => by rw [State.core, armedState_cores, ← State.core]
  have after : ∀ c : Nat, (begunState s slot im).core c = (startCores (armedState s slot im) im).core c := fun c => by
    rw [State.core, (objects_begunState s slot im).cores, ← State.core]
  refine answers_commit _ (exec_invocationBegin him starting soon paced) ?_
  rw [begin_unbreached still]
  simp -implicitDefEqProofs only [State.image_commit, State.core_commit, State.thr_commit]
  refine ⟨fun x hx => begunState_others s slot im fun e => hx (Fin.ext e), begunState_image s slot im, fun low c unbound => ?_,
    fun dynamic nodup low len w c rec_ place hrec => ?_⟩
  · rw [after, startCores_unbound _ low unbound, armed]
  · obtain ⟨q, imem, started⟩ := startCores_bound (armedState s slot im) low nodup len place
    simp only [State.thr, after, started]
    rw [← armed, ← imem]
    exact startedCore_runs dynamic hrec q

end Sys2Proof.Proofs
end

section
/-! SUPPORT. What stopping cores, channels and pages leaves of the images and of the cores (R112, R199, R331, R343, R403, R469). -/

namespace Sys2Proof.Proofs
open Sys2Proof.Machine Sys2Proof.Claims

/-- A core's threads, its lock and its tiles. -/
def programState (q : Core) : Core := { Core.reset with thr := q.thr, lock := q.lock, tt := q.tt, zt := q.zt }

/-- From `s` on the images stand, and each core's threads, lock and tiles. -/
structure Tends (s u : State) : Prop where
  images : u.images = s.images
  core : ∀ c, programState (u.core c) = programState (s.core c)

theorem Tends.refl (s : State) : Tends s s := ⟨rfl, fun _ => rfl⟩

theorem Tends.trans {s u v : State} (h : Tends s u) (k : Tends u v) : Tends s v := ⟨k.images.trans h.images, fun c => (k.core c).trans (h.core c)⟩

theorem Tends.image {s u : State} (h : Tends s u) (k : Nat) : u.image k = s.image k := by
  rw [State.image, State.image, h.images]

theorem thr_of_program {q k : Core} (h : programState q = programState k) : q.thr = k.thr ∧ q.lock = k.lock :=
  ⟨(congrArg Core.thr h :), (congrArg Core.lock h :)⟩

theorem tiles_of_program {q k : Core} (h : programState q = programState k) : q.tt = k.tt ∧ q.zt = k.zt :=
  ⟨(congrArg Core.tt h :), (congrArg Core.zt h :)⟩

theorem Tends.thr {s u : State} (h : Tends s u) (c : Nat) : (u.core c).thr = (s.core c).thr := (thr_of_program (h.core c)).1
theorem Tends.lock {s u : State} (h : Tends s u) (c : Nat) : (u.core c).lock = (s.core c).lock := (thr_of_program (h.core c)).2
theorem Tends.tiles {s u : State} (h : Tends s u) (c : Nat) : (u.core c).tt = (s.core c).tt ∧ (u.core c).zt = (s.core c).zt := tiles_of_program (h.core c)

theorem tends_of_eq {s u : State} (images : u.images = s.images) (cores : u.cores = s.cores) : Tends s u :=
  ⟨images, fun c => by rw [State.core, State.core, cores]⟩

theorem Poisons.tends {s u : State} (h : Poisons s u) : Tends s u := tends_of_eq h.images h.cores

theorem Objects.tends {s u : State} (h : Objects s u) : Tends s u := tends_of_eq h.images h.cores

theorem tends_forAll {α : Type} (s : State) (l : List α) (f : State → α → State) (h : ∀ s, ∀ a ∈ l, Tends s (f s a)) : Tends s (s.forAll l f) := by
  induction l generalizing s with
  | nil => exact .refl s
  | cons a l ih => exact (h s a (by simp)).trans (ih (f s a) fun s b hb => h s b (by simp [hb]))

theorem tends_modCore (s : State) (c : Nat) {f : Core → Core} (h : ∀ q, programState (f q) = programState q) : Tends s (s.modCore c f) := by
  refine ⟨rfl, fun x => ?_⟩
  by_cases e : x = c
  · rw [e, State.core_modCore_self, h]
  · rw [State.core_modCore_ne _ _ e]

theorem tends_setFld (s : State) (a : Nat) (f : Field) (v : Nat) : Tends s (s.setFld a f v) := tends_of_eq rfl rfl

/-! Waits, queues and caches of a core -/

theorem tends_withdraw (s : State) (who : Waiter) : Tends s (s.withdraw who).2 := by
  unfold State.withdraw
  extract_lets passed objs t
  have forgot : Tends s t := tends_of_eq rfl rfl
  exact forgot.trans (tends_forAll _ _ _ fun _ _ _ => (objects_parkStat ..).tends)

theorem tends_token (s : State) (kind : TokenKind) (e : Nat) : Tends s (s.token kind e) := tends_of_eq rfl rfl

theorem tends_freed (s : State) (m : Message) : Tends s (s.freed m) := by
  unfold State.freed
  split
  · exact .refl s
  · split
    · exact .refl s
    · exact tends_token ..

theorem tends_closeQueue (s : State) (c : Nat) (q : Fin 8) : Tends s (s.closeQueue c q) := by
  unfold State.closeQueue
  extract_lets k t u
  split
  · exact .refl s
  · have closed : Tends s t := tends_modCore s c fun _ => rfl
    have freed : Tends t u := tends_forAll _ _ _ fun _ _ _ => tends_freed ..
    exact ((closed.trans freed).trans (tends_forAll _ _ _ fun _ _ _ => tends_token ..)).trans (tends_forAll _ _ _ fun _ _ _ => tends_token ..)

theorem tends_closeAll (s : State) (c : Nat) : Tends s (s.closeAll c) := tends_forAll _ _ _ fun _ _ _ => tends_closeQueue ..

theorem tends_writeBack (s : State) (c : CoreId) (t : Option Thr) (l : Line) : Tends s (s.writeBack c t l) := by
  unfold State.writeBack
  split
  · exact .refl s
  · exact tends_of_eq rfl rfl

theorem tends_flushCore (s : State) (c : CoreId) : Tends s (s.flushCore c) := by
  unfold State.flushCore
  extract_lets t
  have written : Tends s t := tends_forAll _ _ _ fun _ x _ => by
    dsimp only
    split
    · exact tends_writeBack ..
    · exact .refl _
  exact written.trans (tends_modCore t c fun _ => rfl)

theorem tends_setDma (s : State) (ch : DmaCh) (st why : Nat) : Tends s (s.setDma ch st why) := (tends_setFld ..).trans (tends_setFld ..)

theorem tends_dmaStop (s : State) (ch : DmaCh) : Tends s (s.dmaStop ch) := by
  have dropped : ∀ (t : State) (f : Dma → Dma), Tends t (t.modDma ch f) := fun _ _ => tends_of_eq rfl rfl
  unfold State.dmaStop
  dsimp only
  split
  · exact tends_setDma ..
  split
  · exact (tends_setDma ..).trans (dropped ..)
  split
  · exact tends_setDma ..
  · exact .refl s

/-- A channel that does not run stops no further. -/
theorem dmaStop_idle {s : State} {ch : DmaCh} (h : [0, dmaStopped, dmaHalted, dmaInError].contains (s.dmaState ch) = true) : s.dmaStop ch = s := by
  have still : s.dmaState ch ≠ dmaRunning ∧ s.dmaState ch ≠ dmaWaiting := by
    revert h
    generalize s.dmaState ch = st
    simp only [List.contains_iff_mem, List.mem_cons, List.not_mem_nil, or_false]
    rintro (rfl | rfl | rfl | rfl) <;> decide
  obtain ⟨running, waiting⟩ := still
  simp [State.dmaStop, running, waiting]

theorem forAll_idle {α : Type} {s : State} {l : List α} {f : State → α → State} (h : ∀ a ∈ l, f s a = s) : s.forAll l f = s :=
  State.forAll_inv (fun t => t = s) l f (fun _ a ha e => e ▸ h a ha) s rfl

/-! A core stops (R469) -/

/-- A core whose threads have stopped. -/
def haltedCore (q : Core) : Core := { q with thr := .replicate 4 Thread.reset, mx := Core.reset.mx, vx := Core.reset.vx }

theorem stopCore_eq {s : State} {c : CoreId} (h : (s.core c).lock = 0) : s.stopCore c =
    let t := ((s.forAll threads fun s t => (s.withdraw (.thread c t)).2).closeAll c).modCore c haltedCore
    if (t.core c).partEnd.isSome then t else (t.modCore c fun q => { q with partEnd := some none }).flushCore c := by
  rw [State.stopCore, if_neg (not_not.2 h)]
  rfl

theorem tends_endPart (s : State) (c : CoreId) : Tends s (s.modCore c fun q => { q with partEnd := some none }) := tends_modCore s c fun _ => rfl

/-- A stopped core's threads have not started, and the images and the other cores stand. -/
theorem stopCore_stops {s : State} {c : CoreId} (h : (s.core c).lock = 0) :
    (s.stopCore c).images = s.images ∧ ((s.stopCore c).core c).thr = .replicate 4 Thread.reset ∧ ((s.stopCore c).core c).lock = 0 ∧
      ∀ x : Nat, x ≠ c.val → programState ((s.stopCore c).core x) = programState (s.core x) := by
  have withdrawn := tends_forAll s threads (fun s t => (s.withdraw (.thread c t)).2) fun t th _ => tends_withdraw t _
  have closed := withdrawn.trans (tends_closeAll _ c)
  rw [stopCore_eq h]
  revert closed
  generalize State.closeAll _ _ = t
  intro closed
  have after : Tends (t.modCore c haltedCore) (if ((t.modCore c haltedCore).core c).partEnd.isSome then t.modCore c haltedCore
      else ((t.modCore c haltedCore).modCore c fun q => { q with partEnd := some none }).flushCore c) := by
    split
    · exact .refl _
    · exact (tends_endPart ..).trans (tends_flushCore ..)
  dsimp only
  revert after
  generalize (if ((t.modCore c haltedCore).core c).partEnd.isSome then t.modCore c haltedCore
      else ((t.modCore c haltedCore).modCore c fun q => { q with partEnd := some none }).flushCore c) = u
  intro after
  have self : (t.modCore c haltedCore).core c = haltedCore (t.core c) := State.core_modCore_self ..
  refine ⟨after.images.trans closed.images, ?_, ?_, fun x hx => ?_⟩
  · rw [after.thr, self]
    rfl
  · rw [after.lock, self]
    exact (closed.lock c).trans h
  · rw [after.core, State.core_modCore_ne _ _ hx, closed.core]

/-- STOP of an image none of whose cores has locked up. -/
theorem stopImage_stops {s : State} {im : Image} (low : ∀ x ∈ im.bindPhys, x < 1152) (free : ∀ x ∈ im.bindPhys, (s.core x).lock = 0) (slot : Slot) :
    (s.stopImage slot im).images = s.images ∧ ∀ c : CoreId, c.val ∈ im.bindPhys → ∀ t, ((s.stopImage slot im).thr c t).st = .notStarted := by
  have unlocked : ∀ (t : State), (∀ x ∈ im.bindPhys, (t.core x).lock = 0) → ∀ c ∈ im.coreIds, (t.core c).lock = 0 := fun t ht c hc =>
    ht c ((mem_coreIds low).1 hc)
  have step : ∀ (t : State), ∀ c ∈ im.coreIds, (∀ x ∈ im.bindPhys, (t.core x).lock = 0) → ∀ x ∈ im.bindPhys, ((t.stopCore c).core x).lock = 0 :=
    fun t c hc ht x hx => by
      obtain ⟨_, _, lock, others⟩ := stopCore_stops (unlocked t ht c hc)
      by_cases e : x = c.val
      · rw [e, lock]
      · rw [(thr_of_program (others x e)).2, ht x hx]
  have stopped := State.forAll_inv (fun t => t.images = s.images ∧ ∀ x ∈ im.bindPhys, (t.core x).lock = 0) im.coreIds (fun s c => s.stopCore c)
    (fun t c hc ht => ⟨(stopCore_stops (unlocked t ht.2 c hc)).1.trans ht.1, step t c hc ht.2⟩) s ⟨rfl, free⟩
  have channels := tends_forAll (s.forAll im.coreIds fun s c => s.stopCore c) ((s.forAll im.coreIds fun s c => s.stopCore c).imageDmas slot)
    (fun s ch => s.dmaStop ch) fun t ch _ => tends_dmaStop t ch
  refine ⟨channels.images.trans stopped.1, fun c hc t => ?_⟩
  have threads_ : ((s.forAll im.coreIds fun s c => s.stopCore c).core c).thr = .replicate 4 Thread.reset :=
    forAll_brings (I := fun t => ∀ x ∈ im.bindPhys, (t.core x).lock = 0) (P := fun t => (t.core c).thr = .replicate 4 Thread.reset)
      ((mem_coreIds low).2 hc) s free (fun t b hb ht => step t b hb ht) (fun t ht => (stopCore_stops (ht c hc)).2.1) fun t b hb ht hp => by
        obtain ⟨_, thr, _, others⟩ := stopCore_stops (unlocked t ht b hb)
        by_cases e : c.val = b.val
        · rw [e, thr]
        · rw [(thr_of_program (others c e)).1, hp]
  show (((s.stopImage slot im).core c).thr[t]).st = _
  have final : ((s.stopImage slot im).core c).thr = .replicate 4 Thread.reset := (channels.thr c).trans threads_
  simp [final, Thread.reset]

/-! Pages discarded at the end (R112, R113) -/

theorem tends_cancel (s : State) (l : List Txn) : Tends s { s with txns := l } := tends_of_eq rfl rfl

theorem tends_dcMaint (s : State) (c : CoreId) (t : Option Thr) (sel : Nat → Line → Bool) (clean inval : Bool) :
    Tends s (s.dcMaint c t sel clean inval) := by
  refine tends_forAll _ _ _ fun s x _ => ?_
  dsimp only
  split
  · exact (tends_writeBack ..).trans (tends_modCore _ _ fun _ => rfl)
  · exact tends_modCore _ _ fun _ => rfl

theorem tends_cancelWalks (s : State) (c : CoreId) (sel : Nat → Bool) : Tends s (s.cancelWalks c sel) := tends_cancel ..

theorem tends_cancelFills (s : State) (c : CoreId) (instr : Bool) (hit : Nat → Bool) : Tends s (s.cancelFills c instr hit) := tends_cancel ..

theorem tends_dropSide (s : State) (c : CoreId) (keep : Line → Bool) : Tends s (s.modCore c fun q => { q with side := q.side.filter keep }) :=
  tends_modCore s c fun _ => rfl

theorem tends_purge (s : State) (c : CoreId) (sel : Nat → Bool) : Tends s (s.purge c sel) :=
  ((tends_dcMaint ..).trans (tends_dropSide ..)).trans (tends_cancelFills ..)

theorem tends_dropTranslation (s : State) (c : CoreId) (vpn : Nat) : Tends s (s.modCore c fun q => { q with tlb := tabDel q.tlb vpn }) :=
  tends_modCore s c fun _ => rfl

theorem tends_trInvOne (s : State) (c : CoreId) (vpn : Nat) : Tends s (s.trInvOne c vpn) := by
  unfold State.trInvOne
  extract_lets page t
  have purged : Tends s t := ((tends_dropTranslation ..).trans (tends_cancelWalks ..)).trans (tends_purge ..)
  exact (purged.trans (tends_setFld ..)).trans (tends_setFld ..)

theorem tends_dmaInvDone (s : State) (d : Nat) : Tends s (s.dmaInvDone d) := by
  unfold State.dmaInvDone
  dsimp only
  split
  · exact .refl s
  · exact tends_setFld ..

theorem tends_dmaTrinv (s : State) (d slot : Nat) (vpn : Option Nat) : Tends s (s.dmaTrinv d slot vpn) := by
  unfold State.dmaTrinv
  extract_lets t stale dropped busy named
  have first : Tends s dropped := tends_of_eq rfl rfl
  have second : Tends s busy := (first.trans (tends_setFld ..)).trans (tends_setFld ..)
  have third : Tends s named := by
    dsimp only [named]
    split
    · exact second.trans (tends_setFld ..)
    · exact second
  exact third.trans (tends_dmaInvDone ..)

theorem tends_invalidate (s : State) (im : Image) (slot vpn : Nat) : Tends s (s.invalidate im slot vpn) :=
  (tends_forAll _ _ _ fun _ _ _ => tends_trInvOne ..).trans (tends_forAll _ _ _ fun _ _ _ => tends_dmaTrinv ..)

theorem tends_giveOwner (s : State) (g o : Nat) : Tends s (s.giveOwner g o) := by
  unfold State.giveOwner
  split
  · exact .refl s
  · exact tends_of_eq rfl rfl

theorem tends_deep (s : State) (d : Deep) : Tends s { s with deep := d } := tends_of_eq rfl rfl

theorem tends_dropOps (s : State) (o : FlashOp) : Tends s (s.dropOps o) := tends_deep ..

theorem tends_putPte (s : State) (im : Image) (r : Region) (vpn : Nat) (page : Option Nat) : Tends s (s.putPte im r vpn page).1 := by
  unfold State.putPte
  split
  · exact (poisons_writeHome ..).tends
  · exact .refl s

theorem tends_discardPages (s : State) (slot : Slot) (im : Image) : Tends s (s.discardPages slot im).1 := by
  unfold State.discardPages
  refine eachMem_keeps (R := Tends) .refl .trans _ _ _ fun s r _ => eachMem_keeps (R := Tends) .refl .trans _ _ _ fun s i _ => ?_
  extract_lets vpn e t u d v w x
  have framed : Tends s t := by
    dsimp only [t]
    split
    · split
      · exact .refl s
      · exact tends_giveOwner ..
    · exact .refl s
  have forgot : Tends s v := ((framed.trans (tends_dropOps ..)).trans (tends_dropOps ..)).trans (tends_deep ..)
  split
  · exact forgot
  · have gone : Tends s w := forgot.trans (tends_invalidate ..)
    have given : Tends w x := by
      dsimp only [x]
      split
      · exact .refl w
      · exact tends_giveOwner ..
    exact (gone.trans given).trans (tends_putPte ..)

/-- An image whose pages all stand keeps them. -/
theorem discardPages_none (s : State) (slot : Slot) {im : Image} (h : ∀ r ∈ im.regions, r.attrs % 2 = 1) : s.discardPages slot im = (s, .none) := by
  have none_ : (im.regions.filter fun r => decide (r.tier ≤ 2) && r.attrs % 2 == 0 && r.attrs / 4 % 2 == 0) = [] :=
    List.filter_eq_nil_iff.2 fun r hr => by simp [h r hr]
  rw [State.discardPages, none_]
  rfl

end Sys2Proof.Proofs
end

section
/-! SUPPORT. START_FLOOR_TIMEOUT, STOP and INVOCATION_END (R86, R222, R403, R467-R469). -/

namespace Sys2Proof.Proofs
open Sys2Proof.Machine Sys2Proof.Claims

/-! A floor not met (R86) -/

/-- The 64 windows have passed, or the last of them has without every rail at its need count. -/
def Late (s : State) (im : Image) : Prop := 64 < im.windows ∨ (im.windows = 64 ∧ s.floorsMet im = false)

theorem late_iff {s : State} {im : Image} : 64 ≤ im.windows ∧ (64 < im.windows ∨ s.floorsMet im = false) ↔ Late s im := by
  constructor
  · rintro ⟨le, lt | unmet⟩
    · exact .inl lt
    · rcases Nat.lt_or_eq_of_le le with lt | eq
      · exact .inl lt
      · exact .inr ⟨eq.symm, unmet⟩
  · rintro (lt | ⟨eq, unmet⟩)
    · exact ⟨Nat.le_of_lt lt, .inl lt⟩
    · exact ⟨Nat.le_of_eq eq.symm, .inr unmet⟩

theorem exec_startFloorTimeout {s : State} {slot : Slot} {im : Image} (him : s.image slot = some im) (starting : im.state = .starting) (late : Late s im) :
    exec (.startFloorTimeout slot) s = .next (s.commit (s.endInvocation slot im 0x13 0)) := by
  obtain ⟨least, reason⟩ := late_iff.2 late
  show s.done _ = _
  rw [him]
  dsimp only
  rw [if_pos ⟨starting, least, reason⟩]
  rfl

theorem startFloorTimeout_early {s : State} {slot : Slot} {im : Image} (him : s.image slot = some im) (early : ¬Late s im) :
    exec (.startFloorTimeout slot) s = .next s := by
  have not_due : ¬(im.state = .starting ∧ 64 ≤ im.windows ∧ (64 < im.windows ∨ s.floorsMet im = false)) := fun h => early (late_iff.1 h.2)
  show s.done _ = _
  rw [him]
  dsimp only
  rw [if_neg not_due]
  rfl

theorem wakeOwner_cores (s : State) (im : Image) : (wakeOwner s im).cores = s.cores := by
  unfold wakeOwner
  split
  · split
    · rfl
    · rfl
  · rfl

/-- An end that answers no command leaves the cores. -/
theorem endInvocation_cores (s : State) (slot : Slot) {im : Image} (start : im.startCmd = none) (stops : im.stopCmds = []) (status detail : Nat) :
    (s.endInvocation slot im status detail).cores = s.cores := by
  have unanswered : ∀ t, answerStops (answerStart t im status detail) im = t := fun t => by
    rw [answerStart, start, answerStops, stops]
    rfl
  rw [endInvocation_eq, unanswered, wakeOwner_cores, (floors_dropFloors ..).cores, State.setImage_cores]

theorem startFloorTimeout_unasked {s : State} {slot : Slot} {im : Image} (him : s.image slot = some im) (starting : im.state = .starting)
    (late : Late s im) (start : im.startCmd = none) (stops : im.stopCmds = []) :
    Answers (.startFloorTimeout slot) s fun u => (∀ x : Slot, x ≠ slot → u.image x = s.image x) ∧ u.cores = s.cores ∧
      ∃ im', u.image slot = some im' ∧ im'.state = .loaded ∧ im'.lastStatus = 0x13 ∧ im'.lastDetail = 0 := by
  refine answers_commit _ (exec_startFloorTimeout him starting late) ?_
  simp -implicitDefEqProofs only [State.image_commit, State.commit_cores]
  exact ⟨fun x hx => endInvocation_others s slot im _ _ fun e => hx (Fin.ext e), endInvocation_cores s slot start stops _ _,
    endImage im 0x13 0, endInvocation_image .., rfl, rfl, rfl⟩

theorem startFloorTimeout_asked {s : State} {slot : Slot} {im : Image} (him : s.image slot = some im) {k : Nat} (starting : im.state = .starting)
    (late : Late s im) (start : im.startCmd = some k) :
    Answers (.startFloorTimeout slot) s fun u => (∀ x : Slot, x ≠ slot → u.image x = s.image x) ∧ Gone u k ∧
      ∃ im', u.image slot = some im' ∧ im'.state = .loaded ∧ im'.startCmd = none ∧ im'.lastStatus = 0x13 ∧ im'.lastDetail = 0 := by
  refine answers_commit _ (exec_startFloorTimeout him starting late) ?_
  simp -implicitDefEqProofs only [State.image_commit]
  exact ⟨fun x hx => endInvocation_others s slot im _ _ fun e => hx (Fin.ext e), gone_endInvocation_start s slot start _ _,
    endImage im 0x13 0, endInvocation_image .., rfl, rfl, rfl, rfl⟩

/-! STOP (R467, R469) -/

/-- An image whose STOP waits for its end. -/
def stoppedImage (im : Image) (k : Nat) : Image :=
  { im with state := .stopping, stopCmds := im.stopCmds ++ [k], ending := if im.ending = Ending.none then .stopped else im.ending }

/-- STOP of a running image has been taken up; its cores still run. -/
def stopTaken (s : State) (slot : Slot) (k : Nat) : State := (s.modImage slot fun i => stoppedImage i k).claimBegun k

theorem stopTaken_image {s : State} {k : Nat} {slot : Slot} {im : Image} (him : s.image slot = some im) : (stopTaken s slot k).image slot = some (stoppedImage im k) := by
  have kept : (stopTaken s slot k).image slot = (s.modImage slot fun i => stoppedImage i k).image slot := rfl
  rw [kept, State.image_modImage_self, him]
  rfl

section Stop
variable {s : State} {k : Nat} {q : Claimed} {slot : Slot} {im : Image} (hq : s.cmdReady k 0x0012 = some q)
  (hi : s.byHandle (field q.packet 8 4) = some (slot, im))
include hq hi

theorem stop_loaded (loaded : im.state = .loaded) : Answers (.stop k) s fun u => Steady s u q.packet ∧ Answered s u q 0 0x0006 [] := by
  refine answers_reply (claim_of_cmdReady hq) 0 0x0006 ?_
  rw [exec, execStop, onImage_of_ready hq hi]
  simp only [loaded]
  rfl

theorem exec_stop_starting (starting : im.state = .starting) :
    exec (.stop k) s = .next (s.commit ((s.endInvocation slot im 0 0x000A).finalReply k 0 0 [])) := by
  rw [exec, execStop, onImage_of_ready hq hi]
  simp only [starting]
  rfl

theorem stop_starting (starting : im.state = .starting) :
    Answers (.stop k) s fun u => (∀ x : Slot, x ≠ slot → u.image x = s.image x) ∧ Gone u q.id ∧ (∀ j, im.startCmd = some j → Gone u j) ∧
      ∃ im', u.image slot = some im' ∧ im'.state = .loaded ∧ im'.lastStatus = 0 ∧ im'.lastDetail = 0x000A := by
  have reply := answering_finalReply (s.endInvocation slot im 0 0x000A) k 0 0 []
  have images : ∀ x, ((s.endInvocation slot im 0 0x000A).finalReply k 0 0 []).image x = (s.endInvocation slot im 0 0x000A).image x := fun x =>
    finalReply_image ..
  refine answers_commit _ (exec_stop_starting hq hi starting) ?_
  simp -implicitDefEqProofs only [State.image_commit, images]
  refine ⟨fun x hx => endInvocation_others s slot im _ _ fun e => hx (Fin.ext e), ?_, fun j start => reply.gone (gone_endInvocation_start s slot start _ _),
    endImage im 0 0x000A, endInvocation_image .., rfl, rfl, rfl⟩
  rw [claim_id (claim_of_cmdReady hq)]
  exact gone_finalReply (s.endInvocation slot im 0 0x000A) k 0 0 []

theorem exec_stop_running (running : im.state = .running) :
    exec (.stop k) s = .next (s.commit ((stopTaken s slot k).stopImage slot im)) := by
  rw [exec, execStop, onImage_of_ready hq hi]
  simp only [running]
  rfl

theorem stop_running (running : im.state = .running) (free : ∀ c ∈ im.bindPhys, c < 1152 ∧ (s.core c).lock = 0) :
    Answers (.stop k) s fun u => (∀ x : Slot, x ≠ slot → u.image x = s.image x) ∧ u.image slot = some (stoppedImage im k) ∧
      ∀ c : CoreId, c.val ∈ im.bindPhys → ∀ t, (u.thr c t).st = .notStarted := by
  have him := image_of_byHandle hi
  have kept : ∀ x, (stopTaken s slot k).image x = (s.modImage slot fun i => stoppedImage i k).image x := fun _ => rfl
  have cores : ∀ c, (stopTaken s slot k).core c = s.core c := fun c => by
    rw [State.core, State.core, ← State.modImage_cores s slot fun i => stoppedImage i k]
    rfl
  obtain ⟨images, halted⟩ := stopImage_stops (s := stopTaken s slot k) (fun c hc => (free c hc).1) (fun c hc => by rw [cores, (free c hc).2]) slot
  have image : ∀ x, ((stopTaken s slot k).stopImage slot im).image x = (stopTaken s slot k).image x := fun x => by
    rw [State.image, images, ← State.image]
  refine answers_commit _ (exec_stop_running hq hi running) ?_
  simp -implicitDefEqProofs only [State.image_commit, State.thr_commit, image]
  refine ⟨fun x hx => ?_, stopTaken_image him, halted⟩
  rw [kept, State.image_modImage_ne _ _ fun e => hx (Fin.ext e)]

theorem exec_stop_stopping (stopping : im.state = .stopping) :
    exec (.stop k) s = .next (s.commit ((s.claimBegun k).modImage slot fun i => { i with stopCmds := i.stopCmds ++ [k] })) := by
  rw [exec, execStop, onImage_of_ready hq hi]
  simp only [stopping]
  rfl

theorem stop_stopping (stopping : im.state = .stopping) :
    Answers (.stop k) s fun u => (∀ x : Slot, x ≠ slot → u.image x = s.image x) ∧ u.cores = s.cores ∧
      u.image slot = some { im with stopCmds := im.stopCmds ++ [k] } := by
  have him : (s.claimBegun k).image slot = some im := image_of_byHandle hi
  refine answers_commit _ (exec_stop_stopping hq hi stopping) ?_
  simp -implicitDefEqProofs only [State.image_commit, State.commit_cores]
  refine ⟨fun x hx => State.image_modImage_ne _ _ fun e => hx (Fin.ext e), State.modImage_cores .., ?_⟩
  rw [State.image_modImage_self, him]
  rfl

end Stop

/-! INVOCATION_END (R468) -/

/-- The tiles of an image's cores are EMPTY. -/
def emptiedCore (q : Core) : Core := { q with tt := [], zt := [], reuse := [] }

def emptyTiles (s : State) (im : Image) : State := s.forAll im.coreIds fun s c => s.modCore c emptiedCore

theorem emptyTiles_images (s : State) (im : Image) : (emptyTiles s im).images = s.images :=
  State.forAll_keeps State.images _ _ (fun _ _ _ => State.modCore_images ..) s

theorem emptyTiles_tiles (s : State) {im : Image} {c : Nat} (h : c ∈ im.bindPhys) (low : c < 1152) :
    ((emptyTiles s im).core c).tt = [] ∧ ((emptyTiles s im).core c).zt = [] := by
  have bound : Fin.ofNat 1152 c ∈ im.coreIds := List.mem_map.2 ⟨c, h, rfl⟩
  have self : (Fin.ofNat 1152 c).val = c := ofNat_core low
  have brings : ∀ (t : State) (b : CoreId), b.val = c → ((t.modCore b emptiedCore).core c).tt = [] ∧ ((t.modCore b emptiedCore).core c).zt = [] :=
    fun t b e => by rw [e, State.core_modCore_self]; exact ⟨rfl, rfl⟩
  refine forAll_establishes (P := fun t => (t.core c).tt = [] ∧ (t.core c).zt = []) bound s (fun t => brings t _ self) fun t b ht => ?_
  by_cases e : c = b.val
  · exact brings t b e.symm
  · rw [State.core_modCore_ne _ _ e]
    exact ht

/-- Once every part of an invocation has ended, INVOCATION_END empties the tiles and answers. -/
theorem exec_invocationEnd {s : State} {slot : Slot} {im : Image} (him : s.image slot = some im)
    (under : im.state = .stopping ∨ im.state = .running ∧ im.ending ≠ .faulted) (ended : s.ended slot im = true) :
    exec (.invocationEnd slot) s = .next (s.commitMem (andThen ((emptyTiles s im).discardPages slot im) fun s =>
      (s.endInvocation slot im im.outcome.1 im.outcome.2, .none))) := by
  have live : ¬(im.state ≠ .running ∧ im.state ≠ .stopping) := by rcases under with h | ⟨h, _⟩ <;> simp [h]
  have kept : ¬(im.ending = Ending.faulted ∧ im.state = .running) := by rcases under with h | ⟨_, h⟩ <;> simp [h]
  have channels : ∀ ch ∈ s.imageDmas slot, s.dmaStop ch = s := fun ch hch =>
    dmaStop_idle (List.all_eq_true.1 (Bool.and_eq_true_iff.1 ended).2 ch hch)
  have idle : s.forAll (s.imageDmas slot) (fun s ch => s.dmaStop ch) = s := forAll_idle channels
  show execInvocationEnd slot s = _
  unfold execInvocationEnd
  rw [him]
  dsimp only
  rw [if_neg live, if_neg kept, idle, ite_self, ended, him]
  rfl

theorem invocationEnd_ends {s : State} {slot : Slot} {im : Image} (him : s.image slot = some im)
    (under : im.state = .stopping ∨ im.state = .running ∧ im.ending ≠ .faulted) (ended : s.ended slot im = true) :
    ∃ u, exec (.invocationEnd slot) s = .next u ∧ (∀ x : Slot, x ≠ slot → u.image x = s.image x) ∧
      (∀ k, im.startCmd = some k ∨ k ∈ im.stopCmds → Gone u k) ∧ (∀ c ∈ im.bindPhys, c < 1152 → (u.core c).tt = [] ∧ (u.core c).zt = []) ∧
      ((∀ r ∈ im.regions, r.attrs % 2 = 1) → u.mem = s.mem) ∧
      ∃ im', u.image slot = some im' ∧ im'.state = .loaded ∧ (im'.lastStatus, im'.lastDetail) = im.outcome ∧ im'.startCmd = none ∧ im'.stopCmds = [] := by
  have discarded := tends_discardPages (emptyTiles s im) slot im
  have pinned := discardPages_none (emptyTiles s im) slot (im := im)
  have answering := answering_endInvocation ((emptyTiles s im).discardPages slot im).1 slot im im.outcome.1 im.outcome.2
  refine ⟨_, exec_invocationEnd him under ended, ?_⟩
  simp -implicitDefEqProofs only [State.image_commitMem, State.core_commitMem, andThen_fst]
  refine ⟨fun x hx => ?_, fun k asked c hc => ?_, fun c hc low => ?_, fun stays => ?_, endImage im im.outcome.1 im.outcome.2, endInvocation_image .., rfl, rfl, rfl, rfl⟩
  · rw [endInvocation_others _ slot im _ _ fun e => hx (Fin.ext e), discarded.image, State.image, emptyTiles_images, ← State.image]
  · rw [State.commitMem_claimed, andThen_fst] at hc
    rcases asked with start | stop
    · exact gone_endInvocation_start _ slot start _ _ c hc
    · exact gone_endInvocation_stop _ slot stop _ _ c hc
  · obtain ⟨tt, zt⟩ := tiles_of_besideThreads (answering.core c)
    obtain ⟨tt', zt'⟩ := discarded.tiles c
    obtain ⟨noTt, noZt⟩ := emptyTiles_tiles s hc low
    have same : ∀ t : State, (t.setImage slot (some (endImage im im.outcome.1 im.outcome.2))).core c = t.core c := fun t => by
      rw [State.core, State.setImage_cores, ← State.core]
    rw [same] at tt zt
    exact ⟨tt.trans (tt'.trans noTt), zt.trans (zt'.trans noZt)⟩
  · rw [pinned stays]
    exact State.commitMem_none_mem ..

end Sys2Proof.Proofs
end

section
/-! SUPPORT. Breaches of rails, stall detection, and the obligation on invocations (R34, R513-R515). -/

namespace Sys2Proof.Proofs
open Sys2Proof.Machine Sys2Proof.Claims

/-! Breach (R34) -/

/-- An event stands at the head of the error log once it has been logged. -/
theorem logErr_head (s : State) (code kind index count handle data1 data0 : Nat) :
    ∃ e es, (s.logErr code kind index count handle data1 data0).mgmt.errlog = e :: es ∧ e.code = code ∧ e.index = index := by
  unfold State.logErr
  extract_lets seq e mgmt listed numbered next alerted mgmt' new
  have toNext : next.mgmt.errlog = e :: s.mgmt.errlog.take 1023 := by
    simp only [next, numbered, listed, mgmt, State.setFld_mgmt]
    exact List.take_succ_cons
  have toAlerted : alerted.mgmt.errlog = e :: s.mgmt.errlog.take 1023 := by
    dsimp only [alerted]
    split
    · exact toNext
    · exact toNext
  have toNew : new.mgmt.errlog = e :: s.mgmt.errlog.take 1023 := by
    dsimp only [new]
    split
    · split
      · exact toAlerted
      · exact toAlerted
    · exact toAlerted
  split
  · split
    · rename_i same
      exact ⟨_, _, rfl, same.1, same.2.2⟩
    · exact ⟨_, _, toNew, rfl, rfl⟩
  · exact ⟨_, _, toNew, rfl, rfl⟩

/-- With one image loaded, its slot is the only one. -/
theorem loadedSlots_alone {s : State} {slot : Slot} {im : Image} (him : s.image slot = some im) (alone : ∀ x : Slot, x ≠ slot → s.image x = none) :
    s.loadedSlots = [slot.val] := by
  have only : ∀ x : Slot, (List.range 16).filter (· == x.val) = [x.val] := by decide
  rw [← only slot, State.loadedSlots]
  refine List.filter_congr fun k hk => ?_
  by_cases e : k = slot.val
  · simp [e, him]
  · rw [alone ⟨k, List.mem_range.1 hk⟩ fun h => e (congrArg Fin.val h)]
    simp [e]

theorem exec_guaranteeBreach {s : State} {slot : Slot} {im : Image} (him : s.image slot = some im) {rail : Fin 76}
    (set : s.flag (aGOV_STAT rail) GOV_STAT.BREACH = true) (alone : ∀ x : Slot, x ≠ slot → s.image x = none) (uses : rail.val ∈ im.rails) :
    exec (.guaranteeBreach rail) s = .next (s.commit (s.breachOf slot im rail)) := by
  have contains : im.rails.contains rail.val = true := List.contains_iff_mem.2 uses
  show execGuaranteeBreach rail s = _
  unfold execGuaranteeBreach
  rw [set, loadedSlots_alone him alone, if_neg (by decide), State.forAll, List.foldl_cons, List.foldl_nil, him]
  dsimp only
  rw [if_pos contains]
  rfl

theorem eventOwner_unowned (s : State) {im : Image} (h : im.owner = none) (code status : Nat) : s.eventOwner im code status = s := by
  rw [State.eventOwner, h]

theorem guaranteeBreach_answers {s : State} {slot : Slot} {im : Image} (him : s.image slot = some im) {rail : Fin 76}
    (set : s.flag (aGOV_STAT rail) GOV_STAT.BREACH = true) (alone : ∀ x : Slot, x ≠ slot → s.image x = none) (uses : rail.val ∈ im.rails)
    (bound : im.floor ≠ 0) (fresh : im.breach = false) (running : im.state = .running) (unowned : im.owner = none) :
    Answers (.guaranteeBreach rail) s fun u => (∀ x : Slot, x ≠ slot → u.image x = s.image x) ∧ u.image slot = some { im with breach := true } ∧
      u.cores = s.cores ∧ ∃ e es, u.mgmt.errlog = e :: es ∧ e.code = 0x0303 ∧ e.index = if rail.val < 72 then rail.val else 0 := by
  have due : ¬(im.floor = 0 ∨ im.breach = true ∨ (im.state ≠ .running ∧ im.state ≠ .stopping)) := by simp [bound, fresh, running]
  refine answers_commit _ (exec_guaranteeBreach him set alone uses) ?_
  simp -implicitDefEqProofs only [State.image_commit, State.commit_cores, State.commit_mgmt]
  unfold State.breachOf
  refine ⟨fun x hx => breachBy_others s im (fun e => hx (Fin.ext e)) .., breachBy_image him bound (.inl running) .., (notices_breachBy ..).cores, ?_⟩
  rw [State.breachBy, if_neg due, eventOwner_unowned _ unowned]
  exact logErr_head ..

/-! Stall detection (R513-R515) -/

theorem drainProbe_sends {s : State} {slot : Slot} {im : Image} (him : s.image slot = some im) (running : im.state = .running) (unsent : im.probe = none)
    (quiet : s.imageQuiet slot im = true) :
    Answers (.drainProbe slot) s fun u => (∀ x : Slot, x ≠ slot → u.image x = s.image x) ∧ u.regs = s.regs ∧ u.cores = s.cores ∧
      u.image slot = some { im with probe := some (im.bindPhys.map fun c => s.fld (aCORE_ACT c) CORE_ACT.ACT) } := by
  refine answers_commit (s.modImage slot fun i => { i with probe := some (s.acts im) }) ?_ ?_
  · show s.done _ = _
    rw [him]
    dsimp only
    rw [if_pos ⟨running, unsent, quiet⟩]
    rfl
  · simp -implicitDefEqProofs only [State.image_commit, State.commit_cores, State.commit_regs]
    refine ⟨fun x hx => State.image_modImage_ne _ _ fun e => hx (Fin.ext e), State.modImage_regs .., State.modImage_cores .., ?_⟩
    rw [State.image_modImage_self, him]
    rfl

theorem drainProbe_busy {s : State} {slot : Slot} {im : Image} (him : s.image slot = some im) (busy : s.imageQuiet slot im = false) :
    exec (.drainProbe slot) s = .next s := by
  have not_due : ¬(im.state = .running ∧ im.probe = none ∧ s.imageQuiet slot im = true) := by simp [busy]
  show s.done _ = _
  rw [him]
  dsimp only
  rw [if_neg not_due]
  rfl

/-- A probe during which the image was active is dropped. -/
theorem drainMarkers_active {s : State} {slot : Slot} {im : Image} (him : s.image slot = some im) {acts : List Nat} (sent : im.probe = some acts)
    (active : s.imageQuiet slot im = false ∨ acts ≠ s.acts im) :
    Answers (.drainMarkersReturned slot) s fun u => (∀ x : Slot, x ≠ slot → u.image x = s.image x) ∧ u.regs = s.regs ∧ u.cores = s.cores ∧
      u.image slot = some { im with probe := none } := by
  have not_due : ¬(im.state = .running ∧ s.imageQuiet slot im = true ∧ s.acts im = acts) := by
    rintro ⟨_, quiet, same⟩
    rcases active with busy | moved
    · exact absurd (busy.symm.trans quiet) (by decide)
    · exact moved same.symm
  refine answers_commit (s.modImage slot fun i => { i with probe := none }) ?_ ?_
  · show execDrainMarkersReturned slot s = _
    unfold execDrainMarkersReturned
    rw [him]
    dsimp only
    rw [sent]
    dsimp only
    rw [if_neg not_due]
    rfl
  · simp -implicitDefEqProofs only [State.image_commit, State.commit_cores, State.commit_regs]
    refine ⟨fun x hx => State.image_modImage_ne _ _ fun e => hx (Fin.ext e), State.modImage_regs .., State.modImage_cores .., ?_⟩
    rw [State.image_modImage_self, him]
    rfl

/-- An image that has stalled, and stops. -/
def stalledImage (im : Image) : Image :=
  { im with probe := none, state := .stopping, ending := if im.ending = Ending.none then .stalled else im.ending }

/-- An image found stalled, which is logged. -/
def stallFound (s : State) (slot : Slot) (im : Image) : State := (s.modImage slot stalledImage).logErr 0x0304 0 0 1 im.handle 0 0

theorem stallFound_image (s : State) (slot : Slot) (im : Image) (x : Nat) : (stallFound s slot im).image x = (s.modImage slot stalledImage).image x := by
  rw [State.image, stallFound, (logs_logErr ..).images, ← State.image]

theorem stallFound_core (s : State) (slot : Slot) (im : Image) (c : Nat) : (stallFound s slot im).core c = s.core c := by
  rw [State.core, stallFound, (logs_logErr ..).cores, State.modImage_cores, ← State.core]

theorem exec_drainMarkers {s : State} {slot : Slot} {im : Image} (him : s.image slot = some im) (sent : im.probe = some (s.acts im))
    (running : im.state = .running) (quiet : s.imageQuiet slot im = true) :
    exec (.drainMarkersReturned slot) s = .next (s.commit ((stallFound s slot im).stopImage slot im)) := by
  show execDrainMarkersReturned slot s = _
  unfold execDrainMarkersReturned
  rw [him]
  dsimp only
  rw [sent]
  dsimp only
  rw [if_pos ⟨running, quiet, rfl⟩]
  rfl

theorem drainMarkers_stalled {s : State} {slot : Slot} {im : Image} (him : s.image slot = some im) (sent : im.probe = some (s.acts im))
    (running : im.state = .running) (quiet : s.imageQuiet slot im = true) (ending : im.ending = .none)
    (free : ∀ c ∈ im.bindPhys, (s.core c).lock = 0 ∧ c < 1152) :
    Answers (.drainMarkersReturned slot) s fun u => (∀ x : Slot, x ≠ slot → u.image x = s.image x) ∧
      u.image slot = some { im with probe := none, state := .stopping, ending := .stalled } := by
  obtain ⟨images, _⟩ := stopImage_stops (s := stallFound s slot im) (im := im) (fun c hc => (free c hc).2)
    (fun c hc => by rw [stallFound_core, (free c hc).1]) slot
  have image : ∀ x, ((stallFound s slot im).stopImage slot im).image x = (s.modImage slot stalledImage).image x := fun x => by
    rw [State.image, images, ← State.image, stallFound_image]
  refine answers_commit _ (exec_drainMarkers him sent running quiet) ?_
  simp -implicitDefEqProofs only [State.image_commit, image]
  refine ⟨fun x hx => State.image_modImage_ne _ _ fun e => hx (Fin.ext e), ?_⟩
  rw [State.image_modImage_self, him, Option.map_some, stalledImage, if_pos ending]

/-- Settles O44: each clause is the case of its command. -/
theorem invocationsRun : Obligations.InvocationsRun := by
  intro s slot im him others gone cmd late alone lost
  exact ⟨fun k q h loaded free unspared => start_accepted h.1 h.2 loaded free unspared,
    fun k q h busy => start_refused h.1 h.2 busy,
    fun starting soon bound met coast => begin_breached him starting soon bound met coast,
    fun starting soon still met => begin_answers him starting soon still met,
    fun starting h start stops => startFloorTimeout_unasked him starting h start stops,
    fun early => startFloorTimeout_early him early,
    fun k starting h start => startFloorTimeout_asked him starting h start,
    fun k q h loaded => stop_loaded h.1 h.2 loaded,
    fun k q h starting => stop_starting h.1 h.2 starting,
    fun k q h running free => stop_running h.1 h.2 running free,
    fun k q h stopping => stop_stopping h.1 h.2 stopping,
    fun under ended => invocationEnd_ends him under ended,
    fun rail set only uses bound fresh running unowned => guaranteeBreach_answers him set only uses bound fresh running unowned,
    fun running unsent quiet => drainProbe_sends him running unsent quiet,
    fun busy => drainProbe_busy him busy,
    fun acts sent _ active => drainMarkers_active him sent active,
    fun sent running quiet ending free => drainMarkers_stalled him sent running quiet ending free⟩

end Sys2Proof.Proofs
end

section
/-! SUPPORT. Grants at an output port: the class a flit is granted in, the flit that wins, and the frames of quotas (R76, R78-R80). -/

namespace Sys2Proof.Proofs
open Sys2Proof.Machine Sys2Proof.Claims

/-! Ports -/

theorem routerOf_lt {k : Nat} (hk : k < 72) : routerOf k < 72 := by
  simp only [routerOf, clusterX, clusterY]
  omega

/-- The frame of a port: 256 slots at ports 5 and 6 of a router, 64 grants elsewhere (R76, R79). -/
theorem frameOf_portKey (port : RPort) : frameOf (portKey port) = match port with
    | .router _ n => if n = 5 ∨ n = 6 then 256 else 64
    | .crossbar _ _ => 64 := by
  cases port with
  | router k n =>
    have router := routerOf_lt k.isLt
    have attach : isAttach (portKey (.router k n)) = true ↔ n = 5 ∨ n = 6 := by
      rw [isAttach, decide_eq_true_iff, Fin.ext_iff, Fin.ext_iff, portKey, rKey]
      have := n.isLt
      show _ ↔ n.val = 5 ∨ n.val = 6
      omega
    simp [frameOf, attach]
  | crossbar d n =>
    have beyond : ¬xKey d n < 0x1000 := by simp only [xKey]; omega
    simp [frameOf, portKey, isAttach, beyond]

theorem frameOf_eq_256_iff (p : Nat) : frameOf p = 256 ↔ isAttach p = true := by
  cases h : isAttach p <;> simp [frameOf, h]

theorem frameOf_eq_64_iff (p : Nat) : frameOf p = 64 ↔ isAttach p = false := by
  cases h : isAttach p <;> simp [frameOf, h]

/-! Round robin (R79) -/

theorem roundRobin_cons_cons (last : Nat) (g h : Flit) (l : List Flit) :
    ∃ b, (b = g ∨ b = h) ∧ roundRobin last (g :: h :: l) = roundRobin last (b :: l) := by
  simp only [roundRobin, List.foldl_cons]
  split
  · exact ⟨h, .inr rfl, rfl⟩
  · exact ⟨g, .inl rfl, rfl⟩

/-- Among flits that wait one is granted, and it is one of them. -/
theorem roundRobin_cons (last : Nat) (g : Flit) (l : List Flit) : ∃ f ∈ g :: l, roundRobin last (g :: l) = some f := by
  induction l generalizing g with
  | nil => exact ⟨g, by simp, rfl⟩
  | cons h l ih =>
    obtain ⟨b, first, e⟩ := roundRobin_cons_cons last g h l
    obtain ⟨f, hf, e'⟩ := ih b
    refine ⟨f, ?_, e.trans e'⟩
    rcases List.mem_cons.1 hf with rfl | hf
    · simpa using first.imp_right .inl
    · simp [hf]

theorem roundRobin_mem {last : Nat} {l : List Flit} {f : Flit} (h : roundRobin last l = some f) : f ∈ l := by
  cases l with
  | nil => simp [roundRobin] at h
  | cons g l =>
    obtain ⟨f', hf, e⟩ := roundRobin_cons last g l
    exact Option.some.inj (e.symm.trans h) ▸ hf

theorem roundRobin_none {last : Nat} {l : List Flit} (h : roundRobin last l = none) : l = [] := by
  cases l with
  | nil => rfl
  | cons g l =>
    obtain ⟨f, _, e⟩ := roundRobin_cons last g l
    simp [e] at h

/-! The winner (R79, R80) -/

theorem within_iff (s : State) (p : Nat) (f : Flit) : s.within p f = true ↔ ∃ i, f.slot = some i ∧ 0 < s.quotaLeft p i.val := by
  cases h : f.slot <;> simp [State.within, h]

/-- The class in which a port would grant a flit. -/
def grantClass (s : State) (p : Nat) (f : Flit) : Nat :=
  if f.cls = .message ∧ s.within p f = true then 0 else if f.cls = .reserved ∧ s.within p f = true then 1 else 2

theorem grantClass_eq_iff (s : State) (p : Nat) (f : Flit) (n : Nat) : grantClass s p f = n ↔
    (n = 0 ∧ f.cls = .message ∧ s.within p f = true) ∨ (n = 1 ∧ f.cls = .reserved ∧ s.within p f = true) ∨
      (n = 2 ∧ ¬(f.cls = .message ∧ s.within p f = true) ∧ ¬(f.cls = .reserved ∧ s.within p f = true)) := by
  unfold grantClass
  split
  · rename_i h
    simp [h, eq_comm]
  · rename_i hm
    split
    · rename_i h
      simp [h, eq_comm]
    · rename_i hr
      simpa [hm, hr] using eq_comm

/-- The flits of a class. -/
def ofClass (s : State) (p n : Nat) (l : List Flit) : List Flit := l.filter fun f => decide (grantClass s p f = n)

theorem mem_ofClass {s : State} {p n : Nat} {l : List Flit} {f : Flit} : f ∈ ofClass s p n l ↔ f ∈ l ∧ grantClass s p f = n := by
  simp [ofClass]

theorem ne_of_ofClass_nil {s : State} {p n : Nat} {l : List Flit} (h : ofClass s p n l = []) {f : Flit} (hf : f ∈ l) : grantClass s p f ≠ n := fun e => by
  have : f ∈ ofClass s p n l := mem_ofClass.2 ⟨hf, e⟩
  simp [h] at this

theorem winner_eq (s : State) (p : Nat) (l : List Flit) : s.winner p l =
    match roundRobin (s.arb p).last.1 (ofClass s p 0 l) with
    | some f => some (f, 0)
    | none => match roundRobin (s.arb p).last.2.1 (ofClass s p 1 l) with
      | some f => some (f, 1)
      | none => (roundRobin (s.arb p).last.2.2 (ofClass s p 2 l)).map (·, 2) := by
  have messages : ofClass s p 0 l = l.filter fun f => decide (f.cls = .message) && s.within p f :=
    List.filter_congr fun f _ => by simp [grantClass_eq_iff]
  have reserved : ofClass s p 1 l = l.filter fun f => decide (f.cls = .reserved) && s.within p f :=
    List.filter_congr fun f _ => by simp [grantClass_eq_iff]
  have others : ofClass s p 2 l = l.filter fun f => !((decide (f.cls = .message) || decide (f.cls = .reserved)) && s.within p f) :=
    List.filter_congr fun f _ => by
      cases hc : f.cls <;> cases hw : s.within p f <;> simp [grantClass_eq_iff, hc, hw]
  rw [messages, reserved, others]
  rfl

/-- The flit granted is one of those that wait, in the first class that any of them has. -/
theorem winner_first {s : State} {p : Nat} {l : List Flit} {f : Flit} {n : Nat} (h : s.winner p l = some (f, n)) :
    f ∈ l ∧ grantClass s p f = n ∧ ∀ g ∈ l, n ≤ grantClass s p g := by
  rw [winner_eq] at h
  split at h
  · rename_i hf
    obtain ⟨rfl, rfl⟩ : _ = f ∧ 0 = n := by simpa using h
    obtain ⟨mem, cls⟩ := mem_ofClass.1 (roundRobin_mem hf)
    exact ⟨mem, cls, fun _ _ => Nat.zero_le _⟩
  · rename_i no_message
    have none0 := fun {g} (hg : g ∈ l) => ne_of_ofClass_nil (roundRobin_none no_message) hg
    split at h
    · rename_i hf
      obtain ⟨rfl, rfl⟩ : _ = f ∧ 1 = n := by simpa using h
      obtain ⟨mem, cls⟩ := mem_ofClass.1 (roundRobin_mem hf)
      exact ⟨mem, cls, fun g hg => Nat.one_le_iff_ne_zero.2 (none0 hg)⟩
    · rename_i no_reserved
      have none1 := fun {g} (hg : g ∈ l) => ne_of_ofClass_nil (roundRobin_none no_reserved) hg
      obtain ⟨_, hf, e⟩ := Option.map_eq_some_iff.1 h
      obtain ⟨rfl, rfl⟩ : _ = f ∧ 2 = n := by simpa using e
      obtain ⟨mem, cls⟩ := mem_ofClass.1 (roundRobin_mem hf)
      refine ⟨mem, cls, fun g hg => ?_⟩
      have := none0 hg
      have := none1 hg
      omega

theorem winner_nil (s : State) (p : Nat) : s.winner p [] = none := rfl

/-- Where a flit waits, one is granted. -/
theorem winner_of_mem {s : State} {p : Nat} {l : List Flit} {g : Flit} (hg : g ∈ l) : ∃ f n, s.winner p l = some (f, n) := by
  rw [winner_eq]
  split
  · exact ⟨_, _, rfl⟩
  · rename_i h0
    split
    · exact ⟨_, _, rfl⟩
    · rename_i h1
      cases h2 : roundRobin (s.arb p).last.2.2 (ofClass s p 2 l) with
      | some f => exact ⟨f, 2, rfl⟩
      | none =>
        have ne0 := ne_of_ofClass_nil (roundRobin_none h0) hg
        have ne1 := ne_of_ofClass_nil (roundRobin_none h1) hg
        have ne2 := ne_of_ofClass_nil (roundRobin_none h2) hg
        have := grantClass_eq_iff s p g (grantClass s p g)
        simp [ne0, ne1, ne2] at this

/-! The arbiter of a port -/

/-- A state whose arbiter at a port is another. -/
def withArb (s : State) (p : Nat) (a : Arb) : State := { s with arbs := tabIns s.arbs p a }

theorem arb_withArb (s : State) (p : Nat) (a : Arb) : (withArb s p a).arb p = a := tabGet_tabIns_self ..

/-- What is left of a quota after a grant (R79). -/
theorem quotaLeft_grant (s : State) (p : Nat) (f : Flit) (cls : Nat) (i : Slot) :
    (withArb s p ((s.arb p).grant f cls ((f.slot.map fun i => s.quotaLeft p i.val).getD 0))).quotaLeft p i =
      if f.slot = some i then s.quotaLeft p i - 1 else s.quotaLeft p i := by
  have at_ : ∀ a, (withArb s p a).quotaAt p i = s.quotaAt p i := fun _ => rfl
  rw [State.quotaLeft, arb_withArb, at_]
  cases hs : f.slot with
  | none => simp [Arb.grant, hs, State.quotaLeft]
  | some j =>
    by_cases e : j = i
    · simp [Arb.grant, hs, e]
    · have apart : i.val ≠ j.val := fun h => e (Fin.ext h.symm)
      simp [Arb.grant, hs, e, State.quotaLeft, tabFind_tabIns_ne _ _ apart]

/-- A message that is at no router of a tree is not copied by its grant (R355). -/
theorem granted_of_unicast {s : State} (port : RPort) {f : Flit} (h : ∀ id, f.msg = some id → (s.netMsg id).bind (·.router) = none) :
    s.granted port f = s := by
  unfold State.granted
  split
  · rename_i id hid
    rw [h id hid, if_neg (by simp)]
  · rfl

/-! The commands -/

theorem exec_portGrant (port : RPort) (waiting : List Flit) (s : State) : exec (.portGrant port waiting) s =
    s.done (if frameOf (portKey port) ≤ (s.arb (portKey port)).grants then s
      else match s.winner (portKey port) (waiting.filter (s.routed (portKey port))) with
        | none => s
        | some (f, cls) => (withArb s (portKey port) ((s.arb (portKey port)).grant f cls
            ((f.slot.map fun i => s.quotaLeft (portKey port) i.val).getD 0))).granted port f) := rfl

theorem portGrant_unrouted {s : State} {port : RPort} {waiting : List Flit} (h : ∀ f ∈ waiting, s.routed (portKey port) f = false) :
    exec (.portGrant port waiting) s = .next s := by
  have none_ : waiting.filter (s.routed (portKey port)) = [] := List.filter_eq_nil_iff.2 fun f hf => by simp [h f hf]
  rw [exec_portGrant, none_, winner_nil]
  dsimp only
  rw [ite_self]
  rfl

theorem portGrant_full {s : State} {port : RPort} (waiting : List Flit) (h : frameOf (portKey port) ≤ (s.arb (portKey port)).grants) :
    exec (.portGrant port waiting) s = .next s := by
  rw [exec_portGrant, if_pos h]
  rfl

theorem portGrant_grants {s : State} {port : RPort} {waiting : List Flit} (some_ : ∃ f ∈ waiting, s.routed (portKey port) f = true)
    (unicast : ∀ f ∈ waiting, ∀ id, f.msg = some id → (s.netMsg id).bind (·.router) = none)
    (room : (s.arb (portKey port)).grants < frameOf (portKey port)) :
    Answers (.portGrant port waiting) s fun u => u.images = s.images ∧ u.regs = s.regs ∧ u.cores = s.cores ∧
      (u.arb (portKey port)).grants = (s.arb (portKey port)).grants + 1 ∧
      ∃ f ∈ waiting, s.routed (portKey port) f = true ∧
        (∀ g ∈ waiting, s.routed (portKey port) g = true → grantClass s (portKey port) f ≤ grantClass s (portKey port) g) ∧
        (u.arb (portKey port)).granted = some f.input ∧
        ∀ i : Slot, u.quotaLeft (portKey port) i = if f.slot = some i then s.quotaLeft (portKey port) i - 1 else s.quotaLeft (portKey port) i := by
  obtain ⟨g, hg, routed⟩ := some_
  obtain ⟨f, n, win⟩ := winner_of_mem (s := s) (p := portKey port) (List.mem_filter.2 ⟨hg, routed⟩)
  obtain ⟨mem, cls, least⟩ := winner_first win
  obtain ⟨waits, crosses⟩ := List.mem_filter.1 mem
  generalize left : (f.slot.map fun i => s.quotaLeft (portKey port) i.val).getD 0 = l
  have run : exec (.portGrant port waiting) s = s.done (withArb s (portKey port) ((s.arb (portKey port)).grant f n l)) := by
    rw [exec_portGrant, if_neg (Nat.not_le.2 room), win]
    dsimp only
    rw [left, granted_of_unicast (s := withArb s (portKey port) _) port fun id hid => unicast f waits id hid]
  have arb := arb_withArb s (portKey port) ((s.arb (portKey port)).grant f n l)
  refine answers_commit _ run ⟨rfl, rfl, rfl, congrArg Arb.grants arb, f, waits, crosses,
    fun x hx hr => cls ▸ least x (List.mem_filter.2 ⟨hx, hr⟩), congrArg Arb.granted arb, fun i => ?_⟩
  exact (left ▸ quotaLeft_grant s (portKey port) f n i :)

/-- Each quota is whole at the start of a frame (R79). -/
theorem nextFrame_whole (s : State) (p : Nat) : ((s.nextFrame p).arb p).grants = 0 ∧
    (∀ i : Slot, (s.nextFrame p).quotaLeft p i = (s.nextFrame p).quotaAt p i) ∧ ((s.nextFrame p).arb p).last = (s.arb p).last := by
  have arb : (s.nextFrame p).arb p = { s.arb p with quota := [], grants := 0 } := arb_withArb ..
  exact ⟨by rw [arb], fun i => by rw [State.quotaLeft, arb]; rfl, by rw [arb]⟩

/-- The end of a frame, by the command that ends it. -/
theorem frameEnd_answers {i : Instr} {s : State} {p : Nat} (h : exec i s = s.done (s.nextFrame p)) : Answers i s fun u =>
    (u.arb p).grants = 0 ∧ (∀ i : Slot, u.quotaLeft p i = u.quotaAt p i) ∧ u.images = s.images ∧ u.regs = s.regs ∧ u.cores = s.cores ∧
      (u.arb p).last = (s.arb p).last :=
  have ⟨grants, whole, last⟩ := nextFrame_whole s p
  answers_commit _ h ⟨grants, whole, rfl, rfl, rfl, last⟩

theorem quotaFrameEnd_ends {s : State} {port : RPort} (plain : isAttach (portKey port) = false) (ended : 64 ≤ (s.arb (portKey port)).grants) :
    exec (.quotaFrameEnd port) s = s.done (s.nextFrame (portKey port)) := by
  show execQuotaFrameEnd port s = _
  unfold execQuotaFrameEnd
  dsimp only
  rw [if_neg (by simpa [plain] using ended)]

theorem quotaFrameEnd_early {s : State} {port : RPort} (h : isAttach (portKey port) = true ∨ (s.arb (portKey port)).grants < 64) :
    exec (.quotaFrameEnd port) s = .next s := by
  show execQuotaFrameEnd port s = _
  unfold execQuotaFrameEnd
  dsimp only
  rw [if_pos (by simpa using h)]
  rfl

theorem attachmentFrameEnd_ends {s : State} {port : RPort} (attach : isAttach (portKey port) = true)
    (ended : 256 ≤ (s.arb (portKey port)).grants) : exec (.attachmentFrameEnd port) s = s.done (s.nextFrame (portKey port)) := by
  show execAttachmentFrameEnd port s = _
  unfold execAttachmentFrameEnd
  dsimp only
  rw [if_neg (by simpa [attach] using ended)]

theorem attachmentFrameEnd_early {s : State} {port : RPort} (h : isAttach (portKey port) = false ∨ (s.arb (portKey port)).grants < 256) :
    exec (.attachmentFrameEnd port) s = .next s := by
  show execAttachmentFrameEnd port s = _
  unfold execAttachmentFrameEnd
  dsimp only
  rw [if_pos (by simpa using h)]
  rfl

/-- Settles O45: the winner stands in the first class that any waiting flit has, and a frame's end drops what its grants took. -/
theorem portGrants : Obligations.PortGrants := by
  intro s port p left full reserved class_
  have frame : frameOf p = full := frameOf_portKey port
  have attach : full = 256 ↔ isAttach p = true := frame ▸ frameOf_eq_256_iff p
  have plain : full = 64 ↔ isAttach p = false := frame ▸ frameOf_eq_64_iff p
  have class_iff : ∀ f n, class_ f n ↔ grantClass s p f = n := fun f n => by
    simp only [class_, reserved, left, grantClass_eq_iff, within_iff]
  refine ⟨fun waiting none_ => portGrant_unrouted none_, fun waiting some_ unicast room => ?_,
    fun waiting done => portGrant_full waiting (frame ▸ done), fun h ended => frameEnd_answers (quotaFrameEnd_ends (plain.1 h) ended),
    fun h => quotaFrameEnd_early (h.imp_left attach.1), fun h ended => frameEnd_answers (attachmentFrameEnd_ends (attach.1 h) ended),
    fun h => attachmentFrameEnd_early (h.imp_left plain.1)⟩
  obtain ⟨u, run, quiet, images, regs, cores, grants, f, waits, crosses, least, granted, rest⟩ :=
    portGrant_grants some_ unicast (frame ▸ room)
  exact ⟨u, run, quiet, images, regs, cores, grants, f, waits, crosses, _, (class_iff f _).2 rfl,
    fun g hg routed m hm => (class_iff g m).1 hm ▸ least g hg routed, granted, rest⟩

end Sys2Proof.Proofs
end

section
/-! SUPPORT. What entering an image in control space, filling its memory and freeing what it held leave (R58, R115-R118, R467, R520). -/

namespace Sys2Proof.Proofs
open Sys2Proof.Machine Sys2Proof.Claims

/-- From `s` on the images stand, what is being loaded and the messages on their way. -/
structure Stands (s u : State) : Prop where
  images : u.images = s.images
  loading : u.loading = s.loading
  msgs : u.msgs = s.msgs

/-- From `s` on the owners of pages stand too. -/
structure Settled (s u : State) : Prop extends Stands s u where
  owner : u.owner = s.owner

theorem Stands.refl (s : State) : Stands s s := ⟨rfl, rfl, rfl⟩

theorem Stands.trans {s u v : State} (h : Stands s u) (k : Stands u v) : Stands s v :=
  ⟨k.images.trans h.images, k.loading.trans h.loading, k.msgs.trans h.msgs⟩

theorem Stands.image {s u : State} (h : Stands s u) (k : Nat) : u.image k = s.image k := by rw [State.image, State.image, h.images]

theorem Settled.refl (s : State) : Settled s s := ⟨.refl s, rfl⟩

theorem Settled.trans {s u v : State} (h : Settled s u) (k : Settled u v) : Settled s v := ⟨h.toStands.trans k.toStands, k.owner.trans h.owner⟩

theorem stands_forAll {α : Type} (s : State) (l : List α) (f : State → α → State) (h : ∀ s, ∀ a ∈ l, Stands s (f s a)) : Stands s (s.forAll l f) :=
  State.forAll_inv (Stands s) l f (fun t a ha ht => ht.trans (h t a ha)) s (.refl s)

theorem settled_forAll {α : Type} (s : State) (l : List α) (f : State → α → State) (h : ∀ s, ∀ a ∈ l, Settled s (f s a)) :
    Settled s (s.forAll l f) :=
  State.forAll_inv (Settled s) l f (fun t a ha ht => ht.trans (h t a ha)) s (.refl s)

theorem stands_eachMem {α : Type} (s : State) (l : List α) (f : State → α → State × MemUpd) (h : ∀ s, ∀ a ∈ l, Stands s (f s a).1) :
    Stands s (s.eachMem l f).1 := eachMem_keeps .refl .trans s l f h

theorem stands_andThen {s : State} {r : State × MemUpd} {f : State → State × MemUpd} (h : Stands s r.1) (k : ∀ t, Stands t (f t).1) :
    Stands s (andThen r f).1 := h.trans (k r.1)

theorem Wakes.settled {ks : List Nat} {s u : State} (h : Wakes ks s u) : Settled s u :=
  ⟨⟨h.images, (congrArg State.loading h.rest :), (congrArg State.msgs h.rest :)⟩, (congrArg State.owner h.rest :)⟩

theorem Poisons.settled {s u : State} (h : Poisons s u) : Settled s u :=
  ⟨⟨h.images, (congrArg State.loading h.rest :), (congrArg State.msgs h.rest :)⟩, (congrArg State.owner h.rest :)⟩

theorem Logs.settled {s u : State} (h : Logs s u) : Settled s u :=
  ⟨⟨(congrArg State.images h.rest :), (congrArg State.loading h.rest :), (congrArg State.msgs h.rest :)⟩,
    (congrArg State.owner h.rest :)⟩

theorem settled_of_besideFlash {s u : State} (h : besideFlash u = besideFlash s) : Settled s u :=
  ⟨⟨(congrArg State.images h :), (congrArg State.loading h :), (congrArg State.msgs h :)⟩, (congrArg State.owner h :)⟩

theorem settled_setReg (s : State) (a : Nat) (w : Word) : Settled s (s.setReg a w) := ⟨⟨rfl, rfl, rfl⟩, rfl⟩

theorem settled_setFld (s : State) (a : Nat) (f : Field) (v : Nat) : Settled s (s.setFld a f v) := settled_setReg ..

theorem settled_setCore (s : State) (c : Nat) (q : Core) : Settled s (s.setCore c q) := ⟨⟨rfl, rfl, rfl⟩, rfl⟩

theorem settled_modDeep (s : State) (f : Deep → Deep) : Settled s (s.modDeep f) := ⟨⟨rfl, rfl, rfl⟩, rfl⟩

theorem settled_modMgmt (s : State) (f : Mgmt → Mgmt) : Settled s (s.modMgmt f) := ⟨⟨rfl, rfl, rfl⟩, rfl⟩

/-! Control space of an image (R73, R105, R107, R115, R337-R355, R376) -/

theorem settled_putHandles (s : State) (im : Image) (c w : Nat) : Settled s (s.putHandles im c w) :=
  (settled_forAll _ _ _ fun _ _ _ => (settled_setReg ..).trans (settled_setReg ..)).trans
    (settled_forAll _ _ _ fun _ _ _ => (settled_setReg ..).trans (settled_setReg ..))

theorem settled_putQueues (s : State) (im : Image) (c w : Nat) : Settled s (s.putQueues im c w) := by
  refine settled_forAll _ _ _ fun t q _ => ?_
  split
  · exact settled_setReg ..
  · exact settled_setReg ..

theorem settled_putCore (s : State) (slot : Nat) (im : Image) (c w : Nat) : Settled s (s.putCore slot im c w) :=
  ((((settled_setReg ..).trans (settled_setReg ..)).trans (settled_setReg ..)).trans (settled_putHandles ..)).trans (settled_putQueues ..)

theorem settled_putHandlers (s : State) (im : Image) (c w : Nat) : Settled s (s.putHandlers im c w) :=
  settled_forAll _ _ _ fun _ _ _ => settled_setReg ..

theorem settled_putChannels (s : State) (slot : Nat) (im : Image) : Settled s (s.putChannels slot im) :=
  settled_forAll _ _ _ fun _ _ _ => (settled_setReg ..).trans (settled_setReg ..)

theorem settled_putGroups (s : State) (slot : Nat) (im : Image) : Settled s (s.putGroups slot im) := by
  refine settled_forAll _ _ _ fun t g _ => settled_forAll _ _ _ fun t r _ => ?_
  split
  · exact .refl t
  · exact settled_setReg ..

theorem settled_putRuns (s : State) (slot : Nat) (im : Image) : Settled s (s.putRuns slot im) := by
  unfold State.putRuns
  extract_lets nc nd counters units
  have toCounters : Settled s counters := settled_forAll _ _ _ fun t k _ => by
    split
    · exact .refl t
    · exact (settled_setReg ..).trans (settled_forAll _ _ _ fun _ _ _ => settled_setReg ..)
  have toUnits : Settled counters units := settled_forAll _ _ _ fun _ _ _ => settled_setReg ..
  exact (toCounters.trans toUnits).trans (settled_forAll _ _ _ fun _ _ _ => settled_forAll _ _ _ fun _ _ _ => settled_setReg ..)

theorem settled_putControl (s : State) (slot : Nat) (im : Image) : Settled s (s.putControl slot im) :=
  (((settled_putRuns ..).trans (settled_putChannels ..)).trans (settled_putGroups ..)).trans (settled_forAll _ _ _ fun _ _ _ => settled_putCore ..)

theorem settled_setMask (s : State) (at_ : Nat → Nat) (f : Nat → Bool) : Settled s (s.setMask at_ f) :=
  settled_forAll _ _ _ fun _ _ _ => settled_setReg ..

/-- Registers put back to their reset words. -/
theorem settled_resetRegs (s : State) (as : List Nat) : Settled s (as.foldl (fun s a => s.setReg a (resetAt a)) s) :=
  settled_forAll s as (fun s a => s.setReg a (resetAt a)) fun _ _ _ => settled_setReg ..

theorem settled_clearDma (s : State) (ch : DmaCh) (f : Dma → Dma) (g : Txn → Bool) : Settled s ((s.modDma ch f).dmaForget ch g) :=
  ⟨⟨rfl, rfl, rfl⟩, rfl⟩

theorem settled_clearControl (s : State) (slot : Nat) (im : Image) : Settled s (s.clearControl slot im) := by
  unfold State.clearControl
  extract_lets dmas channels clusters units
  have toDmas : Settled s dmas := settled_forAll _ _ _ fun _ _ _ => (settled_resetRegs ..).trans (settled_clearDma ..)
  have toChannels : Settled dmas channels := settled_forAll _ _ _ fun _ _ _ => (settled_setReg ..).trans (settled_setReg ..)
  have toClusters : Settled channels clusters := settled_forAll _ _ _ fun _ _ _ =>
    ((settled_forAll _ _ _ fun _ _ _ => settled_setReg ..).trans (settled_setReg ..)).trans (settled_forAll _ _ _ fun t _ _ => by
      split
      · exact settled_setReg ..
      · exact .refl t)
  have toUnits : Settled clusters units := settled_forAll _ _ _ fun _ _ _ =>
    (((settled_setReg ..).trans (settled_setReg ..)).trans (settled_setMask ..)).trans (settled_setMask ..)
  refine (((toDmas.trans toChannels).trans toClusters).trans toUnits).trans (settled_forAll _ _ _ fun _ _ _ => ?_)
  exact ((settled_resetRegs ..).trans (settled_forAll _ _ _ fun _ _ _ => (settled_setReg ..).trans (settled_setReg ..))).trans
    (settled_forAll _ _ _ fun _ _ _ => (settled_setReg ..).trans (settled_setReg ..))

/-! Memory of an image (R107, R117, R433) -/

theorem stands_setOwner (s : State) (g o : Nat) : Stands s (s.setOwner g o) := ⟨rfl, rfl, rfl⟩

theorem stands_putTable (s : State) (a v : Nat) : Stands s (s.putTable a v).1 := (poisons_writeHome ..).settled.toStands

theorem stands_fillPage (s : State) (g : Nat) (content : List (Nat × Byte)) : Stands s (s.fillPage g content).1 :=
  (poisons_fillPage ..).settled.toStands

theorem stands_putPte (s : State) (im : Image) (r : Region) (vpn : Nat) (page : Option Nat) : Stands s (s.putPte im r vpn page).1 := by
  unfold State.putPte
  split
  · exact stands_putTable ..
  · exact .refl s

theorem stands_putTables (s : State) (im : Image) : Stands s (s.putTables im).1 :=
  stands_andThen (stands_eachMem _ _ _ fun _ _ _ => (stands_setOwner ..).trans (stands_fillPage ..))
    fun _ => stands_eachMem _ _ _ fun _ _ _ => stands_putTable ..

theorem stands_fillRegionPage (s : State) (slot : Nat) (im : Image) (r : Region) (i : Nat) : Stands s (s.fillRegionPage slot im r i).1 := by
  unfold State.fillRegionPage
  extract_lets vpn part kept page
  clear_value part
  split
  · have toKept : Stands s kept := by
      dsimp only [kept]
      split
      · exact (settled_modDeep ..).toStands
      · exact .refl s
    exact toKept.trans (stands_putPte ..)
  · split
    · exact stands_andThen (stands_fillPage ..) fun _ => (stands_setOwner ..).trans (stands_putPte ..)
    · exact stands_putPte ..

theorem stands_fillRegion (s : State) (slot : Nat) (im : Image) (r : Region) : Stands s (s.fillRegion slot im r).1 := by
  unfold State.fillRegion
  split
  · exact stands_forAll _ _ _ fun _ _ _ => stands_setOwner ..
  · exact stands_eachMem _ _ _ fun _ _ _ => stands_fillRegionPage ..

theorem stands_fillCore (s : State) (im : Image) (c w : Nat) : Stands s (s.fillCore im c w).1 := (settled_setCore ..).toStands

/-! What an image leaves behind (R31, R38, R520) -/

theorem settled_leaveClusters (s : State) (ks : List Nat) : Settled s (s.leaveClusters ks) := by
  refine settled_forAll _ _ _ fun t k _ => ?_
  split
  · exact .refl t
  · refine (settled_setFld t (aGOV_SET k) GOV_SET.CEIL 0).trans ?_
    dsimp only
    split
    · exact (wakes_setGate _ (List.mem_singleton_self k) true).settled
    · exact .refl _

theorem settled_substitute (s : State) (a spare : Nat) : Settled s (s.substitute a spare) :=
  (((settled_modMgmt ..).trans (settled_modMgmt ..)).trans (settled_of_besideFlash (besideFlash_svcAppend ..))).trans (logs_logErr ..).settled

theorem settled_afterUnload (s : State) (im : Image) : Settled s (s.afterUnload im) := by
  refine (settled_leaveClusters s im.coreClusters).trans (settled_forAll _ _ _ fun t a _ => ?_)
  split
  · exact settled_substitute ..
  · exact .refl t

end Sys2Proof.Proofs
end

section
/-! SUPPORT. LOAD_IMAGE, ADMISSION and UNLOAD (R58-R62, R96, R458, R467, R472). -/

namespace Sys2Proof.Proofs
open Sys2Proof.Machine Sys2Proof.Claims

/-! LOAD_IMAGE (R58, R61, R472) -/

/-- A reply is read off the claims and what has gone out on the ports. -/
theorem answered_congr {s t u : State} {q : Claimed} {status detail : Nat} {result : List Byte} (h : Answered s t q status detail result)
    (claimed : u.claimed = t.claimed) (ports : u.ports = t.ports) : Answered s u q status detail result := by
  have port : ∀ p, u.port p = t.port p := fun p => by rw [State.port, State.port, ports]
  simpa only [Answered, claimed, port] using h

section Load
variable {s : State} {k : Nat} {q : Claimed} {bs : List Byte} (ready : s.cmdReady k 0x0010 = some q) (idle : s.loading = none)
  (turn : (s.nextLoad.map (·.id)) = some k) (host : field q.packet 0x38 1 ≠ 1)
include ready idle turn host

theorem loadImage_read (whole : bs.length = field q.packet 0x28 8) :
    Answers (.loadImage k (.data bs)) s fun u => u.loading = some (k, bs) ∧ u.lastLoadPort = q.port ∧ u.regs = s.regs ∧ u.cores = s.cores ∧
      u.images = s.images ∧ u.ports = s.ports := by
  refine answers_commit { s.claimBegun k with loading := some (k, bs), lastLoadPort := q.port } ?_ ⟨rfl, rfl, rfl, rfl, rfl, rfl⟩
  show execLoadImage k (.data bs) s = _
  simp only [execLoadImage, ready, idle, turn, pkArg, Nat.reduceAdd, host, whole, Option.isSome_none, Bool.false_eq_true, ne_eq, not_true,
    or_self, if_false, if_true]
  rfl

theorem loadImage_unread (part : bs.length ≠ field q.packet 0x28 8) :
    Answers (.loadImage k (.data bs)) s fun u => u.loading = none ∧ Steady s u q.packet ∧ Answered s u q 0x22 0x0008 [] := by
  have before := before_of_tells (.refl s) (claim_of_cmdReady ready)
  obtain ⟨images, cores⟩ := before.steady rfl 0x22 0x0008 []
  refine answers_commit { s.finalReply k 0x22 0x0008 [] with lastLoadPort := q.port } ?_
    ⟨?_, ⟨images, cores⟩, answered_congr (before.answered 0x22 0x0008 []) rfl rfl⟩
  · show execLoadImage k (.data bs) s = _
    simp only [execLoadImage, ready, idle, turn, pkArg, Nat.reduceAdd, host, part, Option.isSome_none, Bool.false_eq_true, ne_eq, not_true,
      or_self, if_false]
    rfl
  · exact (congrArg State.loading (replies_finalReply s k 0x22 0x0008 []).rest :).trans idle

end Load

/-! ADMISSION (R58-R62, R72, R85) -/

/-- The state in which an image that has been read is judged. -/
def loadTaken (s : State) : State := { s with loading := none }

theorem Replies.loading {s u : State} (h : Replies s u) : u.loading = s.loading := (congrArg State.loading h.rest :)

theorem admission_refuses {s : State} {k : Nat} {q : Claimed} {bs : List Byte} (read : s.loading = some (k, bs)) (claim : s.claim? k = some q)
    {e : Refuse} (refused : (loadTaken s).judgeImage bs = .error e) :
    Answers .admission s fun u => u.loading = none ∧ Steady s u q.packet ∧ Answered s u q e.status (0x0100 + e.check) [] ∧
      Wrote s u q.port (field q.packet 0x30 8) e.bytes false := by
  have told := tells_hostWrite (loadTaken s) q.port (field q.packet 0x30 8) e.bytes false
  have before : Before s ((loadTaken s).hostWrite q.port (field q.packet 0x30 8) e.bytes false) k q :=
    ⟨⟨loadTaken s, rfl, rfl, rfl, rfl, told⟩, claim⟩
  have claim' : (loadTaken s).claim? k = some q := claim
  refine answers_commit (((loadTaken s).hostWrite q.port (field q.packet 0x30 8) e.bytes false).finalReply k e.status (0x0100 + e.check) []) ?_
    ⟨(replies_finalReply ..).loading.trans told.proceeds.toReplies.loading, before.steady told.proceeds.images .., before.answered ..,
      fun up d0 => wrote_record (loadTaken s) q.port _ _ false k _ _ _ up d0⟩
  show execAdmission s = _
  unfold execAdmission
  rw [read]
  dsimp only
  rw [← loadTaken, claim']
  dsimp only
  rw [refused]
  rfl

/-- The slot's generation at an admission, which is never 0 (R458). -/
def nextGen (s : State) (slot : Nat) : Nat := if 0xFF_FFFF < tabGet 0 s.gens slot + 1 then 1 else tabGet 0 s.gens slot + 1

theorem nextGen_pos (s : State) (slot : Nat) : 1 ≤ nextGen s slot := by
  unfold nextGen
  split <;> omega

/-- The image that an admission enters. -/
def admittedImage (s : State) (slot : Nat) (port : Port) (im : Image) (t : Taking) : Image :=
  { s.tables im t.near with handle := nextGen s slot * 16 + slot, owner := some port }

/-- The state with its handle given, its whole quads taken and its clusters powered. -/
def madeReady (s : State) (slot : Nat) (im : Image) : State :=
  let wide := (im.regions.filter fun r => r.tier == 0 && bit r.attrs 1).flatMap (·.pages)
  ({ s with gens := tabIns s.gens slot (nextGen s slot), ilv := insertAll s.ilv wide } : State).forAll im.coreClusters fun s k =>
    s.setFld (aGOV_SET k) GOV_SET.GATE 0

theorem settled_madeReady (s : State) (slot : Nat) (im : Image) : Settled s (madeReady s slot im) := by
  have given : Settled s { s with
      gens := tabIns s.gens slot (nextGen s slot)
      ilv := insertAll s.ilv ((im.regions.filter fun r => r.tier == 0 && bit r.attrs 1).flatMap (·.pages)) } := ⟨⟨rfl, rfl, rfl⟩, rfl⟩
  exact given.trans (settled_forAll _ _ _ fun _ _ _ => settled_setFld ..)

theorem stands_install (s : State) (slot : Nat) (port : Port) (im : Image) (t : Taking) :
    Stands ((madeReady s slot (admittedImage s slot port im t)).setImage slot (some (admittedImage s slot port im t)))
      (s.install slot port im t).1 :=
  stands_andThen (stands_andThen (((settled_putControl ..).trans (settled_forAll _ _ _ fun _ _ _ => settled_putHandlers ..)).toStands.trans
      (stands_putTables ..)) fun _ => stands_eachMem _ _ _ fun _ _ _ => stands_fillRegion ..)
    fun _ => stands_eachMem _ _ _ fun _ _ _ => stands_fillCore ..

section Install
variable (s : State) (slot : Slot) (port : Port) (im : Image) (t : Taking)

theorem install_loading : (s.install slot port im t).1.loading = s.loading :=
  (stands_install s slot port im t).loading.trans ((State.setImage_loading ..).trans (settled_madeReady ..).loading)

theorem install_image : (s.install slot port im t).1.image slot = some (admittedImage s slot port im t) :=
  ((stands_install s slot port im t).image slot).trans (State.image_setImage_self _ _ _ slot.isLt)

theorem install_others {x : Slot} (h : x ≠ slot) : (s.install slot port im t).1.image x = s.image x :=
  ((stands_install s slot port im t).image x).trans
    ((State.image_setImage_ne _ _ fun e => h (Fin.ext e)).trans ((settled_madeReady ..).toStands.image x))

end Install

/-- The slot that an admission takes (R58). -/
theorem lowest_free {s : State} {slot : Slot} (below : ∀ x : Slot, x < slot → (s.image x).isSome = true) (free : s.image slot = none) :
    ((List.range 16).find? fun i => (s.image i).isNone) = some slot.val := by
  refine List.find?_range_eq_some.2 ⟨by simp [free], by simp, fun j hj => ?_⟩
  have used := below ⟨j, Nat.lt_trans hj slot.isLt⟩ hj
  simpa [Option.isSome_iff_ne_none] using used

/-- The answer to an admission: its bounds record, the handle that LAST names on the ring, and the final reply (R61, R85, R460). -/
def admitted (s : State) (k : Nat) (q : Claimed) (im : Image) : State :=
  ((s.hostWrite q.port (field q.packet 0x30 8) (boundsRecord im.handle im.bytes (s.boundsNow im)) false).modRing q.port q.ring fun r =>
    { r with last := some im.handle }).finalReply k 0 0 (toBytes 4 im.handle)

theorem replies_admitted (s : State) (k : Nat) (q : Claimed) (im : Image) : ∃ t, Replies s t ∧ Replies (unclaimed t k) (admitted s k q im) :=
  ⟨_, (tells_hostWrite ..).proceeds.toReplies.trans (proceeds_modRing ..).toReplies, replies_finalReply ..⟩

theorem exec_admission {s : State} {k : Nat} {q : Claimed} {bs : List Byte} (read : s.loading = some (k, bs)) (claim : s.claim? k = some q)
    {im : Image} {t : Taking} {slot : Slot} (passed : (loadTaken s).judgeImage bs = .ok (im, t))
    (below : ∀ x : Slot, x < slot → (s.image x).isSome = true) (free : s.image slot = none) :
    exec .admission s = s.doneMem (andThen ((loadTaken s).install slot q.port im t) fun u =>
      (admitted u k q (admittedImage (loadTaken s) slot q.port im t), .none)) := by
  have claim' : (loadTaken s).claim? k = some q := claim
  have lowest : ((List.range 16).find? fun i => ((loadTaken s).image i).isNone) = some slot.val := lowest_free (s := loadTaken s) below free
  have entered := install_image (loadTaken s) slot q.port im t
  show execAdmission s = _
  unfold execAdmission
  rw [read]
  dsimp only
  rw [← loadTaken, claim']
  dsimp only
  rw [passed]
  dsimp only
  rw [lowest]
  simp only [andThen, entered]
  rfl

theorem admission_admits {s : State} {k : Nat} {q : Claimed} {bs : List Byte} (read : s.loading = some (k, bs)) (claim : s.claim? k = some q)
    {im : Image} {t : Taking} {slot : Slot} (passed : (loadTaken s).judgeImage bs = .ok (im, t))
    (below : ∀ x : Slot, x < slot → (s.image x).isSome = true) (free : s.image slot = none) :
    ∃ u, exec .admission s = .next u ∧ u.pending = s.pending ∧ u.loading = none ∧ (∀ c ∈ u.claimed, c.id ≠ k) ∧
      (∀ x : Slot, x ≠ slot → u.image x = s.image x) ∧ u.image slot = some (admittedImage (loadTaken s) slot q.port im t) := by
  refine ⟨_, exec_admission read claim passed below free, ?_⟩
  obtain ⟨r, told, replied⟩ := replies_admitted ((loadTaken s).install slot q.port im t).1 k q (admittedImage (loadTaken s) slot q.port im t)
  simp -implicitDefEqProofs only [State.image_commitMem, State.commitMem_pending, State.commitMem_loading, State.commitMem_claimed, andThen_fst]
  have image : ∀ x, (admitted ((loadTaken s).install slot q.port im t).1 k q (admittedImage (loadTaken s) slot q.port im t)).image x =
      ((loadTaken s).install slot q.port im t).1.image x := fun x => (replied.image x).trans (told.image x)
  refine ⟨trivial, replied.loading.trans (told.loading.trans (install_loading ..)), fun c hc => ?_,
    fun x hx => (image x).trans (install_others _ _ _ _ _ hx), (image slot).trans (install_image ..)⟩
  rw [replied.claimed] at hc
  exact not_mem_unclaimed r k c hc

/-! UNLOAD (R58, R61, R467) -/

/-- An entry left of a table has a value that was left. -/
theorem of_tabFind_filter {α : Type} {p : Nat × α → Bool} {t : Tab α} {i : Nat} {v : α} (h : tabFind (t.filter p) i = some v) : p (i, v) = true := by
  induction t with
  | nil => simp [tabFind] at h
  | cons e t ih =>
    rw [List.filter_cons] at h
    split at h
    · rename_i kept
      rw [tabFind] at h
      split at h
      · rename_i at_
        rw [← at_, ← Option.some.inj h]
        exact kept
      · exact ih h
    · exact ih h

/-- In a slot nothing is left of an image: no page is its, and no message. -/
structure Vacant (u : State) (slot : Slot) : Prop where
  image : u.image slot = none
  owner : ∀ g, u.ownerOf g ≠ 16 + slot
  msgs : ∀ m ∈ u.msgs, m.slot ≠ slot

theorem ownerOf_congr {s u : State} (h : u.owner = s.owner) (g : Nat) : u.ownerOf g = s.ownerOf g := by
  rw [State.ownerOf, State.ownerOf, h]

theorem Vacant.congr {s u : State} {slot : Slot} (h : Vacant s slot) (images : u.images = s.images) (owner : u.owner = s.owner)
    (msgs : u.msgs = s.msgs) : Vacant u slot := by
  refine ⟨?_, fun g => ownerOf_congr owner g ▸ h.owner g, fun m hm => h.msgs m (msgs ▸ hm)⟩
  rw [State.image, images]
  exact h.image

/-- With its entries taken from the table of owners, no page is a slot's (R90, R92). -/
theorem ownerOf_of_filter {u : State} {t : Tab Nat} {p : Nat × Nat → Bool} {o : Nat} (h : u.owner = t.filter p) (gone : ∀ x, p x = true → x.2 ≠ o)
    (image : 16 ≤ o) (g : Nat) : u.ownerOf g ≠ o := by
  unfold State.ownerOf
  rw [h]
  split
  · split <;> omega
  · rw [tabGet]
    cases found : tabFind (t.filter p) g with
    | none =>
      show 0 ≠ o
      omega
    | some v => exact gone (g, v) (of_tabFind_filter found)

/-- An image's slot is freed with all it owned; the other slots stand. -/
theorem free_vacates (s : State) (slot : Slot) (im : Image) :
    Vacant (s.free_ slot im) slot ∧ ∀ x : Slot, x ≠ slot → (s.free_ slot im).image x = s.image x := by
  unfold State.free_
  extract_lets mine given swept cleared quiet src emptied
  have toCleared : Settled given cleared := (settled_modDeep ..).trans (settled_clearControl ..)
  have toEmptied : Settled quiet emptied := settled_forAll _ _ _ fun _ _ _ =>
    (settled_forAll _ _ _ fun _ _ _ => settled_setReg ..).trans (settled_setCore ..)
  have images : emptied.images = s.images := toEmptied.images.trans toCleared.images
  have owner : (emptied.setImage slot none).owner = s.owner.filter fun x => !mine x.2 && !im.ptBlocks.contains x.1 :=
    (State.setImage_owner ..).trans (toEmptied.owner.trans toCleared.owner)
  refine ⟨⟨State.image_setImage_self _ _ _ slot.isLt, ownerOf_of_filter owner (fun x hx => ?_) (Nat.le_add_right 16 slot), fun m hm => ?_⟩,
    fun x hx => ?_⟩
  · simpa [mine] using (Bool.and_eq_true_iff.1 hx).1
  · rw [State.setImage_msgs, toEmptied.msgs] at hm
    simpa using (List.mem_filter.1 hm).2
  · rw [State.image_setImage_ne _ _ fun e => hx (Fin.ext e), State.image, images, ← State.image]

section Unload
variable {s : State} {k : Nat} {q : Claimed} {slot : Slot} {im : Image} (ready : s.cmdReady k 0x0013 = some q)
  (named : s.byHandle (field q.packet 8 4) = some (slot, im))
include ready named

theorem unload_refused (busy : im.state ≠ .loaded) :
    Answers (.unload k) s fun u => Steady s u q.packet ∧ Answered s u q 0x10 0x0006 [] := by
  refine answers_reply (claim_of_cmdReady ready) 0x10 0x0006 ?_
  rw [exec, execUnload, onImage_of_ready ready named, if_pos busy]
  rfl

theorem unload_frees (loaded : im.state = .loaded) :
    Answers (.unload k) s fun u => u.image slot = none ∧ (∀ x : Slot, x ≠ slot → u.image x = s.image x) ∧ (∀ g, u.ownerOf g ≠ 16 + slot) ∧
      (∀ c ∈ u.claimed, c.id ≠ q.id) ∧ ∀ m ∈ u.msgs, m.slot ≠ slot := by
  obtain ⟨vacant, others⟩ := free_vacates s slot im
  have left := settled_afterUnload (s.free_ slot im) im
  have replied := replies_finalReply ((s.free_ slot im).afterUnload im) k 0 0 []
  have vacant' : Vacant (((s.free_ slot im).afterUnload im).finalReply k 0 0 []) slot :=
    (vacant.congr left.images left.owner left.msgs).congr replied.images (congrArg State.owner replied.rest :) (congrArg State.msgs replied.rest :)
  refine answers_commit (((s.free_ slot im).afterUnload im).finalReply k 0 0 []) ?_
    ⟨vacant'.image, fun x hx => (replied.image x).trans ((left.toStands.image x).trans (others x hx)), vacant'.owner, fun c hc => ?_, vacant'.msgs⟩
  · rw [exec, execUnload, onImage_of_ready ready named, if_neg (not_not.2 loaded)]
    rfl
  · rw [claim_id (claim_of_cmdReady ready)]
    exact (not_claimed_finalReply _ k 0 0 [] c hc).1

end Unload

theorem handle_admittedImage (s : State) (slot : Slot) (port : Port) (im : Image) (t : Taking) :
    (admittedImage s slot port im t).handle % 16 = slot ∧ 16 ≤ (admittedImage s slot port im t).handle := by
  have := nextGen_pos s slot
  have := slot.isLt
  simp only [admittedImage]
  omega

/-- Settles O43: each clause is the case of its command. -/
theorem imagesLoadedAndUnloaded : Obligations.ImagesLoadedAndUnloaded := by
  refine ⟨fun s k q bs ready idle turn host => ⟨loadImage_read ready idle turn host, loadImage_unread ready idle turn host⟩,
    fun s k q bs read claim => ⟨fun e refused => admission_refuses read claim refused, fun im t slot passed below free => ?_⟩,
    fun s k q slot im ready named => ⟨unload_refused ready named, unload_frees ready named⟩⟩
  obtain ⟨u, run, pending, loading, answered, others, entered⟩ := admission_admits read claim passed below free
  have ⟨slot_, ge⟩ := handle_admittedImage (loadTaken s) slot q.port im t
  exact ⟨u, run, pending, loading, answered, others, _, entered, rfl, slot_, ge, rfl, rfl⟩

end Sys2Proof.Proofs
end

section
/-! SUPPORT. Memory keeps its canonical form over every step (R89, R90). -/

namespace Sys2Proof.Proofs
open Sys2Proof.Machine Sys2Proof.Claims

/-- Settles O58: a step is `exec` of the front command or idles, and every command's answer keeps memory in its form. -/
theorem stepKeepsMemoryForm : Obligations.StepKeepsMemoryForm := by
  intro s u formed stepped
  rw [step.eq_def] at stepped
  split at stepped
  case h_1 =>
    obtain rfl : s = u := Host.Outcome.next.inj stepped
    exact formed
  case h_2 c rest front =>
    obtain ⟨v, answered, keeps⟩ := exec_answers c { s with pending := rest }
    obtain rfl : v = u := Host.Outcome.next.inj (answered.symm.trans stepped)
    exact keeps.wf formed

end Sys2Proof.Proofs
end

section
/-! SUPPORT. Loads, stores and atomics set out for their homes (R119-R122, R144, R158-R162). -/

namespace Sys2Proof.Proofs
open Sys2Proof.Machine Sys2Proof.Claims

/-! What an instruction's body finds, and what its command leads to -/

/-- What the body of an issued instruction finds: of its thread less what has been fetched and the wait that has passed, all else as it was
beside the sequencing. -/
structure Finds (s v : State) (c : CoreId) (t : Thr) : Prop where
  rest : { v with cores := s.cores } = s
  thr : v.thr c t = found (s.thr c t)
  apart : Apart s v c t

theorem recored_modCore (s : State) (c : Nat) (f : Core → Core) (q : Tab Core) : { s.modCore c f with cores := q } = { s with cores := q } := rfl

theorem recored_modThr (s : State) (c : Nat) (t : Thr) (f : Thread → Thread) (q : Tab Core) :
    { s.modThr c t f with cores := q } = { s with cores := q } := rfl

theorem finds_atBody (s : State) (c : CoreId) (t : Thr) : Finds s ((s.entered c t).atBody c t) c t := by
  refine ⟨?_, thr_atBody s c t, (Still.atBody s c t).apart⟩
  rw [State.atBody, recored_modCore, recored_modThr, State.entered]
  split
  · rw [recored_modCore, recored_modThr]
  · rw [recored_modThr]

theorem Finds.cores_only {s v : State} {c : CoreId} {t : Thr} (h : Finds s v c t) : v = { s with cores := v.cores } := by
  conv_rhs => rw [← h.rest]

theorem Finds.reg {s v : State} {c : CoreId} {t : Thr} (h : Finds s v c t) (a : Nat) : v.reg a = s.reg a := by
  rw [h.cores_only]; rfl

theorem Finds.fld {s v : State} {c : CoreId} {t : Thr} (h : Finds s v c t) (a : Nat) (f : Field) : v.fld a f = s.fld a f := by
  rw [State.fld, State.fld, h.reg]

theorem Finds.flag {s v : State} {c : CoreId} {t : Thr} (h : Finds s v c t) (a : Nat) (f : Field) : v.flag a f = s.flag a f := by
  rw [State.flag, State.flag, h.fld]

theorem Finds.tlb {s v : State} {c : CoreId} {t : Thr} (h : Finds s v c t) : (v.core c).tlb = (s.core c).tlb :=
  (congrArg Core.tlb h.apart.core :)

theorem Finds.dcache {s v : State} {c : CoreId} {t : Thr} (h : Finds s v c t) : (v.core c).dcache = (s.core c).dcache :=
  (congrArg Core.dcache h.apart.core :)

theorem Finds.ilv {s v : State} {c : CoreId} {t : Thr} (h : Finds s v c t) : v.ilv = s.ilv := (congrArg State.ilv h.rest :)

theorem Finds.txns {s v : State} {c : CoreId} {t : Thr} (h : Finds s v c t) : v.txns = s.txns := (congrArg State.txns h.rest :)

theorem Finds.nextId {s v : State} {c : CoreId} {t : Thr} (h : Finds s v c t) : v.nextId = s.nextId := (congrArg State.nextId h.rest :)

theorem Finds.resolve {s v : State} {c : CoreId} {t : Thr} (h : Finds s v c t) (va : Nat) (fetch write : Bool) :
    v.resolve c va fetch write = s.resolve c va fetch write := by
  simp only [State.resolve, State.handleAccess, h.flag, h.reg, h.tlb]

theorem Finds.dcOn {s v : State} {c : CoreId} {t : Thr} (h : Finds s v c t) : v.dcOn c = s.dcOn c := h.flag ..

theorem Finds.dirtyAt {s v : State} {c : CoreId} {t : Thr} (h : Finds s v c t) (as : List Nat) : v.dirtyAt c as = s.dirtyAt c as := by
  simp only [State.dirtyAt, h.dcOn, h.dcache, State.dcDis, h.fld]

theorem Finds.ctrlDenied {s v : State} {c : CoreId} {t : Thr} (h : Finds s v c t) (o : Nat) (write : Bool) (size : Nat) (w : Word) :
    v.ctrlDenied c t o write size w = s.ctrlDenied c t o write size w := by
  have super : (v.thr c t).super = (s.thr c t).super := by rw [h.thr]; rfl
  have bad : v.handlerBad c o w = s.handlerBad c o w := by rw [h.cores_only]; rfl
  simp only [State.ctrlDenied, super, bad, h.fld]

/-- An access that its home takes is one that it takes of the body. -/
theorem Finds.homeCheck {s v : State} {c : CoreId} {t : Thr} (h : Finds s v c t) {ea pa size : Nat} {write atomic : Bool} {op : Nat} {w : Word}
    (taken : s.homeCheck c t ea pa size write atomic op w = none) : v.homeCheck c t ea pa size write atomic op w = none := by
  unfold State.homeCheck at taken ⊢
  rw [h.ilv]
  simp only [h.ctrlDenied]
  split
  case h_1 home =>
    simp only [home] at taken
    split at taken
    · cases taken
    · rename_i allowed
      rw [if_neg allowed]
  case h_2 home =>
    simp only [home] at taken
    split at taken
    · cases taken
    · rename_i allowed
      rw [if_neg allowed]
  case h_3 home => simp [home] at taken
  case h_4 => rfl

/-- A command's answer keeps memory and the queue as the state before it has them. -/
theorem commit_congr {s r : State} (pending : r.pending = s.pending) (grade : r.grade = s.grade) (mem : r.mem = s.mem)
    (poison : r.poison = s.poison) (u : State) : s.commit u = r.commit u := by
  unfold State.commit
  rw [pending, grade, mem, poison]

/-- An instruction that issues, and whose body leads to a state beside the sequencing. -/
theorem leads {i : Instr} {s s' : State} {c : CoreId} {t : Thr} {w : Word} {regs : List Nat} (h : Issues s c t w regs)
    {mine : Word → Bool} (hm : mine w = true) {irregular : Thread → Option Nat} (hi : irregular (s.thr c t) = none)
    {body : Nat → State → State × Res} {r : Res} (hr : r = .now ∨ r = .due ∨ ∃ l, r = .launched l)
    (quiet : s'.pending = s.pending ∧ s'.grade = s.grade ∧ s'.mem = s.mem ∧ s'.poison = s.poison)
    (hb : ∀ v, Finds s v c t → ∃ v', body ((s.core c).nextKey + 1) v = (v', r) ∧ Stays (s.thr c t) (v'.thr c t) ∧
      (v'.thr c t).st = (s.thr c t).st ∧ besides (v'.thr c t) = besides (s'.thr c t) ∧ Apart s' v' c t)
    (he : exec i s = s.done (s.issue c t w mine irregular regs body)) : Leads i s s' c t := by
  obtain ⟨v', ran, stays, st, thr, apart⟩ := hb _ (finds_atBody s c t)
  have still := issue_still h hm hi ran hr (by rw [st, h.running]; decide)
  obtain ⟨pending, grade, mem, poison⟩ := quiet
  refine ⟨_, he.trans (s.done_eq _), still.thr.trans thr, ?_, issue_pc h hm hi ran hr stays⟩
  rw [commit_congr pending grade mem poison]
  exact (apart.trans still.apart).commit

/-- A thread's change leaves what is apart from it, seen from behind it too. -/
theorem apart_unmodThr (s : State) (c : CoreId) (t : Thr) (f : Thread → Thread) : Apart (s.modThr c t f) s c t := by
  refine ⟨rfl, fun x hx => (s.core_modThr_ne t f hx).symm, ?_, fun x hx => (s.thr_modThr_ne f fun h => hx h.2).symm, fun _ _ => rfl,
    List.prefix_refl _⟩
  rw [State.core_modThr_self]; rfl

/-- One thread changed on both sides. -/
theorem apart_modThr_both {s v : State} {c : CoreId} {t : Thr} (h : Apart s v c t) (f g : Thread → Thread) :
    Apart (s.modThr c t f) (v.modThr c t g) c t := ((apart_unmodThr s c t f).trans h).trans (Apart.modThr ..)

/-- One access sent on both sides. -/
theorem apart_send_both {s v : State} {c : CoreId} {t : Thr} (h : Apart s v c t) (ids : v.nextId = s.nextId) (src : Source) (addr : Nat)
    (op : MemOp) (p : Purpose) (overlay : List (Nat × Byte)) (vpn : Option Nat) :
    Apart (sent s src addr op p overlay vpn) (v.send src addr op p overlay vpn) c t := by
  refine ⟨?_, h.cores, h.core, h.threads, h.regs, h.sync⟩
  have rest := h.rest
  have txns : v.txns = s.txns := (congrArg State.txns rest :)
  have ilv : v.ilv = s.ilv := (congrArg State.ilv rest :)
  show { elsewhere v with txns := v.txns ++ [(⟨v.nextId, src, homeOf v.ilv addr, addr, op, p, .sent, [], [], false, overlay, vpn⟩ : Txn)] } = _
  rw [rest, txns, ilv, ids]
  rfl

/-! Addresses -/

/-- Sign extension of 24 bits as the bit vector's own. -/
theorem sext24_eq (k : Nat) : sext 24 k = (BitVec.ofNat 24 k).toInt := by
  unfold sext
  rw [BitVec.toInt_eq_toNat_cond, BitVec.toNat_ofNat]
  split <;> split <;> omega

theorem off_eq (th : Thread) (w : Word) :
    th.off w = (BitVec.ofNat 24 (if mPM w then (th.readP (mPsel w)).toNat % 2 ^ 24 else mOff w)).toInt := sext24_eq _

theorem found_stepA (th : Thread) (w : Word) : (found th).stepA w = found (th.stepA w) := by
  unfold Thread.stepA Thread.writeA
  split <;> rfl

theorem besides_stepA (th : Thread) (w : Word) : besides (th.stepA w) = (besides th).stepA w := by
  unfold Thread.stepA Thread.writeA
  split <;> rfl

/-- A step of an address register leaves the place, the state and the parameter registers of its thread. -/
theorem stepA_leaves (th : Thread) (w : Word) :
    Stays th (th.stepA w) ∧ (th.stepA w).st = th.st ∧ (th.stepA w).tstatus = th.tstatus ∧ (th.stepA w).p = th.p := by
  unfold Thread.stepA Thread.writeA
  split <;> exact ⟨⟨rfl, rfl, rfl, rfl⟩, rfl, rfl, rfl⟩

theorem beside_stepped (w : Word) : Beside (stepped · w) := by
  refine ⟨fun th => ?_, fun th => ?_, fun th => ?_⟩ <;> unfold stepped <;> split
  · exact besides_stepA ..
  · rfl
  · exact (stepA_leaves th w).1
  · exact ⟨rfl, rfl, rfl, rfl⟩
  · exact (stepA_leaves th w).2.1
  · rfl

theorem tstatus_stepped (th : Thread) (w : Word) : (stepped th w).tstatus = th.tstatus := by
  unfold stepped
  split
  · exact (stepA_leaves th w).2.2.1
  · rfl

/-- What an instruction finds of its thread's registers. -/
theorem found_readReg (th : Thread) (r : Nat) : (found th).readReg r = th.readReg r := by
  unfold Thread.readReg found Thread.passGate Thread.unenter
  rfl

theorem found_readA (th : Thread) (i : Nat) : (found th).readA i = th.readA i := by
  unfold Thread.readA found Thread.passGate Thread.unenter
  rfl

theorem found_readP (th : Thread) (i : Nat) : (found th).readP i = th.readP i := by
  unfold Thread.readP found Thread.passGate Thread.unenter
  rfl

theorem found_off (th : Thread) (w : Word) : (found th).off w = th.off w := by
  rw [Thread.off, Thread.off, found_readP]

theorem accessing_found (th : Thread) (w : Word) : accessing (found th) w = found (accessing th w) := by
  unfold accessing
  split
  · exact found_stepA ..
  · rfl

theorem readP_accessing (th : Thread) (w : Word) (i : Nat) : (accessing th w).readP i = th.readP i := by
  unfold accessing
  split
  · rw [Thread.readP, Thread.readP, (stepA_leaves th w).2.2.2]
  · rfl

/-- The effective address as the access computes it (R134, R159). -/
theorem effective_eq (th : Thread) (w : Word) :
    (addrAdd ((accessing th w).readA (mAn w)) ((accessing th w).off w)).toNat = effective th w := by
  rw [off_eq, readP_accessing]
  rfl

/-! Loads and stores -/

/-- A memory instruction whose access its home takes makes that access (R159, R160). -/
theorem memAccess_reaches {s v : State} {c : CoreId} {t : Thr} (f : Finds s v c t) {w : Word} {n : Nat} {write : Bool} {pa : Nat} {cacheable : Bool}
    {vpn : Option Nat} (reach : Reaches s c t w n write pa cacheable vpn) (go : Thread → Nat → Bool → Option Nat → State → State × Res) :
    v.memAccess c t w n write 0 go =
      go (found (accessing (s.thr c t) w)) pa cacheable vpn (if write then v.modThr c t (stepped · w) else v) := by
  have th0 : (if mMode w = 2 then (v.thr c t).stepA w else v.thr c t) = found (accessing (s.thr c t) w) := by
    rw [f.thr]; exact accessing_found ..
  unfold State.memAccess
  dsimp only
  rw [th0, found_readA, found_off, effective_eq, if_neg (not_not.2 reach.aligned), f.resolve, reach.resolved]
  dsimp only
  rw [if_neg (by decide), found_readReg, f.homeCheck reach.taken]
  cases write <;> rfl

/-- A thread that owes a register and the step of another. -/
theorem beside_owes (w : Word) (key rt : Nat) : Beside fun th => (oweStepped th w key).owe rt key := by
  refine ⟨fun th => ?_, fun th => ?_, fun th => ?_⟩ <;> unfold oweStepped <;> split <;> first | rfl | exact ⟨rfl, rfl, rfl, rfl⟩

/-- A change of the thread on what the body finds is one on what it was. -/
theorem beside_found {f : Thread → Thread} (h : Beside f) (th : Thread) :
    Stays th (f (found th)) ∧ (f (found th)).st = th.st ∧ besides (f (found th)) = besides (f th) := by
  refine ⟨(stays_found th).trans (h.stays _), h.st _, ?_⟩
  rw [h.comm, h.comm, besides_found]

section Instruction
variable {s : State} {c : CoreId} {t : Thr} {w : Word} {pa : Nat} {cacheable : Bool} {vpn : Option Nat}

/-- An access sets out and its registers are owed under the instruction's key. -/
theorem leads_owing {i : Instr} {regs : List Nat} (h : Issues s c t w regs) {mine : Word → Bool} (hm : mine w = true)
    {irregular : Thread → Option Nat} (hi : irregular (s.thr c t) = none) {body : Nat → State → State × Res} {f : Thread → Thread} (hf : Beside f)
    {op : MemOp} {p : Purpose} {overlay : List (Nat × Byte)}
    (hb : ∀ v, Finds s v c t → body ((s.core c).nextKey + 1) v = ((v.send (.thread c t) pa op p overlay vpn).modThr c t f, .launched none))
    (he : exec i s = s.done (s.issue c t w mine irregular regs body)) :
    Leads i s ((sent s (.thread c t) pa op p overlay vpn).modThr c t f) c t := by
  refine leads h hm hi (.inr (.inr ⟨_, rfl⟩)) ⟨rfl, rfl, rfl, rfl⟩ (fun v fv => ⟨_, hb v fv, ?_⟩) he
  obtain ⟨stays, st, thr⟩ := beside_found hf (s.thr c t)
  have left : ((v.send (.thread c t) pa op p overlay vpn).modThr c t f).thr c t = f (found (s.thr c t)) := by
    rw [State.thr_modThr_self, State.thr_send, fv.thr]
  have right : ((sent s (.thread c t) pa op p overlay vpn).modThr c t f).thr c t = f (s.thr c t) := State.thr_modThr_self ..
  rw [left, right]
  exact ⟨stays, st, thr, apart_modThr_both (apart_send_both fv.apart fv.nextId ..) f f⟩

/-- An access of a thread that has changed sets out, and nothing is owed. -/
theorem leads_posted {i : Instr} {regs : List Nat} (h : Issues s c t w regs) {mine : Word → Bool} (hm : mine w = true)
    {irregular : Thread → Option Nat} (hi : irregular (s.thr c t) = none) {body : Nat → State → State × Res} {f : Thread → Thread} (hf : Beside f)
    {op : MemOp} {p : Purpose} {overlay : List (Nat × Byte)}
    (hb : ∀ v, Finds s v c t → body ((s.core c).nextKey + 1) v = ((v.modThr c t f).send (.thread c t) pa op p overlay vpn, .due))
    (he : exec i s = s.done (s.issue c t w mine irregular regs body)) :
    Leads i s (sent (s.modThr c t f) (.thread c t) pa op p overlay vpn) c t := by
  refine leads h hm hi (.inr (.inl rfl)) ⟨rfl, rfl, rfl, rfl⟩ (fun v fv => ⟨_, hb v fv, ?_⟩) he
  obtain ⟨stays, st, thr⟩ := beside_found hf (s.thr c t)
  have left : ((v.modThr c t f).send (.thread c t) pa op p overlay vpn).thr c t = f (found (s.thr c t)) := by
    rw [State.thr_send, State.thr_modThr_self, fv.thr]
  have right : (sent (s.modThr c t f) (.thread c t) pa op p overlay vpn).thr c t = f (s.thr c t) := State.thr_modThr_self ..
  rw [left, right]
  exact ⟨stays, st, thr, apart_send_both (apart_modThr_both fv.apart f f) fv.nextId ..⟩

/-- The address and the privilege that a store notes are those of its instruction. -/
theorem noted_stepped {v : State} (fv : Finds s v c t) :
    (((v.modThr c t (stepped · w)).thr c t).wordAddr, ((v.modThr c t (stepped · w)).thr c t).priv) = ((s.thr c t).wordAddr, (s.thr c t).priv) := by
  rw [State.thr_modThr_self, fv.thr, wordAddr_of ((stays_found (s.thr c t)).trans ((beside_stepped w).stays _)),
    priv_of (a := s.thr c t) (tstatus_stepped (found (s.thr c t)) w)]

theorem regular_of_kind {k : Nat} (kind : mKind w ≤ k) (mode : mMode w ≠ 3) : checks [(decide (k < mKind w) || mMode w == 3, 0x05)] = none := by
  simp [checks, mode, Nat.not_lt.2 kind]

theorem ld_leads (h : Issues s c t w (mRt w :: addrRegs w)) (mode : mMode w ≠ 3) (major : wMajor w = 0x20) (kind : mKind w ≤ 6)
    (reach : Reaches s c t w (kindSize (mKind w)) false pa cacheable vpn) (past : (cacheable && s.dcOn c) = false) :
    Leads (.ld c t w) s ((sent s (.thread c t) pa (.read (addrs pa (kindSize (mKind w))))
      (.load t ((s.core c).nextKey + 1) (mRt w) (mKind w)) [] vpn).modThr c t
        fun th => (oweStepped th w ((s.core c).nextKey + 1)).owe (mRt w) ((s.core c).nextKey + 1)) c t := by
  refine leads_owing h (mine := fun w => wMajor w == 0x20) (by simp [major])
    (irregular := fun _ => checks [(decide (6 < mKind w) || mMode w == 3, 0x05)]) (regular_of_kind kind mode)
    (beside_owes w _ _) (fun v fv => ?_) rfl
  rw [memAccess_reaches fv reach]
  dsimp only
  rw [if_neg Bool.false_ne_true, fv.dcOn, past]
  rfl

theorem ldu_leads (h : Issues s c t w (mRt w :: addrRegs w)) (mode : mMode w ≠ 3) (major : wMajor w = 0x22) (kind : mKind w ≤ 6)
    (reach : Reaches s c t w (kindSize (mKind w)) false pa cacheable vpn) :
    Leads (.ldu c t w) s ((sent s (.thread c t) pa (.read (addrs pa (kindSize (mKind w))))
      (.load t ((s.core c).nextKey + 1) (mRt w) (mKind w)) (s.dirtyAt c (addrs pa (kindSize (mKind w)))) vpn).modThr c t
        fun th => (oweStepped th w ((s.core c).nextKey + 1)).owe (mRt w) ((s.core c).nextKey + 1)) c t := by
  refine leads_owing h (mine := fun w => wMajor w == 0x22) (by simp [major])
    (irregular := fun _ => checks [(decide (6 < mKind w) || mMode w == 3, 0x05)]) (regular_of_kind kind mode)
    (beside_owes w _ _) (fun v fv => ?_) rfl
  rw [memAccess_reaches fv reach]
  dsimp only
  rw [if_neg Bool.false_ne_true, fv.dirtyAt]
  rfl

theorem st_leads (h : Issues s c t w (mRt w :: addrRegs w)) (mode : mMode w ≠ 3) (major : wMajor w = 0x21) (kind : mKind w ≤ 3)
    (reach : Reaches s c t w (kindSize (mKind w)) true pa cacheable vpn) (past : (cacheable && s.dcOn c) = false) :
    Leads (.st c t w) s (sent (s.modThr c t (stepped · w)) (.thread c t) pa
      (.write (runOf pa (toBytes (kindSize (mKind w)) ((accessing (s.thr c t) w).readReg (mRt w)).toNat)))
      (.stored t (some ((s.thr c t).wordAddr, (s.thr c t).priv))) [] vpn) c t := by
  refine leads_posted h (mine := fun w => wMajor w == 0x21) (by simp [major])
    (irregular := fun _ => checks [(decide (3 < mKind w) || mMode w == 3, 0x05)]) (regular_of_kind kind mode)
    (beside_stepped w) (fun v fv => ?_) rfl
  have bypass : (cacheable && (v.modThr c t (stepped · w)).dcOn c) = false := by rw [← past, ← fv.dcOn]; rfl
  rw [memAccess_reaches fv reach]
  rw [if_pos rfl, State.stBytes, bypass, if_neg Bool.false_ne_true, State.storeHome, noted_stepped fv, found_readReg]

theorem stu_leads (h : Issues s c t w (mRt w :: addrRegs w)) (mode : mMode w ≠ 3) (major : wMajor w = 0x23) (kind : mKind w ≤ 3)
    (reach : Reaches s c t w (kindSize (mKind w)) true pa cacheable vpn) (off : s.dcOn c = false) :
    Leads (.stu c t w) s (sent (s.modThr c t (stepped · w)) (.thread c t) pa
      (.write (runOf pa (toBytes (kindSize (mKind w)) ((accessing (s.thr c t) w).readReg (mRt w)).toNat)))
      (.stored t (some ((s.thr c t).wordAddr, (s.thr c t).priv))) [] vpn) c t := by
  refine leads_posted h (mine := fun w => wMajor w == 0x23) (by simp [major])
    (irregular := fun _ => checks [(decide (3 < mKind w) || mMode w == 3, 0x05)]) (regular_of_kind kind mode)
    (beside_stepped w) (fun v fv => ?_) rfl
  have bypass : (v.modThr c t (stepped · w)).dcOn c = false := by rw [← off, ← fv.dcOn]; rfl
  rw [memAccess_reaches fv reach]
  rw [if_pos rfl, State.stuBytes, bypass, if_neg Bool.false_ne_true, State.storeHome, noted_stepped fv, found_readReg]

end Instruction

/-- Settles O12: each instruction's body, on what it finds, sends its one access. -/
theorem accessesSetOut : Obligations.AccessesSetOut := fun _ _ _ _ _ _ _ issues mode =>
  ⟨ld_leads issues mode, ldu_leads issues mode, st_leads issues mode, stu_leads issues mode⟩

/-! Atomics -/

section Atomics
variable {s : State} {c : CoreId} {t : Thr} {w : Word} {pa : Nat} {cacheable : Bool} {vpn : Option Nat} {op : AtomicOp}

/-- The bytes that an atomic reads and writes (R162). -/
def atomicSize (w : Word) : Nat := if mMode w % 2 = 0 then 4 else 8

/-- The operation that an atomic sends: its operand and, of a compare and swap, its compare value (R119, R162). -/
def atomicSent (th : Thread) (w : Word) (op : AtomicOp) (returning : Bool) : MemOp :=
  .atomic op (atomicSize w) ((th.readReg (mRt w)).toNat % 2 ^ (8 * atomicSize w))
    (if mKind w = 7 then (th.readReg (mRt w + 1)).toNat % 2 ^ (8 * atomicSize w) else 0) returning

/-- The address of an atomic (R159, R162). -/
def atomicAddr (th : Thread) (w : Word) : Nat :=
  (th.readA (mAn w) + BitVec.ofInt 48 ((BitVec.ofNat 24 (if mPM w then (th.readP (mPsel w)).toNat % 2 ^ 24 else mOff w)).toInt)).toNat

theorem atomicIrregular_of_listed (noModifier : mMn w = 0) (listed : atomicOp (mKind w) (mMode w) = some op) (pair : mKind w = 7 → mRt w < 31) :
    atomicIrregular w = none := by
  have known : (atomicOp (mKind w) (mMode w)).isNone = false := by rw [listed]; rfl
  by_cases swap : mKind w = 7
  · have low : isD (mRt w) = true := by
      have := pair swap
      simp only [isD, decide_eq_true_eq]
      omega
    simp [atomicIrregular, checks, noModifier, known, low, Nat.ne_of_lt (pair swap)]
  · simp [atomicIrregular, checks, noModifier, known, swap]

/-- An atomic that its home takes sets out with its operation and operands (R119-R121, R162). -/
theorem atomicAccess_reaches {v : State} (f : Finds s v c t) (listed : atomicOp (mKind w) (mMode w) = some op)
    (aligned : atomicAddr (s.thr c t) w % atomicSize w = 0) (resolved : s.resolve c (atomicAddr (s.thr c t) w) false true = .ok pa cacheable vpn)
    (taken : s.homeCheck c t (atomicAddr (s.thr c t) w) pa (atomicSize w) true true (mKind w) 0 = none) (returning : Bool)
    (go : Nat → Option Nat → MemOp → Nat → State → State × Res) :
    v.atomicAccess c t w returning go = go pa vpn (atomicSent (s.thr c t) w op returning) (atomicSize w) v := by
  have ea : (addrAdd ((s.thr c t).readA (mAn w)) ((s.thr c t).off w)).toNat = atomicAddr (s.thr c t) w := by
    rw [off_eq]; rfl
  unfold State.atomicAccess
  simp only [f.thr, found_readA, found_off, found_readReg, ea]
  rw [show (if mMode w % 2 = 0 then 4 else 8) = atomicSize w from rfl, if_neg (not_not.2 aligned), f.resolve, resolved]
  dsimp only
  rw [f.homeCheck taken, listed]
  rfl

theorem beside_owe (rt key : Nat) : Beside (·.owe rt key) := ⟨fun _ => rfl, fun _ => ⟨rfl, rfl, rfl, rfl⟩, fun _ => rfl⟩

theorem atomr_leads (h : Issues s c t w (atomicRegs w)) (noModifier : mMn w = 0) (listed : atomicOp (mKind w) (mMode w) = some op)
    (pair : mKind w = 7 → mRt w < 31) (aligned : atomicAddr (s.thr c t) w % atomicSize w = 0)
    (resolved : s.resolve c (atomicAddr (s.thr c t) w) false true = .ok pa cacheable vpn)
    (taken : s.homeCheck c t (atomicAddr (s.thr c t) w) pa (atomicSize w) true true (mKind w) 0 = none) (major : wMajor w = 0x28) :
    Leads (.atomr c t w) s ((sent s (.thread c t) pa (atomicSent (s.thr c t) w op true)
      (.oldValue t ((s.core c).nextKey + 1) (mRt w) (atomicSize w) (decide (2 ≤ mMode w))) [] vpn).modThr c t
        (·.owe (mRt w) ((s.core c).nextKey + 1))) c t := by
  refine leads_owing h (mine := fun w => wMajor w == 0x28) (by simp [major]) (irregular := fun _ => atomicIrregular w)
    (atomicIrregular_of_listed noModifier listed pair) (beside_owe _ _) (fun v fv => ?_) rfl
  rw [atomicAccess_reaches fv listed aligned resolved taken]
  rfl

theorem atomp_leads (h : Issues s c t w (atomicRegs w)) (noModifier : mMn w = 0) (listed : atomicOp (mKind w) (mMode w) = some op)
    (pair : mKind w = 7 → mRt w < 31) (aligned : atomicAddr (s.thr c t) w % atomicSize w = 0)
    (resolved : s.resolve c (atomicAddr (s.thr c t) w) false true = .ok pa cacheable vpn)
    (taken : s.homeCheck c t (atomicAddr (s.thr c t) w) pa (atomicSize w) true true (mKind w) 0 = none) (major : wMajor w = 0x29) :
    Leads (.atomp c t w) s (sent s (.thread c t) pa (atomicSent (s.thr c t) w op false)
      (.stored t (some ((s.thr c t).wordAddr, (s.thr c t).priv))) [] vpn) c t := by
  refine leads h (mine := fun w => wMajor w == 0x29) (by simp [major]) (irregular := fun _ => atomicIrregular w)
    (atomicIrregular_of_listed noModifier listed pair) (.inr (.inl rfl)) ⟨rfl, rfl, rfl, rfl⟩
    (fun v fv => ⟨v.send (.thread c t) pa (atomicSent (s.thr c t) w op false)
      (.stored t (some ((s.thr c t).wordAddr, (s.thr c t).priv))) [] vpn, ?_, ?_⟩) rfl
  · have noted : (v.thr c t).wordAddr = (s.thr c t).wordAddr ∧ (v.thr c t).priv = (s.thr c t).priv := by
      rw [fv.thr]
      exact ⟨wordAddr_of (stays_found _), priv_of rfl⟩
    rw [atomicAccess_reaches fv listed aligned resolved taken, noted.1, noted.2]
  · rw [State.thr_send, fv.thr]
    exact ⟨stays_found _, rfl, besides_found _, apart_send_both fv.apart fv.nextId ..⟩

end Atomics

/-- Settles O13: an atomic's body, on what it finds, sends its operation, and a returning one owes its register. -/
theorem atomicsSetOut : Obligations.AtomicsSetOut := fun _ _ _ _ _ _ _ _ issues noModifier listed pair aligned resolved taken =>
  ⟨atomr_leads issues noModifier listed pair aligned resolved taken, atomp_leads issues noModifier listed pair aligned resolved taken⟩

end Sys2Proof.Proofs
end

section
/-! SUPPORT. NOP, MFENCE, MFS, MTS and the irregularity log's clear (R124, R182, R183, R188, R194, R214). -/

namespace Sys2Proof.Proofs
open Sys2Proof.Machine Sys2Proof.Claims

/-! Reads -/

section Reads
variable {s v : State} {c : CoreId} {t : Thr} (h : Finds s v c t)
include h

theorem Finds.grade : v.grade = s.grade := (congrArg State.grade h.rest :)

/-- What a body finds of its core's own registers (R214). -/
theorem Finds.coreRegs : (v.core c).dtbase = (s.core c).dtbase ∧ (v.core c).threadFault = (s.core c).threadFault ∧
    (v.core c).tspc = (s.core c).tspc ∧ (v.core c).tssp = (s.core c).tssp ∧ (v.core c).tsarg = (s.core c).tsarg ∧
    (v.core c).tstsb = (s.core c).tstsb ∧ (v.core c).tspriv = (s.core c).tspriv :=
  ⟨(congrArg Core.dtbase h.apart.core :), (congrArg Core.threadFault h.apart.core :), (congrArg Core.tspc h.apart.core :),
    (congrArg Core.tssp h.apart.core :), (congrArg Core.tsarg h.apart.core :), (congrArg Core.tstsb h.apart.core :),
    (congrArg Core.tspriv h.apart.core :)⟩

theorem Finds.st (x : Thr) : ((v.core c).thr[x]).st = ((s.core c).thr[x]).st := by
  by_cases here : x = t
  · subst here
    exact (congrArg Thread.st h.thr :)
  · exact (congrArg Thread.st (h.apart.threads x here) :)

theorem Finds.tstate : (v.core c).tstate = (s.core c).tstate := by
  have code (x : Thr) : ((v.core c).thr[x]).st.code = ((s.core c).thr[x]).st.code := congrArg TState.code (h.st x)
  have c0 := code 0
  have c1 := code 1
  have c2 := code 2
  have c3 := code 3
  unfold Core.tstate
  exact congrArg (BitVec.ofNat 64) (by rw [show (v.core c).thr[0].st.code = _ from c0, show (v.core c).thr[1].st.code = _ from c1,
    show (v.core c).thr[2].st.code = _ from c2, show (v.core c).thr[3].st.code = _ from c3]; rfl)

/-- A system register reads for a body as it did at issue (R183). -/
theorem Finds.sysRead (n : Nat) : v.sysRead c t n = s.sysRead c t n := by
  have thr : (v.core c).thr[t] = found (s.core c).thr[t] := h.thr
  obtain ⟨dtbase, fault, tspc, tssp, tsarg, tstsb, tspriv⟩ := h.coreRegs
  simp only [State.sysRead, thr, dtbase, fault, tspc, tssp, tsarg, tstsb, tspriv, h.tstate, h.reg, h.grade, found, Thread.passGate, Thread.unenter]

theorem Finds.outstanding : v.outstanding c t = s.outstanding c t := by
  rw [State.outstanding, State.outstanding, h.txns, h.thr]
  rfl

end Reads

/-- An instruction that issues, and whose body changes its thread alone by what it finds. -/
theorem yields_found {i : Instr} {s : State} {c : CoreId} {t : Thr} {w : Word} {regs : List Nat} (h : Issues s c t w regs)
    {mine : Word → Bool} (hm : mine w = true) {irregular : Thread → Option Nat} (hi : irregular (s.thr c t) = none)
    {body : Nat → State → State × Res} {f : Thread → Thread} (hf : Beside f) {r : Res} (hr : r = .now ∨ r = .due ∨ ∃ l, r = .launched l)
    (hb : ∀ v, Finds s v c t → ∃ v', body ((s.core c).nextKey + 1) v = (v', r) ∧ v'.thr c t = f (found (s.thr c t)) ∧ Apart v v' c t)
    (he : exec i s = s.done (s.issue c t w mine irregular regs body)) : Yields i s c t (f (s.thr c t)) := by
  obtain ⟨u, ran, thr, apart, place⟩ : Leads i s (s.modThr c t f) c t := by
    refine leads h hm hi hr ⟨rfl, rfl, rfl, rfl⟩ (fun v fv => ?_) he
    obtain ⟨v', ran, thr, apart⟩ := hb v fv
    obtain ⟨stays, st, beside⟩ := beside_found hf (s.thr c t)
    rw [State.thr_modThr_self]
    exact ⟨v', ran, thr ▸ stays, thr ▸ st, thr ▸ beside, ((apart_unmodThr s c t f).trans fv.apart).trans apart⟩
  rw [State.thr_modThr_self] at thr
  exact ⟨u, ran, thr, (Apart.modThr s c t f).trans apart, place⟩

section
variable {s : State} {c : CoreId} {t : Thr} {w : Word} (major : wMajor w = 0x50)
include major

theorem mine_of {fn : Nat} (function : xFn w = fn) : (wMajor w == 0x50 && xFn w == fn) = true := by simp [major, function]

theorem nop_yields (function : xFn w = 0x00) (noReg : xReg w = 0) (noOp : xOp w = 0) (h : Issues s c t w []) : Yields (.nop c t w) s c t (s.thr c t) :=
  yields h (mine := fun w => (wMajor w == 0x50 && xFn w == 0) || (undefinedWord w).isSome) (by simp [major, function])
    (irregular := fun _ => (undefinedWord w).orElse fun _ => checks [(xReg w != 0 || xOp w != 0, 0x03)])
    (by simp [undefinedWord, checks, major, function, noReg, noOp]) beside_id (.inl rfl) (does_none fun _ _ => rfl) rfl

theorem mfence_yields (function : xFn w = 0x01) (noReg : xReg w = 0) (noOp : xOp w = 0) (performed : s.outstanding c t = false)
    (h : Issues s c t w []) : Yields (.mfence c t w) s c t (s.thr c t) := by
  refine yields_found h (mine := fun w => wMajor w == 0x50 && xFn w == 1) (mine_of major function)
    (irregular := fun _ => checks [(xReg w != 0 || xOp w != 0, 0x03)]) (by simp [checks, noReg, noOp]) beside_id (.inl rfl)
    (fun v fv => ⟨v, ?_, fv.thr, .refl ..⟩) rfl
  rw [fv.outstanding, performed]
  rfl

/-- MFS of a register that is present, other than HSCD (R183). -/
theorem mfs_yields {n : Nat} {a : Word} (function : xFn w = 0x02) (named : xOp w = n) (low : n < 4096) (notHscd : n ≠ 0x112)
    (reads : s.sysRead c t n = some a) (h : Issues s c t w [xReg w]) : Yields (.mfs c t w) s c t ((s.thr c t).writeReg (xReg w) a) := by
  have op : xOp w % 4096 = n := by omega
  refine yields_found h (mine := fun w => wMajor w == 0x50 && xFn w == 2) (mine_of major function)
    (irregular := fun _ => checks [(xOp w / 4096 != 0, 0x03), ((s.sysRead c t (xOp w % 4096)).isNone, 0x0F)])
    (by rw [op, reads, named, Nat.div_eq_of_lt low]; rfl) (beside_writeReg (xReg w) (fun _ => a) fun _ => rfl) (.inr (.inl rfl))
    (fun v fv => ⟨v.modThr c t (·.writeReg (xReg w) a), ?_, ?_, .modThr ..⟩) rfl
  · simp only [op, if_neg notHscd, fv.sysRead, reads]
    rfl
  · rw [State.thr_modThr_self, fv.thr]

end

theorem found_st (th : Thread) : (found th).st = th.st := by
  unfold found Thread.passGate Thread.unenter
  rfl

theorem found_repcnt (th : Thread) : (found th).repcnt = th.repcnt := by
  unfold found Thread.passGate Thread.unenter
  rfl

/-! The countdown (R194) -/

/-- A thread whose countdown has run: it has fallen or stands, and its registers and its state stand. -/
structure RunDown (x y : Thread) : Prop where
  count : HSCD.COUNT.get y.hscd ≤ HSCD.COUNT.get x.hscd
  en : HSCD.EN.get y.hscd = HSCD.EN.get x.hscd
  regs : y.d = x.d ∧ y.a = x.a ∧ y.m = x.m
  st : y.st = x.st

theorem runDown_refl (x : Thread) : RunDown x x := ⟨Nat.le_refl _, rfl, ⟨rfl, rfl, rfl⟩, rfl⟩

theorem runDown_put {x : Thread} {n : Nat} (h : n < HSCD.COUNT.get x.hscd) : RunDown x { x with hscd := HSCD.COUNT.put x.hscd n } := by
  refine ⟨?_, ?_, ⟨rfl, rfl, rfl⟩, rfl⟩
  · rw [Field.get_put _ _ _ (by decide)]
    exact (Nat.mod_le _ _).trans h.le
  · rw [Field.get_put_apart _ _ _ _ (by decide) (by decide)]

theorem thr_interrupt (s : State) (c : Nat) (t : Thr) (vec : Nat) (h : (s.thr c t).st ≠ .stalled) :
    ((s.interrupt c t vec).thr c t) = { s.thr c t with ipend := (s.thr c t).ipend ||| BitVec.ofNat 64 (2 ^ (vec - 0x20)) } := by
  rw [State.interrupt, State.thr_modThr_self]
  dsimp only
  split
  · rw [Thread.wake, if_neg h]
  · rfl

theorem hscdTo_runsDown (s : State) (c : CoreId) (t : Thr) (n : Nat) (h : (s.thr c t).st ≠ .stalled) :
    RunDown (s.thr c t) ((s.hscdTo c t n).thr c t) ∧ ∀ x, x ≠ t → (s.hscdTo c t n).thr c x = s.thr c x := by
  unfold State.hscdTo
  dsimp only
  split
  · exact ⟨runDown_refl _, fun _ _ => rfl⟩
  · rename_i below
    have put := runDown_put (Nat.lt_of_not_le below)
    have others (x : Thr) (hx : x ≠ t) (f : Thread → Thread) (u : State) : (u.modThr c t f).thr c x = u.thr c x :=
      u.thr_modThr_ne f fun k => hx k.2
    split
    · rw [thr_interrupt _ _ _ _ (by rw [State.thr_modThr_self]; exact h), State.thr_modThr_self]
      exact ⟨⟨put.count, put.en, put.regs, put.st⟩, fun x hx => (others x hx ..).trans (others x hx ..)⟩
    · rw [State.thr_modThr_self]
      exact ⟨put, fun x hx => others x hx ..⟩

theorem hscdRuns_runsDown (s : State) (c : CoreId) (t : Thr) (h : (s.thr c t).st ≠ .stalled) :
    RunDown (s.thr c t) ((s.hscdRuns c t).thr c t) ∧ ∀ x, x ≠ t → (s.hscdRuns c t).thr c x = s.thr c x :=
  hscdTo_runsDown s.draw.2 c t _ h

theorem writeReg_hscd (th : Thread) (r : Nat) (a : Word) : (th.writeReg r a).hscd = th.hscd := by
  unfold Thread.writeReg
  split
  · rfl
  · split
    · rfl
    · split <;> rfl

/-- A register written leaves of two threads with the same registers the same ones. -/
theorem writeReg_regs {x y : Thread} (d : x.d = y.d) (a : x.a = y.a) (m : x.m = y.m) (r : Nat) (v : Word) :
    (x.writeReg r v).d = (y.writeReg r v).d ∧ (x.writeReg r v).a = (y.writeReg r v).a ∧ (x.writeReg r v).m = (y.writeReg r v).m := by
  unfold Thread.writeReg
  split
  · exact ⟨by simp only [d], a, m⟩
  · split
    · exact ⟨d, by simp only [a], m⟩
    · split
      · exact ⟨d, a, by simp only [m]⟩
      · exact ⟨d, a, m⟩

/-- MFS of HSCD reads the countdown as it has run by then (R194). -/
theorem mfs_hscd {s : State} {c : CoreId} {t : Thr} {w : Word} (major : wMajor w = 0x50) (function : xFn w = 0x02) (named : xOp w = 0x112)
    (h : Issues s c t w [xReg w]) : ∃ u, exec (.mfs c t w) s = .next u ∧ u.mem = s.mem ∧ (∀ x, x ≠ t → u.thr c x = s.thr c x) ∧
      ∃ x, RunDown (found (s.thr c t)) x ∧ besides (u.thr c t) = besides (x.writeReg (xReg w) x.hscd) := by
  have op : xOp w % 4096 = 0x112 := by omega
  have fv := finds_atBody s c t
  generalize hv : (s.entered c t).atBody c t = v at fv
  have running : (v.thr c t).st ≠ .stalled := by
    rw [fv.thr, found_st, h.running]
    decide
  obtain ⟨ran, others⟩ := hscdRuns_runsDown v c t running
  rw [fv.thr] at ran
  have st : (((v.hscdRuns c t).modThr c t (·.writeReg (xReg w) ((v.hscdRuns c t).thr c t).hscd)).thr c t).st ≠ .stalled := by
    rw [State.thr_modThr_self, st_writeReg, ran.st, found_st, h.running]
    decide
  have still := issue_still h (mine := fun w => wMajor w == 0x50 && xFn w == 2) (mine_of major function)
    (irregular := fun _ => checks [(xOp w / 4096 != 0, 0x03), ((s.sysRead c t (xOp w % 4096)).isNone, 0x0F)])
    (by rw [named]; rfl) (body := fun _ s =>
      let s := if xOp w % 4096 = 0x112 then s.hscdRuns c t else s
      let v := (s.sysRead c t (xOp w % 4096)).getD 0
      (s.modThr c t (·.writeReg (xReg w) v), .due)) (by rw [hv, op, if_pos rfl]; rfl) (.inr (.inl rfl)) st
  refine ⟨_, rfl, rfl, fun x hx => ?_, _, ran, ?_⟩
  · rw [State.thr_commit]
    exact (still.apart.threads x hx).trans ((State.thr_modThr_ne _ _ fun k => hx k.2).trans ((others x hx).trans (fv.apart.threads x hx)))
  · rw [State.thr_commit]
    exact still.thr.trans (by rw [State.thr_modThr_self])

/-- MFS of the registers of a list that it reads as listed (R183). -/
theorem mfs_listed {s : State} {c : CoreId} {t : Thr} {w : Word} (major : wMajor w = 0x50) {l : List (Nat × Word)}
    (numbers : (l.map (·.1)).all (fun n => decide (n < 4096 ∧ n ≠ 0x112)) = true) (reads : ∀ r ∈ l, s.sysRead c t r.1 = some r.2) :
    ∀ r ∈ l, xFn w = 0x02 → xOp w = r.1 → Issues s c t w [xReg w] → Yields (.mfs c t w) s c t ((s.thr c t).writeReg (xReg w) r.2) := by
  intro r mem function named h
  obtain ⟨low, notHscd⟩ := of_decide_eq_true (List.all_eq_true.1 numbers r.1 (List.mem_map_of_mem mem))
  exact mfs_yields major function named low notHscd (reads r mem) h

theorem systemReads : Claims.SystemReads := by
  intro s c t w major th q own shared
  refine ⟨nop_yields major, mfence_yields major, mfs_listed major rfl ?_, fun function named h => ?_⟩
  · simp only [own, shared, List.forall_mem_append, List.forall_mem_cons, List.not_mem_nil, false_imp_iff, implies_true, and_true]
    and_intros <;> rfl
  · obtain ⟨u, ran, mem, others, x, ⟨count, en, ⟨d, a, m⟩, -⟩, thr⟩ := mfs_hscd major function named h
    have hscd : (u.thr c t).hscd = x.hscd := (congrArg Thread.hscd thr :).trans (writeReg_hscd ..)
    obtain ⟨d, a, m⟩ := writeReg_regs (y := th) d a m (xReg w) x.hscd
    refine ⟨u, ran, mem, others, ?_⟩
    dsimp only
    rw [hscd]
    exact ⟨count, en, (congrArg Thread.d thr :).trans d, (congrArg Thread.a thr :).trans a, (congrArg Thread.m thr :).trans m⟩

/-! Writes: what comes after the instruction's loop-back -/

/-- Two threads that go on alike: their place, their loops, their replay and their repetition are the same (R170, R176). -/
structure Alike (x y : Thread) : Prop where
  pc : x.pc = y.pc
  lc : x.lc = y.lc
  ls : x.ls = y.ls
  le : x.le = y.le
  lstat : x.lstat = y.lstat
  rplstat : x.rplstat = y.rplstat
  repcnt : x.repcnt = y.repcnt

theorem alike_loopBack (n : Nat) {x y : Thread} (h : Alike x y) (pc : Addr) : Alike (loopBack n x pc) (loopBack n y pc) := by
  induction n generalizing x y with
  | zero => exact ⟨rfl, h.lc, h.ls, h.le, h.lstat, h.rplstat, h.repcnt⟩
  | succ n ih =>
    obtain ⟨here, lc, ls, le, lstat, rplstat, repcnt⟩ := h
    unfold loopBack
    simp only [lc, ls, le]
    generalize (if h : n < 3 then y.le[n] else 0) = last
    generalize (if h : n < 3 then y.lc[n] else 0) = count
    by_cases atEnd : pc = last
    · rw [if_pos atEnd, if_pos atEnd]
      by_cases more : 1 < count.toNat
      · rw [if_pos more, if_pos more]
        exact ⟨rfl, rfl, rfl, rfl, lstat, rplstat, repcnt⟩
      · rw [if_neg more, if_neg more]
        exact ih ⟨here, rfl, rfl, rfl, rfl, rplstat, repcnt⟩
    · rw [if_neg atEnd, if_neg atEnd]
      exact ⟨rfl, rfl, rfl, rfl, lstat, rplstat, repcnt⟩

theorem loops_rplstat (th : Thread) (r : Word) : Thread.loops { th with rplstat := r } = th.loops := rfl

/-- Past the last instruction of a replay its words are over and the place goes on as after any other (R176). -/
theorem advance_inReplay {th : Thread} (h : th.replaying = true) : th.advance =
    if RPLSTAT.IDX.get th.rplstat + 1 < RPLSTAT.LEN.get th.rplstat then
      { th with rplstat := RPLSTAT.IDX.put th.rplstat (RPLSTAT.IDX.get th.rplstat + 1) }
    else loopBack th.loops { th with rplstat := RPLSTAT.ACTIVE.put (RPLSTAT.IDX.put th.rplstat 0) 0 } th.pc := by
  rw [Thread.advance, if_pos h]
  dsimp only
  rw [loops_rplstat]

theorem advance_inLine {th : Thread} (h : th.replaying = false) : th.advance = loopBack th.loops th th.pc := by
  rw [Thread.advance, if_neg (by simp [h])]

theorem alike_advance {x y : Thread} (h : Alike x y) : Alike x.advance y.advance := by
  have replaying : x.replaying = y.replaying := by rw [Thread.replaying, Thread.replaying, h.rplstat]
  have loops : x.loops = y.loops := by rw [Thread.loops, Thread.loops, h.lstat]
  cases here : y.replaying with
  | false =>
    rw [advance_inLine (replaying.trans here), advance_inLine here, loops, h.pc]
    exact alike_loopBack _ h _
  | true =>
    rw [advance_inReplay (replaying.trans here), advance_inReplay here, loops, h.pc, h.rplstat]
    split
    · exact ⟨rfl, h.lc, h.ls, h.le, h.lstat, rfl, h.repcnt⟩
    · refine alike_loopBack _ ?_ _
      exact ⟨rfl, h.lc, h.ls, h.le, h.lstat, rfl, h.repcnt⟩

theorem Alike.trans {x y z : Thread} (h : Alike x y) (k : Alike y z) : Alike x z :=
  ⟨h.pc.trans k.pc, h.lc.trans k.lc, h.ls.trans k.ls, h.le.trans k.le, h.lstat.trans k.lstat, h.rplstat.trans k.rplstat, h.repcnt.trans k.repcnt⟩

theorem Alike.inStep {x y : Thread} (h : Alike x y) : InStep x y := ⟨h.pc, h.lc, h.lstat, h.rplstat⟩

theorem alike_stepTraps (th : Thread) (a : Addr) : Alike (th.stepTraps a) th := by
  unfold Thread.stepTraps
  dsimp only
  split
  · split <;> exact ⟨rfl, rfl, rfl, rfl, rfl, rfl, rfl⟩
  · split <;> exact ⟨rfl, rfl, rfl, rfl, rfl, rfl, rfl⟩

theorem alike_flagDown (th : Thread) (n : Nat) : Alike (th.flagDown n) th := by
  unfold Thread.flagDown Thread.wake
  dsimp only
  split
  · split <;> exact ⟨rfl, rfl, rfl, rfl, rfl, rfl, rfl⟩
  · exact ⟨rfl, rfl, rfl, rfl, rfl, rfl, rfl⟩

theorem alike_fire (s : State) (c : CoreId) (t : Thr) (n : Nat) (sc : Word) (pc : Addr) (pr : Nat) :
    Alike ((s.fire c t n sc pc pr).thr c t) (s.thr c t) := by
  unfold State.fire
  split
  · exact ⟨rfl, rfl, rfl, rfl, rfl, rfl, rfl⟩
  · split
    · rw [State.thr_modThr_self]
      exact alike_flagDown ..
    · split <;> exact ⟨rfl, rfl, rfl, rfl, rfl, rfl, rfl⟩

theorem alike_retire {x y : Thread} (same : Alike x y) (once : y.repeating = false) : Alike x.retire y.advance := by
  have once' : x.repeating = false := by rw [← once, Thread.repeating, Thread.repeating, same.repcnt]
  have clear : Alike x.clearGate y := ⟨same.pc, same.lc, same.ls, same.le, same.lstat, same.rplstat, same.repcnt⟩
  rw [Thread.retire, once', if_neg Bool.false_ne_true]
  exact (alike_stepTraps ..).trans (alike_advance clear)

/-- An instruction of which nothing is outstanding goes on as its thread does, where it is not repeated (R150, R165). -/
theorem alike_finish (s : State) (c : CoreId) (t : Thr) (n key : Nat) (once : (s.thr c t).repeating = false) :
    Alike ((s.finish c t n key .now).thr c t) (s.thr c t).advance := by
  have risen : Alike ((s.modThr c t fun th => if 1 ≤ n ∧ n ≤ 11 then th.flagUp n else th).thr c t) (s.thr c t) := by
    rw [State.thr_modThr_self]
    split <;> exact ⟨rfl, rfl, rfl, rfl, rfl, rfl, rfl⟩
  unfold State.finish
  dsimp only
  rw [once, Bool.false_and, if_neg Bool.false_ne_true]
  split
  · rw [State.thr_modThr_self]
    exact alike_retire ⟨rfl, rfl, rfl, rfl, rfl, rfl, rfl⟩ once
  · rw [if_pos (by decide), State.thr_modThr_self]
    exact alike_retire ((alike_fire ..).trans risen) once

theorem pc_advance {th : Thread} (h : inLine th) : th.advance.pc = th.pc + 8 := by
  obtain ⟨-, replaying, loops⟩ := h
  rw [advance_inLine replaying, loops]
  rfl

/-! Writes: MTS (R183, R214) -/

/-- The thread's own registers that MTS writes, by their numbers: those that leave where it stands, and those of its sequencing (R183, R214). -/
def plainRegs : List Nat :=
  [0x010, 0x011, 0x012, 0x013, 0x024, 0x025, 0x026, 0x028, 0x029, 0x02A, 0x040, 0x100, 0x101, 0x102, 0x105, 0x106, 0x107, 0x112, 0x114]
def sequenceRegs : List Nat := [0x020, 0x021, 0x022, 0x02C, 0x030, 0x031]

/-- Of these the loop registers, which are written before the loop-back. -/
def loopRegs : List Nat := [0x020, 0x021, 0x022, 0x024, 0x025, 0x026, 0x028, 0x029, 0x02A, 0x02C]

theorem loopRegs_range : ∀ n ∈ loopRegs, n ∈ plainRegs ++ sequenceRegs ∧ 0x20 ≤ n ∧ n ≤ 0x2C ∧ n ≠ 0x50 ∧ n ≠ 0x30 := by decide

theorem besides_sysWrite : ∀ n ∈ plainRegs ++ sequenceRegs, ∀ (th : Thread) (a : Word),
    besides (th.sysWrite n a) = besides ((besides th).sysWrite n a) := by
  simp only [plainRegs, sequenceRegs, List.forall_mem_append, List.forall_mem_cons, List.not_mem_nil, false_imp_iff, implies_true, and_true]
  and_intros <;> intro th a <;> simp [Thread.sysWrite] <;> rfl

/-- A write of a register that is none of the sequencing's leaves where the thread stands. -/
theorem stays_sysWrite : ∀ n ∈ plainRegs, ∀ (th : Thread) (a : Word), Stays th (th.sysWrite n a) := by
  simp only [plainRegs, List.forall_mem_cons, List.not_mem_nil, false_imp_iff, implies_true, and_true]
  and_intros <;> intro th a <;> simp [Thread.sysWrite, Stays]

/-- A write of a thread's own register is none of its core's. -/
theorem core_sysWrite_threadReg : ∀ n ∈ plainRegs ++ sequenceRegs, ∀ (q : Core) (a : Word), q.sysWrite n a = q := by
  simp only [plainRegs, sequenceRegs, List.forall_mem_append, List.forall_mem_cons, List.not_mem_nil, false_imp_iff, implies_true, and_true]
  and_intros <;> intro q a <;> simp [Core.sysWrite]

/-- A register of the sequencing is beside what else a thread holds. -/
theorem besides_sysWrite_sequence : ∀ n ∈ sequenceRegs, ∀ (th : Thread) (a : Word), besides (th.sysWrite n a) = besides th := by
  simp only [sequenceRegs, List.forall_mem_cons, List.not_mem_nil, false_imp_iff, implies_true, and_true]
  and_intros <;> intro th a <;> simp [Thread.sysWrite] <;> unfold besides <;> rfl

/-- A write of a register that is not REPCNT leaves the thread's state and its repetition. -/
theorem sysWrite_leaves : ∀ n ∈ plainRegs ++ sequenceRegs, ∀ (th : Thread) (a : Word),
    (th.sysWrite n a).st = th.st ∧ (n ≠ 0x30 → (th.sysWrite n a).repcnt = th.repcnt) := by
  simp only [plainRegs, sequenceRegs, List.forall_mem_append, List.forall_mem_cons, List.not_mem_nil, false_imp_iff, implies_true, and_true]
  and_intros <;> intro th a <;> simp [Thread.sysWrite]

/-- A loop register is written of what an instruction finds as of the thread. -/
theorem found_sysWrite : ∀ n ∈ loopRegs, ∀ (th : Thread) (a : Word),
    (found th).sysWrite n a = found (th.sysWrite n a) := by
  simp only [loopRegs, List.forall_mem_cons, List.not_mem_nil, false_imp_iff, implies_true, and_true]
  and_intros <;> intro th a <;> simp [Thread.sysWrite] <;> rfl

/-- A change of a core that changes nothing is beside the sequencing. -/
theorem still_modCore (u : State) (c : CoreId) (t : Thr) {f : Core → Core} (hf : ∀ q, f q = q) :
    Still u (u.modCore c f) c t ∧ (u.modCore c f).thr c t = u.thr c t := by
  have core : (u.modCore c f).core c = u.core c := by rw [State.core_modCore_self, hf]
  have thr (x : Thr) : (u.modCore c f).thr c x = u.thr c x := by rw [State.thr, State.thr, core]
  exact ⟨⟨by rw [thr], rfl, fun _ hx => State.core_modCore_ne _ _ hx, by rw [core], fun x _ => thr x, fun _ _ => rfl, List.prefix_refl _⟩, thr t⟩

section Mts
variable {s : State} {c : CoreId} {t : Thr} {w : Word} (major : wMajor w = 0x50) (function : xFn w = 0x03)
  (h : Issues s c t w [xReg w])

include major function h in
/-- MTS may not be repeated (R167). -/
theorem mts_once : (s.thr c t).repeating = false := by
  have never : repeatable w = false := by simp [repeatable, major, function]
  by_contra again
  exact absurd (h.repeats (by simpa using again)).2 (by simp [never])

theorem alike_found (th : Thread) : Alike (found th) th := ⟨rfl, rfl, rfl, rfl, rfl, rfl, rfl⟩

include major function h in
/-- An MTS of no loop register writes after its instruction is over (R183; log 13). -/
theorem mts_late {n : Nat} (named : xOp w = n) (low : n < 4096) (late : ¬(0x20 ≤ n ∧ n ≤ 0x2C)) (regular : mtsIrregular t w (s.thr c t) = none) :
    ∃ fin, exec (.mts c t w) s = .next (s.commit ((fin.sysWrite c t n ((s.thr c t).readReg (xReg w))).act c)) ∧ Still s fin c t ∧
      Alike (fin.thr c t) (s.thr c t).advance := by
  have op : xOp w % 4096 = n := by omega
  have fv := finds_atBody s c t
  have running : (((s.entered c t).atBody c t).thr c t).st ≠ .stalled := by
    rw [fv.thr, found_st, h.running]
    decide
  have once : (((s.entered c t).atBody c t).thr c t).repeating = false := by
    rw [fv.thr, Thread.repeating, found_repcnt]
    exact mts_once major function h
  refine ⟨((s.entered c t).atBody c t).finish c t (wSig w) ((s.core c).nextKey + 1) .now, ?_,
    (Still.atBody s c t).trans (.finish _ _ _ _ _ _ running), (alike_finish _ _ _ _ _ once).trans ?_⟩
  · refine (State.done_eq ..).trans ?_
    rw [State.sysIssue, State.issue_runs h (mine_of major function) regular]
    simp only [op, if_neg late, fv.thr, found_readReg]
    rfl
  · rw [fv.thr]
    exact alike_advance (alike_found _)

include major function h in
include major function h in
/-- An MTS of a loop register writes before its instruction's loop-back (R183; log 13). -/
theorem mts_early {n : Nat} (named : xOp w = n) (early : n ∈ loopRegs)
    (regular : mtsIrregular t w (s.thr c t) = none) :
    ∃ fin, exec (.mts c t w) s = .next (s.commit (fin.act c)) ∧ besides (fin.thr c t) = besides ((s.thr c t).sysWrite n ((s.thr c t).readReg (xReg w))) ∧
      Apart s fin c t ∧ Alike (fin.thr c t) ((s.thr c t).sysWrite n ((s.thr c t).readReg (xReg w))).advance := by
  obtain ⟨own, le, ge, notIrl, notRep⟩ : n ∈ plainRegs ++ sequenceRegs ∧ 0x20 ≤ n ∧ n ≤ 0x2C ∧ n ≠ 0x50 ∧ n ≠ 0x30 :=
    loopRegs_range n early
  have op : xOp w % 4096 = n := by omega
  have fv := finds_atBody s c t
  generalize hv : (s.entered c t).atBody c t = v at fv
  have ran : exec (.mts c t w) s = .next (s.commit (((v.sysWrite c t n ((s.thr c t).readReg (xReg w))).finish c t (wSig w) (s.core c).nextKey .now).act c)) := by
    refine (State.done_eq ..).trans ?_
    rw [State.sysIssue, State.issue_runs h (mine_of major function) regular]
    simp only [op, if_pos (And.intro le ge), hv, fv.thr, found_readReg]
    rfl
  generalize (s.thr c t).readReg (xReg w) = a at ran ⊢
  rw [State.sysWrite, if_neg notIrl] at ran
  obtain ⟨still, same⟩ := still_modCore (v.modThr c t (·.sysWrite n a)) c t (f := (·.sysWrite n a)) fun q => core_sysWrite_threadReg n own q a
  rw [State.thr_modThr_self, fv.thr, found_sysWrite n early] at same
  generalize (v.modThr c t (·.sysWrite n a)).modCore c (·.sysWrite n a) = v' at ran still same
  obtain ⟨st, repcnt⟩ := sysWrite_leaves n own (s.thr c t) a
  have running : (v'.thr c t).st ≠ .stalled := by
    rw [same, found_st, st, h.running]
    decide
  have once : (v'.thr c t).repeating = false := by
    rw [← mts_once major function h, same, Thread.repeating, found_repcnt, repcnt notRep]
    rfl
  have fin := Still.finish v' c t (wSig w) (s.core c).nextKey .now running
  refine ⟨_, ran, fin.thr.trans (by rw [same, besides_found]), ((fv.apart.trans (.modThr ..)).trans still.apart).trans fin.apart, ?_⟩
  refine (alike_finish _ _ _ _ _ once).trans ?_
  rw [same]
  exact alike_advance (alike_found _)

include major function h in
/-- An MTS of a thread's own register, in all that it leaves (R183). -/
theorem mts_thread {n : Nat} (own : n ∈ plainRegs ++ sequenceRegs) (late : n ∉ loopRegs) (named : xOp w = n) (regular : mtsIrregular t w (s.thr c t) = none) :
    ∃ u, exec (.mts c t w) s = .next u ∧ Apart s u c t ∧ besides (u.thr c t) = besides ((s.thr c t).sysWrite n ((s.thr c t).readReg (xReg w))) ∧
      ∃ x, Alike x (s.thr c t).advance ∧ u.thr c t = x.sysWrite n ((s.thr c t).readReg (xReg w)) := by
  obtain ⟨low, notIrl, out⟩ : n < 4096 ∧ n ≠ 0x50 ∧ (n ∉ loopRegs → ¬(0x20 ≤ n ∧ n ≤ 0x2C)) := by
    revert own
    exact (by decide : ∀ n ∈ plainRegs ++ sequenceRegs, n < 4096 ∧ n ≠ 0x50 ∧ (n ∉ loopRegs → ¬(0x20 ≤ n ∧ n ≤ 0x2C))) n
  obtain ⟨fin, ran, still, alike⟩ := mts_late major function h named low (out late) regular
  generalize (s.thr c t).readReg (xReg w) = a at ran ⊢
  rw [State.sysWrite, if_neg notIrl] at ran
  obtain ⟨after, same⟩ := still_modCore (fin.modThr c t (·.sysWrite n a)) c t (f := (·.sysWrite n a)) fun q => core_sysWrite_threadReg n own q a
  rw [State.thr_modThr_self] at same
  have thr : ((s.commit (((fin.modThr c t (·.sysWrite n a)).modCore c (·.sysWrite n a)).act c)).thr c t) = (fin.thr c t).sysWrite n a := by
    rw [State.thr_commit, State.thr_act, same]
  have beside : besides ((fin.thr c t).sysWrite n a) = besides ((s.thr c t).sysWrite n a) := by
    rw [besides_sysWrite n own, still.thr, ← besides_sysWrite n own]
  refine ⟨_, ran, ((((still.apart.trans (.modThr ..)).trans after.apart).trans (.act ..))).commit, ?_, fin.thr c t, alike, thr⟩
  rw [thr, beside]

include major function h in
/-- An MTS of a register that is none of the sequencing's yields what it writes (R183). -/
theorem mts_yields {n : Nat} (plain : n ∈ plainRegs) (named : xOp w = n) (regular : mtsIrregular t w (s.thr c t) = none) :
    Yields (.mts c t w) s c t ((s.thr c t).sysWrite n ((s.thr c t).readReg (xReg w))) := by
  by_cases early : n ∈ loopRegs
  · obtain ⟨fin, ran, thr, apart, alike⟩ := mts_early major function h named early regular
    refine ⟨_, ran, by rw [State.thr_commit, State.thr_act, thr], (apart.trans (.act ..)).commit, fun line => ?_⟩
    have stays := stays_sysWrite n plain (s.thr c t) ((s.thr c t).readReg (xReg w))
    rw [State.thr_commit, State.thr_act, alike.pc, pc_advance (stays.inLine line), stays.1]
  · obtain ⟨u, ran, apart, thr, x, alike, is⟩ := mts_thread major function h (List.mem_append_left _ plain) early named regular
    refine ⟨u, ran, thr, apart, fun line => ?_⟩
    rw [is, (stays_sysWrite n plain _ _).1, alike.pc, pc_advance line]

/-- Who may write a register is who its writer says (R183, R214). -/
theorem mtsIrregular_of_writer {n : Nat} {sup zero : Bool} (named : xOp w = n) (low : n < 4096) (writer : sysWriter n = some (sup, zero))
    {th : Thread} (privileged : sup = true → TSTATUS.PRIV.get th.tstatus = 1) (first : zero = true → t = 0) : mtsIrregular t w th = none := by
  have op : xOp w % 4096 = n := by omega
  have small : xOp w / 4096 = 0 := by omega
  have allowed : ((sup && !th.super) || (zero && t != 0)) = false := by
    cases sup <;> cases zero <;> simp [Thread.super, privileged, first]
  rw [mtsIrregular, op, small, writer]
  simp [allowed]

end Mts

/-- MTS of the registers of a list that it writes as listed (R183). -/
theorem mts_listed {s : State} {c : CoreId} {t : Thr} {w : Word} {sup : Bool} {l : List (Nat × Thread)}
    {ns : List Nat} (numbers : l.map (·.1) = ns) (writers : ∀ n ∈ ns, n ∈ plainRegs ∧ sysWriter n = some (sup, false))
    (writes : ∀ r ∈ l, (s.thr c t).sysWrite r.1 ((s.thr c t).readReg (xReg w)) = r.2) :
    ∀ r ∈ l, xOp w = r.1 → (sup = true → TSTATUS.PRIV.get (s.thr c t).tstatus = 1) → (wMajor w = 0x50 ∧ xFn w = 0x03 ∧ Issues s c t w [xReg w]) →
      Yields (.mts c t w) s c t r.2 := by
  rintro r mem named privileged ⟨major, function, h⟩
  have number := writers r.1 (numbers ▸ List.mem_map_of_mem mem)
  have low : r.1 < 4096 := (by decide : ∀ n ∈ plainRegs, n < 4096) r.1 number.1
  rw [← writes r mem]
  exact mts_yields major function h number.1 named (mtsIrregular_of_writer named low number.2 privileged (by simp))

/-! Writes of the core's registers (R214) -/

/-- A core differs from another in the sequencing of a thread alone. -/
structure CoreStill (t : Thr) (q p : Core) : Prop where
  rest : { q with
    thr := p.thr
    nextKey := p.nextKey
    next := p.next
    icache := { q.icache with plru := p.icache.plru } } = p
  thr : besides q.thr[t] = besides p.thr[t]
  threads : ∀ x, x ≠ t → q.thr[x] = p.thr[x]

theorem coreStill_of {s u : State} {c : CoreId} {t : Thr} (h : Still s u c t) : CoreStill t (u.core c) (s.core c) :=
  ⟨h.apart.core, h.thr, h.apart.threads⟩

/-- What a core that differs in sequencing alone is. -/
theorem CoreStill.is {t : Thr} {q p : Core} (h : CoreStill t q p) : ∃ thr nextKey next plru, p = { q with
    thr := thr
    nextKey := nextKey
    next := next
    icache := { q.icache with plru := plru } } := ⟨_, _, _, _, h.rest.symm⟩

/-- A change of a core on both sides of the sequencing is beside it. -/
theorem apart_modCore_both {s u : State} {c : CoreId} {t : Thr} (h : Still s u c t) {f : Core → Core}
    (hf : CoreStill t (f (u.core c)) (f (s.core c))) :
    Apart (s.modCore c f) (u.modCore c f) c t ∧ besides ((u.modCore c f).thr c t) = besides ((s.modCore c f).thr c t) := by
  have thr (v : State) (x : Thr) : (v.modCore c f).thr c x = (f (v.core c)).thr[x] := by rw [State.thr, State.core_modCore_self]
  refine ⟨⟨h.apart.rest, fun x hx => ?_, ?_, fun x hx => ?_, h.apart.regs, h.apart.sync⟩, ?_⟩
  · rw [State.core_modCore_ne _ _ hx, State.core_modCore_ne _ _ hx, h.apart.cores x hx]
  · rw [State.core_modCore_self, State.core_modCore_self]
    exact hf.rest
  · rw [thr, thr]
    exact hf.threads x hx
  · rw [thr, thr]
    exact hf.thr

/-- The registers of the core that MTS of thread 0 writes, beside THREAD_FAULT. -/
def coreRegs : List Nat :=
  [0x103, 0x121, 0x122, 0x123, 0x125, 0x126, 0x127, 0x129, 0x12A, 0x12B, 0x12D, 0x12E, 0x12F, 0x130]

/-- A write of a core's register is beside the sequencing of its threads. -/
def SitsBeside (t : Thr) (f : Core → Core) : Prop :=
  ∀ q p : Core, CoreStill t q p → CoreStill t (f q) (f p) ∧ ((f q).thr[t]).pc = (q.thr[t]).pc

theorem coreReg_sitsBeside : ∀ n ∈ coreRegs, ∀ (t : Thr) (a : Word), SitsBeside t (·.sysWrite n a) := by
  simp only [coreRegs, List.forall_mem_cons, List.not_mem_nil, false_imp_iff, implies_true, and_true]
  and_intros <;> intro t a q p h <;> obtain ⟨thr, nextKey, next, plru, rfl⟩ := h.is <;> simp [Core.sysWrite] <;> exact ⟨rfl, h.thr, h.threads⟩

/-- IPEND's bit of 0x20 as the NEW bits give it (R204). -/
def newBit (fault : Word) (th : Thread) : Thread :=
  let base := th.ipend &&& ~~~ 1#64
  let th := { th with ipend := if THREAD_FAULT.NEW.get fault = 0 then base else base ||| 1 }
  if th.takeable.isSome then th.wake else th

theorem besides_wake (th : Thread) : besides th.wake = (besides th).wake := by
  unfold Thread.wake
  by_cases stalled : th.st = .stalled
  · rw [if_pos stalled, if_pos (show (besides th).st = _ from stalled)]
    rfl
  · rw [if_neg stalled, if_neg (show ¬(besides th).st = _ from stalled)]

theorem besides_newBit (fault : Word) (th : Thread) : besides (newBit fault th) = newBit fault (besides th) := by
  unfold newBit
  dsimp only
  rw [show (besides th).ipend = th.ipend from rfl]
  generalize (if THREAD_FAULT.NEW.get fault = 0 then th.ipend &&& ~~~ 1#64 else th.ipend &&& ~~~ 1#64 ||| 1) = i
  rw [show Thread.takeable { besides th with ipend := i } = Thread.takeable { th with ipend := i } from rfl]
  split
  · exact besides_wake _
  · rfl

theorem pc_wake (th : Thread) : th.wake.pc = th.pc := by
  unfold Thread.wake
  split <;> rfl

theorem pc_newBit (fault : Word) (th : Thread) : (newBit fault th).pc = th.pc := by
  unfold newBit
  dsimp only
  generalize (if THREAD_FAULT.NEW.get fault = 0 then th.ipend &&& ~~~ 1#64 else th.ipend &&& ~~~ 1#64 ||| 1) = i
  split
  · exact pc_wake _
  · rfl

theorem thr_clearNew (q : Core) (a : Word) :
    (q.clearNew a).thr[(0 : Thr)] = newBit (fieldsWrite THREAD_FAULT q.threadFault a) q.thr[(0 : Thr)] := by
  simp [Core.clearNew, Core.followNew, Core.modThr, newBit]

theorem thr_clearNew_ne (q : Core) (a : Word) {x : Thr} (h : x ≠ 0) : (q.clearNew a).thr[x] = q.thr[x] := by
  have ne : (0 : Nat) ≠ x.val := fun e => h (Fin.ext e.symm)
  simp [Core.clearNew, Core.followNew, Core.modThr, ne]

theorem clearNew_sitsBeside (a : Word) : SitsBeside 0 (·.clearNew a) := by
  intro q p h
  obtain ⟨thr, nextKey, next, plru, is⟩ := h.is
  have fault : p.threadFault = q.threadFault := by rw [is]
  refine ⟨⟨?_, ?_, fun x hx => ?_⟩, ?_⟩
  · rw [is]
    rfl
  · rw [thr_clearNew, thr_clearNew, fault, besides_newBit, besides_newBit, h.thr]
  · rw [thr_clearNew_ne _ _ hx, thr_clearNew_ne _ _ hx, h.threads x hx]
  · rw [thr_clearNew, pc_newBit]

theorem sysWrite_coreReg : ∀ n ∈ 0x110 :: coreRegs, ∀ (th : Thread) (a : Word), th.sysWrite n a = th := by
  simp only [coreRegs, List.forall_mem_cons, List.not_mem_nil, false_imp_iff, implies_true, and_true]
  and_intros <;> intro th a <;> simp [Thread.sysWrite]

/-- An MTS of a core's register leads to the core as it writes it (R183, R214). -/
theorem mts_core {s : State} {c : CoreId} {t : Thr} {w : Word} (major : wMajor w = 0x50) (function : xFn w = 0x03)
    (h : Issues s c t w [xReg w]) {n : Nat} (own : n ∈ 0x110 :: coreRegs) (named : xOp w = n)
    (regular : mtsIrregular t w (s.thr c t) = none)
    (sits : ∀ a, SitsBeside t (·.sysWrite n a)) :
    Leads (.mts c t w) s (s.modCore c (·.sysWrite n ((s.thr c t).readReg (xReg w)))) c t := by
  obtain ⟨low, notIrl, late⟩ : n < 4096 ∧ n ≠ 0x50 ∧ ¬(0x20 ≤ n ∧ n ≤ 0x2C) := by
    revert own
    exact (by decide : ∀ n ∈ 0x110 :: coreRegs, n < 4096 ∧ n ≠ 0x50 ∧ ¬(0x20 ≤ n ∧ n ≤ 0x2C)) n
  obtain ⟨fin, ran, fin_, alike⟩ := mts_late major function h named low late regular
  generalize (s.thr c t).readReg (xReg w) = a at ran ⊢
  rw [State.sysWrite, if_neg notIrl] at ran
  have stands : (fin.modThr c t (·.sysWrite n a)).thr c t = fin.thr c t := by rw [State.thr_modThr_self, sysWrite_coreReg n own]
  have all : Still s (fin.modThr c t (·.sysWrite n a)) c t := fin_.trans ⟨by rw [stands], .modThr ..⟩
  obtain ⟨core, pc⟩ := sits a _ _ (coreStill_of all)
  obtain ⟨apart, thr⟩ := apart_modCore_both all (f := (·.sysWrite n a)) core
  refine ⟨_, ran, by rw [State.thr_commit, State.thr_act, thr], ?_, fun line => ?_⟩
  · rw [commit_congr (s := s) (r := s.modCore c (·.sysWrite n a)) rfl rfl rfl rfl]
    exact (apart.trans (.act ..)).commit
  · rw [State.thr_commit, State.thr_act, State.thr, State.core_modCore_self]
    refine pc.trans ((congrArg Thread.pc stands).trans (alike.pc.trans (pc_advance line)))

theorem mts_coreRegs {s : State} {c : CoreId} {t : Thr} {w : Word} {l : List (Nat × (Core → Core))} (first : t = 0)
    {ns : List Nat} (numbers : l.map (·.1) = ns) (writers : ∀ n ∈ ns, n ∈ coreRegs ∧ sysWriter n = some (true, true))
    (writes : ∀ r ∈ l, ∀ q : Core, q.sysWrite r.1 ((s.thr c t).readReg (xReg w)) = r.2 q) :
    ∀ r ∈ l, xOp w = r.1 → TSTATUS.PRIV.get (s.thr c t).tstatus = 1 → (wMajor w = 0x50 ∧ xFn w = 0x03 ∧ Issues s c t w [xReg w]) →
      Leads (.mts c t w) s (s.modCore c r.2) c t := by
  rintro r mem named privileged ⟨major, function, h⟩
  have number := writers r.1 (numbers ▸ List.mem_map_of_mem mem)
  have low : r.1 < 4096 := (by decide : ∀ n ∈ coreRegs, n < 4096) r.1 number.1
  rw [← funext (writes r mem)]
  exact mts_core major function h (List.mem_cons_of_mem _ number.1) named
    (mtsIrregular_of_writer named low number.2 (fun _ => privileged) fun _ => first) (coreReg_sitsBeside r.1 number.1 t)

/-! The irregularity log (R188) -/

theorem reg_irlClear (s : State) (c : Nat) : (s.irlClear c).reg (aIRL_CTRL c) =
    IRL_CTRL.HIT.put (IRL_CTRL.NEXT.put (IRL_CTRL.COUNT.put (s.reg (aIRL_CTRL c)) 0) 0) 0 := by
  simp [State.irlClear, State.setFld]

theorem rereg_setFld (s : State) (a : Nat) (f : Field) (v : Nat) (r : Tab Word) : { s.setFld a f v with regs := r } = { s with regs := r } := rfl

theorem onlyRegs_irlClear (s : State) (c : Nat) : OnlyRegs s (s.irlClear c) (· = aIRL_CTRL c) := by
  refine ⟨?_, fun a ha => ?_⟩
  · rw [State.irlClear, rereg_setFld, rereg_setFld, rereg_setFld]
  · rw [State.irlClear, State.reg_setFld_ne _ _ _ ha, State.reg_setFld_ne _ _ _ ha, State.reg_setFld_ne _ _ _ ha]

/-- The clear leaves THRESH and CLR and sets the rest of the irregularity log's control to 0. -/
theorem get_cleared (v : Word) : ∀ f ∈ IRL_CTRL, f.get (IRL_CTRL.HIT.put (IRL_CTRL.NEXT.put (IRL_CTRL.COUNT.put v 0) 0) 0) =
    if f ∈ [IRL_CTRL.COUNT, IRL_CTRL.NEXT, IRL_CTRL.HIT] then 0 else f.get v := by
  have put (g : Field) (w : Word) (fits : g.fits) : g.get (g.put w 0) = 0 := by rw [Field.get_put _ _ _ fits, Nat.zero_mod]
  have off (f g : Field) (w : Word) (fits : f.fits) (h : f.apart g) : g.get (f.put w 0) = g.get w := Field.get_put_apart f g w 0 fits h
  simp only [IRL_CTRL, List.forall_mem_cons, List.not_mem_nil, false_imp_iff, implies_true, and_true]
  refine ⟨?_, ?_, ?_, ?_, ?_⟩
  · rw [off IRL_CTRL.HIT _ _ (by decide) (by decide), off IRL_CTRL.NEXT _ _ (by decide) (by decide), put _ _ (by decide), if_pos (by decide)]
  · rw [off IRL_CTRL.HIT _ _ (by decide) (by decide), off IRL_CTRL.NEXT _ _ (by decide) (by decide),
      off IRL_CTRL.COUNT _ _ (by decide) (by decide), if_neg (by decide)]
  · rw [off IRL_CTRL.HIT _ _ (by decide) (by decide), off IRL_CTRL.NEXT _ _ (by decide) (by decide),
      off IRL_CTRL.COUNT _ _ (by decide) (by decide), if_neg (by decide)]
  · rw [put _ _ (by decide), if_pos (by decide)]
  · rw [off IRL_CTRL.HIT _ _ (by decide) (by decide), put _ _ (by decide), if_pos (by decide)]

/-- The write of IRL_CTRL (R188). -/
theorem sysWrite_irl (s : State) (c : CoreId) (t : Thr) (v : Word) : s.sysWrite c t 0x50 v =
    if IRL_CTRL.CLR.get v = 1 then (s.setReg (aIRL_CTRL c) (fieldsWrite IRL_CTRL (s.reg (aIRL_CTRL c)) v)).irlClear c
    else s.setReg (aIRL_CTRL c) (fieldsWrite IRL_CTRL (s.reg (aIRL_CTRL c)) v) := by
  rw [State.sysWrite, if_pos rfl]

/-- MTS of IRL_CTRL writes its fields, and clears the log where it sets CLR (R188). -/
theorem mts_irl {s : State} {c : CoreId} {t : Thr} {w : Word} (named : xOp w = 0x050) (privileged : TSTATUS.PRIV.get (s.thr c t).tstatus = 1)
    (issues : wMajor w = 0x50 ∧ xFn w = 0x03 ∧ Issues s c t w [xReg w]) :
    ∃ u, exec (.mts c t w) s = .next u ∧ besides (u.thr c t) = besides (s.thr c t) ∧ u.mem = s.mem ∧ ∀ f ∈ IRL_CTRL,
      f.get (u.reg (aIRL_CTRL c)) = (if IRL_CTRL.CLR.get ((s.thr c t).readReg (xReg w)) = 1 ∧ f ∈ [IRL_CTRL.COUNT, IRL_CTRL.NEXT, IRL_CTRL.HIT] then 0
        else f.get (fieldsWrite IRL_CTRL (s.reg (aIRL_CTRL c)) ((s.thr c t).readReg (xReg w)))) := by
  obtain ⟨major, function, h⟩ := issues
  obtain ⟨fin, ran, still, -⟩ := mts_late major function h named (by decide) (by decide)
    (mtsIrregular_of_writer named (by decide) (sup := true) (zero := false) (by decide) (fun _ => privileged) (by simp))
  generalize (s.thr c t).readReg (xReg w) = v at ran ⊢
  have notAct : aIRL_CTRL c ≠ aCORE_ACT c := by simp only [aIRL_CTRL, aCORE_ACT]; omega
  have reg : fin.reg (aIRL_CTRL c) = s.reg (aIRL_CTRL c) := still.apart.regs _ notAct
  refine ⟨_, ran, ?_, State.commit_mem .., fun f mem => ?_⟩
  · have thr : (fin.sysWrite c t 0x50 v).thr c t = fin.thr c t := by
      rw [sysWrite_irl]
      split
      · rw [State.irlClear, State.thr_setFld, State.thr_setFld, State.thr_setFld, State.thr_setReg]
      · rw [State.thr_setReg]
    rw [State.thr_commit, State.thr_act, thr, still.thr]
  · rw [State.reg_commit, State.act_eq, State.reg_setFld_ne _ _ _ notAct, sysWrite_irl]
    by_cases clears : IRL_CTRL.CLR.get v = 1
    · simp only [clears, true_and, if_true]
      rw [reg_irlClear, get_cleared _ f mem, State.reg_setReg_self, reg]
    · simp only [clears, false_and, if_false]
      rw [State.reg_setReg_self, reg]

theorem commit_setFld (s x : State) (a : Nat) (f : Field) (v : Nat) : s.commit (x.setFld a f v) = (s.commit x).setFld a f v := rfl

theorem commit_self (s : State) : s.commit s = s := by
  rw [State.commit]

theorem commit_irlClear (s : State) (c : Nat) : s.commit (s.irlClear c) = s.irlClear c := by
  rw [State.irlClear, commit_setFld, commit_setFld, commit_setFld, commit_self]

theorem irlClear_clears (s : State) (c : CoreId) : OnlyRegs s (s.irlClear c) (· = aIRL_CTRL c) ∧ exec (.irlClear c) s = .next (s.irlClear c) ∧
    IRL_CTRL.COUNT.get ((s.irlClear c).reg (aIRL_CTRL c)) = 0 ∧ IRL_CTRL.NEXT.get ((s.irlClear c).reg (aIRL_CTRL c)) = 0 ∧
      IRL_CTRL.HIT.get ((s.irlClear c).reg (aIRL_CTRL c)) = 0 := by
  have cleared (f : Field) (mem : f ∈ IRL_CTRL) (sets : f ∈ [IRL_CTRL.COUNT, IRL_CTRL.NEXT, IRL_CTRL.HIT]) :
      f.get ((s.irlClear c).reg (aIRL_CTRL c)) = 0 := by rw [reg_irlClear, get_cleared _ f mem, if_pos sets]
  have ran : exec (.irlClear c) s = .next (s.commit (s.irlClear c)) := rfl
  exact ⟨onlyRegs_irlClear s c, ran.trans (by rw [commit_irlClear]), cleared _ (by decide) (by decide), cleared _ (by decide) (by decide), cleared _ (by decide) (by decide)⟩

/-! The writes together -/

/-- Each field of REPCNT is one that software writes. -/
theorem get_repcntWritten (old v : Word) : ∀ f ∈ REPCNT, f.get (fieldsWrite REPCNT old v) = f.get v := by
  have written : fieldsWrite REPCNT old v = REPCNT.ACTIVE.put (REPCNT.COUNT.put old (REPCNT.COUNT.get v)) (REPCNT.ACTIVE.get v) := rfl
  have fits (f : Field) (w : Word) : f.get w % f.size = f.get w := Nat.mod_mod ..
  simp only [REPCNT, List.forall_mem_cons, List.not_mem_nil, false_imp_iff, implies_true, and_true]
  rw [← REPCNT, written]
  constructor
  · rw [Field.get_put_apart _ _ _ _ (by decide) (by decide), Field.get_put _ _ _ (by decide), fits]
  · rw [Field.get_put _ _ _ (by decide), fits]

section Sequencing
variable {s : State} {c : CoreId} {t : Thr} {w : Word} (privileged : TSTATUS.PRIV.get (s.thr c t).tstatus = 1)
  (issues : wMajor w = 0x50 ∧ xFn w = 0x03 ∧ Issues s c t w [xReg w])
include privileged issues

/-- MTS of a count or of the depth of loops is taken by the instruction's own loop-back (R183). -/
theorem mts_sequence_early {n : Nat} {th' : Thread} (named : xOp w = n) (early : n ∈ [0x020, 0x021, 0x022, 0x02C])
    (writes : (s.thr c t).sysWrite n ((s.thr c t).readReg (xReg w)) = th') :
    Ends (.mts c t w) s c t fun x => besides x = besides (s.thr c t) ∧ InStep x th'.advance := by
  obtain ⟨major, function, h⟩ := issues
  obtain ⟨loop, sequence, low, writer⟩ := (by decide : ∀ n ∈ [0x020, 0x021, 0x022, 0x02C],
    n ∈ loopRegs ∧ n ∈ sequenceRegs ∧ n < 4096 ∧ sysWriter n = some (true, false)) n early
  obtain ⟨fin, ran, thr, apart, alike⟩ := mts_early major function h named loop
    (mtsIrregular_of_writer named low writer (fun _ => privileged) (by simp))
  rw [besides_sysWrite_sequence n sequence] at thr
  rw [writes] at alike
  refine ⟨_, ran, (apart.trans (.act ..)).commit, ?_⟩
  rw [State.thr_commit, State.thr_act]
  exact ⟨thr, alike.inStep⟩

theorem mts_repcnt (named : xOp w = 0x030) : Ends (.mts c t w) s c t fun x =>
    besides x = besides (s.thr c t) ∧ ∀ f ∈ REPCNT, f.get x.repcnt = f.get ((s.thr c t).readReg (xReg w)) := by
  obtain ⟨major, function, h⟩ := issues
  obtain ⟨u, ran, apart, thr, x, -, is⟩ := mts_thread major function h (by decide) (by decide) named
    (mtsIrregular_of_writer named (by decide) (sup := true) (zero := false) (by decide) (fun _ => privileged) (by simp))
  generalize (s.thr c t).readReg (xReg w) = v at thr is ⊢
  refine ⟨u, ran, apart, thr.trans (besides_sysWrite_sequence _ (by decide) _ _), ?_⟩
  rw [is]
  simpa [Thread.sysWrite] using get_repcntWritten x.repcnt v

theorem mts_rplstat (named : xOp w = 0x031) : Ends (.mts c t w) s c t fun x =>
    besides x = besides (s.thr c t) ∧ x.rplstat = fieldsWrite RPLSTAT (s.thr c t).advance.rplstat ((s.thr c t).readReg (xReg w)) := by
  obtain ⟨major, function, h⟩ := issues
  obtain ⟨u, ran, apart, thr, x, alike, is⟩ := mts_thread major function h (by decide) (by decide) named
    (mtsIrregular_of_writer named (by decide) (sup := true) (zero := false) (by decide) (fun _ => privileged) (by simp))
  generalize (s.thr c t).readReg (xReg w) = v at thr is ⊢
  refine ⟨u, ran, apart, thr.trans (besides_sysWrite_sequence _ (by decide) _ _), ?_⟩
  rw [is, ← alike.rplstat]
  simp [Thread.sysWrite]

end Sequencing

theorem systemWrites : Claims.SystemWrites := by
  intro s c t w th n v issues own supervisor shared
  refine ⟨fun r mem named h => mts_listed (sup := false) (l := own) (ns := [0x010, 0x011, 0x012, 0x013, 0x040, 0x106, 0x107, 0x114]) rfl (by decide) ?_ r mem named (by simp) h,
    fun r mem named privileged h => mts_listed (sup := true) (l := supervisor)
      (ns := [0x024, 0x025, 0x026, 0x028, 0x029, 0x02A, 0x100, 0x101, 0x102, 0x105, 0x112]) rfl (by decide) ?_ r mem named (fun _ => privileged) h,
    fun r mem named privileged first h => mts_coreRegs (l := shared) first (ns := coreRegs) rfl (by decide) ?_ r mem named privileged h,
    fun named privileged h => mts_repcnt privileged h named, fun i lt named privileged h => ?_, fun named privileged h => ?_,
    fun named privileged h => mts_rplstat privileged h named, fun named first h => ?_, fun named privileged h => mts_irl named privileged h,
    irlClear_clears s c⟩
  · simp only [own, List.forall_mem_cons, List.not_mem_nil, false_imp_iff, implies_true, and_true]
    and_intros <;> simp [Thread.sysWrite, Thread.super, th, v]
  · simp only [supervisor, List.forall_mem_cons, List.not_mem_nil, false_imp_iff, implies_true, and_true]
    and_intros <;> simp [Thread.sysWrite, th, v]
  · simp only [shared, List.forall_mem_cons, List.not_mem_nil, false_imp_iff, implies_true, and_true]
    and_intros <;> intro q <;> simp [Core.sysWrite, v, th]
  · have early : n ∈ [0x020, 0x021, 0x022, 0x02C] := by
      rw [named]
      exact (by decide : ∀ i < 3, 0x020 + i ∈ [0x020, 0x021, 0x022, 0x02C]) i lt
    refine mts_sequence_early privileged h rfl early ?_
    have there : (s.thr c t).sysWrite (0x020 + i) v = { th with lc := th.lc.set i (v.setWidth 32) } := by
      rw [Thread.sysWrite, dif_neg (by omega), dif_pos (by omega)]
      simp [th]
    exact (congrArg (fun n => (s.thr c t).sysWrite n v) named).trans there
  · refine mts_sequence_early privileged h named (by decide) ?_
    simp [Thread.sysWrite, th, v]
  · obtain ⟨major, function, issued⟩ := h
    subst first
    have writes (q : Core) : q.sysWrite 0x110 v = q.clearNew v := by simp [Core.sysWrite]
    have led := mts_core major function issued (by decide) named
      (mtsIrregular_of_writer named (by decide) (sup := false) (zero := true) (by decide) (by simp) fun _ => rfl)
      fun a => by simpa [Core.sysWrite] using clearNew_sitsBeside a
    simpa only [writes, v, th] using led

/-- Settles O6: reads by what an instruction finds, writes by whether the register is the thread's, its core's or the irregularity log's. -/
theorem systemRegisters : Obligations.SystemRegisters := ⟨systemReads, systemWrites⟩

end Sys2Proof.Proofs
end

section
/-! SUPPORT. Numbers as bytes (R13), the words an atomic leaves (R119), and a single-precision result in its 32 bits (R280, R295). -/

namespace Sys2Proof.Proofs
open Sys2Proof.Machine Sys2Proof.Claims

/-! Bytes -/

@[simp] theorem length_toBytes (n v : Nat) : (toBytes n v).length = n := by
  induction n generalizing v with
  | zero => rfl
  | succ n ih => simp [toBytes, ih]

theorem ofBytes_toBytes {n v : Nat} (h : v < 256 ^ n) : ofBytes (toBytes n v) = v := by
  induction n generalizing v with
  | zero => simp only [Nat.pow_zero] at h; simp [toBytes, ofBytes]; omega
  | succ n ih =>
    rw [Nat.pow_succ] at h
    simp only [toBytes, ofBytes, ih ((Nat.div_lt_iff_lt_mul (by omega)).2 h), BitVec.toNat_ofNat]
    omega

theorem ofBytes_lt (bs : List Byte) : ofBytes bs < 256 ^ bs.length := by
  induction bs with
  | nil => simp [ofBytes]
  | cons b bs ih =>
    have hb := b.isLt
    simp only [ofBytes, List.length_cons, Nat.pow_succ]
    omega

@[simp] theorem length_bytes (s : State) (a n : Nat) : (s.bytes a n).length = n := by simp [State.bytes]

/-! Rounding into 32 bits -/

theorem ite_lt {p : Prop} [Decidable p] {a b k : Nat} (ha : a < k) (hb : b < k) : (if p then a else b) < k := by
  split
  · exact ha
  · exact hb

/-- A magnitude rounded to nearest has no more than the bits of the place it is rounded at, or is the power of two above them. -/
theorem roundMag_le {n k : Nat} {e q : Int} (h : (Nat.log2 n : Int) + e ≤ q + k) : (roundMag RMode.rne n e q).1 ≤ 2 ^ (k + 1) := by
  have bits : n < 2 ^ (Nat.log2 n + 1) := Nat.lt_log2_self
  unfold roundMag
  split
  · next below =>
    calc n * 2 ^ (e - q).toNat
      _ ≤ 2 ^ (Nat.log2 n + 1) * 2 ^ (e - q).toNat := Nat.mul_le_mul_right _ bits.le
      _ = 2 ^ (Nat.log2 n + 1 + (e - q).toNat) := (Nat.pow_add ..).symm
      _ ≤ 2 ^ (k + 1) := Nat.pow_le_pow_right (by omega) (by omega)
  · next above =>
    have whole : n / 2 ^ (q - e).toNat < 2 ^ (k + 1) := by
      refine Nat.div_lt_of_lt_mul ?_
      rw [← Nat.pow_add]
      exact Nat.lt_of_lt_of_le bits (Nat.pow_le_pow_right (by omega) (by omega))
    exact Nat.lt_succ_iff.1 (ite_lt (Nat.succ_lt_succ whole) (Nat.lt_succ_of_lt whole))

theorem fp32_round_lt (m e : Int) : (fp32.round RMode.rne m e).1 < 2 ^ 32 := by
  unfold FFmt.round
  dsimp only
  split
  · exact Nat.two_pow_pos 32
  have lead := roundMag_le (n := m.natAbs) (k := 23) (e := e)
    (q := max ((Nat.log2 m.natAbs : Int) + e) (1 - (fp32.bias : Int)) - fp32.mb) (by simp only [fp32]; omega)
  generalize hq : max ((Nat.log2 m.natAbs : Int) + e) (1 - (fp32.bias : Int)) - fp32.mb = q at lead ⊢
  have low : -149 ≤ q := by simp only [fp32] at hq; omega
  generalize (roundMag RMode.rne m.natAbs e q).1 = t at lead ⊢
  have sign : (if m < 0 then 2 ^ (fp32.eb + fp32.mb) else 0) ≤ 2 ^ 31 := by split <;> simp [fp32]
  generalize (if m < 0 then 2 ^ (fp32.eb + fp32.mb) else 0) = sg at sign ⊢
  have inf : fp32.infBits (decide (m < 0)) < 2 ^ 32 := by cases decide (m < 0) <;> decide
  generalize hb : (if fp32.maxQ < q then t != 0 else decide (fp32.maxT * 2 ^ (fp32.maxQ - q).toNat < t)) = beyond
  cases beyond with
  | true =>
    rw [if_pos rfl, if_pos ⟨rfl, by decide⟩]
    exact inf
  | false =>
    have within := hb
    rw [if_neg Bool.false_ne_true]
    dsimp only
    split
    · exact Nat.two_pow_pos 32
    next pos =>
    have maxQ : fp32.maxQ = 104 := by decide
    have maxT : fp32.maxT = 2 ^ 24 - 1 := by decide
    rw [maxQ, maxT] at within
    have top : q ≤ 104 := by
      by_contra above
      rw [if_pos (by omega)] at within
      simp [pos] at within
    rw [if_neg (by omega), decide_eq_false_iff_not, Nat.not_lt] at within
    simp only [fp32]
    by_cases last : q = 104
    · subst last
      norm_num at within ⊢
      omega
    · have : (q + (23 : Nat) + (127 : Nat) - 1).toNat ≤ 252 := by omega
      omega

theorem fp32_write_lt (v : FVal) : (fp32.write RMode.rne v).1 < 2 ^ 32 := by
  cases v with
  | nan => decide
  | inf neg => cases neg <;> decide
  | fin m e => exact fp32_round_lt m e

/-- What an atomic leaves fits the word it is performed on. -/
theorem atomicNew_lt (op : AtomicOp) {n old : Nat} (v cmp : Nat) (wide : 4 ≤ n) (h : old < 2 ^ (8 * n)) : atomicNew op n old v cmp < 2 ^ (8 * n) := by
  have fits : v % 2 ^ (8 * n) < 2 ^ (8 * n) := Nat.mod_lt _ (Nat.two_pow_pos _)
  have single (x : FVal) : (fp32.write RMode.rne x).1 < 2 ^ (8 * n) :=
    Nat.lt_of_lt_of_le (fp32_write_lt x) (Nat.pow_le_pow_right (by omega) (by omega))
  cases op with
  | add => exact Nat.mod_lt _ (Nat.two_pow_pos _)
  | fadd | fmin | fmax => exact single _
  | swap => exact fits
  | min sg | max sg => cases sg <;> exact ite_lt fits h
  | cas => exact ite_lt fits h

end Sys2Proof.Proofs
end

section
/-! SUPPORT. Bytes written at their homes (R89, R119-R122, R311). -/

namespace Sys2Proof.Proofs
open Sys2Proof.Machine Sys2Proof.Claims

/-- Of bytes written at distinct addresses each reads back. -/
theorem memByte_memWrite_of_mem (m : List Host.Cell) {bs : List (Nat × Byte)} (distinct : (bs.map (·.1)).Nodup) {p : Nat × Byte} (h : p ∈ bs) :
    memByte (memWrite m bs) p.1 = p.2 := by
  induction bs generalizing m with
  | nil => cases h
  | cons b bs ih =>
    rw [List.map_cons, List.nodup_cons] at distinct
    obtain rfl | h := List.mem_cons.1 h
    · show memByte (memWrite (memSet m p.1 p.2) bs) p.1 = p.2
      rw [memByte_memWrite_other _ _ _ fun q hq e => distinct.1 (List.mem_map.2 ⟨q, hq, e⟩), memByte_memSet_self]
    · exact ih _ distinct.2 h

theorem mem_poisonWrite_other {ps : List (Nat × Bool)} {w : Nat} (h : ∀ p ∈ ps, p.1 ≠ w) (l : List Nat) : w ∈ poisonWrite l ps ↔ w ∈ l := by
  induction ps generalizing l with
  | nil => rfl
  | cons p ps ih =>
    have other : w ≠ p.1 := fun e => h p (by simp) e.symm
    refine (ih (fun q hq => h q (by simp [hq])) _).trans ?_
    dsimp only
    split
    · simp only [List.mem_append, List.mem_cons, List.mem_filter, decide_eq_true_eq]
      have := Nat.lt_or_gt_of_ne other
      tauto
    · simp [other]

theorem mem_blocksOf {n : Nat} {ws : List (Nat × Byte × Bool)} {b : Nat × Bool × Bool} (h : b ∈ blocksOf n ws) : ∃ w ∈ ws, w.1 / n = b.1 := by
  obtain ⟨k, hk, rfl⟩ := List.mem_map.1 h
  simpa using hk

/-- A write marks, and clears, only words that it writes to. -/
theorem mem_writeHome_poison {s : State} {ws : List (Nat × Byte × Bool)} {p : Nat × Bool} (h : p ∈ (s.writeHome ws).2.poison) :
    ∃ w ∈ ws, w.1 / 8 = p.1 := by
  obtain ⟨b, hb, hp⟩ := List.mem_filterMap.1 h
  obtain ⟨w, hw, at_⟩ := mem_blocksOf hb
  refine ⟨w, List.mem_of_mem_filter hw, at_.trans ?_⟩
  dsimp only at hp
  split at hp
  · rw [← Option.some.inj hp]
  · split at hp
    · rw [← Option.some.inj hp]
    · cases hp

theorem writeHome_bytes (s : State) (ws : List (Nat × Byte × Bool)) : (s.writeHome ws).2.bytes = ws.map fun w => (w.1, w.2.1) := rfl
theorem writeHome_clear (s : State) (ws : List (Nat × Byte × Bool)) : (s.writeHome ws).2.clear = false := rfl

theorem plistEnter_txns (s : State) (n unit : Nat) : (s.plistEnter n unit).txns = s.txns := by
  unfold State.plistEnter State.plistStat
  dsimp only
  split
  · rfl
  · rw [State.setFld_txns, State.setFld_txns, State.setFld_txns, State.modTier_txns]

theorem plistLeave_txns (s : State) (n unit : Nat) : (s.plistLeave n unit).txns = s.txns := by
  unfold State.plistLeave State.plistStat
  split
  · rw [State.setFld_txns, State.setFld_txns, State.setFld_txns, State.modTier_txns]
  · rfl

theorem plistAdd_txns (s : State) (n unit : Nat) : (s.plistAdd n unit).txns = s.txns := by
  unfold State.plistAdd
  dsimp only
  rw [plistEnter_txns]
  split
  · exact plistEnter_txns ..
  · rfl

theorem plistDel_txns (s : State) (n unit : Nat) : (s.plistDel n unit).txns = s.txns := by
  unfold State.plistDel
  dsimp only
  rw [plistLeave_txns]
  split
  · exact plistLeave_txns ..
  · rfl

theorem writeHome_txns (s : State) (ws : List (Nat × Byte × Bool)) : (s.writeHome ws).1.txns = s.txns := by
  unfold State.writeHome State.writePoison
  dsimp only
  refine (State.forAll_keeps State.txns _ _ (fun t b _ => ?_) _).trans (State.forAll_keeps State.txns _ _ (fun t b _ => ?_) _)
  · split
    · split
      · exact State.modTier_txns ..
      · split
        · exact State.modTier_txns ..
        · rfl
    · rfl
  · split
    · split
      · exact plistAdd_txns ..
      · split
        · exact plistDel_txns ..
        · rfl
    · rfl

end Sys2Proof.Proofs
end

section
/-! SUPPORT. A home performs an access of memory, or denies it (R119-R122, R311, R492). -/

namespace Sys2Proof.Proofs
open Sys2Proof.Machine Sys2Proof.Claims

theorem besidePoison_setFld (s : State) (a : Nat) (f : Field) (v : Nat) : besidePoison (s.setFld a f v) = besidePoison s := by
  unfold besidePoison State.setFld State.setReg
  rfl

theorem countFailed_rest (s : State) (as : List Nat) : besidePoison (s.countFailed as) = besidePoison s := by
  unfold State.countFailed
  refine State.forAll_keeps besidePoison _ _ (fun t w _ => ?_) s
  split
  · exact besidePoison_setFld ..
  · exact besidePoison_setFld ..
  · rfl

theorem countFailed_txns (s : State) (as : List Nat) : (s.countFailed as).txns = s.txns := by
  unfold State.countFailed
  refine State.forAll_keeps State.txns _ _ (fun t w _ => ?_) s
  split
  · exact State.incFld_txns ..
  · exact State.incFld_txns ..
  · rfl

/-- What a home leaves besides memory, the lists of poisoned units and the counts of failed storage, when it performs a write. -/
theorem written_rest (s : State) (ws : List (Nat × Byte × Bool)) (as : List Nat) :
    besidePoison ((s.writeHome ws).1.countFailed as) = besidePoison s := (countFailed_rest ..).trans (poisons_writeHome ..).rest

theorem written_txns (s : State) (ws : List (Nat × Byte × Bool)) (as : List Nat) : ((s.writeHome ws).1.countFailed as).txns = s.txns :=
  (countFailed_txns ..).trans (writeHome_txns ..)

/-- A home's write to memory. -/
def putHome (s : State) (ws : List (Nat × Byte × Bool)) (t : State) : State := s.commitMem (t, (s.writeHome ws).2)

theorem memByte_putHome_other {s t : State} {ws : List (Nat × Byte × Bool)} {a : Nat} (h : a ∉ ws.map (·.1)) :
    memByte (putHome s ws t).mem a = memByte s.mem a :=
  memByte_memWrite_other _ _ _ fun p hp e => by
    obtain ⟨w, hw, rfl⟩ := List.mem_map.1 hp
    exact h (List.mem_map.2 ⟨w, hw, e⟩)

theorem memByte_putHome {s t : State} {ws : List (Nat × Byte × Bool)} (distinct : (ws.map (·.1)).Nodup) {w : Nat × Byte × Bool} (h : w ∈ ws) :
    memByte (putHome s ws t).mem w.1 = w.2.1 := by
  have each : (ws.map fun w => (w.1, w.2.1)).map (·.1) = ws.map (·.1) := by simp
  exact memByte_memWrite_of_mem s.mem (each ▸ distinct) (List.mem_map.2 ⟨w, h, rfl⟩ : (w.1, w.2.1) ∈ _)

theorem mem_poison_putHome {s t : State} {ws : List (Nat × Byte × Bool)} {w : Nat} (h : ∀ a ∈ ws.map (·.1), a / 8 ≠ w) :
    w ∈ (putHome s ws t).poison ↔ w ∈ s.poison :=
  mem_poisonWrite_other (fun p hp e => by
    obtain ⟨x, hx, word⟩ := mem_writeHome_poison hp
    exact h x.1 (List.mem_map_of_mem hx) (word.trans e)) s.poison

theorem map_runOf (a : Nat) (bs : List Byte) : (runOf a bs).map (·.1) = addrs a bs.length := by
  simp only [runOf, List.map_zipWith, addrs]
  exact List.ext_getElem (by simp) (by simp)

theorem addrs_nodup (a n : Nat) : (addrs a n).Nodup := List.nodup_range.map fun _ _ h => by simpa using h

theorem bytes_putHome_runOf (s t : State) (a : Nat) (bs : List Byte) : (putHome s (runOf a bs) t).bytes a bs.length = bs := by
  have distinct : ((runOf a bs).map (·.1)).Nodup := map_runOf a bs ▸ addrs_nodup a _
  refine List.ext_getElem (by simp) fun i hi hb => ?_
  have written : (a + i, bs[i], false) ∈ runOf a bs :=
    List.mem_iff_getElem.2 ⟨i, by simpa [runOf] using hb, by simp [runOf]⟩
  simpa [State.bytes] using memByte_putHome (t := t) distinct written

theorem load_putHome_runOf (s t : State) (a : Nat) {n v : Nat} (h : v < 256 ^ n) : (putHome s (runOf a (toBytes n v)) t).load a n = v := by
  have back := bytes_putHome_runOf s t a (toBytes n v)
  rw [length_toBytes] at back
  exact (congrArg ofBytes back).trans (ofBytes_toBytes h)

theorem load_lt (s : State) (a n : Nat) : s.load a n < 2 ^ (8 * n) := by
  have := ofBytes_lt (s.bytes a n)
  rw [length_bytes] at this
  exact this.trans_eq (by rw [Nat.pow_mul])

/-! The log of the protection table -/

theorem rptLog_reregs (s : State) (a cls : Nat) (write : Bool) (r : Tab Word) : { s.rptLog a cls write with regs := r } = { s with regs := r } := by
  unfold State.rptLog State.incFld
  dsimp only
  rw [rereg_setFld]
  split
  · rfl
  · rw [rereg_setFld, rereg_setFld, rereg_setFld, rereg_setFld]

theorem rptLog_cores (s : State) (a cls : Nat) (write : Bool) : (s.rptLog a cls write).cores = s.cores :=
  (congrArg State.cores (rptLog_reregs s a cls write []) :)

theorem rptLog_txns (s : State) (a cls : Nat) (write : Bool) : (s.rptLog a cls write).txns = s.txns :=
  (congrArg State.txns (rptLog_reregs s a cls write []) :)

theorem rptLog_reg (s : State) (pa cls : Nat) (write : Bool) {a : Nat} (h : a ≠ aRPT_VIOL 0) : (s.rptLog pa cls write).reg a = s.reg a := by
  unfold State.rptLog State.incFld
  dsimp only
  rw [State.reg_setFld_ne _ _ _ h]
  split
  · rfl
  · rw [State.reg_setFld_ne _ _ _ h, State.reg_setFld_ne _ _ _ h, State.reg_setFld_ne _ _ _ h, State.reg_setFld_ne _ _ _ h]

theorem rptLog_count (s : State) (pa cls : Nat) (write : Bool) : (s.rptLog pa cls write).fld (aRPT_VIOL 0) RPT_VIOL.COUNT =
    min (RPT_VIOL.COUNT.size - 1) (s.fld (aRPT_VIOL 0) RPT_VIOL.COUNT + 1) := by
  unfold State.rptLog
  dsimp only
  rw [State.fld_incFld_self _ _ _ _ (by decide)]
  split
  · rfl
  · rw [State.fld_setFld_apart _ _ _ _ _ (by decide) (by decide), State.fld_setFld_apart _ _ _ _ _ (by decide) (by decide),
      State.fld_setFld_apart _ _ _ _ _ (by decide) (by decide), State.fld_setFld_apart _ _ _ _ _ (by decide) (by decide)]

/-! The commands of a home -/

section
variable {s : State} {id : Nat} {x : Txn}

theorem txn_id (h : s.txn id = some x) : x.id = id := by simpa using List.find?_some h

/-- The commands of homes that perform an access of memory. -/
def homeCommand (id : Nat) (x : Txn) : Instr :=
  match x.op, x.purpose with
  | .read _, .walk .. => .pageWalk id
  | .read _, _ => .homeRead id
  | .write _, _ => .homeWrite id
  | .atomic .., _ => .homeAtomic id

theorem exec_homeCommand_denied (h : s.txn id = some x) (serves : s.homeServes x = true) {a : Nat} (denied : s.rptCheck x = some a) :
    exec (homeCommand id x) s = .next (s.commit (s.deny x a)) := by
  unfold homeCommand
  split
  · next op purpose =>
    show execPageWalk id s = _
    simp [execPageWalk, h, op, purpose, serves, denied]; rfl
  · next op purpose =>
    show execHomeRead id s = _
    simp [execHomeRead, h, op, serves, denied]; rfl
  · next op =>
    show execHomeWrite id s = _
    simp [execHomeWrite, h, op, serves, denied]; rfl
  · next op =>
    show execHomeAtomic id s = _
    simp [execHomeAtomic, h, op, serves, denied]; rfl

/-- The home of an access that is none of those which answer in another way is of memory. -/
theorem home_of_memory {h : Home} (memory : h ≠ .control ∧ h ≠ .absent ∧ h ≠ .host 0 ∧ h ≠ .host 1) :
    (∃ n, h = .near n) ∨ (∃ n, h = .middle n) ∨ (∃ d n, h = .slice d n) ∨ ∃ c, h = .coreMem c := by
  obtain ⟨control, absent, host0, host1⟩ := memory
  match h with
  | .near n => exact .inl ⟨n, rfl⟩
  | .middle n => exact .inr (.inl ⟨n, rfl⟩)
  | .slice d n => exact .inr (.inr (.inl ⟨d, n, rfl⟩))
  | .coreMem c => exact .inr (.inr (.inr ⟨c, rfl⟩))
  | .control => exact absurd rfl control
  | .absent => exact absurd rfl absent
  | .host 0 => exact absurd rfl host0
  | .host 1 => exact absurd rfl host1

theorem exec_homeCommand (h : s.txn id = some x) (serves : s.homeServes x = true) (permitted : s.rptCheck x = none)
    (memory : x.home ≠ .control ∧ x.home ≠ .absent ∧ x.home ≠ .host 0 ∧ x.home ≠ .host 1) :
    exec (homeCommand id x) s = .next (s.commitMem (s.performMem x fun _ => false)) := by
  unfold homeCommand
  split
  · next op purpose =>
    show execPageWalk id s = _
    simp [execPageWalk, h, op, purpose, serves, permitted]; rfl
  · next op purpose =>
    show execHomeRead id s = _
    simp only [execHomeRead, h, op, serves, permitted]
    obtain ⟨n, at_⟩ | ⟨n, at_⟩ | ⟨d, n, at_⟩ | ⟨c, at_⟩ := home_of_memory memory <;> simp [at_] <;> rfl
  · next op =>
    show execHomeWrite id s = _
    simp only [execHomeWrite, h, op, serves, permitted]
    obtain ⟨n, at_⟩ | ⟨n, at_⟩ | ⟨d, n, at_⟩ | ⟨c, at_⟩ := home_of_memory memory <;> simp [at_] <;> rfl
  · next op =>
    show execHomeAtomic id s = _
    simp only [execHomeAtomic, h, op, serves, permitted]
    obtain ⟨n, at_⟩ | ⟨n, at_⟩ | ⟨d, n, at_⟩ | ⟨c, at_⟩ := home_of_memory memory <;> simp [at_] <;> rfl

/-! What they leave -/

theorem modTxn_txns (s : State) (id : Nat) (f : Txn → Txn) : (s.modTxn id f).txns = s.txns.map fun x => if x.id = id then f x else x := rfl

theorem performed_txns (s : State) (id : Nat) (bytes : List Byte) (bad : List Nat) : (s.performed id bytes bad).txns =
    s.txns.map fun y => if y.id = id then { y with stage := .performed, result := bytes, poisoned := bad, cancelled := y.cancelled || false } else y := by
  simp only [Bool.or_false]
  rfl

theorem performMem_read (h : s.txn id = some x) {as : List Nat} (op : x.op = .read as) :
    s.performMem x (fun _ => false) = ({ s with txns := s.txns.map fun y => if y.id = id then { y with
      stage := .performed, result := as.map (memByte s.mem), poisoned := as.filter s.badByte, cancelled := y.cancelled || s.overtakes x } else y },
      .none) := by
  have at_ := txn_id h
  simp only [State.performMem, op, Bool.false_or, at_]
  cases s.overtakes x with
  | false => exact congrArg (fun l => ({ s with txns := l }, MemUpd.none)) (performed_txns ..)
  | true =>
    rw [if_pos rfl]
    refine congrArg (fun l => ({ s with txns := l }, MemUpd.none)) ((List.map_map ..).trans (List.map_congr_left fun y _ => ?_))
    by_cases own : y.id = id <;> simp [own]

theorem homeRead_answers (h : s.txn id = some x) (serves : s.homeServes x = true) (permitted : s.rptCheck x = none)
    (memory : x.home ≠ .control ∧ x.home ≠ .absent ∧ x.home ≠ .host 0 ∧ x.home ≠ .host 1) {as : List Nat} (op : x.op = .read as) :
    Answers (homeCommand id x) s fun u => u.txns = (s.txns.map fun y => if y.id = id then { y with
      stage := .performed, result := as.map (memByte s.mem), poisoned := as.filter s.badByte, cancelled := y.cancelled || s.overtakes x } else y) ∧
      { u with txns := s.txns } = s := by
  have done := exec_homeCommand h serves permitted memory
  rw [performMem_read h op] at done
  exact ⟨_, done, ⟨rfl, rfl, rfl⟩, rfl, rfl⟩

/-- What a denial leaves: the log of the table, and the access denied. -/
theorem homeCommand_denies (h : s.txn id = some x) (serves : s.homeServes x = true) {a : Nat} (denied : s.rptCheck x = some a) :
    Answers (homeCommand id x) s fun u => u.cores = s.cores ∧
      u.txns = s.txns.map (fun y => if y.id = id then { y with stage := .denied } else y) ∧
      u.fld (aRPT_VIOL 0) RPT_VIOL.COUNT = min (RPT_VIOL.COUNT.size - 1) (s.fld (aRPT_VIOL 0) RPT_VIOL.COUNT + 1) ∧ RegsBut s u [aRPT_VIOL 0] := by
  have step := exec_homeCommand_denied h serves denied
  unfold State.deny at step
  refine answers_commit _ step ⟨?_, ?_, ?_, fun b hb => ?_⟩
  · rw [State.commit_cores, State.modTxn_cores, rptLog_cores]
  · rw [State.commit_txns, modTxn_txns, rptLog_txns, txn_id h]
  · rw [State.fld_commit, State.fld_modTxn, rptLog_count]
  · rw [State.reg_commit, State.reg_modTxn, rptLog_reg _ _ _ _ fun e => hb (e ▸ List.mem_singleton_self _)]

theorem homeWrite_answers (h : s.txn id = some x) (serves : s.homeServes x = true) (permitted : s.rptCheck x = none)
    (memory : x.home ≠ .control ∧ x.home ≠ .absent ∧ x.home ≠ .host 0 ∧ x.home ≠ .host 1) {ws : List (Nat × Byte × Bool)} (op : x.op = .write ws) :
    ∃ t, exec (homeCommand id x) s = .next (putHome s ws t) ∧ besidePoison t = besidePoison s ∧
      t.txns = s.txns.map fun y => if y.id = id then { y with stage := .performed, result := [], poisoned := [], cancelled := y.cancelled || false } else y := by
  refine ⟨((s.writeHome ws).1.countFailed (ws.map (·.1))).performed id [] [], ?_, (poisons_modTxn ..).rest.trans (written_rest ..), ?_⟩
  · rw [exec_homeCommand h serves permitted memory, ← txn_id h]
    simp only [State.performMem, op]
    rfl
  · rw [performed_txns, written_txns]

theorem homeAtomic_answers (h : s.txn id = some x) (serves : s.homeServes x = true) (permitted : s.rptCheck x = none)
    (memory : x.home ≠ .control ∧ x.home ≠ .absent ∧ x.home ≠ .host 0 ∧ x.home ≠ .host 1) {op : AtomicOp} {n v cmp : Nat} {ret : Bool}
    (atomic : x.op = .atomic op n v cmp ret) (clean : ∀ a ∈ addrs x.addr n, s.badByte a = false) :
    ∃ t, exec (homeCommand id x) s = .next (putHome s (runOf x.addr (toBytes n (atomicNew op n (s.load x.addr n) v cmp))) t) ∧
      besidePoison t = besidePoison s ∧ t.txns = s.txns.map fun y => if y.id = id then
        { y with stage := .performed, result := s.bytes x.addr n, poisoned := [], cancelled := y.cancelled || false } else y := by
  refine ⟨((s.writeHome (runOf x.addr (toBytes n (atomicNew op n (s.load x.addr n) v cmp)))).1.countFailed (addrs x.addr n)).performed id
    (s.bytes x.addr n) [], ?_, (poisons_modTxn ..).rest.trans (written_rest ..), ?_⟩
  · have clean' : ((addrs x.addr n).filter fun a => false || s.badByte a).isEmpty = true := by simpa using clean
    rw [exec_homeCommand h serves permitted memory, ← txn_id h]
    simp only [State.performMem, atomic]
    rw [show (List.range n).map (x.addr + ·) = addrs x.addr n from rfl, if_pos clean']
    rfl
  · rw [performed_txns, written_txns]

end

/-- Settles O28: by the operation, each command of a home performs the access on memory as one or logs its denial. -/
theorem homesPerform : Obligations.HomesPerform := by
  intro s id x h serves
  have denies {i : Instr} (command : homeCommand id x = i) (a : Nat) (ha : s.rptCheck x = some a) := command ▸ homeCommand_denies h serves ha
  refine ⟨fun as op => ?_, fun ws op => ?_, fun op n v cmp ret atomic size => ?_⟩
  · have command : homeCommand id x = if (match x.purpose with | .walk .. => true | _ => false) then .pageWalk id else .homeRead id := by
      simp only [homeCommand, op]
      cases x.purpose <;> rfl
    refine ⟨fun permitted memory => ?_, denies command⟩
    obtain ⟨u, step, quiet, done, same⟩ := homeRead_answers h serves permitted memory op
    exact ⟨u, command ▸ step, quiet, done, same⟩
  · have command : homeCommand id x = .homeWrite id := by simp only [homeCommand, op]
    refine ⟨fun permitted memory distinct => ?_, denies command⟩
    obtain ⟨t, step, rest, done⟩ := homeWrite_answers h serves permitted memory op
    exact ⟨_, command ▸ step, ⟨fun a ha => memByte_putHome_other ha, (congrArg State.cores rest :), rfl, fun w hw => mem_poison_putHome hw⟩, done,
      fun w hw => memByte_putHome distinct hw⟩
  · have command : homeCommand id x = .homeAtomic id := by simp only [homeCommand, atomic]
    refine ⟨fun permitted memory clean => ?_, denies command⟩
    obtain ⟨t, step, rest, done⟩ := homeAtomic_answers h serves permitted memory atomic clean
    have touched := map_runOf x.addr (toBytes n (atomicNew op n (s.load x.addr n) v cmp))
    rw [length_toBytes] at touched
    have fits := atomicNew_lt op v cmp (by omega) (load_lt s x.addr n)
    rw [Nat.pow_mul] at fits
    exact ⟨_, command ▸ step, ⟨fun a ha => memByte_putHome_other (touched ▸ ha), (congrArg State.cores rest :), rfl,
      fun w hw => mem_poison_putHome (touched ▸ hw)⟩, done, load_putHome_runOf _ _ _ fits⟩

end Sys2Proof.Proofs
end

section
/-! SUPPORT. What a host reaches through BAR2, and the answers of its window (R91, R93, R441, R443-R446). -/

namespace Sys2Proof.Proofs
open Sys2Proof.Machine Sys2Proof.Claims

section Arrival
variable {s : State} {p : Port}

theorem live_of_up (up : (s.port p).up = true) (d0 : (s.port p).d3 = false) : (s.port p).live = true := by
  simp [PortSt.live, up, d0]

theorem bar2Arrive_waits (up : (s.port p).up = true) (d0 : (s.port p).d3 = false) {o : Bar2Op} (waits : s.bar2Waits p o s.bar2 = true) :
    s.bar2Arrive p o = ({ s with bar2 := s.bar2 ++ [(p, o)] }, .none) := by
  simp [State.bar2Arrive, live_of_up up d0, d0, waits]

theorem bar2Arrive_free (up : (s.port p).up = true) (d0 : (s.port p).d3 = false) {o : Bar2Op} (free : s.bar2Waits p o s.bar2 = false) :
    s.bar2Arrive p o = s.bar2Do p o := by
  simp [State.bar2Arrive, live_of_up up d0, d0, free]

theorem bar2Arrive_d3_read (up : (s.port p).up = true) (d3 : (s.port p).d3 = true) (off n : Nat) :
    s.bar2Arrive p (.read off n) = ((s.emit p .unsupported).aerSet p 20, .none) := by
  simp [State.bar2Arrive, up, d3]

theorem bar2Arrive_d3_atomic (up : (s.port p).up = true) (d3 : (s.port p).d3 = true) (off : Nat) (op : AtomicOp) (size : Fin 3) (v cmp : Word) :
    s.bar2Arrive p (.atomic off op size v cmp) = ((s.emit p .unsupported).aerSet p 20, .none) := by
  simp [State.bar2Arrive, up, d3]

theorem bar2Arrive_d3_write (up : (s.port p).up = true) (d3 : (s.port p).d3 = true) (off : Nat) (data : List Byte) (bad : Bool) :
    s.bar2Arrive p (.write off data bad) = (s.aerSet p 20, .none) := by
  simp [State.bar2Arrive, up, d3]

end Arrival

/-! Refusals and failed reads -/

theorem out_aerSet (s : State) (p : Port) (i : Nat) : ((s.aerSet p i).port p).out = (s.port p).out := by
  simp [State.aerSet]

theorem tells_aerSet (s : State) (p : Port) (i : Nat) : Tells s (s.aerSet p i) :=
  tells_modPort _ _ _ fun _ => ⟨rfl, rfl, List.Subset.refl _⟩

/-- ERR_BAR2 and ERR_HOST are no registers that a message to a host changes. -/
theorem not_hostReg_errors (p : Port) : ¬HostReg (aERR_BAR2 p) ∧ ¬HostReg (aERR_HOST p) := by
  have := p.isLt
  constructor <;>
  · rintro ⟨x, hx⟩
    have := x.isLt
    simp only [aERR_LINK, aEVT_STAT, aPBA, aERR_SUM, aERR_BAR2, aERR_HOST, bar0, ctrlBase] at hx
    omega

theorem cores_of_besideHost {s u : State} (h : besideHost u = besideHost s) : u.cores = s.cores := (congrArg State.cores h :)
theorem images_of_besideHost {s u : State} (h : besideHost u = besideHost s) : u.images = s.images := (congrArg State.images h :)

/-- What the log of the protection table and a count of errors leave. -/
theorem besideHost_rptLog (s : State) (a cls : Nat) (write : Bool) : besideHost (s.rptLog a cls write) = besideHost s :=
  (congrArg (fun t : State => { t with ports := State.reset.ports }) (rptLog_reregs s a cls write []) :)

theorem besideHost_setFld (s : State) (a : Nat) (f : Field) (v : Nat) : besideHost (s.setFld a f v) = besideHost s := by
  unfold besideHost State.setFld State.setReg
  rfl

theorem aERR_BAR2_ne_rptViol (p : Port) : aERR_BAR2 p ≠ aRPT_VIOL 0 := by
  have := p.isLt
  simp only [aERR_BAR2, aRPT_VIOL, bar0, mgmtBlk, ctrlBase]
  omega

/-- A refusal counts the access and leaves all but control space and the ports. -/
theorem bar2Refuse_counts (s : State) (p : Port) (write : Bool) (as : List Nat) {f : Field} (fits : f.fits)
    (which : f = if write then ERR_BAR2.DROPPED_WRITES else ERR_BAR2.CA_READS) :
    besideHost (s.bar2Refuse p write as) = besideHost s ∧
      (s.bar2Refuse p write as).fld (aERR_BAR2 p) f = min (f.size - 1) (s.fld (aERR_BAR2 p) f + 1) := by
  have marks (u : State) : Tells u (if write then u else u.aerSet p 15) := by
    split
    · exact .refl _
    · exact tells_aerSet ..
  have reported := (not_hostReg_errors p).1
  have counts {u : State} (rest : besideHost u = besideHost s) (same : u.fld (aERR_BAR2 p) f = s.fld (aERR_BAR2 p) f) {v : State} (marked : Tells u v) :
      besideHost ((v.incFld (aERR_BAR2 p) f 1).errSum p ERR_SUM.BAR2 1) = besideHost s ∧
        ((v.incFld (aERR_BAR2 p) f 1).errSum p ERR_SUM.BAR2 1).fld (aERR_BAR2 p) f = min (f.size - 1) (s.fld (aERR_BAR2 p) f + 1) := by
    have summed := tells_errSum (v.incFld (aERR_BAR2 p) f 1) p ERR_SUM.BAR2 1
    constructor
    · rw [summed.rest, State.incFld, besideHost_setFld, marked.rest, rest]
    · rw [summed.fld reported, State.fld_incFld_self _ _ _ _ fits, marked.fld reported, same]
  unfold State.bar2Refuse
  rw [← which]
  split
  · exact counts (besideHost_rptLog ..) (fld_of_reg (rptLog_reg s _ _ _ (aERR_BAR2_ne_rptViol p)) f) (marks _)
  · exact counts rfl rfl (marks _)

/-- A failed read of host memory is counted, and leaves all but control space and the ports. -/
theorem hostReadFailed_counts (s : State) (p : Port) {x : HostData} {f : Field} (fits : f.fits)
    (which : x = .unsupported ∧ f = ERR_HOST.UR_CA ∨ x = .aborted ∧ f = ERR_HOST.UR_CA ∨ x = .timeout ∧ f = ERR_HOST.CTO ∨
      x = .poisoned ∧ f = ERR_HOST.POISONED) :
    besideHost (s.hostReadFailed p x) = besideHost s ∧
      (s.hostReadFailed p x).fld (aERR_HOST p) f = min (f.size - 1) (s.fld (aERR_HOST p) f + 1) := by
  have counted : besideHost (s.incFld (aERR_HOST p) f 1) = besideHost s := besideHost_setFld ..
  have count := State.fld_incFld_self s (aERR_HOST p) f 1 fits
  have tells : ∃ u, Tells (s.incFld (aERR_HOST p) f 1) u ∧ s.hostReadFailed p x = u := by
    obtain ⟨rfl, rfl⟩ | ⟨rfl, rfl⟩ | ⟨rfl, rfl⟩ | ⟨rfl, rfl⟩ := which
    · exact ⟨_, tells_errSum .., rfl⟩
    · exact ⟨_, tells_errSum .., rfl⟩
    · exact ⟨_, (tells_aerSet ..).trans (tells_errSum ..), rfl⟩
    · exact ⟨_, (tells_aerSet ..).trans (tells_errSum ..), rfl⟩
  obtain ⟨u, told, rfl⟩ := tells
  exact ⟨told.rest.trans counted, (told.fld (not_hostReg_errors p).2 f).trans count⟩

/-! Accesses of a port that is up, and what they answer -/

section Performed
variable {s : State} {p : Port}

/-- What a message and a mark of AER leave. -/
theorem emit_frame (s : State) (p : Port) (t : Tlp) : (s.emit p t).regs = s.regs ∧ (s.emit p t).cores = s.cores ∧ (s.emit p t).images = s.images ∧
    ((s.emit p t).port p).out = t :: (s.port p).out := by
  refine ⟨rfl, rfl, rfl, ?_⟩
  simp [State.emit]

theorem bar2Read_refuses (free : s.bar2Waits p (.read off n) s.bar2 = false) (up : (s.port p).up = true) (d0 : (s.port p).d3 = false)
    (refused : (s.bar2Run p off n).all (s.bar2Ok p false) = false) :
    exec (.bar2Read p off n) s = .next (s.commit ((s.bar2Refuse p false (s.bar2Run p off n)).emit p .abort)) := by
  have read : s.bar2Read p off n = (s.bar2Refuse p false (s.bar2Run p off n)).emit p .abort := by simp [State.bar2Read, refused]
  show s.doneMem (s.bar2Arrive p (.read off n)) = _
  rw [bar2Arrive_free up d0 free, State.bar2Do, read]
  rfl

theorem bar2Read_completes (free : s.bar2Waits p (.read off n) s.bar2 = false) (up : (s.port p).up = true) (d0 : (s.port p).d3 = false)
    (granted : (s.bar2Run p off n).all (s.bar2Ok p false) = true) : exec (.bar2Read p off n) s = .next (s.commit (s.emit p
      (.completion ((s.bar2Run p off n).map (memByte s.mem)) ((s.bar2Run p off n).any s.badByte)))) := by
  show s.doneMem (s.bar2Arrive p (.read off n)) = _
  rw [bar2Arrive_free up d0 free, State.bar2Do, State.bar2Read, if_pos granted]
  rfl

/-- A permitted write, as bytes of its homes. -/
def bar2Bytes (s : State) (p : Port) (off : Nat) (data : List Byte) : List (Nat × Byte × Bool) :=
  (s.bar2Run p off data.length).zipWith (fun a b => (a, b, false)) data

theorem map_bar2Bytes (s : State) (p : Port) (off : Nat) (data : List Byte) : (bar2Bytes s p off data).map (·.1) = s.bar2Run p off data.length := by
  refine List.ext_getElem (by simp [bar2Bytes, State.bar2Run]) fun i hi hj => ?_
  simp [bar2Bytes]

theorem mem_bar2Bytes (s : State) (p : Port) (off : Nat) {data : List Byte} {i : Nat} (h : i < data.length) :
    (s.bar2Addr p (off + i), data[i], false) ∈ bar2Bytes s p off data :=
  List.mem_iff_getElem.2 ⟨i, by simpa [bar2Bytes, State.bar2Run] using h, by simp [bar2Bytes, State.bar2Run]⟩

theorem bar2Write_performs {data : List Byte} (free : s.bar2Waits p (.write off data false) s.bar2 = false) (up : (s.port p).up = true)
    (d0 : (s.port p).d3 = false) (granted : (s.bar2Run p off data.length).all (s.bar2Ok p true) = true) :
    ∃ t, exec (.bar2Write p off data false) s = .next (putHome s (bar2Bytes s p off data) t) ∧ besidePoison t = besidePoison s := by
  refine ⟨(s.writeHome (bar2Bytes s p off data)).1.countFailed (s.bar2Run p off data.length), ?_, written_rest ..⟩
  show s.doneMem (s.bar2Arrive p (.write off data false)) = _
  rw [bar2Arrive_free up d0 free, State.bar2Do, State.bar2Write]
  simp only [Bool.false_eq_true, if_false, if_pos granted]
  rfl

theorem bar2Write_refuses {data : List Byte} (free : s.bar2Waits p (.write off data false) s.bar2 = false) (up : (s.port p).up = true)
    (d0 : (s.port p).d3 = false) (refused : (s.bar2Run p off data.length).all (s.bar2Ok p true) = false) :
    exec (.bar2Write p off data false) s = .next (s.commit (s.bar2Refuse p true (s.bar2Run p off data.length))) := by
  show s.doneMem (s.bar2Arrive p (.write off data false)) = _
  rw [bar2Arrive_free up d0 free, State.bar2Do, State.bar2Write]
  simp only [Bool.false_eq_true, if_false, refused]
  rfl

/-- The word that an AtomicOp leaves. -/
def bar2Word (s : State) (a : Nat) (op : AtomicOp) (v cmp : Word) : Nat := atomicNew op 8 (s.load a 8) v.toNat cmp.toNat

theorem bar2Atomic_performs {op : AtomicOp} {v cmp : Word} (kind : op = .add ∨ op = .swap ∨ op = .cas)
    (free : s.bar2Waits p (.atomic off op 1 v cmp) s.bar2 = false) (up : (s.port p).up = true) (d0 : (s.port p).d3 = false) (aligned : off % 8 = 0)
    (granted : (s.bar2Run p off 8).all (s.bar2Ok p true) = true) (clean : (s.bar2Run p off 8).any s.badByte = false) :
    ∃ t, exec (.bar2Atomicop p off op 1 v cmp) s = .next (putHome s (runOf (s.bar2Addr p off) (toBytes 8 (bar2Word s (s.bar2Addr p off) op v cmp)))
        (t.emit p (.completion (s.bytes (s.bar2Addr p off) 8) false))) ∧ besidePoison t = besidePoison s := by
  refine ⟨(s.writeHome (runOf (s.bar2Addr p off) (toBytes 8 (bar2Word s (s.bar2Addr p off) op v cmp)))).1.countFailed (s.bar2Run p off 8),
    ?_, written_rest ..⟩
  have listed : bar2Atomic op 1 off = true := by
    obtain rfl | rfl | rfl := kind <;> simp [bar2Atomic, aligned]
  show s.doneMem (s.bar2Arrive p (.atomic off op 1 v cmp)) = _
  rw [bar2Arrive_free up d0 free, State.bar2Do, State.bar2AtomicOp]
  simp only [Nat.reducePow, Nat.reduceMul, Fin.val_one, Fin.isValue, listed, granted, clean, Bool.not_true, Bool.false_eq_true, if_false]
  unfold putHome bar2Word State.load State.doneMem
  rfl

end Performed

/-! The host's window -/

section Asked
variable {s : State} {id : Nat} {p : Port} {x : Txn}

theorem asked_id (h : s.asked id = some (p, x)) : x.id = id := by
  obtain ⟨y, found, hy⟩ := Option.bind_eq_some_iff.1 h
  split at hy
  · cases hy; exact txn_id found
  · cases hy

/-- An access of the host's window as its answer leaves it. -/
def answered (s : State) (x : Txn) (bytes : List Byte) (bad : List Nat) : List Txn :=
  s.txns.map fun y => if y.id = x.id then { y with stage := .performed, result := bytes, poisoned := bad } else y

/-- A failed read of the host's window ends with poison. -/
theorem hostPoison_answers {i : Instr} {r : HostData} {f : Field}
    (step : exec i s = .next (s.commit ((s.hostReadFailed p r).hostPoison x))) (fits : f.fits)
    (which : r = .unsupported ∧ f = ERR_HOST.UR_CA ∨ r = .aborted ∧ f = ERR_HOST.UR_CA ∨ r = .timeout ∧ f = ERR_HOST.CTO ∨
      r = .poisoned ∧ f = ERR_HOST.POISONED) :
    Answers i s fun u => (u.cores = s.cores ∧ u.txns = answered s x ((x.op.addrs x.addr).map fun _ => 0) (x.op.addrs x.addr)) ∧
      u.fld (aERR_HOST p) f = min (f.size - 1) (s.fld (aERR_HOST p) f + 1) := by
  obtain ⟨rest, count⟩ := hostReadFailed_counts s p fits which
  have cores : (s.hostReadFailed p r).cores = s.cores := (congrArg State.cores rest :)
  have txns : (s.hostReadFailed p r).txns = s.txns := (congrArg State.txns rest :)
  unfold State.hostPoison State.performed at step
  refine answers_commit _ step ⟨⟨?_, ?_⟩, ?_⟩
  · rw [State.commit_cores, State.modTxn_cores, cores]
  · rw [State.commit_txns, modTxn_txns, txns]
    rfl
  · rw [State.fld_commit, State.fld_modTxn, count]

end Asked

/-! What an access waits for, and what it is refused in D3hot -/

section Arrival
variable {s : State} {p : Port}

theorem exec_waits (up : (s.port p).up = true) (d0 : (s.port p).d3 = false) {o : Bar2Op} (waits : s.bar2Waits p o s.bar2 = true) :
    s.doneMem (s.bar2Arrive p o) = .next { s with bar2 := s.bar2 ++ [(p, o)] } := by
  rw [bar2Arrive_waits up d0 waits]
  rfl

/-- An access that asks for an answer gets Unsupported Request. -/
theorem unsupported_answers {i : Instr} (step : exec i s = s.doneMem ((s.emit p .unsupported).aerSet p 20, .none)) :
    Answers i s fun u => .unsupported ∈ (u.port p).out ∧ u.regs = s.regs ∧ u.cores = s.cores := by
  refine answers_commit ((s.emit p .unsupported).aerSet p 20) step ⟨?_, rfl, rfl⟩
  rw [State.port_commit, out_aerSet]
  exact mem_out_emit ..

end Arrival

/-- Settles O41: each access by whether it waits, is permitted, or finds its port in D3hot, and each answer of a host by its kind. -/
theorem hostAccesses : Obligations.HostAccesses := by
  refine ⟨fun s p off n v cmp data up d0 => ⟨exec_waits up d0, fun bad => exec_waits up d0, fun op size => exec_waits up d0,
      fun free granted => ?_, fun free refused => ?_, fun free granted distinct => ?_, fun free refused => ?_,
      fun op kind free aligned granted clean => ?_⟩,
    fun s p off n v cmp data bad op size up d3 => ⟨?_, ?_, ?_⟩, fun s id p x asked => ⟨fun bs len => ?_, ?_, ?_, ?_, fun off => ?_, fun on => ?_⟩⟩
  · obtain ⟨regs, cores, images, out⟩ := emit_frame s p (.completion ((s.bar2Run p off n).map (memByte s.mem)) ((s.bar2Run p off n).any s.badByte))
    exact answers_commit _ (bar2Read_completes free up d0 granted) ⟨⟨cores, images, rfl⟩, regs, out⟩
  · obtain ⟨rest, count⟩ := bar2Refuse_counts s p false (s.bar2Run p off n) (f := ERR_BAR2.CA_READS) (by decide) rfl
    have step := bar2Read_refuses free up d0 refused
    obtain ⟨regs, cores, images, out⟩ := emit_frame (s.bar2Refuse p false (s.bar2Run p off n)) p .abort
    refine answers_commit _ step ⟨⟨?_, ?_, State.commit_pending ..⟩, ?_, ?_⟩
    · rw [State.commit_cores, cores, cores_of_besideHost rest]
    · rw [State.commit_images, images, images_of_besideHost rest]
    · rw [State.port_commit, out]
      exact List.mem_cons_self
    · rw [State.fld_commit, fld_of_reg (reg_of_regs regs _), count]
      norm_num [Field.size, ERR_BAR2.CA_READS]
  · obtain ⟨t, step, rest⟩ := bar2Write_performs free up d0 granted
    have touched := map_bar2Bytes s p off data
    exact ⟨_, step, ⟨(congrArg State.cores rest :), (congrArg State.images rest :), rfl⟩,
      fun i hi => memByte_putHome (touched ▸ distinct) (mem_bar2Bytes s p off hi), fun a ha => memByte_putHome_other (touched ▸ ha)⟩
  · obtain ⟨rest, count⟩ := bar2Refuse_counts s p true (s.bar2Run p off data.length) (f := ERR_BAR2.DROPPED_WRITES) (by decide) rfl
    refine answers_commit _ (bar2Write_refuses free up d0 refused) ⟨⟨?_, ?_, State.commit_pending ..⟩, ?_⟩
    · rw [State.commit_cores, cores_of_besideHost rest]
    · rw [State.commit_images, images_of_besideHost rest]
    · rw [State.fld_commit, count]
      norm_num [Field.size, ERR_BAR2.DROPPED_WRITES]
  · obtain ⟨t, step, rest⟩ := bar2Atomic_performs kind free up d0 aligned granted clean
    have touched := map_runOf (s.bar2Addr p off) (toBytes 8 (bar2Word s (s.bar2Addr p off) op v cmp))
    rw [length_toBytes] at touched
    have fits : bar2Word s (s.bar2Addr p off) op v cmp < 256 ^ 8 := (atomicNew_lt op _ _ (n := 8) (by decide) (load_lt s _ 8)).trans_eq (by norm_num)
    have left := load_putHome_runOf s (t.emit p (.completion (s.bytes (s.bar2Addr p off) 8) false)) (s.bar2Addr p off) fits
    have word : v.toNat % 2 ^ 64 = v.toNat := Nat.mod_eq_of_lt v.isLt
    have compared : cmp.toNat % 2 ^ 64 = cmp.toNat := Nat.mod_eq_of_lt cmp.isLt
    refine ⟨_, step, ⟨(congrArg State.cores rest :), (congrArg State.images rest :), rfl⟩, mem_out_emit .., fun x hx => ?_, left.trans ?_⟩
    · refine memByte_putHome_other (touched ▸ fun mem => hx ?_)
      obtain ⟨i, hi, rfl⟩ := List.mem_map.1 mem
      have := List.mem_range.1 hi
      omega
    · obtain rfl | rfl | rfl := kind <;> simp only [bar2Word, atomicNew, Nat.reduceMul, word, compared]
  · exact unsupported_answers (congrArg s.doneMem (bar2Arrive_d3_read up d3 off n))
  · refine answers_commit (s.aerSet p 20) (congrArg s.doneMem (bar2Arrive_d3_write up d3 off data bad)) ⟨?_, rfl, rfl⟩
    rw [State.port_commit, out_aerSet]
  · exact unsupported_answers (congrArg s.doneMem (bar2Arrive_d3_atomic up d3 off op size v cmp))
  · refine answers_commit (s.performed id bs []) ?_ ⟨⟨rfl, ?_⟩, rfl⟩
    · simp [exec, execHostWindowCompletion, asked, len, State.done]
    · rw [State.commit_txns, asked_id asked]
      rfl
  · exact hostPoison_answers (f := ERR_HOST.UR_CA) (by simp [exec, execHostWindowCompletion, asked, State.done]) (by decide) (.inl ⟨rfl, rfl⟩)
  · exact hostPoison_answers (f := ERR_HOST.UR_CA) (by simp [exec, execHostWindowCompletion, asked, State.done]) (by decide) (.inr (.inl ⟨rfl, rfl⟩))
  · exact hostPoison_answers (f := ERR_HOST.POISONED) (by simp [exec, execHostWindowCompletion, asked, State.done]) (by decide)
      (.inr (.inr (.inr ⟨rfl, rfl⟩)))
  · simp only [exec, execHostCompletionTimeout, asked, off, State.done, if_true, commit_self]
  · exact hostPoison_answers (f := ERR_HOST.CTO) (by simp [exec, execHostCompletionTimeout, asked, on, State.done]) (by decide)
      (.inr (.inr (.inl ⟨rfl, rfl⟩)))

end Sys2Proof.Proofs
end

section
/-! SUPPORT. Answers to a thread: the registers they write, the signals they fire and the waits they end (R125, R150, R159, R191, R203). -/

namespace Sys2Proof.Proofs
open Sys2Proof.Machine Sys2Proof.Claims

/-- What a thread holds that neither a signal nor the end of a wait changes. -/
def held (th : Thread) :=
  (th.d, th.a, th.m, th.p, th.owed, th.imprecise)

/-- From `s` on at most one thread has changed, and no register of control space. -/
structure OnlyThread (s u : State) (c : CoreId) (t : Thr) : Prop where
  regs : u.regs = s.regs
  cores : CoresBut s u c
  threads : ∀ y, y ≠ t → u.thr c y = s.thr c y

theorem OnlyThread.refl (s : State) (c : CoreId) (t : Thr) : OnlyThread s s c t := ⟨rfl, fun _ _ => rfl, fun _ _ => rfl⟩

theorem OnlyThread.trans {s u v : State} {c : CoreId} {t : Thr} (h : OnlyThread s u c t) (k : OnlyThread u v c t) : OnlyThread s v c t :=
  ⟨k.regs.trans h.regs, fun x hx => (k.cores x hx).trans (h.cores x hx), fun y hy => (k.threads y hy).trans (h.threads y hy)⟩

theorem onlyThread_modThr (s : State) (c : CoreId) (t : Thr) (f : Thread → Thread) : OnlyThread s (s.modThr c t f) c t :=
  ⟨rfl, fun _ hx => s.core_modThr_ne t f hx, fun _ hy => s.thr_modThr_ne f fun h => hy h.2⟩

theorem onlyThread_dropTxn (s : State) (id : Nat) (c : CoreId) (t : Thr) : OnlyThread s (s.dropTxn id) c t :=
  ⟨rfl, fun _ _ => rfl, fun _ _ => rfl⟩

/-- One thread alone has changed, and of it nothing that it holds. -/
structure Holds (s u : State) (c : CoreId) (t : Thr) : Prop where
  only : OnlyThread s u c t
  held : held (u.thr c t) = held (s.thr c t)

theorem Holds.refl (s : State) (c : CoreId) (t : Thr) : Holds s s c t := ⟨.refl s c t, rfl⟩

theorem Holds.trans {s u v : State} {c : CoreId} {t : Thr} (h : Holds s u c t) (k : Holds u v c t) : Holds s v c t :=
  ⟨h.only.trans k.only, k.held.trans h.held⟩

theorem holds_modThr (s : State) (c : CoreId) (t : Thr) {f : Thread → Thread} (hf : ∀ th, held (f th) = held th) : Holds s (s.modThr c t f) c t :=
  ⟨onlyThread_modThr .., by rw [State.thr_modThr_self, hf]⟩

theorem holds_sendSync (s : State) (c : CoreId) (t : Thr) (who : Waiter) (n : Nat) (o : SyncObj) (k : SyncKind) (slot : Nat) (pc : Addr) (pr : Nat) :
    Holds s (s.sendSync who n o k slot pc pr) c t := ⟨⟨rfl, fun _ _ => rfl, fun _ _ => rfl⟩, rfl⟩

theorem held_wake (th : Thread) : held th.wake = held th := by
  unfold Thread.wake
  split <;> rfl

theorem held_flagDown (n : Nat) (th : Thread) : held (th.flagDown n) = held th := by
  unfold Thread.flagDown
  dsimp only
  split
  · exact held_wake _
  · rfl

theorem holds_fire (s : State) (c : CoreId) (t : Thr) (n : Nat) (sc : Word) (pc : Addr) (pr : Nat) : Holds s (s.fire c t n sc pc pr) c t := by
  unfold State.fire
  split
  · exact .refl ..
  · split
    · exact holds_modThr _ _ _ (held_flagDown n)
    · split
      · exact holds_sendSync ..
      · exact holds_sendSync ..
      · exact .refl ..

theorem holds_land (s : State) (c : CoreId) (t : Thr) (key : Nat) : Holds s (s.land c t key) c t := by
  unfold State.land
  split
  · exact .refl ..
  · next f _ =>
    dsimp only
    have fired := (holds_modThr s c t (f := fun th => { th with flights := th.flights.filter (·.key ≠ key) }) fun _ => rfl).trans
      (holds_fire _ c t f.signal f.sc f.pc f.priv)
    split
    · exact fired
    · next g _ =>
      split
      · split
        · exact (fired.trans (holds_modThr _ c t (f := fun th => { th with flights := th.flights.filter (·.key ≠ g) }) fun _ => rfl)).trans
            (holds_fire ..)
        · exact fired
      · exact fired

theorem holds_fenceWake (s : State) (c : CoreId) (t : Thr) : Holds s (s.fenceWake c t) c t := by
  unfold State.fenceWake
  split
  · exact holds_modThr _ _ _ held_wake
  · exact .refl ..

/-! What an answer leaves -/

/-- What is owed once the register `rt` has its answer. -/
def owedAfter (th : Thread) (rt key : Nat) : List (Nat × Nat) := th.owed.filter fun o => o ≠ (rt, key) ∧ (o.2 = key → 0x30 ≤ o.1 ∨ o.1 < 0x20)

/-- A thread as an operation that is over leaves it, before its signal. -/
def settled (key rt : Nat) (th : Thread) : Thread :=
  let th := { th with owed := owedAfter th rt key, steps := th.steps.filter (·.1 ≠ key) }
  match th.stall with
  | .operand keys => if keys.contains key && !th.owed.any (fun o => keys.contains o.2) then th.wake else th
  | _ => th

theorem paid_eq (s : State) (c : CoreId) (t : Thr) (key rt : Nat) : s.paid c t key rt = (s.modThr c t (settled key rt)).land c t key := rfl

theorem held_settled (key rt : Nat) (th : Thread) : held (settled key rt th) = held { th with owed := owedAfter th rt key } := by
  unfold settled
  dsimp only
  split
  · split
    · exact held_wake _
    · rfl
  · rfl

/-- The thread with the data of an answer, or with the exception that stands for it. -/
def taken (key rt : Nat) (v : Word ⊕ Nat) (th : Thread) : Thread :=
  match v with
  | .inl v => (th.stepsDone key).writeReg rt v
  | .inr vec => th.pendImprecise vec (th.flightPc key) (th.flightPriv key)

theorem answer_eq (s : State) (c : CoreId) (t : Thr) (key rt : Nat) (v : Word ⊕ Nat) (owes : (s.thr c t).owed.contains (rt, key) = true) :
    ∃ f, f (s.thr c t) = taken key rt v (s.thr c t) ∧ s.answer c t key rt v = ((s.modThr c t f).paid c t key rt).fenceWake c t := by
  unfold State.answer
  dsimp only
  rw [if_pos owes]
  cases v with
  | inl v => exact ⟨_, rfl, rfl⟩
  | inr vec => exact ⟨_, rfl, rfl⟩

/-- An answer that is owed ends in one thread: it holds what the answer brings and owes it no more. -/
theorem answer_settles (s : State) (c : CoreId) (t : Thr) (key rt : Nat) (v : Word ⊕ Nat) (owes : (s.thr c t).owed.contains (rt, key) = true) :
    OnlyThread s (s.answer c t key rt v) c t ∧ held ((s.answer c t key rt v).thr c t) =
      held { taken key rt v (s.thr c t) with owed := owedAfter (taken key rt v (s.thr c t)) rt key } := by
  obtain ⟨f, hf, answered⟩ := answer_eq s c t key rt v owes
  rw [answered, paid_eq]
  have ends := (holds_land ((s.modThr c t f).modThr c t (settled key rt)) c t key).trans (holds_fenceWake _ c t)
  refine ⟨((onlyThread_modThr ..).trans (onlyThread_modThr ..)).trans ends.only, ?_⟩
  rw [ends.held, State.thr_modThr_self, State.thr_modThr_self, held_settled, hf]

/-- The address registers a load steps are all of a thread that it changes. -/
theorem stepsDone_keeps (th : Thread) (key : Nat) : ∃ a, th.stepsDone key = { th with a := a } := by
  unfold Thread.stepsDone
  generalize th.steps.filter (·.1 = key) = l
  suffices walk : ∀ (l : List (Nat × Nat × Addr)) (x : Thread), (∃ a, x = { th with a := a }) →
      ∃ a, l.foldl (fun th x => th.writeA x.2.1 x.2.2) x = { th with a := a } from walk l th ⟨_, rfl⟩
  intro l
  induction l with
  | nil => exact fun _ h => h
  | cons y l ih =>
    rintro _ ⟨a, rfl⟩
    refine ih _ ?_
    dsimp only [Thread.writeA]
    split
    · exact ⟨_, rfl⟩
    · exact ⟨_, rfl⟩

theorem writeReg_leaves (th : Thread) (r : Nat) (v : Word) : (th.writeReg r v).owed = th.owed ∧ (th.writeReg r v).imprecise = th.imprecise := by
  unfold Thread.writeReg
  repeat' split
  all_goals exact ⟨rfl, rfl⟩

theorem pendImprecise_leaves (th : Thread) (vec : Nat) (pc : Addr) (pr : Nat) :
    held (th.pendImprecise vec pc pr) = held { th with imprecise := th.imprecise ++ [PendExc.mk vec pc pr] } := by
  rw [Thread.pendImprecise, held_wake]

/-- What Claims.ResultsArrive asks of the state that an answer leaves. -/
def Gets (s : State) (c : CoreId) (t : Thr) (rt key : Nat) (r : Word ⊕ Nat) (u : State) : Prop :=
  let th := s.thr c t
  let th' := match r with | .inl v => (th.stepsDone key).writeReg rt v | .inr _ => th
  (u.thr c t).d = th'.d ∧ (u.thr c t).a = th'.a ∧ (u.thr c t).m = th'.m ∧ (u.thr c t).p = th'.p ∧
    (u.thr c t).owed = (th.owed.filter fun o => o ≠ (rt, key) ∧ (o.2 = key → 0x30 ≤ o.1 ∨ o.1 < 0x20)) ∧
    (u.thr c t).imprecise.map (·.vector) = th.imprecise.map (·.vector) ++ (match r with | .inl _ => [] | .inr vec => [vec]) ∧
    (∀ y, y ≠ t → u.thr c y = s.thr c y) ∧ CoresBut s u c ∧ u.regs = s.regs

theorem gets_of_answer {i : Instr} {s s' : State} {c : CoreId} {t : Thr} {rt key : Nat} {r : Word ⊕ Nat}
    (step : exec i s = .next (s.commit (s'.answer c t key rt r))) (before : OnlyThread s s' c t) (same : s'.thr c t = s.thr c t)
    (owes : (s.thr c t).owed.contains (rt, key) = true) : Answers i s (Gets s c t rt key r) := by
  obtain ⟨only, holds⟩ := answer_settles s' c t key rt r (same ▸ owes)
  obtain ⟨regs, cores, threads⟩ := before.trans only
  rw [same] at holds
  refine answers_commit _ step ?_
  generalize s'.answer c t key rt r = u at only regs cores threads holds ⊢
  unfold Gets
  dsimp only
  rw [State.thr_commit]
  cases r with
  | inl v =>
    obtain ⟨owed, imprecise⟩ := writeReg_leaves ((s.thr c t).stepsDone key) rt v
    obtain ⟨a, steps⟩ := stepsDone_keeps (s.thr c t) key
    simp only [held, taken, owedAfter, Prod.mk.injEq, owed, imprecise] at holds
    obtain ⟨hd, ha, hm, hp, ho, hi⟩ := holds
    refine ⟨hd, ha, hm, hp, ho.trans ?_, ?_, threads, cores, regs⟩
    · rw [steps]
    · rw [hi, steps, List.append_nil]
  | inr vec =>
    have pends := pendImprecise_leaves (s.thr c t) vec ((s.thr c t).flightPc key) ((s.thr c t).flightPriv key)
    simp only [held, Prod.mk.injEq] at pends
    obtain ⟨pd, pa, pm, pp, po, pi⟩ := pends
    simp only [held, taken, owedAfter, Prod.mk.injEq, pd, pa, pm, pp, po, pi] at holds
    obtain ⟨hd, ha, hm, hp, ho, hi⟩ := holds
    refine ⟨hd, ha, hm, hp, ho, ?_, threads, cores, regs⟩
    rw [hi, List.map_append]
    rfl

/-! The data of an access -/

theorem findIdx_addrs (a n i : Nat) (h : i < n) : (addrs a n).findIdx? (· = a + i) = some i := by
  rw [List.findIdx?_eq_some_iff_getElem]
  refine ⟨by simpa [addrs] using h, by simp [addrs], fun j hj => ?_⟩
  simp [addrs]
  omega

section Data
variable {x : Txn} {n : Nat} (op : x.op = .read (addrs x.addr n)) (overlay : x.overlay = []) (len : x.result.length = n)
include op overlay len

/-- An access that asked for exactly its bytes brought them in order. -/
theorem byteAt_read {i : Nat} (h : i < n) : x.byteAt (x.addr + i) = some (x.result[i]'(len ▸ h), x.poisoned.contains (x.addr + i)) := by
  have hi : i < x.result.length := len ▸ h
  simp [Txn.byteAt, overlay, tabFind, op, findIdx_addrs x.addr n i h, hi]

theorem bytesAt_read : x.bytesAt x.addr n = x.result := by
  refine List.ext_getElem (by simp [Txn.bytesAt, len]) fun i hi hj => ?_
  simp [Txn.bytesAt, byteAt_read op overlay len (len ▸ hj)]

theorem badAt_clean (clean : x.poisoned = []) : x.badAt x.addr n = false := by
  simp only [Txn.badAt, List.any_eq_false, List.mem_range]
  intro i hi
  simp [byteAt_read op overlay len hi, clean]

theorem badAt_poisoned (bad : x.poisoned = [x.addr]) (some_ : 0 < n) : x.badAt x.addr n = true := by
  simp only [Txn.badAt, List.any_eq_true, List.mem_range]
  refine ⟨0, some_, ?_⟩
  simpa [bad] using congrArg (fun b => (b.map (·.2)).getD false) (byteAt_read op overlay len some_)

end Data

theorem kindSize_pos (kind : Nat) : 0 < kindSize kind := by
  match kind with
  | 0 | 1 | 2 | 3 | 4 | 5 | 6 => decide
  | _ + 7 => simp [kindSize]

/-! The commands -/

section Commands
variable {s : State} {id : Nat} {x : Txn} {c : CoreId} {t : Thr}

/-- The answer of a load, by how its access ended. -/
theorem accessResponse_load (h : s.txn id = some x) (src : x.src = .thread c t) (purpose : x.purpose = .load t key rt kind)
    (ended : x.answered = true) (r : Word ⊕ Nat) (outcome : x.outcome x.addr (kindSize kind) (loadValue kind) = r) :
    exec (.accessResponse id) s = .next (s.commit ((s.dropTxn id).answer c t key rt r)) := by
  have respond : s.respond x = (s.dropTxn id).answer c t key rt r := by
    simp only [State.respond, src, purpose, outcome, txn_id h]
  show execAccessResponse id s = _
  simp only [execAccessResponse, h, ended, if_true, respond]
  rfl

theorem requestTimeout_load (h : s.txn id = some x) (src : x.src = .thread c t) (purpose : x.purpose = .load t key rt kind)
    (open_ : x.stage = .sent ∨ x.stage = .performed) :
    exec (.requestTimeout id) s = .next (s.commit ((s.dropTxn id).answer c t key rt (.inr 0x0B))) := by
  have respond : s.timeOut x = (s.dropTxn id).answer c t key rt (.inr 0x0B) := by
    simp only [State.timeOut, State.respond, src, purpose, Txn.outcome, txn_id h]
  have going : ¬(x.stage = .lost ∨ x.stage = .denied) := by
    obtain e | e := open_ <;> simp [e]
  show execRequestTimeout id s = _
  simp only [execRequestTimeout, h, if_neg going, respond]
  rfl

theorem accessResponse_oldValue (h : s.txn id = some x) (src : x.src = .thread c t) (purpose : x.purpose = .oldValue t key rt n signed)
    (performed : x.stage = .performed) (clean : x.poisoned = []) :
    exec (.accessResponse id) s = .next (s.commit ((s.dropTxn id).answer c t key rt
      (.inl (if signed then BitVec.ofInt 64 (sext (8 * n) (ofBytes x.result)) else BitVec.ofNat 64 (ofBytes x.result))))) := by
  have respond : s.respond x = (s.dropTxn id).answer c t key rt
      (.inl (if signed then BitVec.ofInt 64 (sext (8 * n) (ofBytes x.result)) else BitVec.ofNat 64 (ofBytes x.result))) := by
    simp only [State.respond, src, purpose, performed, clean, List.isEmpty_nil, if_true, txn_id h]
  show execAccessResponse id s = _
  simp only [execAccessResponse, h, show x.answered = true by simp [Txn.answered, performed], if_true, respond]
  rfl

theorem takeSync_found {o : SyncOp} {f : SyncOp → Bool} (h : s.sync.find? (·.id == id) = some o) (hf : f o = true) :
    s.takeSync id f = some (o, { s with sync := s.sync.filter (·.id ≠ id) }) := by
  obtain ⟨at_, as, bs, split_, before⟩ := List.find?_eq_some_iff_append.1 h
  have found : s.sync.find? (fun o => o.id == id && f o) = some o :=
    List.find?_eq_some_iff_append.2 ⟨by simp [at_, hf], as, bs, split_, fun a ha => by simp [show (a.id == id) = false by simpa using before a ha]⟩
  rw [State.takeSync, found]
  rfl

theorem accessResponse_reply {o : SyncOp} {t' : Thr} {v : Nat} (none_ : s.txn id = none) (h : s.sync.find? (·.id == id) = some o)
    (who : o.who = .thread c t') (kind : o.kind = .reply t key rt v) :
    exec (.accessResponse id) s = .next (s.commit ({ s with sync := s.sync.filter (·.id ≠ id) }.answer c t key rt (.inl (BitVec.ofNat 64 v)))) := by
  show execAccessResponse id s = _
  rw [execAccessResponse, none_]
  dsimp only
  rw [takeSync_found h (by rw [kind])]
  dsimp only
  rw [who, kind]
  rfl

end Commands

/-- What a thread gets: the data of its load, its atomic or its counter operation, or the exception that stands for it. -/
theorem resultsArrive : Claims.ResultsArrive := by
  refine ⟨fun s id x c t key rt kind bs h src purpose owes op overlay result len => ?_,
    fun s id x c t key rt n signed h src purpose owes performed clean => ?_, fun s id o c t t' key rt v none_ h who kind owes => ?_⟩
  · subst result
    have gets {i : Instr} {r : Word ⊕ Nat} (step : exec i s = .next (s.commit ((s.dropTxn id).answer c t key rt r))) : Answers i s (Gets s c t rt key r) :=
      gets_of_answer step (onlyThread_dropTxn ..) rfl owes
    refine ⟨fun performed clean => gets (accessResponse_load h src purpose ?_ (.inl (loadValue kind x.result)) ?_),
      fun performed bad => gets (accessResponse_load h src purpose ?_ (.inr 0x0A) ?_),
      fun denied => gets (accessResponse_load h src purpose ?_ (.inr 0x03) ?_), fun open_ => gets (requestTimeout_load h src purpose open_)⟩
    · simp [Txn.answered, performed]
    · simp [Txn.outcome, performed, badAt_clean op overlay len clean, bytesAt_read op overlay len]
    · simp [Txn.answered, performed]
    · simp [Txn.outcome, performed, badAt_poisoned op overlay len bad (kindSize_pos kind)]
    · simp [Txn.answered, denied]
    · simp [Txn.outcome, denied]
  · exact gets_of_answer (accessResponse_oldValue h src purpose performed clean) (onlyThread_dropTxn ..) rfl owes
  · exact gets_of_answer (accessResponse_reply none_ h who kind) ⟨rfl, fun _ _ => rfl, fun _ _ => rfl⟩ rfl owes

end Sys2Proof.Proofs
end

section
/-! SUPPORT. Lines that arrive for the instruction cache and the side buffer, and acknowledged writes (R124, R321-R326, R330). -/

namespace Sys2Proof.Proofs
open Sys2Proof.Machine Sys2Proof.Claims

/-! A line put into a cache -/

theorem at_put_self (k : Cache) (set way : Nat) (l : Option Line) : (k.put set way l).at set way = l := tabGet_tabSet_self ..

theorem at_put_ne (k : Cache) (set : Nat) {way w : Nat} (l : Option Line) (h : w ≠ way) : (k.put set way l).at set w = k.at set w :=
  tabGet_tabSet_ne _ _ _ (by omega)

/-- A search finds an element that it finds already, or that alone it can find, where the test changes at that element only. -/
theorem find?_changed {α : Type} {l : List α} {p q : α → Bool} {a : α} (mem : a ∈ l) (new : q a = true) (rest : ∀ b ∈ l, b ≠ a → q b = p b)
    (old : l.find? p = some a ∨ l.find? p = none) : l.find? q = some a := by
  obtain found | lost := old
  · obtain ⟨pa, as, bs, split_, before⟩ := List.find?_eq_some_iff_append.1 found
    refine List.find?_eq_some_iff_append.2 ⟨new, as, bs, split_, fun b hb => ?_⟩
    have other : b ≠ a := by
      rintro rfl
      simpa [pa] using before b hb
    rw [rest b (by simp [split_, hb]) other]
    exact before b hb
  · obtain ⟨as, bs, split_, before⟩ := List.eq_append_cons_of_mem mem
    refine List.find?_eq_some_iff_append.2 ⟨new, as, bs, split_, fun b hb => ?_⟩
    rw [rest b (by simp [split_, hb]) fun e => before (e ▸ hb)]
    simpa using List.find?_eq_none.1 lost b (by simp [split_, hb])

/-- Of two ways the tree picks an enabled one, where one is enabled. -/
theorem picked {q : Nat → Prop} {dis a b : Nat} (second : Bool) (ha : bit dis a = false → q a) (hb : bit dis b = false → q b)
    (one : (bit dis a && bit dis b) = false) : q (if bit dis a then b else if bit dis b then a else if second then b else a) := by
  split
  · next h => exact hb (by simpa [h] using one)
  · next h =>
    split
    · exact ha (eq_false_of_ne_true h)
    · next k =>
      split
      · exact hb (eq_false_of_ne_true k)
      · exact ha (eq_false_of_ne_true h)

/-- The way a new line takes is one of the four, and enabled where one is. -/
theorem victim_enabled (k : Cache) {dis : Nat} (set : Nat) (few : dis < 16) (some_ : dis ≠ 15) :
    k.victim dis set ∈ [0, 1, 2, 3] ∧ bit dis (k.victim dis set) = false := by
  have enabled : (bit dis 0 && bit dis 1 && bit dis 2 && bit dis 3) = false := by
    revert dis
    decide
  unfold Cache.victim
  split
  · next w h =>
    have := List.find?_some h
    simp only [Bool.and_eq_true, Bool.not_eq_true'] at this
    exact ⟨List.mem_of_find?_eq_some h, this.1⟩
  · dsimp only
    have half {a b : Nat} (second : Bool) (ha : a ∈ [0, 1, 2, 3]) (hb : b ∈ [0, 1, 2, 3]) (one : (bit dis a && bit dis b) = false) :=
      picked (q := fun w => w ∈ [0, 1, 2, 3] ∧ bit dis w = false) second (fun e => ⟨ha, e⟩) (fun e => ⟨hb, e⟩) one
    split
    · next low =>
      exact half _ (by decide) (by decide) (by simpa [low] using enabled)
    · next low =>
      have low := eq_false_of_ne_true low
      split
      · exact half _ (by decide) (by decide) low
      · next high =>
        split
        · exact half _ (by decide) (by decide) (eq_false_of_ne_true high)
        · exact half _ (by decide) (by decide) low

/-- The way in which a cache takes a line. -/
def wayFor (k : Cache) (dis tag : Nat) : Nat := (k.find dis tag).getD (k.victim dis (tag % 256))

/-- A cache with a line put into a way. -/
def inWay (k : Cache) (way : Nat) (l : Line) : Cache := (k.put (l.tag % 256) way (some l)).touch (l.tag % 256) way

theorem at_inWay (k : Cache) (way : Nat) (l : Line) : (inWay k way l).at (l.tag % 256) way = some l :=
  at_put_self k (l.tag % 256) way (some l)

/-- A line put in the way that the cache takes it in is found there. -/
theorem find_inWay (k : Cache) {dis : Nat} (l : Line) (few : dis < 16) (some_ : dis ≠ 15) :
    (inWay k (wayFor k dis l.tag) l).find dis l.tag = some (wayFor k dis l.tag) := by
  have placed : wayFor k dis l.tag ∈ [0, 1, 2, 3] ∧ bit dis (wayFor k dis l.tag) = false ∧
      (k.find dis l.tag = some (wayFor k dis l.tag) ∨ k.find dis l.tag = none) := by
    unfold wayFor
    cases h : k.find dis l.tag with
    | some w =>
      have := List.find?_some h
      simp only [Bool.and_eq_true, Bool.not_eq_true'] at this
      exact ⟨List.mem_of_find?_eq_some h, this.1, .inl rfl⟩
    | none => exact ⟨(victim_enabled k _ few some_).1, (victim_enabled k _ few some_).2, .inr rfl⟩
  obtain ⟨mem, enabled, old⟩ := placed
  refine find?_changed mem ?_ (fun w _ other => ?_) old
  · simp [enabled, at_inWay]
  · show (!bit dis w && ((k.put (l.tag % 256) (wayFor k dis l.tag) (some l)).at (l.tag % 256) w).any (·.tag = l.tag)) = _
    rw [at_put_ne _ _ _ other]

/-! The commands -/

theorem icDis_lt (s : State) (c : Nat) : s.icDis c < 16 := Nat.mod_lt _ (by decide)

theorem sideAdd_side (q : Core) (l : Line) : (q.sideAdd l).side.getLast? = some l ∧ (q.side.length ≤ 16 → (q.sideAdd l).side.length ≤ 16) := by
  unfold Core.sideAdd
  dsimp only
  have shorter := List.length_filter_le (fun x : Line => decide (x.tag ≠ l.tag)) q.side
  generalize q.side.filter (fun x : Line => decide (x.tag ≠ l.tag)) = r at shorter ⊢
  constructor
  · rw [List.getLast?_drop, if_neg (by simp)]
    exact List.getLast?_concat
  · simp
    omega

section Arrivals
variable {s : State} {id : Nat} {x : Txn} {c : CoreId} {t : Thr} (h : s.txn id = some x) (own : x.src.core? = some c)
  (performed : x.stage = .performed) (clean : x.poisoned = [])
include h own performed clean

/-- A line that is whole reaches the thread that waits on it, which fetches again. -/
theorem lineFillArrival_instr (purpose : x.purpose = .fillInstr t) (kept : x.cancelled = false) (on : s.icOn c = true)
    (waits : (s.thr c t).stall = .fetch) : exec (.lineFillArrival id) s = .next (s.commit
      (((s.dropTxn id).icInstall c (Line.ofHome (x.addr / 64) x.result)).modThr c t (·.wake))) := by
  have fetched : s.fetched c t x true = ((s.dropTxn id).icInstall c (Line.ofHome (x.addr / 64) x.result)).modThr c t (·.wake) := by
    have on' : (s.dropTxn id).icOn c = true := on
    simp [State.fetched, txn_id h, performed, clean, waits, kept, on']
  show execLineFillArrival id s = _
  simp only [execLineFillArrival, h, own, purpose, show x.answered = true by simp [Txn.answered, performed], Bool.not_true, Bool.false_eq_true,
    if_false, fetched]
  rfl

theorem lineFillArrival_once (purpose : x.purpose = .fetchOnce t) (waits : (s.thr c t).stall = .fetch) :
    exec (.lineFillArrival id) s = .next (s.commit
      (((s.dropTxn id).modThr c t fun th => { th with fetched := (x.addr / 64, x.result) :: th.fetched }).modThr c t (·.wake))) := by
  have fetched : s.fetched c t x false =
      ((s.dropTxn id).modThr c t fun th => { th with fetched := (x.addr / 64, x.result) :: th.fetched }).modThr c t (·.wake) := by
    simp [State.fetched, txn_id h, performed, clean, waits]
  show execLineFillArrival id s = _
  simp only [execLineFillArrival, h, own, purpose, show x.answered = true by simp [Txn.answered, performed], Bool.not_true, Bool.false_eq_true,
    if_false, fetched]
  rfl

theorem lineFillArrival_side (purpose : x.purpose = .fillSide) (kept : x.cancelled = false) (on : s.dcOn c = true)
    (absent : (s.core c).dcache.find (s.dcDis c) (x.addr / 64) = none) :
    exec (.lineFillArrival id) s = .next (s.commit ((s.dropTxn id).modCore c (·.sideAdd (Line.ofHome (x.addr / 64) x.result)))) := by
  have on' : (s.dropTxn id).dcOn c = true := on
  have absent' : ((s.dropTxn id).core c).dcache.find ((s.dropTxn id).dcDis c) (x.addr / 64) = none := absent
  show execLineFillArrival id s = _
  simp only [execLineFillArrival, h, own, purpose, show x.answered = true by simp [Txn.answered, performed], Bool.not_true, Bool.false_eq_true,
    if_false, kept, performed, clean, on', absent', bne_self_eq_false, List.isEmpty_nil, Bool.or_false, Option.isSome_none]
  rfl

omit clean in
theorem writePerformedAck_stored {k : Option (Addr × Nat)} (purpose : x.purpose = .stored t k) :
    exec (.writePerformedAck id) s = .next (s.commit ((s.dropTxn id).fenceWake c t)) := by
  show execWritePerformedAck id s = _
  simp only [execWritePerformedAck, h, own, purpose, show x.answered = true by simp [Txn.answered, performed], Bool.not_true, Bool.false_eq_true,
    if_false, performed, reduceCtorEq]
  rfl

end Arrivals

/-! What they leave -/

theorem onlyThread_modCore (s : State) (c : CoreId) (t : Thr) {f : Core → Core} (hf : ∀ q, (f q).thr = q.thr) : OnlyThread s (s.modCore c f) c t :=
  ⟨rfl, fun _ hx => State.core_modCore_ne _ _ hx, fun y _ => congrArg (fun q : Vector Thread 4 => q[y]) (by rw [State.core_modCore_self, hf])⟩

theorem thr_modCore_of_thr (s : State) (c : CoreId) (t : Thr) {f : Core → Core} (hf : ∀ q, (f q).thr = q.thr) : (s.modCore c f).thr c t = s.thr c t :=
  congrArg (fun q : Vector Thread 4 => q[t]) (by rw [State.core_modCore_self, hf])

theorem wake_ready {th : Thread} (h : th.st = .stalled) : th.wake.st = .ready := by simp [Thread.wake, h]

theorem wake_fetched (th : Thread) : th.wake.fetched = th.fetched := by
  unfold Thread.wake
  split <;> rfl

theorem fenceWake_txns (s : State) (c : CoreId) (t : Thr) : (s.fenceWake c t).txns = s.txns := by
  unfold State.fenceWake
  split <;> rfl

/-- A thread goes on at an acknowledgement only where a fence holds it. -/
theorem fenceWake_st (s : State) (c : CoreId) (t : Thr) : ((s.fenceWake c t).thr c t).st = (s.thr c t).st ∨
    (s.thr c t).stall = .fence ∧ ((s.fenceWake c t).thr c t).st = .ready := by
  unfold State.fenceWake
  split
  · next fence =>
    rw [State.thr_modThr_self]
    by_cases stalled : (s.thr c t).st = .stalled
    · exact .inr ⟨fence.1, wake_ready stalled⟩
    · exact .inl (by rw [Thread.wake, if_neg stalled])
  · exact .inl rfl

/-- What a line or an acknowledgement leaves besides its own core. -/
theorem departs {s u : State} {id : Nat} {c : CoreId} {t : Thr} (only : OnlyThread s u c t) (txns : u.txns = s.txns.filter (·.id ≠ id)) :
    (s.commit u).txns = s.txns.filter (·.id ≠ id) ∧ (s.commit u).regs = s.regs ∧ CoresBut s (s.commit u) c ∧
      ∀ y, y ≠ t → (s.commit u).thr c y = s.thr c y :=
  ⟨txns, only.regs, only.cores, only.threads⟩

theorem icInstall_eq (s : State) (c : CoreId) (l : Line) :
    s.icInstall c l = s.modCore c fun q => { q with icache := inWay q.icache (wayFor (s.core c).icache (s.icDis c) l.tag) l } := rfl

/-- Lines arrive where they are wanted, and a write acknowledged is over. -/
theorem linesAndAcknowledgements : Claims.LinesAndAcknowledgements := by
  intro s id x c t h own performed clean
  have dropped := onlyThread_dropTxn s id c t
  refine ⟨fun purpose kept on enabled stalled waits => ?_, fun purpose stalled waits => ?_, fun purpose kept on absent => ?_, fun k purpose => ?_⟩
  · let l := Line.ofHome (x.addr / 64) x.result
    let way := wayFor (s.core c).icache (s.icDis c) l.tag
    have installed : OnlyThread s ((s.dropTxn id).icInstall c l) c t := dropped.trans (icInstall_eq .. ▸ onlyThread_modCore _ c t fun _ => rfl)
    have core : ((s.dropTxn id).icInstall c l).core c = { s.core c with icache := inWay (s.core c).icache way l } := by
      rw [icInstall_eq, State.core_modCore_self]
      rfl
    have same : ((s.dropTxn id).icInstall c l).thr c t = s.thr c t := by
      rw [icInstall_eq]
      exact thr_modCore_of_thr _ c t fun _ => rfl
    refine answers_commit _ (lineFillArrival_instr h own performed clean purpose kept on waits)
      ⟨departs (installed.trans (onlyThread_modThr ..)) rfl, ?_, ?_, way, ?_⟩
    · rw [State.thr_commit, State.thr_modThr_self, same]
      exact wake_ready stalled
    · rw [State.core_commit, State.core_modThr_self, core]
      rfl
    · rw [State.core_commit, State.core_modThr_self, core]
      exact ⟨find_inWay _ l (icDis_lt s c) enabled, at_inWay _ _ l⟩
  · have waked := (dropped.trans (onlyThread_modThr _ c t fun th => { th with fetched := (x.addr / 64, x.result) :: th.fetched })).trans
      (onlyThread_modThr _ c t (·.wake))
    refine answers_commit _ (lineFillArrival_once h own performed clean purpose waits) ⟨departs waked rfl, ?_, ?_, ?_⟩
    · rw [State.thr_commit, State.thr_modThr_self]
      exact wake_ready (by rw [State.thr_modThr_self]; exact stalled)
    · rw [State.core_commit, State.core_modThr_self, State.core_modThr_self]
      rfl
    · rw [State.thr_commit, State.thr_modThr_self, State.thr_modThr_self, wake_fetched]
      rfl
  · have filled := dropped.trans (onlyThread_modCore _ c t (f := (·.sideAdd (Line.ofHome (x.addr / 64) x.result))) fun _ => rfl)
    refine answers_commit _ (lineFillArrival_side h own performed clean purpose kept on absent) ⟨departs filled rfl, ?_⟩
    rw [State.core_commit, State.core_modCore_self]
    obtain ⟨newest, size⟩ := sideAdd_side ((s.dropTxn id).core c) (Line.ofHome (x.addr / 64) x.result)
    exact ⟨newest, rfl, size⟩
  · have ended := holds_fenceWake (s.dropTxn id) c t
    have kept := ended.held
    simp only [held, Prod.mk.injEq] at kept
    obtain ⟨d, -, -, -, -, imprecise⟩ := kept
    exact answers_commit _ (writePerformedAck_stored h own performed purpose)
      ⟨departs (dropped.trans ended.only) (fenceWake_txns ..), d, imprecise, fenceWake_st (s.dropTxn id) c t⟩

/-- Settles O29: by what an access was for, its answer writes one thread or installs one line. -/
theorem answersArrive : Obligations.AnswersArrive := ⟨resultsArrive, linesAndAcknowledgements⟩

end Sys2Proof.Proofs
end

section
/-! SUPPORT. A fetch that comes back poisoned ends its channel (R402), and a state where the channel's error withdraws a stray wait. -/

namespace Sys2Proof.Proofs
open Sys2Proof.Machine Sys2Proof.Claims

theorem exec_dmaFetch_poisoned {s : State} {id : Nat} {x : Txn} {ch : DmaCh} (h : s.txn id = some x) (src : x.src = .dma ch)
    (purpose : x.purpose = .program) (performed : x.stage = .performed) (bad : x.poisoned ≠ []) (kept : x.cancelled = false)
    (running : (s.dmaTaken ch id).dmaState ch = dmaRunning) :
    exec (.dmaFetch id) s = .next (s.commit ((s.dmaTaken ch id).dmaError ch 2 0 ((s.dmaTaken ch id).dmaPc ch))) := by
  have answered : x.answered = true := by simp [Txn.answered, performed]
  have poisoned : x.poisoned.isEmpty = false := by simpa using bad
  show execDmaFetch id s = _
  simp [execDmaFetch, h, src, purpose, answered, kept, running, poisoned]
  rfl

/-- An instruction fetch of channel 0 that has come back poisoned. -/
def poisonedFetch : Txn := ⟨0, .dma 0, .near 0, 0, .read [0], .program, .performed, [0], [0], false, [], none⟩

/-- Channel 0 is RUNNING and its fetch has come back poisoned, while channels 0 and 1 wait on counter 12 of cluster 0x102, which the module does
not have: the address that `aSCNT` computes for it is DMA_ERR of channel 0. -/
def strayFetch : State :=
  { strayWaits.setFld (aDMA_STAT (0 : DmaCh)) DMA_STAT.STATE 1 with txns := [poisonedFetch] }

/-- The fetch ends channel 0 with error 2 in DMA_ERR; the withdrawal of its wait then sets PARKED of the counter, bit 37 of the same word. -/
theorem strayFetch_dmaErr : ((strayFetch.dmaTaken 0 0).dmaError 0 2 0 ((strayFetch.dmaTaken 0 0).dmaPc (0 : DmaCh))).reg (aDMA_ERR (0 : DmaCh)) =
    0x20_0000_0002 := by decide +kernel

/-- Refutes O31, in the clause of Claims.DmaInstructionsArrive that a poisoned fetch ends its channel with error 2 in DMA_ERR: the claim speaks of
every state, also of `strayFetch`, where the withdrawal of the channel's wait on a counter that the module does not have writes over DMA_ERR. -/
theorem not_dmaCommandsAndFetches : ¬ Obligations.DmaCommandsAndFetches := by
  rintro ⟨-, arrive⟩
  have found : strayFetch.txn 0 = some poisonedFetch := rfl
  have bad : poisonedFetch.poisoned ≠ [] := by decide
  obtain ⟨-, -, poisoned, -⟩ := arrive strayFetch 0 poisonedFetch 0 found rfl (by decide +kernel) rfl
  obtain ⟨u, hu, -, -, errWord, -⟩ := poisoned rfl rfl bad
  obtain rfl := Host.Outcome.next.inj (hu.symm.trans (exec_dmaFetch_poisoned found rfl rfl rfl bad rfl (by decide +kernel)))
  rw [State.reg_commit, strayFetch_dmaErr] at errWord
  exact absurd errWord (by decide +kernel)

end Sys2Proof.Proofs
end

section
/-! SUPPORT. Walks that go on, fill the translation cache, wait for a page or fault (R106-R111). -/

namespace Sys2Proof.Proofs
open Sys2Proof.Machine Sys2Proof.Claims

/-- A core with an entry in its translation cache; a free value names the one that leaves a full cache. -/
def withEntry (draw vpn : Nat) (e : Word) (q : Core) : Core := { q with tlb := tlbFill 256 draw q.tlb vpn e }

section Walk
variable {s : State} {id : Nat} {x : Txn} {c : CoreId} {t : Thr} {level va : Nat} {write fetch : Bool} (h : s.txn id = some x)
  (src : x.src = .walker c t) (purpose : x.purpose = .walk level va write fetch 0) (performed : x.stage = .performed) (clean : x.poisoned = [])
  (kept : x.cancelled = false)

/-- The entry that a walk's read has brought. -/
def walked (x : Txn) : Word := BitVec.ofNat 64 (ofBytes x.result)

include h src purpose performed in
theorem exec_pageWalkReadDone : exec (.pageWalkReadDone id) s = .next (s.commit (s.walkStep x c t level va write fetch 0)) := by
  show execPageWalkReadDone id s = _
  simp only [execPageWalkReadDone, h, src, purpose, show x.answered = true by simp [Txn.answered, performed], Bool.not_true, Bool.false_eq_true, if_false]
  rfl

include performed clean kept

theorem walkStep_level1 (valid : badEntry1 (walked x) = false) (present : PTE1.V.get (walked x) = 1) :
    s.walkStep x c t 1 va write fetch 0 = (s.dropTxn x.id).send (.walker c t) (l2Addr (walked x) va)
      (.read ((List.range 8).map (l2Addr (walked x) va + ·))) (.walk 2 va write fetch 0) [] none := by
  unfold walked at valid present
  simp [State.walkStep, performed, clean, kept, valid, present, walked]

theorem walkStep_present (waits : s.waitsOnWalk c t x.id = true) (valid : badEntry (walked x) = false) (present : PTE2.V.get (walked x) = 1) :
    s.walkStep x c t 2 va write fetch 0 = (((s.dropTxn x.id).draw.2).modCore c (withEntry (s.dropTxn x.id).draw.1.toNat (va / 2 ^ 21) (walked x))).modThr c t
      (·.wake) := by
  unfold walked at valid present
  simp [State.walkStep, performed, clean, kept, valid, present, waits, walked]
  rfl

theorem walkStep_deep (waits : s.waitsOnWalk c t x.id = true) (valid : badEntry (walked x) = false) (absent : PTE2.V.get (walked x) = 0)
    (deep : PTE2.DEEP.get (walked x) = 1) :
    s.walkStep x c t 2 va write fetch 0 = (s.dropTxn x.id).modThr c t (·.stallFor (.pageIn va)) := by
  unfold walked at valid absent deep
  simp [State.walkStep, performed, clean, kept, valid, absent, deep, waits]

theorem walkStep_faults (waits : s.waitsOnWalk c t x.id = true)
    (none_ : level = 1 ∧ badEntry1 (walked x) = false ∧ PTE1.V.get (walked x) = 0 ∨
      level = 2 ∧ badEntry (walked x) = false ∧ PTE2.V.get (walked x) = 0 ∧ PTE2.DEEP.get (walked x) = 0) :
    s.walkStep x c t level va write fetch 0 = (s.dropTxn x.id).walkFault c t 0x02 1 va write fetch 0 := by
  unfold walked at none_
  obtain ⟨rfl, valid, absent⟩ | ⟨rfl, valid, absent, shallow⟩ := none_
  · simp [State.walkStep, performed, clean, kept, valid, absent, waits]
  · simp [State.walkStep, performed, clean, kept, valid, absent, shallow, waits]

end Walk

theorem tlbFill_find (size draw : Nat) (tlb : Tab (Option Word)) (vpn : Nat) (e : Word) : tabGet none (tlbFill size draw tlb vpn e) vpn = some e :=
  tabGet_tabIns_self ..

theorem onlyThread_draw (s : State) (c : CoreId) (t : Thr) : OnlyThread s s.draw.2 c t := ⟨rfl, fun _ _ => rfl, fun _ _ => rfl⟩

/-- What a step of a walk leaves besides the core and the thread it is for. -/
theorem walk_keeps {s u : State} {c : CoreId} {t : Thr} (only : OnlyThread s u c t) :
    CoresBut s (s.commit u) c ∧ (s.commit u).regs = s.regs ∧ ∀ y, y ≠ t → (s.commit u).thr c y = s.thr c y := ⟨only.cores, only.regs, only.threads⟩

theorem wake_keeps (th : Thread) : th.wake.pc = th.pc ∧ th.wake.trFault = th.trFault ∧ th.wake.entry = th.entry := by
  unfold Thread.wake
  split <;> exact ⟨rfl, rfl, rfl⟩

/-- What a walk's fault of vector 0x02 leaves for its entry (R110). -/
theorem fault_of_walk (th : Thread) (va : Nat) (write fetch : Bool) : (th.fault 0x02 1 va write fetch).trFault = faultWord va 1 (b2n write) (b2n fetch) ∧
    (th.fault 0x02 1 va write fetch).entry = some ⟨0x02, 1, th.pc, th.wordAddr, false, th.priv⟩ := by
  unfold Thread.fault
  rw [if_pos (.inl rfl)]
  refine ⟨rfl, ?_⟩
  unfold Thread.wordAddr Thread.replaying Thread.priv
  rfl

/-- Walks go on by the level of the entry read and by what it says. -/
theorem walksGoOn : Claims.WalksGoOn := by
  intro s id x c t level va write fetch h src purpose performed clean kept waits
  have at_ := txn_id h
  have waits' : s.waitsOnWalk c t x.id = true := at_.symm ▸ waits
  have step := exec_pageWalkReadDone h src purpose performed
  refine ⟨fun one valid present => ?_, fun two valid present stalled => ?_, fun two valid absent deep free => ?_, fun none_ still => ?_⟩
  · subst one
    rw [walkStep_level1 performed clean kept valid present, at_] at step
    refine answers_commit _ step ⟨?_, ?_, ?_⟩
    · rw [State.commit_cores, State.send_cores, State.dropTxn_cores]
    · rw [State.commit_regs, State.send_regs, State.dropTxn_regs]
    · rw [State.commit_txns]
      rfl
  · subst two
    rw [walkStep_present performed clean kept waits' valid present, at_] at step
    have drawn := (onlyThread_dropTxn s id c t).trans (onlyThread_draw _ c t)
    have filled := drawn.trans (onlyThread_modCore _ c t (f := withEntry (s.dropTxn id).draw.1.toNat (va / 2 ^ 21) (walked x)) fun _ => rfl)
    have same := thr_modCore_of_thr (s.dropTxn id).draw.2 c t (f := withEntry (s.dropTxn id).draw.1.toNat (va / 2 ^ 21) (walked x)) fun _ => rfl
    refine answers_commit _ step ⟨walk_keeps (filled.trans (onlyThread_modThr ..)), ?_, ?_, ?_, ?_⟩
    · rw [State.commit_txns, State.modThr_txns, State.modCore_txns]
      rfl
    · rw [State.core_commit, State.core_modThr_self, State.core_modCore_self]
      exact tlbFill_find ..
    · rw [State.thr_commit, State.thr_modThr_self, same]
      exact wake_ready stalled
    · rw [State.thr_commit, State.thr_modThr_self, same]
      exact (wake_keeps _).1
  · subst two
    rw [walkStep_deep performed clean kept waits' valid absent deep, at_] at step
    have free' : ¬((s.dropTxn id).thr c t).pending = true := fun e => Bool.false_ne_true (free.symm.trans e)
    refine answers_commit _ step ⟨walk_keeps ((onlyThread_dropTxn ..).trans (onlyThread_modThr ..)), ?_, ?_, ?_, ?_⟩
    · rw [State.commit_txns, State.modThr_txns]
      rfl
    · rw [State.thr_commit, State.thr_modThr_self, Thread.stallFor, if_neg free']
    · rw [State.thr_commit, State.thr_modThr_self, Thread.stallFor, if_neg free']
    · rw [State.core_commit, State.core_modThr_self]
      rfl
  · have stays : (s.dropTxn id).stopPhase c t = s.dropTxn id := by
      unfold State.stopPhase
      rw [show ((s.dropTxn id).thr c t).phase = none from still]
    rw [walkStep_faults performed clean kept waits' none_, at_, State.walkFault, if_neg (by decide), stays] at step
    refine answers_commit _ step ⟨walk_keeps ((onlyThread_dropTxn ..).trans (onlyThread_modThr ..)), ?_, ?_, ?_⟩
    · rw [State.commit_txns, State.modThr_txns]
      rfl
    · rw [State.thr_commit, State.thr_modThr_self, (wake_keeps _).2.1]
      exact (fault_of_walk ..).1
    · rw [State.thr_commit, State.thr_modThr_self, (wake_keeps _).2.2]
      exact (fault_of_walk ..).2

end Sys2Proof.Proofs
end

section
/-! SUPPORT. Translations and lines invalidated: lines cleaned and taken out, walks under way that are to install nothing (R112, R327). -/

namespace Sys2Proof.Proofs
open Sys2Proof.Machine Sys2Proof.Claims

/-! Lines taken out of a data cache -/

/-- A line leaves the data cache, its dirty bytes written back. -/
def evictLine (c : CoreId) (s : State) (x : Nat × Line) : State :=
  (s.writeBack c none x.2).modCore c fun q => { q with dcache := q.dcache.put (x.1 / 4) (x.1 % 4) none }

/-- The lines of a core's data cache whose line number passes a test, with their places. -/
def linesOf (s : State) (c : CoreId) (sel : Nat → Bool) : List (Nat × Line) :=
  (s.core c).dcache.lines.filterMap fun (k, l) => l.bind fun l => if sel l.tag then some (k, l) else none

theorem dcMaint_evicts (s : State) (c : CoreId) (sel : Nat → Bool) :
    s.dcMaint c none (fun _ l => sel l.tag) true true = s.forAll (linesOf s c sel) (evictLine c) := rfl

theorem mem_linesOf {s : State} {c : CoreId} {sel : Nat → Bool} {k : Nat} {l : Line} :
    (k, l) ∈ linesOf s c sel ↔ (k, some l) ∈ (s.core c).dcache.lines ∧ sel l.tag = true := by
  simp only [linesOf, List.mem_filterMap, Option.bind_eq_some_iff, Option.ite_none_right_eq_some, Option.some.injEq, Prod.mk.injEq]
  constructor
  · rintro ⟨⟨k', o⟩, mem, l', rfl, chosen, rfl, rfl⟩
    exact ⟨mem, chosen⟩
  · exact fun ⟨mem, chosen⟩ => ⟨(k, some l), mem, l, rfl, chosen, rfl, rfl⟩

/-- From `s` on lines of one core's data cache were written back and taken out. -/
structure Evicts (s u : State) (c : CoreId) : Prop where
  regs : u.regs = s.regs
  cores : CoresBut s u c
  core : { u.core c with dcache := (s.core c).dcache } = s.core c
  txns : ∃ l, u.txns = s.txns ++ l ∧ ∀ x ∈ l, ∃ t, x.purpose = .writeBack t

theorem Evicts.refl (s : State) (c : CoreId) : Evicts s s c := ⟨rfl, fun _ _ => rfl, rfl, [], by simp⟩

theorem Evicts.trans {s u v : State} {c : CoreId} (h : Evicts s u c) (k : Evicts u v c) : Evicts s v c := by
  obtain ⟨l, hl, backs⟩ := h.txns
  obtain ⟨m, hm, more⟩ := k.txns
  refine ⟨k.regs.trans h.regs, fun x hx => (k.cores x hx).trans (h.cores x hx), ?_, l ++ m, by rw [hm, hl, List.append_assoc], fun x hx => ?_⟩
  · rw [← h.core, ← k.core]
  · exact (List.mem_append.1 hx).elim (backs x) (more x)

theorem writeBack_txns (s : State) (c : CoreId) (l : Line) : ∃ sent, (s.writeBack c none l).txns = s.txns ++ sent ∧
    (∀ x ∈ sent, ∃ t, x.purpose = .writeBack t) ∧ (l.dirty ≠ 0 → ∃ x ∈ sent, x.src = .cache c ∧ x.op = .write l.dirtyBytes) := by
  unfold State.writeBack
  split
  · next clean => exact ⟨[], by simp, by simp, fun dirty => absurd clean dirty⟩
  · exact ⟨[⟨s.nextId, .cache c, homeOf s.ilv (l.tag * 64), l.tag * 64, .write l.dirtyBytes, .writeBack none, .sent, [], [], false, [], none⟩],
      rfl, by simp, by simp⟩

theorem writeBack_rest (s : State) (c : CoreId) (l : Line) : (s.writeBack c none l).regs = s.regs ∧ (s.writeBack c none l).cores = s.cores := by
  unfold State.writeBack
  split <;> exact ⟨rfl, rfl⟩

theorem evicts_evictLine (s : State) (c : CoreId) (x : Nat × Line) : Evicts s (evictLine c s x) c := by
  obtain ⟨regs, cores⟩ := writeBack_rest s c x.2
  obtain ⟨sent, txns, backs, -⟩ := writeBack_txns s c x.2
  have core (n : Nat) : (s.writeBack c none x.2).core n = s.core n := by rw [State.core, State.core, cores]
  refine ⟨regs, fun n hn => ?_, ?_, sent, txns, backs⟩
  · rw [evictLine, State.core_modCore_ne _ _ hn, core]
  · rw [evictLine, State.core_modCore_self, core]

theorem lines_evictLine (s : State) (c : CoreId) (x : Nat × Line) :
    ((evictLine c s x).core c).dcache.lines = tabSet none (s.core c).dcache.lines x.1 none := by
  have core : (s.writeBack c none x.2).core c = s.core c := by rw [State.core, State.core, (writeBack_rest s c x.2).2]
  rw [evictLine, State.core_modCore_self, core]
  show tabSet none (s.core c).dcache.lines (x.1 / 4 * 4 + x.1 % 4) none = _
  rw [Nat.div_add_mod']

/-- Lines evicted one after another: their places are empty, the others stand, and what was dirty has been sent. -/
theorem evictLines (c : CoreId) (ls : List (Nat × Line)) (s : State) : Evicts s (s.forAll ls (evictLine c)) c ∧
    (∀ k, tabGet none ((s.forAll ls (evictLine c)).core c).dcache.lines k =
      if k ∈ ls.map (·.1) then none else tabGet none (s.core c).dcache.lines k) ∧
    ∀ x ∈ ls, x.2.dirty ≠ 0 → ∃ y ∈ (s.forAll ls (evictLine c)).txns, y.src = .cache c ∧ y.op = .write x.2.dirtyBytes := by
  induction ls generalizing s with
  | nil => exact ⟨.refl s c, by simp [State.forAll], by simp⟩
  | cons x ls ih =>
    obtain ⟨evicts, lines, written⟩ := ih (evictLine c s x)
    refine ⟨(evicts_evictLine s c x).trans evicts, fun k => (lines k).trans ?_, fun y hy dirty => ?_⟩
    · rw [lines_evictLine]
      by_cases at_ : k = x.1
      · subst at_
        simp
      · rw [tabGet_tabSet_ne _ _ _ at_]
        exact if_congr (by simp [at_]) rfl rfl
    · obtain rfl | hy := List.mem_cons.1 hy
      · obtain ⟨sent, txns, -, sends⟩ := writeBack_txns s c y.2
        obtain ⟨z, hz, is_⟩ := sends dirty
        obtain ⟨more, later, -⟩ := evicts.txns
        have there : z ∈ (evictLine c s y).txns := txns ▸ List.mem_append_right _ hz
        exact ⟨z, later ▸ List.mem_append_left _ there, is_⟩
      · exact written y hy dirty

/-! A purge -/

theorem mem_of_tabGet {α : Type} {t : Tab (Option α)} {k : Nat} {a : α} (h : tabGet none t k = some a) : (k, some a) ∈ t := by
  induction t with
  | nil => cases h
  | cons p t ih =>
    obtain ⟨i, v⟩ := p
    by_cases e : i = k
    · subst e
      simp only [tabGet, tabFind, if_true, Option.getD_some] at h
      exact h ▸ List.mem_cons_self
    · simp only [tabGet, tabFind, if_neg e] at h
      exact List.mem_cons_of_mem _ (ih h)

/-- An access marked so that what it brings is not installed. -/
def Lapses (x y : Txn) : Prop := y = x ∨ y = { x with cancelled := true }

theorem Lapses.same {x y : Txn} (h : Lapses x y) : y.src = x.src ∧ y.purpose = x.purpose ∧ y.op = x.op ∧ (x.cancelled = true → y.cancelled = true) := by
  obtain rfl | rfl := h
  · exact ⟨rfl, rfl, rfl, id⟩
  · exact ⟨rfl, rfl, rfl, fun _ => rfl⟩

theorem lapses_ite (p : Prop) [Decidable p] (x : Txn) : Lapses x (if p then { x with cancelled := true } else x) := by
  split
  · exact .inr rfl
  · exact .inl rfl

theorem cancelFills_txns (s : State) (c : CoreId) (hit : Nat → Bool) : ∃ f : Txn → Txn, (s.cancelFills c false hit).txns = s.txns.map f ∧
    ∀ x, Lapses x (f x) := by
  exact ⟨_, rfl, fun x => lapses_ite _ x⟩

theorem core_cancelFills (s : State) (c : CoreId) (hit : Nat → Bool) (n : Nat) : (s.cancelFills c false hit).core n = s.core n := rfl

/-- What a purge of a core's data side leaves. -/
structure Purged (s u : State) (c : CoreId) (sel : Nat → Bool) : Prop where
  regs : u.regs = s.regs
  cores : CoresBut s u c
  core : { u.core c with dcache := (s.core c).dcache, side := (s.core c).side } = s.core c
  side : (u.core c).side = (s.core c).side.filter fun l => !sel l.tag
  stands : ∀ k l, tabGet none (u.core c).dcache.lines k = some l → sel l.tag = false
  walks : ∀ y ∈ u.txns, ∀ level va write fetch soft, y.purpose = .walk level va write fetch soft → ∃ x ∈ s.txns, Lapses x y
  written : ∀ k l, (k, some l) ∈ (s.core c).dcache.lines → sel l.tag = true → l.dirty ≠ 0 → ∃ x ∈ u.txns, x.src = .cache c ∧ x.op = .write l.dirtyBytes

theorem purged_purge (s : State) (c : CoreId) (sel : Nat → Bool) : Purged s (s.purge c sel) c sel := by
  obtain ⟨evicts, lines, written⟩ := evictLines c (linesOf s c sel) s
  unfold State.purge
  rw [dcMaint_evicts]
  generalize s.forAll (linesOf s c sel) (evictLine c) = t at evicts lines written ⊢
  dsimp only
  obtain ⟨f, marked, lapses⟩ := cancelFills_txns (t.modCore c fun q => { q with side := q.side.filter fun l => !sel l.tag }) c sel
  have core : ((t.modCore c fun q => { q with side := q.side.filter fun l => !sel l.tag }).cancelFills c false sel).core c =
      { t.core c with side := (t.core c).side.filter fun l => !sel l.tag } := by
    rw [core_cancelFills, State.core_modCore_self]
  have sides : (t.core c).side = (s.core c).side := (congrArg Core.side evicts.core :)
  obtain ⟨backs, sent, isBack⟩ := evicts.txns
  refine ⟨evicts.regs, fun x hx => ?_, ?_, ?_, fun k l hl => ?_, fun y hy => ?_,
    fun k l hl chosen dirty => ?_⟩
  · rw [core_cancelFills, State.core_modCore_ne _ _ hx, evicts.cores x hx]
  · rw [core, ← evicts.core]
  · rw [core, sides]
  · rw [core] at hl
    have old := (lines k).symm.trans hl
    split at old
    · cases old
    · next free =>
      by_contra chosen
      exact free (List.mem_map.2 ⟨(k, l), mem_linesOf.2 ⟨mem_of_tabGet old, eq_true_of_ne_false chosen⟩, rfl⟩)
  · intro level va write fetch soft walk
    rw [marked] at hy
    obtain ⟨x, hx, rfl⟩ := List.mem_map.1 hy
    obtain ⟨-, purpose, -⟩ := (lapses x).same
    obtain hx | hx := List.mem_append.1 (sent ▸ hx : x ∈ s.txns ++ backs)
    · exact ⟨x, hx, lapses x⟩
    · obtain ⟨t, back⟩ := isBack x hx
      rw [purpose, back] at walk
      cases walk
  · obtain ⟨y, hy, src, op⟩ := written (k, l) (mem_linesOf.2 ⟨hl, chosen⟩) dirty
    obtain ⟨same, -, op', -⟩ := (lapses y).same
    exact ⟨f y, marked ▸ List.mem_map_of_mem hy, same.trans src, op'.trans op⟩

/-! The two commands -/

/-- Walks of a core for pages that pass a test are to install nothing, and all else under way stands. -/
theorem cancelWalks_txns (s : State) (c : CoreId) (sel : Nat → Bool) : ∀ y ∈ (s.cancelWalks c sel).txns, ∀ level va write fetch soft,
    y.src.core? = some c → y.purpose = .walk level va write fetch soft → sel (va / 2 ^ 21) = true → y.cancelled = true := by
  intro y hy level va write fetch soft own walk chosen
  obtain ⟨x, -, hxy⟩ := List.mem_map.1 hy
  split at hxy
  · next level' va' _ _ _ purpose =>
    obtain ⟨src, same, -, -⟩ := (hxy ▸ lapses_ite _ x : Lapses x y).same
    obtain ⟨-, rfl, -⟩ := Purpose.walk.inj (purpose.symm.trans (same.symm.trans walk))
    have hit : (x.src.core? == some c && sel (va' / 2 ^ 21)) = true := by rw [← src, own, chosen, beq_self_eq_true, Bool.and_self]
    rw [if_pos hit] at hxy
    exact hxy ▸ rfl
  · next other => exact absurd (hxy ▸ walk) (other level va write fetch soft)

/-- What an invalidation does before it reports: translations go, walks under way lapse, lines of the data side are purged. -/
def invalidated (s : State) (c : CoreId) (tlb : Tab (Option Word) → Tab (Option Word)) (walks : Nat → Bool) (lines : Nat → Bool) : State :=
  ((s.modCore c fun q => { q with tlb := tlb q.tlb }).cancelWalks c walks).purge c lines

theorem trInvAll_eq (s : State) (c : CoreId) :
    s.trInvAll c = (invalidated s c (fun _ => []) (fun _ => true) fun _ => true).setFld (aTR_INV c) TR_INV.BUSY 1 := rfl

theorem trInvOne_eq (s : State) (c : CoreId) (vpn : Nat) : s.trInvOne c vpn =
    ((invalidated s c (tabDel · vpn) (· == vpn) fun tag => s.pageOf c vpn == some (tag * 64 / 2 ^ 21)).setFld (aTR_INV c) TR_INV.VPN vpn).setFld
      (aTR_INV c) TR_INV.BUSY 1 := rfl

/-- What an invalidation leaves. -/
structure Invalidated (s u : State) (c : CoreId) (tlb : Tab (Option Word) → Tab (Option Word)) (walks : Nat → Bool) (lines : Nat → Bool) : Prop where
  regs : u.regs = s.regs
  cores : CoresBut s u c
  thr : ∀ t, u.thr c t = s.thr c t
  icache : (u.core c).icache = (s.core c).icache
  tlb : (u.core c).tlb = tlb (s.core c).tlb
  side : (u.core c).side = (s.core c).side.filter fun l => !lines l.tag
  stands : ∀ k l, tabGet none (u.core c).dcache.lines k = some l → lines l.tag = false
  lapsed : ∀ y ∈ u.txns, ∀ level va write fetch soft, y.src.core? = some c → y.purpose = .walk level va write fetch soft →
    walks (va / 2 ^ 21) = true → y.cancelled = true
  written : ∀ k l, (k, some l) ∈ (s.core c).dcache.lines → lines l.tag = true → l.dirty ≠ 0 → ∃ x ∈ u.txns, x.src = .cache c ∧ x.op = .write l.dirtyBytes

theorem invalidated_leaves (s : State) (c : CoreId) (tlb : Tab (Option Word) → Tab (Option Word)) (walks lines : Nat → Bool) :
    Invalidated s (invalidated s c tlb walks lines) c tlb walks lines := by
  have purged := purged_purge ((s.modCore c fun q => { q with tlb := tlb q.tlb }).cancelWalks c walks) c lines
  have marked := cancelWalks_txns (s.modCore c fun q => { q with tlb := tlb q.tlb }) c walks
  have core : ((s.modCore c fun q => { q with tlb := tlb q.tlb }).cancelWalks c walks).core c = { s.core c with tlb := tlb (s.core c).tlb } :=
    State.core_modCore_self s c fun q => { q with tlb := tlb q.tlb }
  have others (x : Nat) (hx : x ≠ c.val) : ((s.modCore c fun q => { q with tlb := tlb q.tlb }).cancelWalks c walks).core x = s.core x :=
    State.core_modCore_ne s (fun q => { q with tlb := tlb q.tlb }) hx
  have kept := purged.core
  rw [core] at kept
  have side := purged.side
  rw [core] at side
  have written := purged.written
  rw [core] at written
  refine ⟨purged.regs, fun x hx => (purged.cores x hx).trans (others x hx), fun t => ?_, (congrArg Core.icache kept :),
    (congrArg Core.tlb kept :), side, purged.stands, fun y hy level va write fetch soft own walk chosen => ?_, written⟩
  · exact congrArg (fun v : Vector Thread 4 => v[t]) (congrArg Core.thr kept :)
  · obtain ⟨x, hx, lapses⟩ := purged.walks y hy level va write fetch soft walk
    obtain ⟨src, purpose, -, stays⟩ := lapses.same
    exact stays (marked x hx level va write fetch soft (src ▸ own) (purpose ▸ walk) chosen)

/-- What an invalidation leaves besides its register and what it is for. -/
theorem Invalidated.kept {s u v : State} {c : CoreId} {tlb : Tab (Option Word) → Tab (Option Word)} {walks lines : Nat → Bool}
    (h : Invalidated s u c tlb walks lines) (cores : v.cores = u.cores) (regs : ∀ a, a ∉ [aTR_INV c] → v.reg a = u.reg a) :
    CoresBut s v c ∧ RegsBut s v [aTR_INV c] ∧ (∀ t, v.thr c t = s.thr c t) ∧ (v.core c).icache = (s.core c).icache := by
  have core (n : Nat) : v.core n = u.core n := by rw [State.core, State.core, cores]
  refine ⟨fun x hx => (core x).trans (h.cores x hx), fun a ha => (regs a ha).trans (reg_of_regs h.regs a), fun t => ?_, ?_⟩
  · rw [← h.thr t, State.thr, State.thr, core]
  · rw [core, h.icache]

theorem pageOf_cached {s : State} {c vpn : Nat} {e : Word} (h : tabGet none (s.core c).tlb vpn = some e) : s.pageOf c vpn = some (PTE2.PPA.get e) := by
  unfold State.pageOf
  rw [h]

/-- Whether accesses that used a translation, or write-backs, are under way for a core. -/
def invBusyTxns (s : State) (c : CoreId) : Bool :=
  s.txns.any fun x => x.src.core? == some c && !x.answered && (x.vpn.isSome || match x.purpose with | .writeBack _ => true | _ => false)

theorem translationsInvalidated : Claims.TranslationsInvalidated := by
  intro s c vpn
  refine ⟨?_, ?_, fun busy free => ?_, fun busy => ?_⟩
  · have all := invalidated_leaves s c (fun _ => []) (fun _ => true) fun _ => true
    have step : exec (.trInvAll c) s = .next (s.commit (s.trInvAll c)) := rfl
    rw [trInvAll_eq] at step
    generalize invalidated s c (fun _ => []) (fun _ => true) (fun _ => true) = u at all step
    have core : (s.commit (u.setFld (aTR_INV c) TR_INV.BUSY 1)).core c = u.core c := by rw [State.core_commit, State.core_setFld]
    have kept := all.kept (v := s.commit (u.setFld (aTR_INV c) TR_INV.BUSY 1)) (by rw [State.commit_cores, State.setFld_cores])
      fun a ha => by rw [State.reg_commit, State.reg_setFld_ne _ _ _ (by simpa using ha)]
    have txns : (s.commit (u.setFld (aTR_INV c) TR_INV.BUSY 1)).txns = u.txns := by rw [State.commit_txns, State.setFld_txns]
    refine answers_commit _ step ⟨kept, fun x hx level va write fetch soft own walk _ => ?_, ?_, ?_, fun k => ?_, ?_, fun k l mem dirty => ?_⟩
    · exact all.lapsed x (txns ▸ hx) level va write fetch soft own walk rfl
    · rw [core, all.tlb]
    · rw [core, all.side]
      simp
    · rw [core]
      exact Option.eq_none_iff_forall_ne_some.2 fun l hl => Bool.false_ne_true (all.stands k l hl).symm
    · rw [State.fld_commit, State.fld_setFld_self _ _ _ _ (by decide)]
      rfl
    · rw [txns]
      exact all.written k l mem rfl dirty
  · have one := invalidated_leaves s c (tabDel · vpn) (· == vpn) fun tag => s.pageOf c vpn == some (tag * 64 / 2 ^ 21)
    have step : exec (.trInvOne c vpn) s = .next (s.commit (s.trInvOne c vpn)) := rfl
    rw [trInvOne_eq] at step
    generalize invalidated s c (tabDel · vpn) (· == vpn) (fun tag => s.pageOf c vpn == some (tag * 64 / 2 ^ 21)) = u at one step
    have core : (s.commit ((u.setFld (aTR_INV c) TR_INV.VPN vpn).setFld (aTR_INV c) TR_INV.BUSY 1)).core c = u.core c := by
      rw [State.core_commit, State.core_setFld, State.core_setFld]
    have kept := one.kept (v := s.commit ((u.setFld (aTR_INV c) TR_INV.VPN vpn).setFld (aTR_INV c) TR_INV.BUSY 1))
      (by rw [State.commit_cores, State.setFld_cores, State.setFld_cores])
      fun a ha => by rw [State.reg_commit, State.reg_setFld_ne _ _ _ (by simpa using ha), State.reg_setFld_ne _ _ _ (by simpa using ha)]
    have txns : (s.commit ((u.setFld (aTR_INV c) TR_INV.VPN vpn).setFld (aTR_INV c) TR_INV.BUSY 1)).txns = u.txns := by
      rw [State.commit_txns, State.setFld_txns, State.setFld_txns]
    refine answers_commit _ step ⟨kept, fun x hx level va write fetch soft own walk at_ => ?_, ?_, fun v hv => ?_, ?_, ?_,
      fun e cached k l stands => ?_⟩
    · exact one.lapsed x (txns ▸ hx) level va write fetch soft own walk (by simpa using at_)
    · rw [core, one.tlb, tabGet, tabFind_tabDel_self]
      rfl
    · rw [core, one.tlb, tabGet, tabFind_tabDel_ne _ hv]
      rfl
    · rw [State.fld_commit, State.fld_setFld_self _ _ _ _ (by decide)]
      rfl
    · rw [State.fld_commit, State.fld_setFld_apart _ _ _ _ _ (by decide) (by decide), State.fld_setFld_self _ _ _ _ (by decide)]
      rfl
    · rw [core] at stands
      have other := one.stands k l stands
      rw [pageOf_cached cached] at other
      intro same
      rw [same, beq_self_eq_true] at other
      cases other
  · have done : exec (.trInvComplete c) s = .next (s.commit (s.setFld (aTR_INV c) TR_INV.BUSY 0)) := by
      show s.done (if s.flag (aTR_INV c) TR_INV.BUSY && !invBusyTxns s c then _ else s) = _
      rw [busy, show invBusyTxns s c = false from free]
      rfl
    exact ⟨done.trans (congrArg Host.Outcome.next (commit_setFld ..)), rereg_setFld ..⟩
  · show s.done (if s.flag (aTR_INV c) TR_INV.BUSY && !invBusyTxns s c then _ else s) = _
    rw [show invBusyTxns s c = true from busy, Bool.not_true, Bool.and_false, if_neg Bool.false_ne_true, State.done, commit_self]

end Sys2Proof.Proofs
end

section
/-! SUPPORT. Translations of a die's channels taken out (R112, R407). -/

namespace Sys2Proof.Proofs
open Sys2Proof.Machine Sys2Proof.Claims

/-- The translations of a die that an invalidation leaves. -/
def leftOver (t : Tab (Option Word)) (slot : Nat) (vpn : Option Nat) : Tab (Option Word) :=
  t.filter fun (k, _) => !(k / 2 ^ 27 == slot && vpn.all (· == k % 2 ^ 27))

/-- A translation is found after an invalidation as before it, but for those it names. -/
theorem tabFind_leftOver (t : Tab (Option Word)) (slot : Nat) (vpn : Option Nat) (n : Nat) : tabFind (leftOver t slot vpn) n =
    if n / 2 ^ 27 == slot && vpn.all (· == n % 2 ^ 27) then none else tabFind t n := by
  induction t with
  | nil => simp [leftOver, tabFind]
  | cons p t ih =>
    obtain ⟨k, e⟩ := p
    rw [leftOver, List.filter_cons]
    by_cases named : (k / 2 ^ 27 == slot && vpn.all (· == k % 2 ^ 27)) = true
    · rw [if_neg (by dsimp only; rw [named]; decide)]
      refine ih.trans ?_
      by_cases at_ : k = n
      · subst at_
        rw [if_pos named, if_pos named]
      · rw [tabFind, if_neg at_]
    · rw [if_pos (by dsimp only; rw [eq_false_of_ne_true named]; rfl), tabFind, tabFind]
      by_cases at_ : k = n
      · subst at_
        rw [if_pos rfl, if_neg named, if_pos rfl]
      · rw [if_neg at_, if_neg at_]
        exact ih

/-- Whether a walk under way is for a translation that an invalidation names. -/
def staleWalk (s : State) (d slot : Nat) (vpn : Option Nat) (x : Txn) : Bool :=
  match x.src, x.purpose with
  | .dmaWalker ch, .walk _ va _ _ _ => ch.val / 32 == d && s.dmaSlot ch == slot && vpn.all (· == va / 2 ^ 21)
  | _, _ => false

/-- Whether an access of a die's channels that used a translation is under way. -/
def dmaInvBusy (txns : List Txn) (d : Nat) : Bool :=
  txns.any fun x => x.vpn.isSome && match x.src with | .dma ch => ch.val / 32 == d | _ => false

/-- An invalidation before its register: the translations go and the walks lapse. -/
def dropTranslations (s : State) (d slot : Nat) (vpn : Option Nat) : State :=
  { s with
    dmaTlb := tabSet [] s.dmaTlb d (leftOver (tabGet [] s.dmaTlb d) slot vpn)
    txns := s.txns.map fun x => if staleWalk s d slot vpn x then { x with cancelled := true } else x }

/-- What the register of a die's invalidations shows, apart from its BUSY bit's end. -/
def showTrinv (s : State) (d slot : Nat) (vpn : Option Nat) : State :=
  let s := (s.setFld (aDMA_TRINV d) DMA_TRINV.SLOT slot).setFld (aDMA_TRINV d) DMA_TRINV.BUSY 1
  match vpn with
  | some v => s.setFld (aDMA_TRINV d) DMA_TRINV.VPN v
  | none => s

theorem dmaTrinv_eq (s : State) (d slot : Nat) (vpn : Option Nat) :
    s.dmaTrinv d slot vpn = (showTrinv (dropTranslations s d slot vpn) d slot vpn).dmaInvDone d := by
  cases vpn <;> rfl

theorem showTrinv_rest (s : State) (d slot : Nat) (vpn : Option Nat) : { showTrinv s d slot vpn with regs := s.regs } = s := by
  cases vpn with
  | none => rw [showTrinv, rereg_setFld, rereg_setFld]
  | some v => rw [showTrinv, rereg_setFld, rereg_setFld, rereg_setFld]

theorem showTrinv_regs (s : State) (d slot : Nat) (vpn : Option Nat) : (∀ a, a ≠ aDMA_TRINV d → (showTrinv s d slot vpn).reg a = s.reg a) ∧
    (showTrinv s d slot vpn).fld (aDMA_TRINV d) DMA_TRINV.BUSY = 1 ∧ (showTrinv s d slot vpn).fld (aDMA_TRINV d) DMA_TRINV.SLOT = slot % 16 := by
  have busy (t : State) : (t.setFld (aDMA_TRINV d) DMA_TRINV.BUSY 1).fld (aDMA_TRINV d) DMA_TRINV.BUSY = 1 :=
    State.fld_setFld_self _ _ _ _ (by decide)
  have slots : ((s.setFld (aDMA_TRINV d) DMA_TRINV.SLOT slot).setFld (aDMA_TRINV d) DMA_TRINV.BUSY 1).fld (aDMA_TRINV d) DMA_TRINV.SLOT = slot % 16 := by
    rw [State.fld_setFld_apart _ _ _ _ _ (by decide) (by decide), State.fld_setFld_self _ _ _ _ (by decide)]
    rfl
  cases vpn with
  | none =>
    rw [showTrinv]
    exact ⟨fun a ha => by rw [State.reg_setFld_ne _ _ _ ha, State.reg_setFld_ne _ _ _ ha], busy _, slots⟩
  | some v =>
    rw [showTrinv]
    refine ⟨fun a ha => ?_, ?_, ?_⟩
    · rw [State.reg_setFld_ne _ _ _ ha, State.reg_setFld_ne _ _ _ ha, State.reg_setFld_ne _ _ _ ha]
    · rw [State.fld_setFld_apart _ _ _ _ _ (by decide) (by decide), busy]
    · rw [State.fld_setFld_apart _ _ _ _ _ (by decide) (by decide), slots]

theorem dmaInvDone_eq (s : State) (d : Nat) : s.dmaInvDone d = if dmaInvBusy s.txns d then s else s.setFld (aDMA_TRINV d) DMA_TRINV.BUSY 0 := rfl

/-- The end of an invalidation: BUSY stands while an access that used a translation is under way. -/
theorem dmaInvDone_leaves (s : State) (d : Nat) (busy : s.fld (aDMA_TRINV d) DMA_TRINV.BUSY = 1) : { s.dmaInvDone d with regs := s.regs } = s ∧
    (∀ a, a ≠ aDMA_TRINV d → (s.dmaInvDone d).reg a = s.reg a) ∧
    (s.dmaInvDone d).fld (aDMA_TRINV d) DMA_TRINV.BUSY = b2n (dmaInvBusy s.txns d) ∧
    (s.dmaInvDone d).fld (aDMA_TRINV d) DMA_TRINV.SLOT = s.fld (aDMA_TRINV d) DMA_TRINV.SLOT := by
  rw [dmaInvDone_eq]
  cases h : dmaInvBusy s.txns d with
  | true =>
    rw [if_pos rfl]
    exact ⟨rfl, fun _ _ => rfl, busy, rfl⟩
  | false =>
    rw [if_neg Bool.false_ne_true]
    exact ⟨rereg_setFld .., fun a ha => State.reg_setFld_ne _ _ _ ha, State.fld_setFld_self _ _ _ _ (by decide),
      State.fld_setFld_apart _ _ _ _ _ (by decide) (by decide)⟩

/-- What an invalidation of a die's channels leaves. -/
structure Trinv (s u : State) (d slot : Nat) (vpn : Option Nat) : Prop where
  cores : u.cores = s.cores
  txns : u.txns = s.txns.map fun x => if staleWalk s d slot vpn x then { x with cancelled := true } else x
  regs : ∀ a, a ≠ aDMA_TRINV d → u.reg a = s.reg a
  busy : u.fld (aDMA_TRINV d) DMA_TRINV.BUSY = b2n (dmaInvBusy s.txns d)
  names : u.fld (aDMA_TRINV d) DMA_TRINV.SLOT = slot % 16
  tlb : u.dmaTlb = tabSet [] s.dmaTlb d (leftOver (tabGet [] s.dmaTlb d) slot vpn)

theorem dmaInvBusy_lapses (s : State) (d slot : Nat) (vpn : Option Nat) : dmaInvBusy (dropTranslations s d slot vpn).txns d = dmaInvBusy s.txns d := by
  simp only [dmaInvBusy, dropTranslations, List.any_map]
  congr 1
  funext x
  simp only [Function.comp_apply]
  split <;> rfl

theorem trinv_dmaTrinv (s : State) (d slot : Nat) (vpn : Option Nat) : Trinv s (s.dmaTrinv d slot vpn) d slot vpn := by
  obtain ⟨regs, busy, slots⟩ := showTrinv_regs (dropTranslations s d slot vpn) d slot vpn
  have shown := showTrinv_rest (dropTranslations s d slot vpn) d slot vpn
  have lapsed := dmaInvBusy_lapses s d slot vpn
  rw [dmaTrinv_eq]
  generalize showTrinv (dropTranslations s d slot vpn) d slot vpn = t at regs busy slots shown ⊢
  have txns : t.txns = (dropTranslations s d slot vpn).txns := (congrArg State.txns shown :)
  obtain ⟨rest, others, ends, stays⟩ := dmaInvDone_leaves t d busy
  refine ⟨?_, ?_, fun a ha => (others a ha).trans (regs a ha), ?_, stays.trans slots, ?_⟩
  · exact (congrArg State.cores rest :).trans (congrArg State.cores shown :)
  · exact (congrArg State.txns rest :).trans (congrArg State.txns shown :)
  · rw [ends, txns, lapsed]
  · exact (congrArg State.dmaTlb rest :).trans (congrArg State.dmaTlb shown :)

theorem Trinv.commit {s u : State} {d slot : Nat} {vpn : Option Nat} (h : Trinv s u d slot vpn) : Trinv s (s.commit u) d slot vpn :=
  ⟨h.cores, h.txns, h.regs, h.busy, h.names, h.tlb⟩

theorem key_of_page {slot v : Nat} (h : v < 2 ^ 27) : (slot * 2 ^ 27 + v) / 2 ^ 27 = slot ∧ (slot * 2 ^ 27 + v) % 2 ^ 27 = v := by omega

/-- The walks of a slot's channels for a page that is named lapse. -/
theorem Trinv.lapsed {s u : State} {d slot : Nat} {vpn : Option Nat} (h : Trinv s u d slot vpn) : ∀ y ∈ u.txns, ∀ (ch : DmaCh) level va write fetch tag,
    y.src = .dmaWalker ch → ch.val / 32 = d → s.dmaSlot ch = slot → y.purpose = .walk level va write fetch tag → vpn.all (· == va / 2 ^ 21) = true →
      y.cancelled = true := by
  intro y hy ch level va write fetch tag src die own walk named
  rw [h.txns] at hy
  obtain ⟨x, -, hxy⟩ := List.mem_map.1 hy
  obtain ⟨src', same, -, -⟩ := (hxy ▸ lapses_ite _ x : Lapses x y).same
  have stale : staleWalk s d slot vpn x = true := by
    simp only [staleWalk, ← src', ← same, src, walk, die, own, named, beq_self_eq_true, Bool.and_self]
  rw [if_pos stale] at hxy
  exact hxy ▸ rfl

theorem dmaTranslationsInvalidated : Claims.DmaTranslationsInvalidated := by
  intro s d slot vpn low
  have kept {u : State} {v : Option Nat} (h : Trinv s u d slot v) : u.cores = s.cores ∧ u.txns.map (·.id) = s.txns.map (·.id) ∧
      RegsBut s u [aDMA_TRINV d] ∧ u.fld (aDMA_TRINV d) DMA_TRINV.BUSY = b2n (dmaInvBusy s.txns d) ∧ u.fld (aDMA_TRINV d) DMA_TRINV.SLOT = slot.val ∧
      ∀ e : Die, e ≠ d → tabGet [] u.dmaTlb e = tabGet [] s.dmaTlb e := by
    refine ⟨h.cores, ?_, fun a ha => h.regs a (by simpa using ha), h.busy, h.names.trans (Nat.mod_eq_of_lt slot.isLt), fun e he => ?_⟩
    · rw [h.txns, List.map_map]
      refine List.map_congr_left fun x _ => ?_
      simp only [Function.comp_apply]
      split <;> rfl
    · rw [h.tlb, tabGet_tabSet_ne _ _ _ fun same => he (Fin.ext same)]
  have tlb {u : State} {v : Option Nat} (h : Trinv s u d slot v) (n : Nat) : tabFind (tabGet [] u.dmaTlb d) n =
      if n / 2 ^ 27 == slot.val && v.all (· == n % 2 ^ 27) then none else tabFind (tabGet [] s.dmaTlb d) n := by
    rw [h.tlb, tabGet_tabSet_self, tabFind_leftOver]
  constructor
  · have all := (trinv_dmaTrinv s d slot none).commit
    refine answers_commit _ rfl ⟨kept all, fun y hy ch level va write fetch tag src die own walk _ =>
      all.lapsed y hy ch level va write fetch tag src die own walk rfl, fun v hv => ?_, fun k v hv other => ?_⟩
    · rw [tlb all, if_pos (by rw [(key_of_page hv).1, beq_self_eq_true]; rfl)]
    · rw [tlb all, if_neg (by rw [(key_of_page hv).1]; simp [other])]
  · have one := (trinv_dmaTrinv s d slot (some vpn)).commit
    refine answers_commit _ rfl ⟨kept one, fun y hy ch level va write fetch tag src die own walk at_ =>
      one.lapsed y hy ch level va write fetch tag src die own walk (by rw [show va / 2 ^ 21 = vpn from at_]; simp), ?_, fun k v hv other => ?_⟩
    · rw [tlb one, if_pos (by rw [(key_of_page low).1, (key_of_page low).2]; simp)]
    · rw [tlb one, if_neg]
      rw [(key_of_page hv).1, (key_of_page hv).2]
      simp only [Option.all_some, Bool.and_eq_true, beq_iff_eq, not_and]
      rintro rfl rfl
      exact other rfl

/-- Settles O35: walks by what their entry says, and invalidations by what they take out. -/
theorem translationWalksAndInvalidation : Obligations.TranslationWalksAndInvalidation :=
  ⟨walksGoOn, translationsInvalidated, dmaTranslationsInvalidated⟩

end Sys2Proof.Proofs
end

section
/-! SUPPORT. Operations of the flash channels and reports of pages (R111, R433, R436). -/

namespace Sys2Proof.Proofs
open Sys2Proof.Machine Sys2Proof.Claims

/-! Operations of the flash channels -/

theorem flashOps_setOps_self (s : State) (f : Nat) (l : List FlashOp) : (s.setOps f l).flashOps f = l := tabGet_tabSet_self ..

theorem flashOps_setOps_ne (s : State) {f g : Nat} (l : List FlashOp) (h : g ≠ f) : (s.setOps f l).flashOps g = s.flashOps g :=
  tabGet_tabSet_ne _ _ _ h

/-- All of a state but the operations of its flash channels. -/
def besideOps (s : State) : State := s.modDeep fun d => { d with ops := [] }

theorem besideOps_setOps (s : State) (f : Nat) (l : List FlashOp) : besideOps (s.setOps f l) = besideOps s := rfl

theorem besideOps_startOps (s : State) (o : FlashOp) : besideOps (s.startOps o) = besideOps s := by
  unfold State.startOps
  exact State.forAll_keeps besideOps _ _ (fun _ _ _ => besideOps_setOps ..) s

theorem cores_of_besideOps {s u : State} (h : besideOps u = besideOps s) : u.cores = s.cores := (congrArg State.cores h :)
theorem regs_of_besideOps {s u : State} (h : besideOps u = besideOps s) : u.regs = s.regs := (congrArg State.regs h :)
theorem deep_of_besideOps {s u : State} (h : besideOps u = besideOps s) : u.deep = { s.deep with ops := u.deep.ops } := by
  have deep : ({ u.deep with ops := [] } : Deep) = { s.deep with ops := [] } := (congrArg State.deep h :)
  calc u.deep
    _ = { ({ u.deep with ops := [] } : Deep) with ops := u.deep.ops } := rfl
    _ = { s.deep with ops := u.deep.ops } := by rw [deep]

/-- An operation that starts runs on every flash channel. -/
theorem mem_flashOps_startOps (s : State) (o : FlashOp) (f : Fin 32) : o ∈ (s.startOps o).flashOps f := by
  unfold State.startOps
  refine forAll_brings (I := fun _ => True) (P := fun t => o ∈ t.flashOps f) (List.mem_range.2 f.isLt) s trivial (fun _ _ _ _ => trivial)
    (fun t _ => ?_) fun t b _ _ there => ?_
  · dsimp only
    rw [flashOps_setOps_self]
    split <;> simp
  · dsimp only
    by_cases e : f.val = b
    · subst e
      rw [flashOps_setOps_self]
      split <;> simp
    · rw [flashOps_setOps_ne _ _ e]
      exact there

/-- A read that starts changes nothing but the flash channels' operations and what was noted of an earlier read of the page. -/
theorem startRead_rest (s : State) (slot vpn : Nat) : (s.startRead slot vpn).cores = s.cores ∧ (s.startRead slot vpn).regs = s.regs ∧
    (s.startRead slot vpn).deep.pageIns = s.deep.pageIns := by
  have rest := besideOps_startOps (s.modDeep fun d => { d with unread := tabDel d.unread (dmaKey slot vpn) }) (.pageIn (Fin.ofNat 16 slot) vpn)
  have cores := cores_of_besideOps rest
  have regs := regs_of_besideOps rest
  have deep := deep_of_besideOps rest
  rw [State.modDeep_cores] at cores
  rw [State.modDeep_regs] at regs
  rw [State.deep_modDeep] at deep
  unfold State.startRead
  split
  · exact ⟨cores, regs, (congrArg Deep.pageIns deep :)⟩
  · exact ⟨rfl, rfl, rfl⟩

/-! Reports of pages -/

theorem pageWanted_thread {s : State} {c : CoreId} {t : Thr} {va slot w : Nat} (waits : (s.thr c t).stall = .pageIn va)
    (bound : s.boundTo c = some (slot, w)) : s.pageWanted (.thread c t) = some (slot, va / 2 ^ 21) := by
  simp only [State.pageWanted, waits, bound, Option.map_some]

/-- A thread's report of a page that none has reported. -/
def newReport (s : State) (c : CoreId) (t : Thr) (slot vpn : Nat) : State :=
  ((s.incFld (aTR_STAT c) TR_STAT.PAGE_INS 1).modDeep fun d =>
    { d with pageIns := d.pageIns ++ [⟨Fin.ofNat 16 slot, vpn, [.thread c t]⟩] }).startRead slot vpn

/-- A thread's report of a page that is reported. -/
def laterReport (s : State) (c : CoreId) (t : Thr) (slot vpn : Nat) : State :=
  (s.incFld (aTR_STAT c) TR_STAT.PAGE_INS 1).modDeep fun d =>
    { d with pageIns := d.pageIns.map fun e => if e.slot.val == slot && e.vpn == vpn then { e with waiters := e.waiters ++ [.thread c t] } else e }

section Report
variable {s : State} {c : CoreId} {t : Thr} {slot vpn : Nat} (wanted : s.pageWanted (.thread c t) = some (slot, vpn))
include wanted

theorem exec_pageInReport (unheard : (s.deep.pageIns.any fun e => (e.slot.val == slot && e.vpn == vpn) && e.waiters.contains (.thread c t)) = false) :
    exec (.pageInReport (.thread c t)) s = .next (s.commit
      (if s.deep.pageIns.any fun e => e.slot.val == slot && e.vpn == vpn then laterReport s c t slot vpn else newReport s c t slot vpn)) := by
  show execPageInReport (.thread c t) s = _
  rw [execPageInReport, wanted]
  dsimp only
  rw [if_neg (by rw [unheard]; exact Bool.false_ne_true), newReport, laterReport]
  have deep : (s.incFld (aTR_STAT c) TR_STAT.PAGE_INS 1).deep = s.deep := State.incFld_deep ..
  generalize s.incFld (aTR_STAT c) TR_STAT.PAGE_INS 1 = v at deep ⊢
  rw [← deep]
  rfl

end Report

/-- What a report changes besides the deep tier's state. -/
theorem reported_rest (s : State) (c : CoreId) (f : Deep → Deep) : ((s.incFld (aTR_STAT c) TR_STAT.PAGE_INS 1).modDeep f).cores = s.cores ∧
    RegsBut s ((s.incFld (aTR_STAT c) TR_STAT.PAGE_INS 1).modDeep f) [aTR_STAT c] ∧
    ((s.incFld (aTR_STAT c) TR_STAT.PAGE_INS 1).modDeep f).fld (aTR_STAT c) TR_STAT.PAGE_INS =
      min (TR_STAT.PAGE_INS.size - 1) (s.fld (aTR_STAT c) TR_STAT.PAGE_INS + 1) := by
  refine ⟨?_, fun a ha => ?_, ?_⟩
  · rw [State.modDeep_cores, State.incFld_cores]
  · rw [State.reg_modDeep]
    exact State.reg_setFld_ne _ _ _ (by simpa using ha)
  · rw [State.fld_modDeep, State.fld_incFld_self _ _ _ _ (by decide)]

theorem newReport_rest (s : State) (c : CoreId) (t : Thr) (slot vpn : Nat) : (newReport s c t slot vpn).cores = s.cores ∧
    RegsBut s (newReport s c t slot vpn) [aTR_STAT c] ∧ (newReport s c t slot vpn).fld (aTR_STAT c) TR_STAT.PAGE_INS =
      min (TR_STAT.PAGE_INS.size - 1) (s.fld (aTR_STAT c) TR_STAT.PAGE_INS + 1) ∧
    (newReport s c t slot vpn).deep.pageIns = s.deep.pageIns ++ [⟨Fin.ofNat 16 slot, vpn, [.thread c t]⟩] := by
  obtain ⟨cores, regs, counts⟩ := reported_rest s c fun d => { d with pageIns := d.pageIns ++ [⟨Fin.ofNat 16 slot, vpn, [.thread c t]⟩] }
  obtain ⟨readCores, readRegs, pageIns⟩ := startRead_rest ((s.incFld (aTR_STAT c) TR_STAT.PAGE_INS 1).modDeep fun d =>
    { d with pageIns := d.pageIns ++ [⟨Fin.ofNat 16 slot, vpn, [.thread c t]⟩] }) slot vpn
  refine ⟨readCores.trans cores, fun a ha => (reg_of_regs readRegs a).trans (regs a ha),
    (fld_of_reg (reg_of_regs readRegs _) _).trans counts, pageIns.trans ?_⟩
  rw [State.deep_modDeep, State.incFld_deep]

/-- Reports of one page lead to one page-in. -/
theorem pagesReported (s : State) (c : CoreId) (t : Thr) (va slot w : Nat) (waits : (s.thr c t).stall = .pageIn va)
    (bound : s.boundTo c = some (slot, w)) :
    let vpn := va / 2 ^ 21
    let others (u : State) : Prop := u.cores = s.cores ∧ RegsBut s u [aTR_STAT c] ∧ u.fld (aTR_STAT c) TR_STAT.PAGE_INS =
      min (TR_STAT.PAGE_INS.size - 1) (s.fld (aTR_STAT c) TR_STAT.PAGE_INS + 1)
    ((∀ e ∈ s.deep.pageIns, ¬(e.slot.val = slot ∧ e.vpn = vpn)) → Answers (.pageInReport (.thread c t)) s fun u => others u ∧
      u.deep.pageIns = s.deep.pageIns ++ [⟨Fin.ofNat 16 slot, vpn, [.thread c t]⟩]) ∧
    (∀ e es, s.deep.pageIns = e :: es → e.slot.val = slot → e.vpn = vpn → Waiter.thread c t ∉ e.waiters → (∀ x ∈ es, ¬(x.slot.val = slot ∧ x.vpn = vpn)) →
      Answers (.pageInReport (.thread c t)) s fun u => others u ∧ u.deep.pageIns = { e with waiters := e.waiters ++ [.thread c t] } :: es ∧
        u.deep.ops = s.deep.ops) := by
  intro vpn others
  have wanted : s.pageWanted (.thread c t) = some (slot, vpn) := pageWanted_thread waits bound
  clear_value vpn
  refine ⟨fun fresh => ?_, fun e es first slot_ vpn_ new rest => ?_⟩
  · have none_ : (s.deep.pageIns.any fun e => e.slot.val == slot && e.vpn == vpn) = false := by simpa using fresh
    have step := exec_pageInReport wanted (by
      simp only [List.any_eq_false, Bool.and_eq_true, beq_iff_eq] at none_ ⊢
      exact fun e he same => none_ e he same.1)
    rw [if_neg (by rw [none_]; exact Bool.false_ne_true)] at step
    obtain ⟨cores, regs, counts, pageIns⟩ := newReport_rest s c t slot vpn
    exact answers_commit _ step ⟨⟨(State.commit_cores ..).trans cores, fun a ha => (State.reg_commit ..).trans (regs a ha),
      (State.fld_commit ..).trans counts⟩, pageIns⟩
  · have some_ : (s.deep.pageIns.any fun e => e.slot.val == slot && e.vpn == vpn) = true := by simp [first, slot_, vpn_]
    have step := exec_pageInReport wanted (by
      simp only [first, List.any_cons, Bool.or_eq_false_iff, List.any_eq_false, Bool.and_eq_true, beq_iff_eq]
      exact ⟨by simpa [slot_, vpn_] using new, fun x hx same => rest x hx same.1⟩)
    rw [if_pos some_] at step
    obtain ⟨cores, regs, counts⟩ := reported_rest s c fun d => { d with pageIns := d.pageIns.map fun e =>
      if e.slot.val == slot && e.vpn == vpn then { e with waiters := e.waiters ++ [.thread c t] } else e }
    have others : es.map (fun e => if e.slot.val == slot && e.vpn == vpn then { e with waiters := e.waiters ++ [.thread c t] } else e) = es :=
      (List.map_congr_left fun x hx => if_neg (by simpa using rest x hx)).trans (List.map_id _)
    refine answers_commit _ step ⟨⟨(State.commit_cores ..).trans cores, fun a ha => (State.reg_commit ..).trans (regs a ha),
      (State.fld_commit ..).trans counts⟩, ?_, ?_⟩
    · rw [State.commit_deep, laterReport, State.deep_modDeep, State.incFld_deep]
      simp only [first, List.map_cons, slot_, vpn_, beq_self_eq_true, Bool.and_self, if_true, others]
    · rw [State.commit_deep, laterReport, State.deep_modDeep, State.incFld_deep]

end Sys2Proof.Proofs
end

section
/-! SUPPORT. Memory after pages are filled and entries are written (R107, R111, R433). -/

namespace Sys2Proof.Proofs
open Sys2Proof.Machine Sys2Proof.Claims

theorem mem_of_tabFind {α : Type} {t : Tab α} {k : Nat} {a : α} (h : tabFind t k = some a) : (k, a) ∈ t := by
  induction t with
  | nil => cases h
  | cons x t ih =>
    rw [tabFind] at h
    split at h
    · next here => exact List.mem_cons.2 (.inl (Prod.ext here.symm (Option.some.inj h).symm))
    · exact List.mem_cons_of_mem _ (ih h)

theorem memByte_unlisted {m : List Host.Cell} {a : Nat} (h : ∀ c ∈ m, c.1 ≠ a) : memByte m a = 0 := by
  unfold memByte tabGet
  cases listed : tabFind m a with
  | none => rfl
  | some b => exact absurd rfl (h _ (mem_of_tabFind listed))

/-- Zeros written leave 0 where they are written, and what stood elsewhere. -/
theorem memByte_memWrite_zeros {zs : List (Nat × Byte)} (zero : ∀ z ∈ zs, z.2 = 0) (m : List Host.Cell) (a : Nat) :
    memByte (memWrite m zs) a = if a ∈ zs.map (·.1) then 0 else memByte m a := by
  induction zs generalizing m with
  | nil => simp [memWrite]
  | cons z zs ih =>
    refine (ih (fun x hx => zero x (List.mem_cons_of_mem _ hx)) _).trans ?_
    by_cases later : a ∈ zs.map (·.1)
    · rw [if_pos later, if_pos (List.map_cons .. ▸ List.mem_cons_of_mem _ later)]
    · rw [if_neg later]
      by_cases here : a = z.1
      · rw [if_pos (by simp [here]), here, memByte_memSet_self, zero z (by simp)]
      · rw [if_neg (by simpa [here] using later), memByte_memSet_ne _ _ here]

/-- The bytes of a page as they are set to 0. -/
def pageZeros (m : List Host.Cell) (g : Nat) : List (Nat × Byte) := (m.filter fun c => c.1 / 2 ^ 21 == g).map fun c => (c.1, 0)

/-- A state with a page of its memory set to 0. -/
def pageCleared (s : State) (g : Nat) : State := { s with mem := memWrite s.mem (pageZeros s.mem g) }

theorem memByte_pageCleared (s : State) (g a : Nat) :
    memByte (pageCleared s g).mem a = if a / 2 ^ 21 = g then 0 else memByte s.mem a := by
  show memByte (memWrite s.mem (pageZeros s.mem g)) a = _
  generalize s.mem = m
  rw [memByte_memWrite_zeros fun z hz => ?zero]
  case zero =>
    obtain ⟨c, -, rfl⟩ := List.mem_map.1 hz
    rfl
  have keys : a ∈ (pageZeros m g).map (·.1) ↔ a / 2 ^ 21 = g ∧ ∃ c ∈ m, c.1 = a := by
    simp only [pageZeros, List.map_map, List.mem_map, List.mem_filter, beq_iff_eq, Function.comp_apply]
    constructor
    · rintro ⟨c, ⟨hc, page⟩, rfl⟩
      exact ⟨page, c, hc, rfl⟩
    · rintro ⟨page, c, hc, rfl⟩
      exact ⟨c, ⟨hc, page⟩, rfl⟩
  by_cases page : a / 2 ^ 21 = g
  · rw [if_pos page]
    split
    · rfl
    next unlisted => exact memByte_unlisted fun c hc at_ => unlisted (keys.2 ⟨page, c, hc, at_⟩)
  · rw [if_neg page, if_neg fun listed => page (keys.1 listed).1]

theorem commitMem_mem (s : State) (r : State × MemUpd) : (s.commitMem r).mem = memWrite (if r.2.clear then [] else s.mem) r.2.bytes := rfl

theorem load_of_mem {s u : State} (h : u.mem = s.mem) (a n : Nat) : u.load a n = s.load a n := by
  rw [State.load, State.load, State.bytes, State.bytes, h]

theorem mem_addrs {a n x : Nat} : x ∈ addrs a n ↔ a ≤ x ∧ x < a + n := by
  rw [addrs, List.mem_map]
  constructor
  · rintro ⟨i, hi, rfl⟩
    have := List.mem_range.1 hi
    omega
  · exact fun h => ⟨x - a, List.mem_range.2 (by omega), by omega⟩

/-- An entry that a step writes, whatever was in its place. -/
structure Enters (s u : State) (a v : Nat) : Prop where
  load : u.load a 8 = v
  other : ∀ x, ¬(a ≤ x ∧ x < a + 8) → memByte u.mem x = memByte s.mem x

theorem enters_putHome (s t : State) (a : Nat) {v : Nat} (h : v < 256 ^ 8) : Enters s (putHome s (runOf a (toBytes 8 v)) t) a v :=
  ⟨load_putHome_runOf s t a h, fun x hx => memByte_putHome_other fun listed => hx (by
    rw [map_runOf, length_toBytes] at listed
    exact mem_addrs.1 listed)⟩

theorem Enters.congr {s u v : State} {a n : Nat} (h : Enters s u a n) (same : v.mem = u.mem) : Enters s v a n :=
  ⟨(load_of_mem same ..).trans h.load, fun x hx => same ▸ h.other x hx⟩

/-- The entry of a page, read back. -/
theorem pteWord_present (s : State) (r : Region) {g : Nat} (small : g < 2 ^ 27) : s.pteWord r (some g) < 256 ^ 8 ∧
    PTE2.V.get (BitVec.ofNat 64 (s.pteWord r (some g))) = 1 ∧ PTE2.PPA.get (BitVec.ofNat 64 (s.pteWord r (some g))) = g ∧
    PTE2.W.get (BitVec.ofNat 64 (s.pteWord r (some g))) = r.perm % 2 := by
  have ilv : b2n (s.ilv.contains g) ≤ 1 := by unfold b2n; split <;> omega
  simp only [State.pteWord, Field.get, Field.size, PTE2.V, PTE2.PPA, PTE2.W, BitVec.toNat_ofNat]
  generalize b2n (s.ilv.contains g) = i at ilv ⊢
  omega

theorem pteWord_absent (s : State) (r : Region) : s.pteWord r none < 256 ^ 8 ∧
    PTE2.V.get (BitVec.ofNat 64 (s.pteWord r none)) = 0 ∧ PTE2.DEEP.get (BitVec.ofNat 64 (s.pteWord r none)) = 1 := by
  simp only [State.pteWord, Field.get, Field.size, PTE2.V, PTE2.DEEP, BitVec.toNat_ofNat]
  omega

theorem putPte_eq (s : State) {im : Image} {vpn pte : Nat} (entry : im.pteAddr vpn = some pte) (r : Region) (page : Option Nat) :
    s.putPte im r vpn page = s.writeHome (runOf pte (toBytes 8 (s.pteWord r page))) := by
  rw [State.putPte, entry]
  rfl

end Sys2Proof.Proofs
end

section
/-! SUPPORT. A page brought in (R111, R433). -/

namespace Sys2Proof.Proofs
open Sys2Proof.Machine Sys2Proof.Claims

theorem Poisons.deep {s u : State} (h : Poisons s u) : u.deep = s.deep := (congrArg State.deep h.rest :)
theorem Poisons.owner {s u : State} (h : Poisons s u) : u.owner = s.owner := (congrArg State.owner h.rest :)

theorem giveOwner_rest (s : State) (g o : Nat) : (s.giveOwner g o).deep = s.deep ∧ (s.giveOwner g o).cores = s.cores := by
  unfold State.giveOwner
  split
  · exact ⟨rfl, rfl⟩
  · exact ⟨rfl, rfl⟩

theorem thr_of_cores {s u : State} (h : u.cores = s.cores) (c : Nat) (t : Thr) : u.thr c t = s.thr c t := by
  rw [State.thr, State.thr, State.core, State.core, h]

/-- A page given to an owner is that owner's, unless it is firmware's or out of service. -/
theorem ownerOf_giveOwner {s : State} {g : Nat} (o : Nat) (unreserved : firmwarePage g = false) (serves : s.ownerOf g ≠ 1) :
    (s.giveOwner g o).ownerOf g = o := by
  rw [State.giveOwner, if_neg serves, State.ownerOf, unreserved, if_neg Bool.false_ne_true]
  exact tabGet_tabSet_self ..

/-- What a page's release leaves of those who waited: its one waiting thread goes on. -/
structure Released (s u : State) (e : PageIn) (c : CoreId) (t : Thr) : Prop where
  ready : (u.thr c t).st = .ready
  pageIns : u.deep.pageIns = s.deep.pageIns.filter (· ≠ e)
  owner : u.owner = s.owner

theorem releasePage_thread {s : State} {slot : Slot} {vpn : Nat} {c : CoreId} {t : Thr} (wanted : s.pageWanted (.thread c t) = some (slot.val, vpn))
    (stalled : (s.thr c t).st = .stalled) : Released s (s.releasePage ⟨slot, vpn, [.thread c t]⟩ true) ⟨slot, vpn, [.thread c t]⟩ c t := by
  have eq : s.releasePage ⟨slot, vpn, [.thread c t]⟩ true =
      (s.modDeep fun d => { d with pageIns := d.pageIns.filter (· ≠ ⟨slot, vpn, [.thread c t]⟩) }).modThr c t fun th => th.wake :=
    if_neg (not_not.2 wanted)
  rw [eq]
  refine ⟨?_, ?_, ?_⟩
  · rw [State.thr_modThr_self]
    exact wake_ready stalled
  · rw [State.modThr_deep, State.deep_modDeep]
  · rw [State.modThr_owner, State.modDeep_owner]

section PageIn
variable {s : State} {c : CoreId} {t : Thr} {vpn : Nat} {slot : Slot} {im : Image} {r : Region} {i : Nat} {es : List PageIn}
  (first : s.deep.pageIns = ⟨slot, vpn, [.thread c t]⟩ :: es) (loaded : s.image slot = some im)
  (region : im.regionOf vpn = some (r, i)) (upper : r.tier ≤ 1)

/-- A near or middle page filled with zeros, its entry written. -/
def fillAndEnter (s : State) (im : Image) (r : Region) (vpn g : Nat) : State × MemUpd :=
  andThen (s.fillPage g []) fun s => s.putPte im r vpn (some g)

include first loaded region upper

/-- The oldest report of a near or middle page need not wait. -/
theorem unblocked : (s.deep.pageIns.find? fun e => !s.blocked e) = some ⟨slot, vpn, [.thread c t]⟩ := by
  have tier : (((s.image slot).bind (·.regionOf vpn)).any (·.1.tier == 2)) = false := by
    rw [loaded, Option.bind_some, region, Option.any_some, beq_eq_false_iff_ne]
    intro deep
    rw [deep] at upper
    exact absurd upper (by decide)
  rw [first, List.find?_cons_of_pos]
  rw [State.blocked, tier, Bool.and_false]
  rfl

theorem exec_pageInDone_filled (absent : PTE2.V.get (s.pte im vpn) = 0) : exec (.pageInDone slot vpn) s =
    .next (s.commitMem (andThen (fillAndEnter s im r vpn (r.pages.getD i 0)) fun u =>
      ((u.giveOwner (r.pages.getD i 0) (16 + slot.val)).releasePage ⟨slot, vpn, [.thread c t]⟩ true, .none))) := by
  show execPageInDone slot vpn s = _
  rw [execPageInDone, unblocked first loaded region upper]
  dsimp -zeta only
  rw [if_neg (by simp), loaded]
  dsimp -zeta only
  rw [region]
  dsimp -zeta only
  rw [if_neg (by rw [absent]; decide), if_pos upper]
  rfl

end PageIn

/-- What filling a page and entering it does to the state, and to memory. -/
theorem fillAndEnter_spec (s : State) {im : Image} {vpn pte : Nat} (entry : im.pteAddr vpn = some pte) (r : Region) (g : Nat) :
    Poisons s (fillAndEnter s im r vpn g).1 ∧ ∃ z : State, (∀ t, (s.commitMem (t, (fillAndEnter s im r vpn g).2.then .none)).mem =
      (putHome (pageCleared s g) (runOf pte (toBytes 8 (z.pteWord r (some g)))) t).mem) := by
  rw [fillAndEnter, andThen_fst, putPte_eq _ entry]
  refine ⟨(poisons_clearBad s g).trans (poisons_writeHome ..), (s.fillPage g []).1, fun t => ?_⟩
  rw [andThen_snd, putPte_eq _ entry, commitMem_mem, putHome, commitMem_mem]
  simp only [State.fillPage, MemUpd.then, MemUpd.none, writeHome_bytes, writeHome_clear, if_neg Bool.false_ne_true, List.map_nil,
    List.append_nil, memWrite, List.foldl_append, pageZeros, pageCleared]

/-- A near or middle page is brought in: zeros under an entry of its region's attributes, and the thread that waits goes on. -/
theorem pageFilled (s : State) (c : CoreId) (t : Thr) (va w : Nat) (slot : Slot) (im : Image) (r : Region) (i pte : Nat) (es : List PageIn) :
    let vpn := va / 2 ^ 21
    let g := r.pages.getD i 0
    s.deep.pageIns = ⟨slot, vpn, [.thread c t]⟩ :: es → s.image slot = some im → im.regionOf vpn = some (r, i) → im.pteAddr vpn = some pte →
    r.tier ≤ 1 → PTE2.V.get (s.pte im vpn) = 0 → (s.thr c t).st = .stalled → (s.thr c t).stall = .pageIn va → s.boundTo c = some (slot.val, w) →
    pte / 2 ^ 21 ≠ g → pte % 8 = 0 → r.perm < 8 → firmwarePage g = false → g < 2 ^ 27 → s.ownerOf g ≠ 1 →
    ∃ u, exec (.pageInDone slot vpn) s = .next u ∧ (∀ o, o < 2 ^ 21 → memByte u.mem (g * 2 ^ 21 + o) = 0) ∧ u.ownerOf g = 16 + slot.val ∧
      (∀ a, a / 2 ^ 21 ≠ g → ¬(pte ≤ a ∧ a < pte + 8) → memByte u.mem a = memByte s.mem a) ∧
      PTE2.V.get (BitVec.ofNat 64 (u.load pte 8)) = 1 ∧ PTE2.PPA.get (BitVec.ofNat 64 (u.load pte 8)) = g ∧
      PTE2.W.get (BitVec.ofNat 64 (u.load pte 8)) = r.perm % 2 ∧ (u.thr c t).st = .ready ∧ ∀ e ∈ u.deep.pageIns, e ∈ es := by
  intro vpn g first loaded region entry upper absent stalled waits bound outside aligned _ unreserved small serves
  have step := exec_pageInDone_filled first loaded region upper absent
  obtain ⟨poisons, z, mem⟩ := fillAndEnter_spec s entry r g
  obtain ⟨fits, present, ppa, writable⟩ := pteWord_present z r small
  rw [andThen] at step
  dsimp only at step
  change exec (.pageInDone slot vpn) s = .next (s.commitMem (((fillAndEnter s im r vpn g).1.giveOwner g (16 + slot.val)).releasePage
    ⟨slot, vpn, [.thread c t]⟩ true, (fillAndEnter s im r vpn g).2.then .none)) at step
  generalize (fillAndEnter s im r vpn g).2 = upd at step mem
  generalize (fillAndEnter s im r vpn g).1 = v at step poisons
  have tends := poisons.tends.trans (tends_giveOwner v g (16 + slot.val))
  have given := ownerOf_giveOwner (s := v) (16 + slot.val) unreserved (by rwa [ownerOf_congr poisons.owner])
  obtain ⟨deep, cores⟩ := giveOwner_rest v g (16 + slot.val)
  have deep := deep.trans poisons.deep
  have thr := thr_of_cores (cores.trans poisons.cores) c t
  generalize v.giveOwner g (16 + slot.val) = v' at step tends given deep cores thr
  have wanted : v'.pageWanted (.thread c t) = some (slot.val, vpn) :=
    pageWanted_thread (thr ▸ waits) ((boundTo_congr tends.images c).trans bound)
  obtain ⟨ready, pageIns, owner⟩ := releasePage_thread wanted (thr ▸ stalled)
  generalize v'.releasePage ⟨slot, vpn, [.thread c t]⟩ true = x at step ready pageIns owner
  have enters := (enters_putHome (pageCleared s g) x pte fits).congr (mem x)
  refine ⟨_, step, fun o ho => ?_, ?_, fun a page entry_ => ?_, ?_, ?_, ?_, ?_, fun e he => ?_⟩
  · rw [enters.other _ (by omega), memByte_pageCleared, if_pos (by omega)]
  · exact (ownerOf_congr (State.commitMem_owner ..) g).trans ((ownerOf_congr owner g).trans given)
  · rw [enters.other a entry_, memByte_pageCleared, if_neg page]
  · rw [enters.load, present]
  · rw [enters.load, ppa]
  · rw [enters.load, writable]
  · rw [State.thr_commitMem]
    exact ready
  · rw [State.commitMem_deep, pageIns, deep, first] at he
    exact ((List.mem_cons.1 (List.mem_filter.1 he).1).resolve_left (by simpa using (List.mem_filter.1 he).2))

end Sys2Proof.Proofs
end

section
/-! SUPPORT. A page sent out (R112, R113, R434, R435). -/

namespace Sys2Proof.Proofs
open Sys2Proof.Machine Sys2Proof.Claims

/-! The page's translations -/

theorem writeBack_deep (s : State) (c : CoreId) (l : Line) : (s.writeBack c none l).deep = s.deep := by
  unfold State.writeBack
  split <;> rfl

theorem cancelFills_deep (s : State) (c : CoreId) (hit : Nat → Bool) : (s.cancelFills c false hit).deep = s.deep := rfl
theorem cancelWalks_deep (s : State) (c : CoreId) (sel : Nat → Bool) : (s.cancelWalks c sel).deep = s.deep := rfl

theorem purge_deep (s : State) (c : CoreId) (sel : Nat → Bool) : (s.purge c sel).deep = s.deep := by
  unfold State.purge
  dsimp only
  rw [dcMaint_evicts, cancelFills_deep, State.modCore_deep]
  refine State.forAll_keeps State.deep _ _ (fun t x _ => ?_) s
  rw [evictLine, State.modCore_deep, writeBack_deep]

theorem trInvOne_deep (s : State) (c : CoreId) (vpn : Nat) : (s.trInvOne c vpn).deep = s.deep := by
  rw [trInvOne_eq, State.setFld_deep, State.setFld_deep, invalidated, purge_deep, cancelWalks_deep, State.modCore_deep]

theorem dropTranslations_deep (s : State) (d slot : Nat) (vpn : Option Nat) : (dropTranslations s d slot vpn).deep = s.deep := rfl

theorem dmaTrinv_deep (s : State) (d slot : Nat) (vpn : Option Nat) : (s.dmaTrinv d slot vpn).deep = s.deep := by
  have shown : (showTrinv (dropTranslations s d slot vpn) d slot vpn).deep = (dropTranslations s d slot vpn).deep :=
    (congrArg State.deep (showTrinv_rest ..) :)
  rw [dmaTrinv_eq, dmaInvDone_eq, ← dropTranslations_deep s d slot vpn, ← shown]
  split
  · rfl
  · rw [State.setFld_deep]

theorem invalidate_deep (s : State) (im : Image) (slot vpn : Nat) : (s.invalidate im slot vpn).deep = s.deep :=
  (State.forAll_keeps State.deep _ _ (fun _ _ _ => dmaTrinv_deep ..) _).trans
    (State.forAll_keeps State.deep _ _ (fun _ _ _ => trInvOne_deep ..) s)

/-- The page's entry of a core's translation cache goes, and no entry of another core. -/
theorem tlb_trInvOne (s : State) (c : CoreId) (vpn n : Nat) : tabGet none ((s.trInvOne c vpn).core n).tlb vpn =
    if n = c then none else tabGet none (s.core n).tlb vpn := by
  have gone := invalidated_leaves s c (tabDel · vpn) (· == vpn) fun tag => s.pageOf c vpn == some (tag * 64 / 2 ^ 21)
  rw [trInvOne_eq, State.core_setFld, State.core_setFld]
  split
  · next own => rw [own, gone.tlb, tabGet, tabFind_tabDel_self, Option.getD_none]
  · next other => rw [gone.cores n other]

/-- No core of the image translates the page then. -/
theorem tlb_invalidate (s : State) {im : Image} (slot vpn : Nat) {c : Nat} (bound : c ∈ im.bindPhys) (small : c < 1152) :
    tabGet none ((s.invalidate im slot vpn).core c).tlb vpn = none := by
  have cores : (s.invalidate im slot vpn).cores = (s.forAll im.bindPhys fun s c => s.trInvOne (Fin.ofNat 1152 c) vpn).cores :=
    State.forAll_keeps State.cores _ _ (fun t d _ => (trinv_dmaTrinv t (Fin.ofNat 4 d) (Fin.ofNat 16 slot) (some vpn)).cores) _
  rw [State.core, cores]
  refine forAll_brings (I := fun _ => True) (P := fun t => tabGet none (t.core c).tlb vpn = none) bound s trivial (fun _ _ _ _ => trivial)
    (fun t _ => ?_) fun t b _ _ gone => ?_
  · rw [tlb_trInvOne, if_pos (by simp [Nat.mod_eq_of_lt small])]
  · rw [tlb_trInvOne]
    exact ite_eq_left_iff.2 fun _ => gone

/-! The page-out -/

/-- What follows the page's entry: its translations go, and the programs that copy it start. -/
def sendOut (s : State) (im : Image) (slot : Slot) (vpn : Nat) : State :=
  ((s.invalidate im slot vpn).modDeep fun d => { d with pageOuts := d.pageOuts ++ [(slot.val, vpn)] }).startOps (.pageOut slot vpn)

theorem sendOut_deep (s : State) (im : Image) (slot : Slot) (vpn : Nat) :
    (sendOut s im slot vpn).deep.pageOuts = s.deep.pageOuts ++ [(slot.val, vpn)] ∧ (sendOut s im slot vpn).deep.frames = s.deep.frames := by
  have rest := deep_of_besideOps (besideOps_startOps
    ((s.invalidate im slot vpn).modDeep fun d => { d with pageOuts := d.pageOuts ++ [(slot.val, vpn)] }) (.pageOut slot vpn))
  rw [State.deep_modDeep, invalidate_deep] at rest
  exact ⟨(congrArg Deep.pageOuts rest :), (congrArg Deep.frames rest :)⟩

theorem tlb_sendOut (s : State) {im : Image} (slot : Slot) (vpn : Nat) {c : Nat} (bound : c ∈ im.bindPhys) (small : c < 1152) :
    tabGet none ((sendOut s im slot vpn).core c).tlb vpn = none := by
  have cores := cores_of_besideOps (besideOps_startOps
    ((s.invalidate im slot vpn).modDeep fun d => { d with pageOuts := d.pageOuts ++ [(slot.val, vpn)] }) (.pageOut slot vpn))
  rw [State.modDeep_cores] at cores
  rw [State.core, sendOut, cores]
  exact tlb_invalidate s slot vpn bound small

section Out
variable {s : State} {slot : Slot} {vpn g : Nat} {fs : List (Nat × Nat × Nat)} {im : Image} {r : Region} {i pte : Nat}
  (longest : s.deep.frames = (slot.val, vpn, g) :: fs) (none_ : s.deep.pageOuts = []) (loaded : s.image slot = some im)
  (region : im.regionOf vpn = some (r, i)) (free : r.attrs % 2 = 0)
include longest none_ loaded region free

/-- The page held longest may go. -/
theorem goes : (s.deep.frames.find? fun f => !s.leaving f.1 f.2.1 && !s.pinnedPage f.1 f.2.1) = some (slot.val, vpn, g) := by
  have pinned : s.pinnedPage slot vpn = false := by
    rw [State.pinnedPage, loaded, Option.bind_some, region, Option.any_some, free]
    rfl
  rw [longest, List.find?_cons_of_pos]
  rw [State.leaving, none_, pinned]
  rfl

theorem exec_pageOut (wanted : ∃ e ∈ s.deep.pageIns, s.wantsFrame e = true) (unwarned : s.warned = false) (writable : s.deep.readOnly = false) :
    exec (.pageOut slot vpn) s = .next (s.commitMem (andThen (s.putPte im r vpn none) fun u => (sendOut u im slot vpn, .none))) := by
  have waits : ¬(s.deep.pageIns.filter (s.wantsFrame ·)).length ≤ s.deep.pageOuts.length := by
    obtain ⟨e, he, wants⟩ := wanted
    rw [none_, List.length_nil, Nat.not_le]
    exact List.length_pos_of_mem (List.mem_filter.2 ⟨he, wants⟩)
  show execPageOut slot vpn s = _
  rw [execPageOut, goes longest none_ loaded region free, loaded]
  dsimp only
  rw [if_neg (by simp [unwarned, writable, waits]), region]
  rfl

end Out

/-- Where a page-in waits for a frame the page held longest goes out. -/
theorem pageGoesOut (s : State) (slot : Slot) (vpn g : Nat) (fs : List (Nat × Nat × Nat)) (im : Image) (r : Region) (i pte : Nat) :
    s.deep.frames = (slot.val, vpn, g) :: fs → s.deep.pageOuts = [] → (∃ e ∈ s.deep.pageIns, s.wantsFrame e = true) → s.warned = false → s.deep.readOnly = false → s.image slot = some im →
    im.regionOf vpn = some (r, i) → r.attrs % 2 = 0 → im.pteAddr vpn = some pte → r.perm < 8 →
    ∃ u, exec (.pageOut slot vpn) s = .next u ∧ PTE2.V.get (BitVec.ofNat 64 (u.load pte 8)) = 0 ∧ PTE2.DEEP.get (BitVec.ofNat 64 (u.load pte 8)) = 1 ∧
      (∀ a, ¬(pte ≤ a ∧ a < pte + 8) → memByte u.mem a = memByte s.mem a) ∧ u.deep.pageOuts = [(slot.val, vpn)] ∧ u.deep.frames = s.deep.frames ∧
      (∀ c ∈ im.bindPhys, c < 1152 → tabGet none (u.core c).tlb vpn = none) ∧ ∀ f : Fin 32, .pageOut slot vpn ∈ u.flashOps f := by
  intro longest none_ wanted unwarned writable loaded region free entry _
  have step := exec_pageOut longest none_ loaded region free wanted unwarned writable
  obtain ⟨fits, absent, deep⟩ := pteWord_absent s r
  have poisons := poisons_writeHome s (runOf pte (toBytes 8 (s.pteWord r none)))
  rw [andThen, putPte_eq _ entry] at step
  dsimp only at step
  generalize (s.writeHome (runOf pte (toBytes 8 (s.pteWord r none)))).1 = v at step poisons
  obtain ⟨pageOuts, frames⟩ := sendOut_deep v im slot vpn
  have stale := fun c bound small => tlb_sendOut v (im := im) slot vpn (c := c) bound small
  have copies (f : Fin 32) : FlashOp.pageOut slot vpn ∈ (sendOut v im slot vpn).flashOps f := mem_flashOps_startOps ..
  generalize sendOut v im slot vpn = x at step pageOuts frames stale copies
  have mem : (s.commitMem (x, (s.writeHome (runOf pte (toBytes 8 (s.pteWord r none)))).2.then .none)).mem =
      (putHome s (runOf pte (toBytes 8 (s.pteWord r none))) x).mem := by
    rw [commitMem_mem, putHome, commitMem_mem]
    simp only [MemUpd.then, MemUpd.none, if_neg Bool.false_ne_true, List.append_nil]
  have enters := (enters_putHome s x pte fits).congr mem
  refine ⟨_, step, ?_, ?_, enters.other, ?_, ?_, fun c bound small => ?_, fun f => ?_⟩
  · rw [enters.load, absent]
  · rw [enters.load, deep]
  · rw [State.commitMem_deep, pageOuts, poisons.deep, none_, List.nil_append]
  · rw [State.commitMem_deep, frames, poisons.deep]
  · rw [State.core_commitMem]
    exact stale c bound small
  · rw [State.flashOps, State.commitMem_deep]
    exact copies f

end Sys2Proof.Proofs
end

section
/-! SUPPORT. Operations of the flash channels complete (R431, R435, R437-R439). -/

namespace Sys2Proof.Proofs
open Sys2Proof.Machine Sys2Proof.Claims

/-! A read -/

/-- The codewords of a read counted and its ranges noted. -/
def readDone (s : State) (f : Fin 32) (slot : Slot) (vpn : Nat) (rest : List FlashOp) (retried : Nat) (bad : List (Fin 16)) : State :=
  (((s.setOps f rest).incFld (aFC_STAT f) FC_STAT.RETRY (min 16 retried)).incFld (aFC_STAT f) FC_STAT.UE bad.dedup.length).modDeep fun d =>
    { d with
      unread := tabSet [] d.unread (dmaKey slot vpn)
        (tabGet [] d.unread (dmaKey slot vpn) ++ bad.dedup.map fun c => f.val * 16 + c.val) }

section
variable {s : State} {f : Fin 32} (serves : s.deep.closed.contains f.val = false)
include serves

theorem exec_flashOpComplete_pageIn {slot : Slot} {vpn : Nat} {rest : List FlashOp} (runs : s.flashOps f = .pageIn slot vpn :: rest)
    (ok : Bool) (retried : Nat) (bad : List (Fin 16)) :
    exec (.flashOpComplete f ok retried bad) s = .next (s.commit (readDone s f slot vpn rest retried bad)) := by
  show execFlashOpComplete f ok retried bad s = _
  rw [execFlashOpComplete, if_neg (by rw [serves]; exact Bool.false_ne_true), runs]
  rfl

/-- A program that fails is made again. -/
theorem exec_flashOpComplete_failed {o : FlashOp} {rest : List FlashOp} (runs : s.flashOps f = o :: rest) (program : o.reads = false)
    (retried : Nat) (bad : List (Fin 16)) : exec (.flashOpComplete f false retried bad) s = .next s := by
  show execFlashOpComplete f false retried bad s = _
  rw [execFlashOpComplete, if_neg (by rw [serves]; exact Bool.false_ne_true), runs]
  cases o with
  | pageIn => cases program
  | pageOut => exact congrArg Host.Outcome.next (commit_self s)
  | save => exact congrArg Host.Outcome.next (commit_self s)

end

theorem readDone_regs (s : State) (f : Fin 32) (slot : Slot) (vpn : Nat) (rest : List FlashOp) (retried : Nat) (bad : List (Fin 16)) :
    RegsBut s (readDone s f slot vpn rest retried bad) [aFC_STAT f] ∧
    (readDone s f slot vpn rest retried bad).fld (aFC_STAT f) FC_STAT.RETRY =
      min (FC_STAT.RETRY.size - 1) (s.fld (aFC_STAT f) FC_STAT.RETRY + min 16 retried) ∧
    (readDone s f slot vpn rest retried bad).fld (aFC_STAT f) FC_STAT.UE =
      min (FC_STAT.UE.size - 1) (s.fld (aFC_STAT f) FC_STAT.UE + bad.dedup.length) := by
  have regs (a : Nat) : (s.setOps f rest).reg a = s.reg a := rfl
  rw [readDone]
  refine ⟨fun a ha => ?_, ?_, ?_⟩
  · have other : a ≠ aFC_STAT f := by simpa using ha
    rw [State.reg_modDeep]
    exact (State.reg_setFld_ne _ _ _ other).trans ((State.reg_setFld_ne _ _ _ other).trans (regs a))
  · rw [State.fld_modDeep, State.fld_incFld_apart _ _ _ _ _ (by decide) (by decide), State.fld_incFld_self _ _ _ _ (by decide),
      fld_of_reg (regs _)]
  · rw [State.fld_modDeep, State.fld_incFld_self _ _ _ _ (by decide), State.fld_incFld_apart _ _ _ _ _ (by decide) (by decide),
      fld_of_reg (regs _)]

theorem readDone_deep (s : State) (f : Fin 32) (slot : Slot) (vpn : Nat) (rest : List FlashOp) (retried : Nat) (bad : List (Fin 16)) :
    (readDone s f slot vpn rest retried bad).cores = s.cores ∧ (readDone s f slot vpn rest retried bad).deep =
      { s.deep with
        ops := tabSet [] s.deep.ops f rest
        unread := tabSet [] s.deep.unread (dmaKey slot vpn)
          (tabGet [] s.deep.unread (dmaKey slot vpn) ++ bad.dedup.map fun c => f.val * 16 + c.val) } := by
  have cores : (s.setOps f rest).cores = s.cores := rfl
  have deep : (s.setOps f rest).deep = { s.deep with ops := tabSet [] s.deep.ops f rest } := rfl
  rw [readDone]
  exact ⟨by rw [State.modDeep_cores, State.incFld_cores, State.incFld_cores, cores],
    by rw [State.deep_modDeep, State.incFld_deep, State.incFld_deep, deep]⟩

/-! The last program of a page-out -/

/-- An operation that ran on one channel alone is over with it. -/
theorem last_operation {s : State} {f : Fin 32} {o : FlashOp} (only : s.deep.ops = [(f.val, [o])]) : (s.flashOps f = [o]) ∧
    (s.setOps f []).deep.ops = [] ∧ ∀ x, (s.setOps f []).flashBusy x = false := by
  have ops : (s.setOps f []).deep.ops = [] := by
    show tabSet [] s.deep.ops f [] = []
    rw [only]
    simp [tabSet, tabDel]
  refine ⟨?_, ops, fun x => ?_⟩
  · rw [State.flashOps, only]
    simp [tabGet, tabFind]
  · rw [State.flashBusy, ops, List.any_nil]

theorem frameOf_setOps (s : State) (f : Nat) (l : List FlashOp) (slot vpn : Nat) : (s.setOps f l).frameOf slot vpn = s.frameOf slot vpn := rfl

/-- A page's copy is current and its frame is free. -/
def copied (s : State) (slot : Slot) (vpn g : Nat) : State :=
  (s.modDeep fun d => { d with
    pages := tabIns d.pages (dmaKey slot vpn) (s.pageContent g)
    frames := d.frames.filter fun f => !(f.1 == slot.val && f.2.1 == vpn)
    pageOuts := d.pageOuts.filter (· ≠ (slot.val, vpn)) }).giveOwner g 0

theorem pageOutDone_eq {s : State} {slot : Slot} {vpn g : Nat} (frame : s.frameOf slot vpn = some g) (unreserved : firmwarePage g = false)
    (none_ : ∀ e ∈ s.deep.pageIns, ¬(e.slot = slot ∧ e.vpn = vpn)) : s.pageOutDone slot vpn = copied s slot vpn g := by
  have unasked : ((copied s slot vpn g).deep.pageIns.any fun e => e.slot == slot && e.vpn == vpn) = false := by
    rw [copied, (giveOwner_rest ..).1, State.deep_modDeep]
    simpa using none_
  rw [State.pageOutDone, frame]
  dsimp only
  rw [unreserved, if_neg Bool.false_ne_true]
  exact if_neg (by rw [← Bool.not_eq_true] at unasked; exact unasked)

theorem copied_rest (s : State) (slot : Slot) (vpn g : Nat) : (copied s slot vpn g).cores = s.cores ∧ (copied s slot vpn g).deep =
    { s.deep with
      pages := tabIns s.deep.pages (dmaKey slot vpn) (s.pageContent g)
      frames := s.deep.frames.filter fun f => !(f.1 == slot.val && f.2.1 == vpn)
      pageOuts := s.deep.pageOuts.filter (· ≠ (slot.val, vpn)) } := by
  rw [copied, (giveOwner_rest ..).1, (giveOwner_rest ..).2, State.deep_modDeep, State.modDeep_cores]
  exact ⟨rfl, rfl⟩

theorem ownerOf_copied {s : State} (slot : Slot) (vpn : Nat) {g : Nat} (unreserved : firmwarePage g = false) (serves : s.ownerOf g ≠ 1) :
    (copied s slot vpn g).ownerOf g = 0 :=
  ownerOf_giveOwner 0 unreserved (by rwa [ownerOf_congr (State.modDeep_owner ..)])

theorem exec_flashOpComplete_pageOut {s : State} {f : Fin 32} {slot : Slot} {vpn g : Nat} {im : Image} (serves : s.deep.closed.contains f.val = false)
    (only : s.deep.ops = [(f.val, [.pageOut slot vpn])]) (loaded : s.image slot = some im) (settled : s.invBusy im = false)
    (frame : s.frameOf slot vpn = some g) (unreserved : firmwarePage g = false) (none_ : ∀ e ∈ s.deep.pageIns, ¬(e.slot = slot ∧ e.vpn = vpn))
    (retried : Nat) (bad : List (Fin 16)) :
    exec (.flashOpComplete f true retried bad) s = .next (s.commit (copied (s.setOps f []) slot vpn g)) := by
  obtain ⟨runs, -, ended⟩ := last_operation only
  show execFlashOpComplete f true retried bad s = _
  rw [execFlashOpComplete, if_neg (by rw [serves]; exact Bool.false_ne_true), runs]
  dsimp only
  rw [if_neg (by rw [loaded]; simp [settled]), if_neg (by rw [ended]; exact Bool.false_ne_true),
    pageOutDone_eq ((frameOf_setOps ..).trans frame) unreserved none_]
  rfl

/-! The last program of a saved object -/

/-- The new version of an object is current. -/
def saved (obj : Nat) (d : Deep) : Deep :=
  { d with objects := d.objects.map fun o => if o.obj = obj then
      { o with current := (o.writing.map (·.1)).or o.current, writing := none } else o }

/-- A save that no PERSIST waits for only makes the new version current. -/
theorem saveDone_unclaimed {s : State} (unclaimed : s.claimed = []) (obj : Nat) : s.saveDone obj = s.modDeep (saved obj) := by
  unfold State.saveDone
  dsimp only
  split
  · next found =>
    rw [State.modDeep_claimed, unclaimed] at found
    cases found
  · rfl

theorem exec_flashOpComplete_save {s : State} {f : Fin 32} {obj : Nat} (serves : s.deep.closed.contains f.val = false)
    (only : s.deep.ops = [(f.val, [.save obj])]) (unclaimed : s.claimed = []) (retried : Nat) (bad : List (Fin 16)) :
    exec (.flashOpComplete f true retried bad) s = .next (s.commit ((s.setOps f []).modDeep (saved obj))) := by
  obtain ⟨runs, -, ended⟩ := last_operation only
  have none_ : (s.setOps f []).claimed = [] := unclaimed
  show execFlashOpComplete f true retried bad s = _
  rw [execFlashOpComplete, if_neg (by rw [serves]; exact Bool.false_ne_true), runs]
  dsimp only
  rw [if_neg (by simp), if_neg (by rw [ended]; exact Bool.false_ne_true), saveDone_unclaimed none_]
  rfl

/-! Spare blocks -/

/-- The steward is warned of a channel's spare blocks. -/
def sparesWarned (s : State) (f : Fin 32) (pct : Nat) : State :=
  if pct < 2 then s.event s.mgmt.steward 0xE004 0 (toBytes 1 f ++ toBytes 1 pct) else s

/-- What a fall of a channel's spare blocks leads to once it stands in the channel's register. -/
def sparesFell (s : State) (f : Fin 32) (pct : Nat) : State :=
  if pct = 0 then (sparesWarned s f pct).modDeep fun d => { d with readOnly := true } else sparesWarned s f pct

theorem exec_flashSparesLow {s : State} (present : s.grade.val % 2 = 0) (f : Fin 32) (pct : Nat) : exec (.flashSparesLow f pct) s =
    .next (s.commit (sparesFell (s.setFld (aFC_STAT f) FC_STAT.SPARE_PCT pct) f pct)) := by
  show execFlashSparesLow f pct s = _
  rw [execFlashSparesLow, if_neg (by simp [State.deepPresent, present])]
  generalize s.setFld (aFC_STAT f) FC_STAT.SPARE_PCT pct = v
  rfl

theorem tells_sparesWarned (s : State) (f : Fin 32) (pct : Nat) : Tells s (sparesWarned s f pct) := by
  unfold sparesWarned
  split
  · exact tells_event ..
  · exact .refl s

theorem Tells.deep {s u : State} (h : Tells s u) : u.deep = s.deep := (congrArg State.deep h.rest :)
theorem Tells.cores {s u : State} (h : Tells s u) : u.cores = s.cores := (congrArg State.cores h.rest :)

/-- With spare blocks enough nothing follows. -/
theorem sparesFell_of_enough (s : State) (f : Fin 32) {pct : Nat} (h : 2 ≤ pct) : sparesFell s f pct = s := by
  rw [sparesFell, if_neg (by omega), sparesWarned, if_neg (by omega)]

theorem sparesFell_none (s : State) (f : Fin 32) : (sparesFell s f 0).deep = { s.deep with readOnly := true } ∧ (sparesFell s f 0).cores = s.cores := by
  have warned := tells_sparesWarned s f 0
  rw [sparesFell, if_pos rfl, State.deep_modDeep, State.modDeep_cores, warned.deep, warned.cores]
  exact ⟨rfl, rfl⟩

theorem flashOperations : Claims.FlashOperations := by
  intro s f slot vpn rest key counts serves
  refine ⟨fun ok retried bad distinct runs => ?_, fun o retried bad runs program => exec_flashOpComplete_failed serves runs program retried bad,
    fun g im retried bad only loaded settled frame unreserved owned none_ => ?_, fun obj o bytes pages retried bad only unclaimed one is_ writes => ?_,
    fun pct present some_ small => ?_, fun present => ?_⟩
  · obtain ⟨regs, retries, lost⟩ := readDone_regs s f slot vpn rest retried bad
    obtain ⟨cores, deep⟩ := readDone_deep s f slot vpn rest retried bad
    have step := exec_flashOpComplete_pageIn serves runs ok retried bad
    generalize readDone s f slot vpn rest retried bad = u at step regs retries lost cores deep
    rw [distinct.dedup] at lost deep
    refine answers_commit _ step ⟨?_, (State.fld_commit ..).trans retries, (State.fld_commit ..).trans lost,
      fun a ha => (State.reg_commit ..).trans (regs a ha), (State.commit_cores ..).trans cores, ?_, ?_, fun g other => ?_⟩
    · rw [State.flashOps, State.commit_deep, deep]
      exact tabGet_tabSet_self ..
    · rw [State.commit_deep, deep]
    · rw [State.commit_deep, deep]
      exact tabGet_tabSet_self ..
    · rw [State.flashOps, State.commit_deep, deep]
      exact tabGet_tabSet_ne _ _ _ fun e => other (Fin.ext e)
  · have step := exec_flashOpComplete_pageOut serves only loaded settled frame unreserved none_ retried bad
    obtain ⟨cores, deep⟩ := copied_rest (s.setOps f []) slot vpn g
    have given := ownerOf_copied (s := s.setOps f []) slot vpn unreserved owned
    obtain ⟨-, ended, -⟩ := last_operation only
    generalize copied (s.setOps f []) slot vpn g = u at step cores deep given
    refine answers_commit _ step ⟨?_, ?_, (ownerOf_congr (State.commit_owner ..) g).trans given, ?_, (State.commit_cores ..).trans cores, ?_⟩
    · rw [State.flashOps, State.commit_deep, deep]
      exact (congrArg (tabGet [] · f.val) ended).trans rfl
    · rw [State.frameOf, State.commit_deep, deep, Option.map_eq_none_iff, List.find?_eq_none]
      intro x hx
      simpa [imp_iff_not_or] using (List.mem_filter.1 hx).2
    · rw [State.commit_deep, deep]
      simp
    · rw [State.commit_deep, deep]
      exact tabFind_tabIns_self ..
  · refine answers_commit _ (exec_flashOpComplete_save serves only unclaimed retried bad) ?_
    obtain ⟨-, ended, -⟩ := last_operation only
    have objects : (s.setOps f []).deep.objects = [o] := one
    rw [State.flashOps, State.commit_deep, State.deep_modDeep, State.commit_cores, State.modDeep_cores]
    refine ⟨(congrArg (tabGet [] · f.val) ended).trans rfl, ?_, rfl⟩
    rw [saved, objects]
    simp [is_, writes]
  · have step := exec_flashSparesLow present f pct
    rw [sparesFell_of_enough _ _ some_] at step
    refine answers_commit _ step ⟨?_, ?_, fun a ha => ?_, ?_⟩
    · rw [State.fld_commit, State.fld_setFld_self _ _ _ _ (by decide)]
      exact Nat.mod_eq_of_lt (small.trans_le (by decide))
    · rw [State.commit_deep, State.setFld_deep]
    · rw [State.reg_commit]
      exact State.reg_setFld_ne _ _ _ (by simpa using ha)
    · rw [State.commit_cores, State.setFld_cores]
  · obtain ⟨deep, cores⟩ := sparesFell_none (s.setFld (aFC_STAT f) FC_STAT.SPARE_PCT 0) f
    refine answers_commit _ (exec_flashSparesLow present f 0) ⟨?_, ?_⟩
    · rw [State.commit_deep, deep, State.setFld_deep]
    · rw [State.commit_cores, cores, State.setFld_cores]

theorem pagesComeAndGo : Claims.PagesComeAndGo :=
  ⟨fun s c t va slot w waits bound _ => pagesReported s c t va slot w waits bound, pageFilled, pageGoesOut⟩

/-- Settles O38: reports of one page lead to one page-in; a near or middle page that comes in is zeros under the entry its region gives, one that goes
out is V = 0 there with its programs begun; and the flash channels' operations end as they should. -/
theorem deepTierPagesAndFlash : Obligations.DeepTierPagesAndFlash := ⟨pagesComeAndGo, flashOperations⟩

end Sys2Proof.Proofs
end
